-- ==== Sys2Proof/Word.lean ====
section
/-! DEFINITION. The word types of the C9 and the sparse tables its state is held in. -/

namespace Sys2Proof

/-- A byte of memory (R193: a location is one byte). -/
abbrev Byte := BitVec 8

/-- A lane value or an instruction word. -/
abbrev Word := BitVec 32

/-- A scalar register or a system register. -/
abbrev Dword := BitVec 64

/-- A virtual address (R157). -/
abbrev Va := BitVec 57

/-- A sparse table: entries in strictly rising key order; a key that is not listed has the table's default value. -/
abbrev Map (α : Type) := List (Nat × α)

end Sys2Proof
end

