-- ==== Sys2Proof/Syntax.lean ====
section
/-! DEFINITION. The instructions and events of the C9: one constructor per row of the opcode table (R238 to R250 for
the words, the chapters' own rules for the events), and the data that events carry. -/

namespace Sys2Proof

/-- The PCIe function that makes an access (R72): the physical function, or the virtual function of a partition. -/
inductive Fn where
  | pf
  | vf (part : Nat)
  deriving DecidableEq, Repr

/-- Who asks for a warm reset (R15): a write of RSTCTL by a function, or a management command over MCTP. -/
inductive ResetSrc where
  | reg (fn : Fn)
  | mctp
  deriving DecidableEq, Repr

/-- Throttle causes of HSTAT.THROT (R18). -/
inductive Throttle where
  | none | power | temperature | droop
  deriving DecidableEq, Repr

/-- A resource that errors are counted against and that self-tests run on (R10). -/
inductive Resource where
  | sramRow (core : Nat) (row : Nat)
  | matrixSegment (core : Nat) (seg : Nat)
  | hbmRow (chan : Nat) (row : Nat)
  | saddleLane (lane : Nat)
  | butusLane (port : Nat)
  /-- a row of an L2 slice, on an SRAM cache die (R6) -/
  | l2Row (slice row : Nat)
  deriving DecidableEq, Repr

/-- A repair section of an image slot (R12): absent, failing its check, or verifying with the retirements it carries. -/
inductive RepairSection where
  | absent
  | bad
  | good (maps : List Resource)
  deriving DecidableEq, Repr

/-- An image slot of the flash (R12), as far as its checks and maps go. -/
structure Image where
  vendorOk : Bool
  factory  : List Resource
  repair   : RepairSection
  deriving DecidableEq, Repr

/-- What the error code of a granule finds when storage is read (R33), or a tag lost in both copies (R26). -/
inductive Ecc where
  | clean
  | corrected
  | uncorrectable
  | tagLost (set : Nat) (way : Nat)
  deriving DecidableEq, Repr

/-- A memory request as it arrives at its channel (R25, R27): its physical address, its size of 64 B or 128 B, the data
of a write, its class and deadline stamp, and the index of its requester (R30). -/
structure MemReq where
  pa        : Nat
  big       : Bool
  data      : Option (List Byte)
  cls       : BitVec 2
  stamp     : BitVec 16
  requester : Nat
  deriving DecidableEq, Repr

/-- A cache whose lines carry priorities (R171): the L1 of a core, or an L2 slice. -/
inductive CacheId where
  | l1 (core : Nat)
  | l2 (slice : Nat)
  deriving DecidableEq, Repr

/-- The header bits [255:88] of a message packet (R56). -/
structure MsgFields where
  ctx  : BitVec 16
  sep  : BitVec 12
  mtag : Word
  mlen : Word
  pds  : BitVec 5
  frag : BitVec 5
  sid  : BitVec 16
  wia  : BitVec 46
  rsnd : Bool
  deriving DecidableEq, Repr

/-- A Butus packet: the 32 B header by its fields (R40, R56), whether a reserved header bit is not 0, and the payload. -/
structure Packet where
  kind    : BitVec 4
  src     : BitVec 12
  dst     : BitVec 12
  tag     : BitVec 14
  cls     : BitVec 2
  dline   : BitVec 16
  len     : BitVec 8
  aop     : BitVec 5
  stat    : BitVec 3
  job     : BitVec 12
  ia      : BitVec 52
  pdep    : BitVec 5
  pstr    : BitVec 40
  msg     : MsgFields
  rsvSet  : Bool
  payload : List Byte
  deriving DecidableEq, Repr

/-- What the agent of an event presents to the machine: the operands of the 90 events, each event reading its own (its
rule says which). The machine holds the operands of the event that occurs as plain data of its state. -/
structure EventArgs where
  /-- the identity key is derived (R12) -/
  idOk : Bool := false
  /-- who asks for the reset -/
  src : ResetSrc := .mctp
  /-- compute die -/
  die : Nat := 0
  /-- throttle cause -/
  cause : Throttle := .none
  /-- physical core -/
  core : Nat := 0
  /-- the resource tested -/
  res : Resource := .saddleLane 0
  /-- the self-test passes -/
  pass : Bool := false
  /-- a spare is left -/
  spare : Bool := false
  /-- image slot B -/
  slotB : Bool := false
  /-- the image written -/
  img : Image := ⟨true, [], .absent⟩
  /-- only the repair section of the slot is written -/
  repairOnly : Bool := false
  /-- only the saddle links have retrained so far -/
  saddleOnly : Bool := false
  /-- bytes written -/
  data : List Byte := []
  /-- the function that makes the access (R72) -/
  fn : Fn := .pf
  /-- register or BAR2 offset -/
  off : Nat := 0
  /-- an 8-byte access -/
  wide : Bool := false
  /-- the value written -/
  v : Dword := 0
  /-- a memory request -/
  req : MemReq := ⟨0, false, none, 0, 0, 0⟩
  /-- memory channel -/
  chan : Nat := 0
  /-- what the error code finds -/
  ecc : Ecc := .clean
  /-- request, command or entry number -/
  id : Nat := 0
  /-- bank -/
  bank : Nat := 0
  /-- ticks that requests to each bank of the channel waited on an all-bank refresh -/
  waits : List Nat := []
  /-- the refresh is put off -/
  postpone : Bool := false
  /-- memory stack -/
  stack : Nat := 0
  /-- physical address -/
  pa : Nat := 0
  /-- Butus port -/
  port : Nat := 0
  /-- packet -/
  pkt : Packet := ⟨0, 0, 0, 0, 0, 0, 0, 0, 0, 0, 0, 0, 0, ⟨0, 0, 0, 0, 0, 0, 0, 0, false⟩, false, []⟩
  /-- request tag or set -/
  tag : Nat := 0
  /-- group or key slot -/
  slot : Nat := 0
  /-- the flit tag verifies -/
  tagOk : Bool := false
  /-- partition -/
  part : Nat := 0
  /-- send number -/
  sid : Nat := 0
  /-- rank -/
  dst : Nat := 0
  /-- a length -/
  n : Nat := 0
  /-- queue number -/
  queue : Nat := 0
  /-- graph -/
  graph : Nat := 0
  /-- graph node -/
  node : Nat := 0
  /-- launch -/
  launch : Nat := 0
  /-- path -/
  path : Nat := 0
  /-- quarter -/
  quarter : Nat := 0
  /-- line -/
  line : Nat := 0
  /-- cache -/
  cache : CacheId := .l1 0
  /-- multicast group -/
  group : Nat := 0
  deriving DecidableEq, Repr

/-- The instruction words (fields as R238 to R250 place them; `e` is the run boundary B of bit 31) and the events of
the device. -/
inductive Instr where
  /-- NOP (R243): Changes nothing; with the boundary bit set it is a legal run end. -/
  | nop (e : Bool)
  /-- HINT_IL (R244): Sets the pending immediate to its 21-bit payload sign-extended. -/
  | hintIl (e : Bool) (i : BitVec 21)
  /-- HINT_IH (R244): Replaces bits [31:21] of the pending immediate. -/
  | hintIh (e : Bool) (i : BitVec 11)
  /-- HINT_RND (R243): Sets the pending rounding mode and extra-value selection for the next instruction. -/
  | hintRnd (e : Bool) (x : Bool) (n : BitVec 2) (m : BitVec 3)
  /-- HINT_MO (R197): Gives an order and scope to the next memory access of the run. -/
  | hintMo (e : Bool) (s : BitVec 3) (o : BitVec 3)
  /-- HINT_CP (R243): Sets the cache policy, service class and relative deadline of the next access. -/
  | hintCp (e : Bool) (d : BitVec 16) (k : BitVec 2) (p : BitVec 2)
  /-- HINT_AO (R243): Names the remote atomic operation of the next ratom. -/
  | hintAo (e : Bool) (o : BitVec 5)
  /-- HINT_RW (R143): Marks the next eligible instruction with rewrite count 3 so no rule takes it. -/
  | hintRw (e : Bool)
  /-- SADD (R256): Scalar add modulo 2^64. -/
  | sadd (e : Bool) (w : Bool) (d : BitVec 7) (a : BitVec 7) (b : BitVec 7)
  /-- SSUB (R256): Scalar subtract modulo 2^64. -/
  | ssub (e : Bool) (w : Bool) (d : BitVec 7) (a : BitVec 7) (b : BitVec 7)
  /-- SMUL (R256): Low 64 bits of the scalar product. -/
  | smul (e : Bool) (w : Bool) (d : BitVec 7) (a : BitVec 7) (b : BitVec 7)
  /-- SMULH (R256): High 64 bits of the signed scalar product. -/
  | smulh (e : Bool) (w : Bool) (d : BitVec 7) (a : BitVec 7) (b : BitVec 7)
  /-- SAND (R256): Scalar AND. -/
  | sand (e : Bool) (w : Bool) (d : BitVec 7) (a : BitVec 7) (b : BitVec 7)
  /-- SOR (R256): Scalar OR. -/
  | sor (e : Bool) (w : Bool) (d : BitVec 7) (a : BitVec 7) (b : BitVec 7)
  /-- SXOR (R256): Scalar XOR. -/
  | sxor (e : Bool) (w : Bool) (d : BitVec 7) (a : BitVec 7) (b : BitVec 7)
  /-- SANDN (R256): Scalar a AND NOT b. -/
  | sandn (e : Bool) (w : Bool) (d : BitVec 7) (a : BitVec 7) (b : BitVec 7)
  /-- SSHL (R256): Scalar shift left by b[5:0]. -/
  | sshl (e : Bool) (w : Bool) (d : BitVec 7) (a : BitVec 7) (b : BitVec 7)
  /-- SSHR (R256): Scalar logical shift right. -/
  | sshr (e : Bool) (w : Bool) (d : BitVec 7) (a : BitVec 7) (b : BitVec 7)
  /-- SSRA (R256): Scalar arithmetic shift right. -/
  | ssra (e : Bool) (w : Bool) (d : BitVec 7) (a : BitVec 7) (b : BitVec 7)
  /-- SMIN (R256): Signed scalar minimum. -/
  | smin (e : Bool) (w : Bool) (d : BitVec 7) (a : BitVec 7) (b : BitVec 7)
  /-- SMAX (R256): Signed scalar maximum. -/
  | smax (e : Bool) (w : Bool) (d : BitVec 7) (a : BitVec 7) (b : BitVec 7)
  /-- SMINU (R256): Unsigned scalar minimum. -/
  | sminu (e : Bool) (w : Bool) (d : BitVec 7) (a : BitVec 7) (b : BitVec 7)
  /-- SMAXU (R256): Unsigned scalar maximum. -/
  | smaxu (e : Bool) (w : Bool) (d : BitVec 7) (a : BitVec 7) (b : BitVec 7)
  /-- SCLZ (R256): Count of leading zero bits of a scalar. -/
  | sclz (e : Bool) (w : Bool) (d : BitVec 7) (a : BitVec 7)
  /-- SADDI (R257): Scalar add of a sign-extended 10-bit immediate. -/
  | saddi (e : Bool) (w : Bool) (d : BitVec 7) (a : BitVec 7) (i : BitVec 10)
  /-- SANDI (R257): Scalar AND with a sign-extended 8-bit immediate. -/
  | sandi (e : Bool) (w : Bool) (d : BitVec 7) (a : BitVec 7) (i : BitVec 8)
  /-- SORI (R257): Scalar OR with a sign-extended 8-bit immediate. -/
  | sori (e : Bool) (w : Bool) (d : BitVec 7) (a : BitVec 7) (i : BitVec 8)
  /-- SXORI (R257): Scalar XOR with a sign-extended 8-bit immediate. -/
  | sxori (e : Bool) (w : Bool) (d : BitVec 7) (a : BitVec 7) (i : BitVec 8)
  /-- SSHLI (R257): Scalar shift left by an immediate count. -/
  | sshli (e : Bool) (w : Bool) (d : BitVec 7) (a : BitVec 7) (c : BitVec 6)
  /-- SSHRI (R257): Scalar logical shift right by an immediate count. -/
  | sshri (e : Bool) (w : Bool) (d : BitVec 7) (a : BitVec 7) (c : BitVec 6)
  /-- SSRAI (R257): Scalar arithmetic shift right by an immediate count. -/
  | ssrai (e : Bool) (w : Bool) (d : BitVec 7) (a : BitVec 7) (c : BitVec 6)
  /-- SROTI (R257): Scalar rotate right by an immediate count. -/
  | sroti (e : Bool) (w : Bool) (d : BitVec 7) (a : BitVec 7) (c : BitVec 6)
  /-- SCMP (R258): Writes 1 when the scalar condition holds, else 0. -/
  | scmp (e : Bool) (w : Bool) (d : BitVec 7) (a : BitVec 7) (b : BitVec 7) (c : BitVec 3)
  /-- SMOV (R259): Scalar move. -/
  | smov (e : Bool) (w : Bool) (d : BitVec 7) (a : BitVec 7)
  /-- SFROMV (R259): Moves one lane of a vector operand, zero-extended, to a scalar. -/
  | sfromv (e : Bool) (w : Bool) (d : BitVec 7) (a : BitVec 7) (b : BitVec 7)
  /-- SSEL (R259): Selects a or b by the old value of D. -/
  | ssel (e : Bool) (w : Bool) (d : BitVec 7) (a : BitVec 7) (b : BitVec 7)
  /-- SEXT (R259): Sign-extends a from bit b[5:0]. -/
  | sext (e : Bool) (w : Bool) (d : BitVec 7) (a : BitVec 7) (b : BitVec 7)
  /-- SPOPC (R259): Counts the set bits of a scalar. -/
  | spopc (e : Bool) (w : Bool) (d : BitVec 7) (a : BitVec 7)
  /-- BR (R261): Moves the whole issuing unit to a displacement target. -/
  | br (e : Bool) (p : BitVec 21)
  /-- CALL (R261): Writes the link to s63 and moves the unit to a displacement target. -/
  | call (e : Bool) (p : BitVec 21)
  /-- BRC (R262): Branches when a scalar condition holds. -/
  | brc (e : Bool) (c : BitVec 3) (r : BitVec 7) (p : BitVec 15)
  /-- BRV_ANY (R263): Each slice branches when any active lane meets the test, parting the unit if slices differ. -/
  | brvAny (e : Bool) (t : BitVec 2) (r : BitVec 7) (p : BitVec 15)
  /-- BRV_ALL (R263): Each slice branches when it has an active lane and all active lanes meet the test, parting the unit if slices differ. -/
  | brvAll (e : Bool) (t : BitVec 2) (r : BitVec 7) (p : BitVec 15)
  /-- JMPR (R264): Jumps to register plus displacement. -/
  | jmpr (e : Bool) (r : BitVec 7) (p : BitVec 15)
  /-- CALLR (R264): Calls register plus displacement, writing s63. -/
  | callr (e : Bool) (r : BitVec 7) (p : BitVec 15)
  /-- RET (R264): Returns to the address in the register, s63 by default. -/
  | ret (e : Bool) (r : BitVec 7)
  /-- JMPF (R264): Jumps like jmpr, waiting for a target segment being loaded. -/
  | jmpf (e : Bool) (r : BitVec 7) (p : BitVec 15)
  /-- CALLF (R264): Calls like callr, waiting for a target segment being loaded. -/
  | callf (e : Bool) (r : BitVec 7) (p : BitVec 15)
  /-- LOOP (R265): Opens a hardware loop level with the register count, or skips the body for a count of 0. -/
  | loop (e : Bool) (r : BitVec 7) (p : BitVec 15)
  /-- REGANG (R110): Waits until every slice has exited or waits at a regang, then merges units by address and loop state. -/
  | regang (e : Bool)
  /-- SAFE (R104): A safe point that stops the group under a pending pre-emption, with its live masks. -/
  | safe (e : Bool) (s : BitVec 8) (u : BitVec 12)
  /-- EXIT (R267): Every slice of the issuing unit exits; a task completes under R96. -/
  | exit (e : Bool)
  /-- TRAP (R267): Traps SW_TRAP after execution with the payload in TRX. -/
  | trap (e : Bool) (v : BitVec 20)
  /-- LBRK (R266): Closes the innermost loop level and continues after its end. -/
  | lbrk (e : Bool)
  /-- YIELD (R267): Ends the unit's streak at this run boundary. -/
  | yield (e : Bool)
  /-- EMSET (R268): Saves m0 to mN and narrows m0 by the latch l0. -/
  | emset (e : Bool) (n : BitVec 2)
  /-- EMSAVE (R268): Saves m0 to mN for the unit's lanes. -/
  | emsave (e : Bool) (n : BitVec 2)
  /-- EMLOAD (R268): Loads m0 from mN for the unit's lanes. -/
  | emload (e : Bool) (n : BitVec 2)
  /-- CFETCH (R269): Loads a 4 KiB code segment into an instruction-memory frame on path 5. -/
  | cfetch (e : Bool) (r : BitVec 7) (p : BitVec 15)
  /-- SMOVI (R257): Writes a sign-extended 17-bit immediate to a scalar. -/
  | smovi (e : Bool) (w : Bool) (d : BitVec 7) (i : BitVec 17)
  /-- VADD (R272): Lane add modulo 2^32. -/
  | vadd (e : Bool) (w : Bool) (d : BitVec 7) (a : BitVec 7) (b : BitVec 7)
  /-- VSUB (R272): Lane subtract. -/
  | vsub (e : Bool) (w : Bool) (d : BitVec 7) (a : BitVec 7) (b : BitVec 7)
  /-- VMUL (R272): Low 32 bits of the lane product. -/
  | vmul (e : Bool) (w : Bool) (d : BitVec 7) (a : BitVec 7) (b : BitVec 7)
  /-- VMULH (R272): High 32 bits of the signed lane product. -/
  | vmulh (e : Bool) (w : Bool) (d : BitVec 7) (a : BitVec 7) (b : BitVec 7)
  /-- VMAD (R272): Low 32 bits of a × b + d. -/
  | vmad (e : Bool) (w : Bool) (d : BitVec 7) (a : BitVec 7) (b : BitVec 7)
  /-- VABSD (R272): Absolute difference of signed lanes. -/
  | vabsd (e : Bool) (w : Bool) (d : BitVec 7) (a : BitVec 7) (b : BitVec 7)
  /-- VMIN (R272): Signed lane minimum. -/
  | vmin (e : Bool) (w : Bool) (d : BitVec 7) (a : BitVec 7) (b : BitVec 7)
  /-- VMAX (R272): Signed lane maximum. -/
  | vmax (e : Bool) (w : Bool) (d : BitVec 7) (a : BitVec 7) (b : BitVec 7)
  /-- VMINU (R272): Unsigned lane minimum. -/
  | vminu (e : Bool) (w : Bool) (d : BitVec 7) (a : BitVec 7) (b : BitVec 7)
  /-- VMAXU (R272): Unsigned lane maximum. -/
  | vmaxu (e : Bool) (w : Bool) (d : BitVec 7) (a : BitVec 7) (b : BitVec 7)
  /-- VAND (R272): Lane AND. -/
  | vand (e : Bool) (w : Bool) (d : BitVec 7) (a : BitVec 7) (b : BitVec 7)
  /-- VOR (R272): Lane OR. -/
  | vor (e : Bool) (w : Bool) (d : BitVec 7) (a : BitVec 7) (b : BitVec 7)
  /-- VXOR (R272): Lane XOR. -/
  | vxor (e : Bool) (w : Bool) (d : BitVec 7) (a : BitVec 7) (b : BitVec 7)
  /-- VANDN (R272): Lane a AND NOT b. -/
  | vandn (e : Bool) (w : Bool) (d : BitVec 7) (a : BitVec 7) (b : BitVec 7)
  /-- VSHL (R272): Lane shift left. -/
  | vshl (e : Bool) (w : Bool) (d : BitVec 7) (a : BitVec 7) (b : BitVec 7)
  /-- VSHR (R272): Lane logical shift right. -/
  | vshr (e : Bool) (w : Bool) (d : BitVec 7) (a : BitVec 7) (b : BitVec 7)
  /-- VSRA (R272): Lane arithmetic shift right. -/
  | vsra (e : Bool) (w : Bool) (d : BitVec 7) (a : BitVec 7) (b : BitVec 7)
  /-- VCLZ (R272): Leading zero count of each lane. -/
  | vclz (e : Bool) (w : Bool) (d : BitVec 7) (a : BitVec 7) (b : BitVec 7)
  /-- VPOPC (R272): Set-bit count of each lane. -/
  | vpopc (e : Bool) (w : Bool) (d : BitVec 7) (a : BitVec 7) (b : BitVec 7)
  /-- VBREV (R272): Bit reversal of each lane. -/
  | vbrev (e : Bool) (w : Bool) (d : BitVec 7) (a : BitVec 7) (b : BitVec 7)
  /-- VSEL (R272): Selects a where d is nonzero, else b. -/
  | vsel (e : Bool) (w : Bool) (d : BitVec 7) (a : BitVec 7) (b : BitVec 7)
  /-- VMOV (R272): Lane move, carrying the source's ptag. -/
  | vmov (e : Bool) (w : Bool) (d : BitVec 7) (a : BitVec 7) (b : BitVec 7)
  /-- VMULHU (R272): High 32 bits of the unsigned lane product. -/
  | vmulhu (e : Bool) (w : Bool) (d : BitVec 7) (a : BitVec 7) (b : BitVec 7)
  /-- VBFE (R272): Bit-field extract of each lane. -/
  | vbfe (e : Bool) (w : Bool) (d : BitVec 7) (a : BitVec 7) (b : BitVec 7)
  /-- VADDI (R273): Lane add of a sign-extended 10-bit immediate. -/
  | vaddi (e : Bool) (w : Bool) (d : BitVec 7) (a : BitVec 7) (i : BitVec 10)
  /-- VANDI (R273): Lane AND with an 8-bit immediate. -/
  | vandi (e : Bool) (w : Bool) (d : BitVec 7) (a : BitVec 7) (i : BitVec 8)
  /-- VORI (R273): Lane OR with an 8-bit immediate. -/
  | vori (e : Bool) (w : Bool) (d : BitVec 7) (a : BitVec 7) (i : BitVec 8)
  /-- VXORI (R273): Lane XOR with an 8-bit immediate. -/
  | vxori (e : Bool) (w : Bool) (d : BitVec 7) (a : BitVec 7) (i : BitVec 8)
  /-- VSHLI (R273): Lane shift left by an immediate. -/
  | vshli (e : Bool) (w : Bool) (d : BitVec 7) (a : BitVec 7) (i : BitVec 5)
  /-- VSHRI (R273): Lane logical shift right by an immediate. -/
  | vshri (e : Bool) (w : Bool) (d : BitVec 7) (a : BitVec 7) (i : BitVec 5)
  /-- VSRAI (R273): Lane arithmetic shift right by an immediate. -/
  | vsrai (e : Bool) (w : Bool) (d : BitVec 7) (a : BitVec 7) (i : BitVec 5)
  /-- VROTI (R273): Lane rotate right by an immediate. -/
  | vroti (e : Bool) (w : Bool) (d : BitVec 7) (a : BitVec 7) (i : BitVec 5)
  /-- VCMP (R274): Writes 1 in each active lane where the condition holds. -/
  | vcmp (e : Bool) (w : Bool) (d : BitVec 7) (a : BitVec 7) (b : BitVec 7) (c : BitVec 3)
  /-- FADD (R275): FP32 add rounded in the pending mode. -/
  | fadd (e : Bool) (w : Bool) (d : BitVec 7) (a : BitVec 7) (b : BitVec 7)
  /-- FSUB (R275): FP32 subtract. -/
  | fsub (e : Bool) (w : Bool) (d : BitVec 7) (a : BitVec 7) (b : BitVec 7)
  /-- FMUL (R275): FP32 multiply. -/
  | fmul (e : Bool) (w : Bool) (d : BitVec 7) (a : BitVec 7) (b : BitVec 7)
  /-- FFMA (R275): FP32 fused a × b + d rounded once. -/
  | ffma (e : Bool) (w : Bool) (d : BitVec 7) (a : BitVec 7) (b : BitVec 7)
  /-- FMIN (R275): FP32 minimum with NaN and signed-zero rules. -/
  | fmin (e : Bool) (w : Bool) (d : BitVec 7) (a : BitVec 7) (b : BitVec 7)
  /-- FMAX (R275): FP32 maximum with NaN and signed-zero rules. -/
  | fmax (e : Bool) (w : Bool) (d : BitVec 7) (a : BitVec 7) (b : BitVec 7)
  /-- FABS (R275): FP32 absolute value. -/
  | fabs (e : Bool) (w : Bool) (d : BitVec 7) (a : BitVec 7) (b : BitVec 7)
  /-- FNEG (R275): FP32 negation. -/
  | fneg (e : Bool) (w : Bool) (d : BitVec 7) (a : BitVec 7) (b : BitVec 7)
  /-- FCEQ (R275): FP32 equality compare. -/
  | fceq (e : Bool) (w : Bool) (d : BitVec 7) (a : BitVec 7) (b : BitVec 7)
  /-- FCLT (R275): FP32 less-than compare. -/
  | fclt (e : Bool) (w : Bool) (d : BitVec 7) (a : BitVec 7) (b : BitVec 7)
  /-- FCLE (R275): FP32 less-or-equal compare. -/
  | fcle (e : Bool) (w : Bool) (d : BitVec 7) (a : BitVec 7) (b : BitVec 7)
  /-- FCUN (R275): FP32 unordered test. -/
  | fcun (e : Bool) (w : Bool) (d : BitVec 7) (a : BitVec 7) (b : BitVec 7)
  /-- FCPYSGN (R275): Magnitude of a with the sign of b. -/
  | fcpysgn (e : Bool) (w : Bool) (d : BitVec 7) (a : BitVec 7) (b : BitVec 7)
  /-- FCLASS (R275): One-hot FP32 class mask. -/
  | fclass (e : Bool) (w : Bool) (d : BitVec 7) (a : BitVec 7) (b : BitVec 7)
  /-- FSCALE (R275): FP32 a × 2^b rounded once. -/
  | fscale (e : Bool) (w : Bool) (d : BitVec 7) (a : BitVec 7) (b : BitVec 7)
  /-- FRND (R275): FP32 rounded to an integral value. -/
  | frnd (e : Bool) (w : Bool) (d : BitVec 7) (a : BitVec 7) (b : BitVec 7)
  /-- CVT (R276): Converts each lane between formats in its own rounding mode. -/
  | cvt (e : Bool) (w : Bool) (d : BitVec 7) (a : BitVec 7) (t : BitVec 4) (s : BitVec 3) (m : BitVec 3)
  /-- PK2 (R277): Packs two 16-bit halves. -/
  | pk2 (e : Bool) (w : Bool) (d : BitVec 7) (a : BitVec 7) (b : BitVec 7)
  /-- PK4 (R277): Packs four bytes. -/
  | pk4 (e : Bool) (w : Bool) (d : BitVec 7) (a : BitVec 7) (b : BitVec 7)
  /-- PK8 (R277): Packs eight nibbles. -/
  | pk8 (e : Bool) (w : Bool) (d : BitVec 7) (a : BitVec 7) (b : BitVec 7)
  /-- UPK2 (R277): Unpacks two halves into a register pair. -/
  | upk2 (e : Bool) (w : Bool) (d : BitVec 7) (a : BitVec 7) (b : BitVec 7)
  /-- UPK4 (R277): Unpacks four bytes into a register pair. -/
  | upk4 (e : Bool) (w : Bool) (d : BitVec 7) (a : BitVec 7) (b : BitVec 7)
  /-- UPK8 (R277): Unpacks eight nibbles into a register pair. -/
  | upk8 (e : Bool) (w : Bool) (d : BitVec 7) (a : BitVec 7) (b : BitVec 7)
  /-- LSHFL (R279): Each lane reads the lane at a rotating offset. -/
  | lshfl (e : Bool) (w : Bool) (d : BitVec 7) (a : BitVec 7) (o : BitVec 7)
  /-- LBCAST (R279): Each lane reads the lane that B names. -/
  | lbcast (e : Bool) (w : Bool) (d : BitVec 7) (a : BitVec 7) (b : BitVec 7)
  /-- LSUM (R280): Sum of the active lanes in a fixed tree order, in every active lane. -/
  | lsum (e : Bool) (w : Bool) (d : BitVec 7) (a : BitVec 7) (k : BitVec 7)
  /-- LMIN (R280): Minimum of the active lanes. -/
  | lmin (e : Bool) (w : Bool) (d : BitVec 7) (a : BitVec 7) (k : BitVec 7)
  /-- LMAX (R280): Maximum of the active lanes. -/
  | lmax (e : Bool) (w : Bool) (d : BitVec 7) (a : BitVec 7) (k : BitVec 7)
  /-- LSCAN (R281): Inclusive prefix sum in lane order. -/
  | lscan (e : Bool) (w : Bool) (d : BitVec 7) (a : BitVec 7) (k : BitVec 7)
  /-- LVOTE (R282): Writes the mask of active nonzero lanes to every active lane. -/
  | lvote (e : Bool) (w : Bool) (d : BitVec 7) (a : BitVec 7)
  /-- LBFLY (R279): Each lane reads lane i XOR |off|. -/
  | lbfly (e : Bool) (w : Bool) (d : BitVec 7) (a : BitVec 7) (o : BitVec 7)
  /-- RCP (R284): SFU reciprocal through the quarter's SFU queue on path 6. -/
  | rcp (e : Bool) (d : BitVec 7) (a : BitVec 7) (b : BitVec 7)
  /-- RSQRT (R284): SFU reciprocal square root. -/
  | rsqrt (e : Bool) (d : BitVec 7) (a : BitVec 7) (b : BitVec 7)
  /-- SQRT (R284): SFU square root. -/
  | sqrt (e : Bool) (d : BitVec 7) (a : BitVec 7) (b : BitVec 7)
  /-- EXP2 (R284): SFU base-2 exponential. -/
  | exp2 (e : Bool) (d : BitVec 7) (a : BitVec 7) (b : BitVec 7)
  /-- LOG2 (R284): SFU base-2 logarithm. -/
  | log2 (e : Bool) (d : BitVec 7) (a : BitVec 7) (b : BitVec 7)
  /-- SIN (R284): SFU sine. -/
  | sin (e : Bool) (d : BitVec 7) (a : BitVec 7) (b : BitVec 7)
  /-- COS (R284): SFU cosine. -/
  | cos (e : Bool) (d : BitVec 7) (a : BitVec 7) (b : BitVec 7)
  /-- TANH (R284): SFU hyperbolic tangent. -/
  | tanh (e : Bool) (d : BitVec 7) (a : BitVec 7) (b : BitVec 7)
  /-- BADD2 (R285): Packed BF16 add per half. -/
  | badd2 (e : Bool) (w : Bool) (d : BitVec 7) (a : BitVec 7) (b : BitVec 7)
  /-- BMUL2 (R285): Packed BF16 multiply per half. -/
  | bmul2 (e : Bool) (w : Bool) (d : BitVec 7) (a : BitVec 7) (b : BitVec 7)
  /-- BFMA2 (R285): Packed BF16 fused multiply-add per half. -/
  | bfma2 (e : Bool) (w : Bool) (d : BitVec 7) (a : BitVec 7) (b : BitVec 7)
  /-- HADD2 (R285): Packed FP16 add per half. -/
  | hadd2 (e : Bool) (w : Bool) (d : BitVec 7) (a : BitVec 7) (b : BitVec 7)
  /-- HMUL2 (R285): Packed FP16 multiply per half. -/
  | hmul2 (e : Bool) (w : Bool) (d : BitVec 7) (a : BitVec 7) (b : BitVec 7)
  /-- HFMA2 (R285): Packed FP16 fused multiply-add per half. -/
  | hfma2 (e : Bool) (w : Bool) (d : BitVec 7) (a : BitVec 7) (b : BitVec 7)
  /-- BMAX2 (R285): Packed BF16 maximum per half. -/
  | bmax2 (e : Bool) (w : Bool) (d : BitVec 7) (a : BitVec 7) (b : BitVec 7)
  /-- BMIN2 (R285): Packed BF16 minimum per half. -/
  | bmin2 (e : Bool) (w : Bool) (d : BitVec 7) (a : BitVec 7) (b : BitVec 7)
  /-- VMOVI (R273): Writes a sign-extended 17-bit immediate to each active lane. -/
  | vmovi (e : Bool) (w : Bool) (d : BitVec 7) (i : BitVec 17)
  /-- TMAP_ADD (R288): Element-wise add sweep over local memory under an iterator, on path 4. -/
  | tmapAdd (e : Bool) (x : BitVec 7) (y : BitVec 7) (z : BitVec 7)
  /-- TMAP_MUL (R288): Element-wise multiply sweep. -/
  | tmapMul (e : Bool) (x : BitVec 7) (y : BitVec 7) (z : BitVec 7)
  /-- TMAP_FMA (R288): Element-wise fused multiply-add sweep. -/
  | tmapFma (e : Bool) (x : BitVec 7) (y : BitVec 7) (z : BitVec 7)
  /-- TMAP_MAX (R288): Element-wise maximum sweep. -/
  | tmapMax (e : Bool) (x : BitVec 7) (y : BitVec 7) (z : BitVec 7)
  /-- TMAP_CVT (R288): Element-wise conversion sweep. -/
  | tmapCvt (e : Bool) (x : BitVec 7) (y : BitVec 7) (z : BitVec 7)
  /-- TMAP_CPY (R288): Element-wise raw copy sweep. -/
  | tmapCpy (e : Bool) (x : BitVec 7) (y : BitVec 7) (z : BitVec 7)
  /-- ITSET (R287): Writes tensor iterator itN from eight scalar registers. -/
  | itset (e : Bool) (n : BitVec 2) (a : BitVec 7)
  /-- LDG (R293): Global load of each active lane on path 1. -/
  | ldg (e : Bool) (d : BitVec 7) (a : BitVec 7) (s : BitVec 6) (k : BitVec 5)
  /-- STG (R293): Global store written through to the home slice on path 2. -/
  | stg (e : Bool) (d : BitVec 7) (a : BitVec 7) (s : BitVec 6) (k : BitVec 5)
  /-- LDL (R294): Local-memory load on path 0. -/
  | ldl (e : Bool) (d : BitVec 7) (a : BitVec 7) (s : BitVec 6) (k : BitVec 5)
  /-- STL (R294): Local-memory store on path 0. -/
  | stl (e : Bool) (d : BitVec 7) (a : BitVec 7) (s : BitVec 6) (k : BitVec 5)
  /-- LDT (R295): Per-thread memory load on path 1. -/
  | ldt (e : Bool) (d : BitVec 7) (a : BitVec 7) (s : BitVec 6) (k : BitVec 4)
  /-- STT (R295): Per-thread memory store on path 2. -/
  | stt (e : Bool) (d : BitVec 7) (a : BitVec 7) (s : BitVec 6) (k : BitVec 4)
  /-- LDP (R297): Loads planes 1 to min(N, V) of one planed block in planar form. -/
  | ldp (e : Bool) (d : BitVec 7) (a : BitVec 7) (s : BitVec 6) (k : BitVec 5)
  /-- LDPR (R298): Refines a planar register by fetching only the missing planes, or reloads it. -/
  | ldpr (e : Bool) (d : BitVec 7) (a : BitVec 7) (s : BitVec 6) (k : BitVec 5)
  /-- STP (R299): Plane store of depth N as one step at the home slice. -/
  | stp (e : Bool) (d : BitVec 7) (a : BitVec 7) (s : BitVec 6) (k : BitVec 5)
  /-- ATOM (R301): Global atomic operation at the home slice for each named location. -/
  | atom (e : Bool) (d : BitVec 7) (a : BitVec 7) (s : BitVec 6) (k : BitVec 5)
  /-- ATOML (R301): Local-memory atomic operation on path 0. -/
  | atoml (e : Bool) (d : BitVec 7) (a : BitVec 7) (s : BitVec 6) (k : BitVec 5)
  /-- RLD (R302): Remote load over Butus on path 3. -/
  | rld (e : Bool) (d : BitVec 7) (a : BitVec 7) (s : BitVec 6) (k : BitVec 5)
  /-- RST (R302): Remote store over Butus on path 3. -/
  | rst (e : Bool) (d : BitVec 7) (a : BitVec 7) (s : BitVec 6) (k : BitVec 5)
  /-- RATOM (R302): Remote atomic of the pending hint.ao operation, one ATOM request per lane. -/
  | ratom (e : Bool) (d : BitVec 7) (a : BitVec 7) (s : BitVec 6) (k : BitVec 5)
  /-- FENCE (R303): Orders the group's accesses by order and scope and flushes the Reckoner window. -/
  | fence (e : Bool) (s : BitVec 3) (o : BitVec 3)
  /-- WAITC (R124): Stalls until the path counter is at most s, then takes any reported traps. -/
  | waitc (e : Bool) (s : BitVec 6) (p : BitVec 3)
  /-- BAR (R303): Team barrier, completing when every group of the team has arrived or retired. -/
  | bar (e : Bool)
  /-- BARC (R303): Cluster barrier over every group of the cluster. -/
  | barc (e : Bool)
  /-- CVP_F32 (R300): Converts a planar register to FP32. -/
  | cvpF32 (e : Bool) (w : Bool) (d : BitVec 7) (a : BitVec 7)
  /-- CVP_F32M (R300): Converts a planar register to FP32 with the midpoint term. -/
  | cvpF32m (e : Bool) (w : Bool) (d : BitVec 7) (a : BitVec 7)
  /-- CVP_BF (R300): Converts a planar register to BF16. -/
  | cvpBf (e : Bool) (w : Bool) (d : BitVec 7) (a : BitVec 7)
  /-- CVP_BFM (R300): Converts a planar register to BF16 with the midpoint term. -/
  | cvpBfm (e : Bool) (w : Bool) (d : BitVec 7) (a : BitVec 7)
  /-- PTRD (R300): Reads a vector register's ptag into a scalar. -/
  | ptrd (e : Bool) (w : Bool) (d : BitVec 7) (a : BitVec 7)
  /-- PTWR (R300): Writes a vector register's ptag from a scalar. -/
  | ptwr (e : Bool) (d : BitVec 7) (a : BitVec 7)
  /-- CPF2 (R305): Prefetches the line into L2. -/
  | cpf2 (e : Bool) (a : BitVec 7) (s : BitVec 6)
  /-- CPF1 (R305): Prefetches the line into L2 and L1. -/
  | cpf1 (e : Bool) (a : BitVec 7) (s : BitVec 6)
  /-- CEF (R305): Sets the line's priority as evict-first. -/
  | cef (e : Bool) (a : BitVec 7) (s : BitVec 6)
  /-- CEL (R305): Sets the line's priority as evict-last. -/
  | cel (e : Bool) (a : BitVec 7) (s : BitVec 6)
  /-- CNM (R305): Sets the line's priority as normal. -/
  | cnm (e : Bool) (a : BitVec 7) (s : BitVec 6)
  /-- CTRIM (R305): Trims a plane line to depth T, or evicts at T = 0. -/
  | ctrim (e : Bool) (t : BitVec 7) (a : BitVec 7) (s : BitVec 6)
  /-- CINV (R305): Writes back and invalidates the line in L1, the home slice and far copies. -/
  | cinv (e : Bool) (a : BitVec 7) (s : BitVec 6)
  /-- CWB (R305): Writes back the line's dirty words, leaving it valid and clean. -/
  | cwb (e : Bool) (a : BitVec 7) (s : BitVec 6)
  /-- CPYIN (R307): Copies a global box into a local region. -/
  | cpyin (e : Bool) (x : BitVec 7) (y : BitVec 7) (z : BitVec 6)
  /-- CPYOUT (R307): Copies a local region to a global box. -/
  | cpyout (e : Bool) (x : BitVec 7) (y : BitVec 7) (z : BitVec 6)
  /-- CPYP (R307): Plane copy inward with per-plane barriers. -/
  | cpyp (e : Bool) (x : BitVec 7) (y : BitVec 7) (z : BitVec 6)
  /-- GATH (R308): Gathers ordinary or KV-page entries from global to local memory. -/
  | gath (e : Bool) (x : BitVec 7) (y : BitVec 7) (z : BitVec 6)
  /-- SCAT (R307): Scatters local entries to global memory. -/
  | scat (e : Bool) (x : BitVec 7) (y : BitVec 7) (z : BitVec 6)
  /-- CPYC (R307): Copies a linear local box to a swizzled local region. -/
  | cpyc (e : Bool) (x : BitVec 7) (y : BitVec 7) (z : BitVec 6)
  /-- CPYR (R307): Copies a local region to a global box at a peer rank. -/
  | cpyr (e : Bool) (x : BitVec 7) (y : BitVec 7) (z : BitVec 6)
  /-- TBINIT (R310): Resets a transaction barrier's GOAL, DONE and flags. -/
  | tbinit (e : Bool) (s : BitVec 6)
  /-- TBARR (R310): Adds to DONE as a release at cluster scope. -/
  | tbarr (e : Bool) (a : BitVec 7) (s : BitVec 6)
  /-- TBEXP (R310): Adds to GOAL. -/
  | tbexp (e : Bool) (a : BitVec 7) (s : BitVec 6)
  /-- TBWAIT (R310): Waits until the barrier's target is reached or it is drained, releasing the quarter. -/
  | tbwait (e : Bool) (a : BitVec 7) (s : BitVec 6)
  /-- TBTEST (R310): Reads the barrier's counts and condition flags. -/
  | tbtest (e : Bool) (d : BitVec 7) (a : BitVec 7) (s : BitVec 6)
  /-- MMA (R318): Multiplies a 64 × 64 A tile by a weight slot into an accumulator on the matrix pair. -/
  | mma (e : Bool) (f : BitVec 5) (x : BitVec 7) (y : BitVec 7) (z : BitVec 6)
  /-- MDR (R319): Drains an accumulator to local memory or the bypass buffer in the named format. -/
  | mdr (e : Bool) (f : BitVec 5) (x : BitVec 7) (y : BitVec 7) (z : BitVec 5)
  /-- WBL (R317): Loads a weight slot from local memory. -/
  | wbl (e : Bool) (f : BitVec 5) (x : BitVec 7) (y : BitVec 7) (p : Bool)
  /-- TTR (R320): Transposes a 64 × 64 tile. -/
  | ttr (e : Bool) (x : BitVec 7) (y : BitVec 7)
  /-- TSCALE (R320): Scales a tile by an FP32 scalar. -/
  | tscale (e : Bool) (x : BitVec 7) (y : BitVec 7)
  /-- TZERO (R320): Clears a local tile on the tile engine. -/
  | tzero (e : Bool) (x : BitVec 7) (y : BitVec 7)
  /-- TZERO_ACC (R320): Clears accumulator accN to kind ZERO on the matrix array. -/
  | tzeroAcc (e : Bool) (x : BitVec 7) (y : BitVec 7) (n : BitVec 2)
  /-- TCVT (R320): Converts a tile between formats. -/
  | tcvt (e : Bool) (x : BitVec 7) (y : BitVec 7)
  /-- TADD (R320): Adds two tiles. -/
  | tadd (e : Bool) (x : BitVec 7) (y : BitVec 7)
  /-- TMOV (R320): Copies a tile raw. -/
  | tmov (e : Bool) (x : BitVec 7) (y : BitVec 7)
  /-- PQRY (R321): Writes a plane-dot query slot with weights and scale. -/
  | pqry (e : Bool) (x : BitVec 7) (y : BitVec 7) (n : BitVec 2)
  /-- PDOT (R323): Scores pages at depth d and writes scores and bounds. -/
  | pdot (e : Bool) (x : BitVec 7) (y : BitVec 7) (n : BitVec 2)
  /-- PDOTR (R323): Rescores only tokens marked in a bitmap. -/
  | pdotr (e : Bool) (x : BitVec 7) (y : BitVec 7) (n : BitVec 2)
  /-- PBND (R323): Writes bounds from the H words alone. -/
  | pbnd (e : Bool) (x : BitVec 7) (y : BitVec 7) (n : BitVec 2)
  /-- SELK (R325): Selects the k highest-ranked values of a row into a list. -/
  | selk (e : Bool) (x : BitVec 7) (y : BitVec 7)
  /-- SELKX (R325): Selects k values with exponential sums. -/
  | selkx (e : Bool) (x : BitVec 7) (y : BitVec 7)
  /-- PSEL (R326): Certified selection writing a survivor bitmap and count. -/
  | psel (e : Bool) (x : BitVec 7) (y : BitVec 7)
  /-- LMERGE (R327): Merges two selection lists. -/
  | lmerge (e : Bool) (x : BitVec 7) (y : BitVec 7)
  /-- LSORT (R328): Sorts a list by rank or by index. -/
  | lsort (e : Bool) (x : BitVec 7) (y : BitVec 7) (q : Bool)
  /-- SSRCH (R329): Binary-searches a key row for each query. -/
  | ssrch (e : Bool) (x : BitVec 7) (y : BitVec 7) (l : Bool) (k : BitVec 2)
  /-- TSPAWN (R334): Captures a task record into a core's task queue and returns a status. -/
  | tspawn (e : Bool) (d : BitVec 7) (a : BitVec 7) (b : BitVec 7)
  /-- SDEC (R336): Decrements a join header atomically, enqueueing its task at 0. -/
  | sdec (e : Bool) (d : BitVec 7) (a : BitVec 7)
  /-- TQRY (R337): Reads a snapshot of a core's task counts. -/
  | tqry (e : Bool) (d : BitVec 7) (a : BitVec 7)
  /-- FRES (R338): Resolves a future atomically and decrements a waiting continuation. -/
  | fres (e : Bool) (d : BitVec 7) (a : BitVec 7) (b : BitVec 7)
  /-- FREG (R339): Registers a continuation on a future. -/
  | freg (e : Bool) (d : BitVec 7) (a : BitVec 7) (b : BitVec 7)
  /-- FGET (R340): Reads a future's state and value in one step. -/
  | fget (e : Bool) (d : BitVec 7) (a : BitVec 7) (b : BitVec 7)
  /-- MSEND (R342): Sends one message through the Cairn send side. -/
  | msend (e : Bool) (d : BitVec 7) (a : BitVec 7)
  /-- MPOST (R343): Posts a receive descriptor, first searching the unexpected queue. -/
  | mpost (e : Bool) (d : BitVec 7) (a : BitVec 7)
  /-- MPROBE (R344): Finds the oldest matching unexpected message without removing it. -/
  | mprobe (e : Bool) (d : BitVec 7) (a : BitVec 7)
  /-- MCANCEL (R345): Removes an armed or disarmed posted entry. -/
  | mcancel (e : Bool) (d : BitVec 7) (a : BitVec 7)
  /-- MTEST (R345): Reports an entry's armed state and landing status. -/
  | mtest (e : Bool) (d : BitVec 7) (a : BitVec 7)
  /-- MPOST_RA (R343): Re-arms a disarmed persistent entry, first searching the unexpected queue. -/
  | mpostRa (e : Bool) (d : BitVec 7) (a : BitVec 7)
  /-- CAR (R347): Runs the small all-reduce over a multicast group. -/
  | car (e : Bool) (d : BitVec 7) (a : BitVec 7) (b : BitVec 7)
  /-- CBC (R348): Broadcasts bytes from the root over a multicast group. -/
  | cbc (e : Bool) (d : BitVec 7) (a : BitVec 7) (b : BitVec 7)
  /-- CBAR (R349): Fabric barrier over a multicast group. -/
  | cbar (e : Bool) (d : BitVec 7) (a : BitVec 7)
  /-- RGIVE (R131): Returns the group's top k register units to the pool. -/
  | rgive (e : Bool) (k : BitVec 4)
  /-- RCLAIM (R131): Claims k register units from the pool, all or none. -/
  | rclaim (e : Bool) (w : Bool) (d : BitVec 7) (k : BitVec 4)
  /-- RCNT (R270): Returns the number of register units held. -/
  | rcnt (e : Bool) (w : Bool) (d : BitVec 7)
  /-- RDSR (R351): Reads a system register into a scalar. -/
  | rdsr (e : Bool) (d : BitVec 7) (n : BitVec 8)
  /-- WRSR (R351): Writes a system register from a scalar. -/
  | wrsr (e : Bool) (a : BitVec 7) (n : BitVec 8)
  /-- SRET (R352): Returns from a trap handler, restoring captured state and resuming. -/
  | sret (e : Bool)
  /-- RWLD (R353): Loads a Reckoner rule image into a rule slot. -/
  | rwld (e : Bool) (a : BitVec 7) (b : BitVec 7)
  /-- RWCTL (R152): Narrows RWP by a mask. -/
  | rwctl (e : Bool) (k : BitVec 3)
  /-- TINV (R354): Invalidates translations and lines of an IA range and replays held writes. -/
  | tinv (e : Bool) (a : BitVec 7) (b : BitVec 7)
  /-- KVAPP (R355): Appends one token to a KV sequence. -/
  | kvapp (e : Bool) (a : BitVec 7) (v : BitVec 7) (d : BitVec 6)
  /-- COLD_RESET (R15): Power-on or PCIe fundamental reset verifies the image slots, derives the identity key, trains HBM fully and leaves HBM contents undefined. -/
  | coldReset
  /-- ORDERLY_WARM_RESET (R15): RSTCTL.KIND = 1 from the PF, or the MCTP command, stops issue, writes back L2 and the DRAM cache layer, enters self-refresh and clears the state of R16. -/
  | orderlyWarmReset
  /-- FORCED_WARM_RESET (R15): RSTCTL.KIND = 2, or the MCTP command, clears the state of R16 without write-back and takes effect at once even during an orderly reset. -/
  | forcedWarmReset
  /-- ORDERLY_RESET_TIMEOUT (R15): An orderly warm reset whose write-back has not ended within 10 ms continues as forced, and LASTRST reads 2. -/
  | orderlyResetTimeout
  /-- RETRAIN_COMPLETE (R17): When the HBM fast retrain and the saddle-link retrain finish, HBMTR, SADTR and READY read 1 and memory accesses are accepted. -/
  | retrainComplete
  /-- OPERATING_POINT_LOWER (R8): When the board power or a junction temperature would exceed its limit, the management engine lowers the operating point of the die that draws more power by one step. -/
  | operatingPointLower
  /-- OPERATING_POINT_RAISE (R8): After 10 ms with both limits met, the management engine raises the lowered operating point again. -/
  | operatingPointRaise
  /-- THERMAL_SHUTDOWN (R8): At 115 °C on any die, all clocks stop and power-good is deasserted. -/
  | thermalShutdown
  /-- DROOP_TRIP (R9): A tripped droop detector stretches its core's clock within 2 cycles until the supply recovers, and more than 64 trips in 1 ms count as a throttle cause. -/
  | droopTrip
  /-- TARGETED_SELF_TEST (R10): After an error in an SRAM row, array segment, HBM row or lane, the management engine runs a self-test on that resource in its next idle window. -/
  | targetedSelfTest
  /-- SELF_TEST_FORCED_WINDOW (R10): If no idle window occurs within 900 µs, the resource is taken out of service for up to 20 µs, and its accesses stall. -/
  | selfTestForcedWindow
  /-- SELF_TEST_RESULT (R10): The self-test ends and classifies the error as transient, retires the resource to a spare, or marks its unit degraded. -/
  | selfTestResult
  /-- REPAIR_EXPORT (R12): The MCTP command returns the current repair maps as a repair section signed with the identity key. -/
  | repairExport
  /-- SIGNED_IMAGE_WRITE (R13): A signed image written to flash over MCTP, which with a cold reset is the only way out of recovery mode. -/
  | signedImageWrite
  /-- SPDM_REQUEST (R14): An SPDM 1.3 attestation request over PCIe DOE is answered with measurements, or with an error when IDOK is 0. -/
  | spdmRequest
  /-- KEY_INSTALL (R50): The MCTP command carries a 192 B key record, acts as a write of GO and returns the final KWST. -/
  | keyInstall
  /-- REGISTER_WRITE (R4): A write to a BAR0 register that has no row of its own updates its writable fields, ignores reserved fields, clears write-to-clear counters, and is ignored from a VF where stated. -/
  | registerWrite
  /-- MEMORY_REQUEST (R28): A 64 B or 128 B memory request, with its service class and deadline stamp, arrives at its channel scheduler. -/
  | memoryRequest
  /-- CHANNEL_SCHEDULE (R28): The channel scheduler chooses its next request by class, deadline and arrival order, with granule order and rank inheritance, and serves it through the DRAM cache layer. -/
  | channelSchedule
  /-- PROMOTION (R28): A request that has waited 4 µs is promoted to class 0 with its deadline set to its arrival tick plus 500. -/
  | promotion
  /-- MEMORY_REQUEST_COMPLETE (R30): A request returns its data or commits its write, and a request finishing after its own deadline counts as missed for its requester. -/
  | memoryRequestComplete
  /-- VICTIM_WRITEBACK (R25): The dirty sectors of a victim block are written from the buffer to storage, off the requester's path. -/
  | victimWriteback
  /-- PER_BANK_REFRESH (R31): Each bank's refresh interval of 3.9 µs, or 1.95 µs above 85 °C, expires and the bank is refreshed or the refresh is postponed. -/
  | perBankRefresh
  /-- CACHE_LAYER_DISABLE (R26): After TAGLOSS, the management engine writes back the stack's dirty blocks, disables its cache layer and marks the stack degraded. -/
  | cacheLayerDisable
  /-- PATROL_SCRUB (R35): The patrol scrubber reads each granule once in 24 h at class 3, rewrites correctable errors and poisons and reports uncorrectable ones. -/
  | patrolScrub
  /-- RD (R41): A Butus read request arrives, is translated at the target through the partition of JOB, reads up to 256 B and is answered with RSP. -/
  | rd
  /-- WR (R41): A Butus write request arrives, is performed at its home L2 slice and is answered. -/
  | wr
  /-- WRM (R41): A Butus write with a 32 B byte mask writes only the enabled bytes and is answered. -/
  | wrm
  /-- ATOM_REQUEST (R41): A Butus atomic request is performed indivisibly at the home slice and returns the old value, or POISON under R54. -/
  | atomRequest
  /-- MCW (R47): A multicast write arrives at a member, is performed, and a collective slot landing in the receive buffer is counted. -/
  | mcw
  /-- PWR (R41): A plane write request writes one planed block word by word under the store merge rule with V = d. -/
  | pwr
  /-- MSGE (R63): An eager message fragment arrives at the Cairn and is matched and landed, or queued as unexpected, or refused with RETRY_RTS. -/
  | msge
  /-- MSGH (R66): A rendezvous header arrives and either matches, starting RD pulls from the sender's window, or takes an unexpected header entry. -/
  | msgh
  /-- FIN (R57): A FIN arrives at the sender and resolves the send future of a header-sent message with FST and the landed count. -/
  | fin
  /-- RSP (R42): A response arrives, frees its tag, lands read data or a pull piece, and records a failing status for the requester's next waitc on path 3. -/
  | rsp
  /-- REQUEST_TIMEOUT (R41): A remote request unanswered 2 ms after injection frees its tag with status TIMEOUT. -/
  | requestTimeout
  /-- PORT_FAILURE (R45): A failed port stops injection on its plane, its traffic moves to the next live plane, and LINKDOWN is posted. -/
  | portFailure
  /-- FLIT_RECEIVE (R51): A data-link flit is checked against its key slot's integrity tag, dropped on failure or under a zeroised slot, and completes a rekey on the first valid flit of a new generation. -/
  | flitReceive
  /-- KEY_COUNTER_EXHAUSTED (R49): A key slot counter that reaches its maximum stops transmission under that slot until a new key is installed. -/
  | keyCounterExhausted
  /-- KEY_WINDOW_GO (R50): A write of KWCTL.GO starts checking, unwrapping and installing the key record in KWREC. -/
  | keyWindowGo
  /-- KEY_INSTALL_DONE (R50): Installation ends within 50 µs with the key in slot 2 × PART + GEN on every port, or fails and posts KEYBAD or KEYREC. -/
  | keyInstallDone
  /-- CHECKPOINT_GO (R55): A write of CKPTCTL.GO starts a checkpoint when no partition runs, writing back L2 and the cache layer and streaming WR packets. -/
  | checkpointGo
  /-- CHECKPOINT_ABORT (R55): A write of CKPTCTL.ABORT stops the checkpoint after packets in flight, with state 3 and code 3. -/
  | checkpointAbort
  /-- CHECKPOINT_DONE (R55): The checkpoint ends when every packet is answered, with state done or failed code 4. -/
  | checkpointDone
  /-- PAYLOAD_READ (R342): After the sender's earlier accesses are performed, the send side reads the payload into its staging slot and injects the fragments or header. -/
  | payloadRead
  /-- REFUSED_RESEND (R63): Once every outstanding packet to a refusing destination is answered, the send side resends each refused message as an MSGH with RSND = 1 and resumes. -/
  | refusedResend
  /-- CAIRN_COMPLETION (R69): After the last landed byte is performed, the Cairn resolves the receive future atomically and decrements any waiting continuation. -/
  | cairnCompletion
  /-- CCTL_EN_SET (R71): Setting CCTL.EN empties the partition's match entries and queues, resets the send counter and entry generations, and enables messaging. -/
  | cctlEnSet
  /-- CCTL_EN_CLEAR (R71): Clearing CCTL.EN discards the partition's posts and queued messages without completion, and later message packets are answered DENIED. -/
  | cctlEnClear
  /-- BAR2_WRITE (R72): A host BAR2 write is translated for its function and performed at its home slice in PCIe arrival order. -/
  | bar2Write
  /-- BAR2_READ (R72): A host BAR2 read completes after every earlier BAR2 write of its function has been performed. -/
  | bar2Read
  /-- FORM (R75): PCTL form makes a free partition with valid units running, after freeing shadow-window chunks when SHEN is 1. -/
  | form
  /-- HALT (R75): PCTL halt stops placement and requests pre-emption of every group, moving STATE to halting. -/
  | halt
  /-- HALT_DONE (R75): When every group has stopped and outstanding work has completed, STATE becomes halted. -/
  | haltDone
  /-- RESUME (R75): PCTL resume runs a halted partition again, or begins swapping in a swapped-out one. -/
  | resume
  /-- SWAP_OUT (R84): PCTL swap out begins saving a halted partition's core state to its shadow windows and save area. -/
  | swapOut
  /-- SWAP_OUT_DONE (R84): The swap out ends and STATE becomes swapped out, freeing the units. -/
  | swapOutDone
  /-- SWAP_IN_DONE (R84): The swap in ends and STATE becomes running. -/
  | swapInDone
  /-- DISSOLVE (R75): PCTL dissolve abandons every group and task, stops queues, cancels launches with status 4, zeroises key slots, discards Cairn state and frees the partition. -/
  | dissolve
  /-- LQ_ENABLE (R77): Setting LQCFG.EN reads W, takes it as R, writes R to the index line and starts watching the queue. -/
  | lqEnable
  /-- LQ_DISABLE (R77): Clearing LQCFG.EN stops the queue. -/
  | lqDisable
  /-- WRITE_INDEX_NOTIFY (R78): A write to the index line's W notifies the watcher, which reads records R to W − 1 or stops the queue with an error code. -/
  | writeIndexNotify
  /-- LAUNCH_RECORD_READ (R80): A launch record read arrives, is validated, advances R, and becomes a pending launch or graph, or fails with its status. -/
  | launchRecordRead
  /-- GRAPH_NODE_COMPLETE (R83): A completed graph node decrements its successors' counters and starts those reaching 0, completing the graph when all nodes have completed. -/
  | graphNodeComplete
  /-- CLUSTER_PLACEMENT (R90): The scheduler places a ready launch's next cluster on the first fitting rectangle, loading the header and segment 0 and starting its teams. -/
  | clusterPlacement
  /-- RESERVATION (R91): A launch whose next cluster has waited 50 µs takes the partition's reservation of an empty rectangle. -/
  | reservation
  /-- LAUNCH_COMPLETION (R80): When the launch's last group retires, COMPL is resolved with value LID and status 0, or POISONED with a failure status. -/
  | launchCompletion
  /-- GROUP_RETIRE (R89): A group whose slices have all exited retires once all its in-flight counters reach 0, freeing its slot and register units. -/
  | groupRetire
  /-- TASK_DISPATCH (R97): A core dispatches its next queued task to the prefetcher, which takes a shadow slot and pages and starts loading segments and prefetch bytes. -/
  | taskDispatch
  /-- TASK_START (R96): When every segment and prefetch byte has arrived, the task starts in its shadow slot with its initial state. -/
  | taskStart
  /-- TASK_HALT_TIMEOUT (R99): A running task not exited SAFETO cycles after a halt is aborted and requeued at the head of its queue. -/
  | taskHaltTimeout
  /-- DEFERRED_ENQUEUE (R100): A task record waiting in the scheduler for a full queue is enqueued when an entry frees. -/
  | deferredEnqueue
  /-- OPERATION_COMPLETE (R122): The oldest outstanding operation of a path completes, lowers the path counter by 1 and writes its destination. -/
  | operationComplete
  /-- SFU_ENTRY_COMPLETE (R126): The SFU completes its oldest entry, writes the destination and lowers the group's path 6 counter. -/
  | sfuEntryComplete
  /-- SAFE_TIMEOUT (R105): A group not stopped SAFETO cycles after a pre-emption request stops at its next run boundary with its whole context, TRC 0x21, and PFRC counts it. -/
  | safeTimeout
  /-- PAIR_RESET (R136): A matrix command not retired 2^24 cycles after it started resets its pair, discarding matrix state and commands. -/
  | pairReset
  /-- ENGINE_COMMAND_START (R133): A scoreboard command starts once every overlapping older command has progressed as R133 requires and its unit is free. -/
  | engineCommandStart
  /-- ENGINE_COMMAND_COMPLETE (R313): An engine command completes, or faults, settles its barrier sectors and lowers the path 4 counter. -/
  | engineCommandComplete
  /-- WINDOW_TIMEOUT (R142): 256 cycles after the last entry entered, all entries of the group's window are released to the scoreboard. -/
  | windowTimeout
  /-- FAR_COPY_INVALIDATION (R194): An invalidation of a far copy lands on the other die, making the write globally performed. -/
  | farCopyInvalidation
  /-- EVICT_LAST_DEMOTION (R171): Every 2^20 cycles each cache demotes all its evict-last lines to normal. -/
  | evictLastDemotion
  /-- FQRES (R215): A write of FQRES resolves a fault record, replaying its parked accesses, requeuing aborted tasks and resuming parked landings, or ending them as unresolvable. -/
  | fqres
  /-- FQR (R215): A write of the consumed count R frees ring slots so that faults parked without a record post their records. -/
  | fqr
  /-- MCG_WRITE (R347): A write of MCG entry g with VALID 1 sets CRBUF BANK to 0 and clears the group's broken mark. -/
  | mcgWrite
  /-- CAR_TIMEOUT (R347): A car whose slots have not all arrived 2 ms after its MCW completes with TIMEOUT and marks the group broken. -/
  | carTimeout
  /-- CBC_TIMEOUT (R348): A cbc receiver not complete 2 ms after issue completes with TIMEOUT and marks the group broken. -/
  | cbcTimeout
  /-- ORDERLY_WRITEBACK_END (R15): The write-back of an orderly warm reset finishes within 10 ms, after which the stacks enter self-refresh, state is cleared and the fast retrains start. -/
  | orderlyWritebackEnd
  /-- DROOP_RECOVERY (R9): The supply of a core whose droop detector tripped recovers, and its clock stops being stretched. -/
  | droopRecovery
  /-- CONFIGURATION_REQUEST (R17): A PCIe configuration request arrives and completes with Request Retry Status before READY, and is answered in recovery mode. -/
  | configurationRequest
  /-- PORT_RETRAIN_COMPLETE (R17): After a warm or cold reset, a Butus port finishes its full retrain and can carry traffic once a job key is installed. -/
  | portRetrainComplete
  deriving DecidableEq, Repr

end Sys2Proof
end

