-- ==== Sys2Proof/Config.lean ====
section
/-! DEFINITION. What the spec leaves open as a value: free functions and constants with no body, so that no proof can see
what they are (log 5). Each is a fixed function of its arguments, as R284 and R49 require. -/

namespace Sys2Proof

/-- Which of the results within 1 ulp `rsqrt` gives for an input and a mode (R284). DESIGN CHOICE (log 5). -/
opaque Config.rsqrtPick : Word → Nat → Nat
/-- Which of the results within its bound `exp2` gives for an input and a mode (R284). DESIGN CHOICE (log 5). -/
opaque Config.exp2 : Word → Nat → Nat
/-- Which of the results within its bound `log2` gives for an input and a mode (R284). DESIGN CHOICE (log 5). -/
opaque Config.log2 : Word → Nat → Nat
/-- Which of the results within its bound `sin` gives for an input and a mode (R284). DESIGN CHOICE (log 5). -/
opaque Config.sin : Word → Nat → Nat
/-- Which of the results within its bound `cos` gives for an input and a mode (R284). DESIGN CHOICE (log 5). -/
opaque Config.cos : Word → Nat → Nat
/-- Which of the results within its bound `tanh` gives for an input and a mode (R284). DESIGN CHOICE (log 5). -/
opaque Config.tanh : Word → Nat → Nat
/-- The code, of a format without infinities, that an invalid operation on some operands gives (R233). DESIGN CHOICE (log 91). -/
opaque Config.invalidCode : Nat → List Int → Nat
/-- PRV.STEP, the silicon stepping (R253). DESIGN CHOICE (log 5). -/
opaque Config.stepping : BitVec 8
/-- Whether EPUB of a key record is a point of the curve (R49, R50). DESIGN CHOICE (log 5). -/
opaque Config.onCurve : List Byte → Bool
/-- The job key that a record unwraps to under the identity key and a rank, if its integrity value checks (R49, R50).
DESIGN CHOICE (log 5). -/
opaque Config.openKeyRecord : Nat → List Byte → Option Nat
/-- The repair section that carries some repair maps (R12). DESIGN CHOICE (log 5). -/
opaque Config.repairSection : List Resource → List Byte
/-- SPDM measurements of an image slot and the repair maps (R14). DESIGN CHOICE (log 5). -/
opaque Config.measure : Image → List Resource → List Byte
/-- A section signed with the identity key (R12, R14). DESIGN CHOICE (log 5). -/
opaque Config.sign : List Byte → List Byte
/-- The value that a fresh draw gives where the spec names a value and not which (log 5). -/
opaque Config.free : Nat → Nat

end Sys2Proof
end

