-- ==== Sys2Proof/Machine/Fp.lean ====
section
/-! DEFINITION. Number formats and arithmetic (R225 to R234): exact values as dyadic numbers, one rounding function for
every format and mode, and the operations built on them. -/

namespace Sys2Proof.Machine

/-- An exact value: a NaN, a signed infinity, or (-1)^neg * m * 2^e (m = 0 is a signed zero). -/
inductive Num where
  | nan
  | inf (neg : Bool)
  | fin (neg : Bool) (m : Nat) (e : Int)
  deriving DecidableEq, Repr

/-- A floating-point format (R227, R229): exponent width, mantissa width, bias, whether it has infinities, and its number
in the counter block (R223). -/
structure FFmt where
  we : Nat
  wm : Nat
  bias : Nat
  ieee : Bool
  code : Nat
  deriving DecidableEq, Repr

def fp32 : FFmt := ⟨8, 23, 127, true, 0⟩
def bf16 : FFmt := ⟨8, 7, 127, true, 1⟩
def fp16 : FFmt := ⟨5, 10, 15, true, 2⟩
def f8e4 : FFmt := ⟨4, 3, 8, false, 3⟩
def f8e5 : FFmt := ⟨5, 2, 16, false, 4⟩
def fp4 : FFmt := ⟨2, 1, 1, false, 5⟩

/-- The floating-point format of a format code 0 to 5 (R225). -/
def floatFmt : Nat → Option FFmt
  | 0 => some fp32 | 1 => some bf16 | 2 => some fp16 | 3 => some f8e4 | 4 => some f8e5 | 5 => some fp4 | _ => none

/-- Bits of an element of a format code (R225). -/
def fmtBits : Nat → Nat
  | 0 => 32 | 1 => 16 | 2 => 16 | 3 => 8 | 4 => 8 | 5 => 4 | 6 => 32 | 7 => 16 | 8 => 8 | 9 => 4 | 10 => 8 | 11 => 4
  | 12 => 32 | 13 => 64 | _ => 0

/-- Exception events of one rounding: bit e is event e of R223. -/
abbrev Ev := BitVec 4
def evInvalid : Ev := 1
def evDivZero : Ev := 2
def evOverflow : Ev := 4
def evUnderflow : Ev := 8

/-- A rounded result: its code and its events. -/
abbrev FpR := Nat × Ev

/-- The canonical NaN of a format (R227); FP4 has none and gives 0000 (R230). -/
def FFmt.nan (f : FFmt) : Nat :=
  if f.ieee then (2 ^ f.we - 1) * 2 ^ f.wm + 2 ^ (f.wm - 1) else if f.code = 5 then 0 else 2 ^ (f.we + f.wm)
/-- The code of the largest finite magnitude (R227). -/
def FFmt.maxFinite (f : FFmt) : Nat := if f.ieee then (2 ^ f.we - 1) * 2 ^ f.wm - 1 else 2 ^ (f.we + f.wm) - 1
/-- The code of +infinity in an IEEE format. -/
def FFmt.infBits (f : FFmt) : Nat := (2 ^ f.we - 1) * 2 ^ f.wm
/-- The exponent of the smallest normal value. -/
def FFmt.emin (f : FFmt) : Int := 1 - (f.bias : Int)
/-- A magnitude code with its sign. F8E4, F8E5 and FP4 have no negative zero (R227, R230). -/
def FFmt.signed (f : FFmt) (neg : Bool) (mag : Nat) : Nat :=
  if neg && !(mag == 0 && !f.ieee) then mag + 2 ^ (f.we + f.wm) else mag

/-- Reads a code of a format (R227, R229). `xv` is the BF16 extra value that FP4 code 1000 stands for. -/
def FFmt.readPlain (f : FFmt) (bits : Nat) : Num :=
  let neg := bits / 2 ^ (f.we + f.wm) % 2 == 1
  let e := bits / 2 ^ f.wm % 2 ^ f.we
  let m := bits % 2 ^ f.wm
  if f.ieee && e == 2 ^ f.we - 1 then (if m == 0 then .inf neg else .nan)
  else if !f.ieee && neg && e == 0 && m == 0 then .nan
  else if e == 0 then .fin neg m (f.emin - f.wm)
  else .fin neg (2 ^ f.wm + m) ((e : Int) - f.bias - f.wm)

def FFmt.read (f : FFmt) (xv : Nat) (bits : Nat) : Num :=
  if f.code = 5 && bits % 16 == 8 then bf16.readPlain (xv % 65536) else f.readPlain (bits % 2 ^ (1 + f.we + f.wm))

/-- Whether a discarded part moves a magnitude up to the next (R233): `half` compares it with half a unit. -/
def roundsUp (mode : Nat) (neg odd inexact : Bool) (half : Ordering) : Bool :=
  inexact && (match mode with
    | 0 => half == .gt || (half == .eq && odd)
    | 1 => false
    | 2 => !neg
    | 3 => neg
    | _ => !odd)

/-- Splits m * 2^e (plus a nonzero part below one unit of 2^e if `sticky`) into whole units of 2^q, whether something is
left, and how that compares with half a unit. -/
def splitAt (m : Nat) (e q : Int) (sticky : Bool) : Nat × Bool × Ordering :=
  if q ≤ e then (m * 2 ^ (e - q).toNat, sticky, .lt)
  else
    let sh := (q - e).toNat
    if Nat.log2 m + 2 < sh then (0, decide (m ≠ 0) || sticky, .lt)
    else
      let rem := m % 2 ^ sh
      let half := 2 ^ (sh - 1)
      (m / 2 ^ sh, decide (rem ≠ 0) || sticky,
        if rem < half then .lt else if rem = half && !sticky then .eq else .gt)

/-- Rounds a nonzero magnitude m * 2^e once to a format (R233), with its events (R223). A `sticky` part needs m to have at
least wm + 3 bits. -/
def FFmt.roundMag (f : FFmt) (mode : Nat) (neg : Bool) (m : Nat) (e : Int) (sticky : Bool) : FpR :=
  let top : Int := (Nat.log2 m : Int) + e
  let q := max top f.emin - f.wm
  let (sig, inexact, half) := splitAt m e q sticky
  let sig := if roundsUp mode neg (sig % 2 == 1) inexact half then sig + 1 else sig
  let under : Ev := if inexact && decide (top < f.emin) then evUnderflow else 0
  let scale := (q - (f.emin - f.wm)).toNat
  if (2 ^ f.we : Nat) ≤ scale || f.maxFinite < scale * 2 ^ f.wm + sig then
    let mag :=
      if !f.ieee then f.maxFinite
      else match mode with
        | 0 => f.infBits
        | 1 => f.maxFinite
        | 2 => if neg then f.maxFinite else f.infBits
        | 3 => if neg then f.infBits else f.maxFinite
        | _ => f.maxFinite
    (f.signed neg mag, evOverflow)
  else (f.signed neg (scale * 2 ^ f.wm + sig), under)

/-- Rounds an exact value to a format (R233, R234). A NaN or infinity that comes from an input raises no event but for an
infinity met by a format that has none. -/
def FFmt.round (f : FFmt) (mode : Nat) : Num → FpR
  | .nan => (f.nan, 0)
  | .inf neg => if f.ieee then (f.signed neg f.infBits, 0) else (f.signed neg f.maxFinite, evOverflow)
  | .fin neg m e => if m = 0 then (f.signed neg 0, 0) else f.roundMag mode neg m e false

/-- The value as an integer multiple of 2^q, for q at most its exponent. -/
def alignTo (neg : Bool) (m : Nat) (e q : Int) : Int :=
  let v : Int := (m * 2 ^ (e - q).toNat : Nat)
  if neg then -v else v

/-- The sum of two exact values (R228): the second component says that a NaN arises from inputs that are none. -/
def Num.add (mode : Nat) : Num → Num → Num × Bool
  | .nan, _ => (.nan, false)
  | _, .nan => (.nan, false)
  | .inf a, .inf b => if a = b then (.inf a, false) else (.nan, true)
  | .inf a, .fin .. => (.inf a, false)
  | .fin .., .inf b => (.inf b, false)
  | .fin na ma ea, .fin nb mb eb =>
    if ma = 0 && mb = 0 then (.fin (if na = nb then na else mode == 3) 0 0, false)
    else if ma = 0 then (.fin nb mb eb, false)
    else if mb = 0 then (.fin na ma ea, false)
    else
      let q := min ea eb
      let s := alignTo na ma ea q + alignTo nb mb eb q
      if s = 0 then (.fin (mode == 3) 0 0, false) else (.fin (decide (s < 0)) s.natAbs q, false)

def Num.neg : Num → Num
  | .nan => .nan
  | .inf n => .inf (!n)
  | .fin n m e => .fin (!n) m e

/-- The product of two exact values (R228). -/
def Num.mul : Num → Num → Num × Bool
  | .nan, _ => (.nan, false)
  | _, .nan => (.nan, false)
  | .inf a, .inf b => (.inf (a != b), false)
  | .inf a, .fin nb mb _ => if mb = 0 then (.nan, true) else (.inf (a != nb), false)
  | .fin na ma _, .inf b => if ma = 0 then (.nan, true) else (.inf (na != b), false)
  | .fin na ma ea, .fin nb mb eb => (.fin (na != nb) (ma * mb) (ea + eb), false)

def Num.isNan : Num → Bool
  | .nan => true
  | _ => false

/-- Compares two values that are not NaN; -0 equals +0. -/
def Num.cmp : Num → Num → Ordering
  | .inf a, .inf b => if a = b then .eq else if a then .lt else .gt
  | .inf a, _ => if a then .lt else .gt
  | _, .inf b => if b then .gt else .lt
  | .fin na ma ea, .fin nb mb eb =>
    let q := min ea eb
    compare (if ma = 0 then 0 else alignTo na ma ea q) (if mb = 0 then 0 else alignTo nb mb eb q)
  | _, _ => .eq

def Num.lt (a b : Num) : Bool := !a.isNan && !b.isNan && a.cmp b == .lt
def Num.le (a b : Num) : Bool := !a.isNan && !b.isNan && a.cmp b != .gt
def Num.eq (a b : Num) : Bool := !a.isNan && !b.isNan && a.cmp b == .eq
def Num.isNeg : Num → Bool
  | .nan => false
  | .inf n => n
  | .fin n _ _ => n

/-- An exact value as plain integers. -/
def Num.key : Num → List Int
  | .nan => [0]
  | .inf n => [1, if n then 1 else 0]
  | .fin n m e => [2, if n then 1 else 0, m, e]

/-- What an operation on operands none of which is a NaN gives, in a format without infinities, where R228 would give a NaN: R233
says that it is none and leaves it open (log 91). -/
def FFmt.noNan (f : FFmt) (ops : List Num) : Nat :=
  let v := Config.invalidCode f.code (ops.flatMap Num.key) % 2 ^ (1 + f.we + f.wm)
  if (f.readPlain v).isNan then f.maxFinite else v

/-- A rounded result. Where a NaN arises from inputs none of which is NaN, an IEEE format has it with its event (R228), and
F8E4, F8E5 and FP4 produce none (R233). -/
def FFmt.finish (f : FFmt) (mode : Nat) (r : Num × Bool) (ops : List Num := []) : FpR :=
  if r.2 then (if f.ieee then (f.nan, evInvalid) else (f.noNan ops, 0)) else f.round mode r.1

def FFmt.addR (f : FFmt) (mode : Nat) (a b : Num) : FpR := f.finish mode (a.add mode b)
def FFmt.mulR (f : FFmt) (mode : Nat) (a b : Num) : FpR := f.finish mode (a.mul b)
/-- a * b + c, exact before its one rounding (R228). 0 * infinity counts event 0 unless c is a NaN. -/
def Num.fma (mode : Nat) (a b c : Num) : Num × Bool :=
  let p := a.mul b
  if p.2 then (.nan, !c.isNan) else p.1.add mode c
def FFmt.fmaR (f : FFmt) (mode : Nat) (a b c : Num) : FpR := f.finish mode (a.fma mode b c)

/-- `fmin` (R275): the other operand beside one NaN; -0 ranks below +0. Works on codes of an IEEE format. -/
def FFmt.minBits (f : FFmt) (x y : Nat) : Nat :=
  let a := f.readPlain x; let b := f.readPlain y
  if a.isNan && b.isNan then f.nan else if a.isNan then y else if b.isNan then x
  else match a.cmp b with
    | .lt => x
    | .gt => y
    | .eq => if a.isNeg then x else y
/-- `fmax` (R275). -/
def FFmt.maxBits (f : FFmt) (x y : Nat) : Nat :=
  let a := f.readPlain x; let b := f.readPlain y
  if a.isNan && b.isNan then f.nan else if a.isNan then y else if b.isNan then x
  else match a.cmp b with
    | .lt => y
    | .gt => x
    | .eq => if a.isNeg then y else x

/-- An exact magnitude rounded to an integer in a mode (R233). -/
def roundToInt (mode : Nat) (neg : Bool) (m : Nat) (e : Int) : Nat :=
  let (n, inexact, half) := splitAt m e 0 false
  if roundsUp mode neg (n % 2 == 1) inexact half then n + 1 else n

/-- The range of an integer format code (R231): its least and greatest value. -/
def intRange : Nat → Int × Int
  | 6 => (-2147483648, 2147483647)
  | 7 => (-32768, 32767)
  | 8 => (-128, 127)
  | 9 => (-8, 7)
  | 10 => (0, 255)
  | 13 => (-9223372036854775808, 9223372036854775807)
  | _ => (0, 0)

def clampInt (r : Int × Int) (v : Int) : Int := if v < r.1 then r.1 else if r.2 < v then r.2 else v

/-- A value converted to an integer format (R234): rounded, then saturated; NaN gives 0. -/
def Num.toIntFmt (mode : Nat) (code : Nat) : Num → Int
  | .nan => 0
  | .inf neg => if neg then (intRange code).1 else (intRange code).2
  | .fin neg m e =>
    let r := intRange code
    -- a magnitude of 2^70 or more saturates whatever its bits
    if m ≠ 0 && decide ((70 : Int) ≤ (Nat.log2 m : Int) + e) then (if neg then r.1 else r.2)
    else
      let n : Int := (roundToInt mode neg m e : Nat)
      clampInt r (if neg then -n else n)

/-- An integer as an exact value. -/
def Num.ofInt (v : Int) : Num := .fin (decide (v < 0)) v.natAbs 0

/-- The low `bits` bits of an integer, two's complement. -/
def intBits (bits : Nat) (v : Int) : Nat := (v % (2 ^ bits : Nat)).toNat

/-- A code of an integer format read as an integer (R231); N8 is unsigned. -/
def readInt (code bits : Nat) : Int :=
  let w := fmtBits code
  let n := bits % 2 ^ w
  if code = 10 then n else if 2 ^ (w - 1) ≤ n then (n : Int) - (2 ^ w : Nat) else n

/-- A conversion into FP4 under `.xv` (R230): code 1000 when the exact input is a BF16 value bit-equal to the extra value. -/
def xvMatches (xv : Nat) (v : Num) : Bool :=
  match v with
  | .nan => false
  | .inf n => (bf16.round 0 (.inf n)).1 == xv % 65536
  | .fin n m e =>
    let r := bf16.round 1 (.fin n m e)
    r.1 == xv % 65536 && r.2 == 0 && (bf16.readPlain r.1).cmp (.fin n m e) == .eq

/-- A value converted to a format code (R234), with its event format. `xvq` is the `.xv` qualifier. Integer results raise
no event. -/
def convertTo (code mode xv : Nat) (xvq : Bool) (v : Num) : FpR :=
  match floatFmt code with
  | some f => if code = 5 && xvq && xvMatches xv v then (8, 0) else f.round mode v
  | none => (intBits (fmtBits code) (v.toIntFmt mode code), 0)

/-- A code of a format code read exactly (R225): floats, integers and N8. -/
def readFmt (code xv bits : Nat) : Num :=
  match floatFmt code with
  | some f => f.read xv bits
  | none => .ofInt (readInt code bits)

/-- The integer square root, bit by bit from bit `k`. -/
def isqrtFrom (n : Nat) : Nat → Nat → Nat
  | 0, r => if (r + 1) * (r + 1) ≤ n then r + 1 else r
  | k + 1, r => isqrtFrom n k (if (r + 2 ^ (k + 1)) * (r + 2 ^ (k + 1)) ≤ n then r + 2 ^ (k + 1) else r)
def isqrt (n : Nat) : Nat := isqrtFrom n (Nat.log2 n / 2 + 1) 0

/-- `rcp` (R284): correctly rounded. -/
def sfuRcp (mode : Nat) (x : Nat) : FpR :=
  match fp32.readPlain x with
  | .nan => (fp32.nan, 0)
  | .inf n => (fp32.signed n 0, 0)
  | .fin n m e =>
    if m = 0 then (fp32.signed n fp32.infBits, evDivZero)
    else
      let k := Nat.log2 m + 70
      fp32.roundMag mode n (2 ^ k / m) (-(k : Int) - e) (2 ^ k % m ≠ 0)

/-- `sqrt` (R284): correctly rounded. -/
def sfuSqrt (mode : Nat) (x : Nat) : FpR :=
  match fp32.readPlain x with
  | .nan => (fp32.nan, 0)
  | .inf n => if n then (fp32.nan, evInvalid) else (fp32.infBits, 0)
  | .fin n m e =>
    if m = 0 then (fp32.signed n 0, 0)
    else if n then (fp32.nan, evInvalid)
    else
      let sh : Nat := if e % 2 = 0 then 100 else 101
      let m' := m * 2 ^ sh
      let r := isqrt m'
      fp32.roundMag mode false r ((e - sh) / 2) (r * r ≠ m')

/-- `rsqrt` (R284): one of the results within 1 ulp, `Config.rsqrtPick` says which. -/
def sfuRsqrt (mode : Nat) (x : Nat) : FpR :=
  match fp32.readPlain x with
  | .nan => (fp32.nan, 0)
  | .inf n => if n then (fp32.nan, evInvalid) else (0, 0)
  | .fin n m e =>
    if m = 0 then (fp32.signed n fp32.infBits, evDivZero)
    else if n then (fp32.nan, evInvalid)
    else
      let m' := if e % 2 = 0 then m else 2 * m
      let e' := if e % 2 = 0 then e else e - 1
      let r := isqrt (2 ^ 160 / m')
      let lo := (fp32.roundMag 1 false r (-80 - e' / 2) (r * r * m' ≠ 2 ^ 160)).1
      let pick := Config.rsqrtPick (BitVec.ofNat 32 x) mode
      (if r * r * m' = 2 ^ 160 then lo - 1 + pick % 3 else lo + pick % 2, 0)

/-- The greatest integer not above a finite value. -/
def floorOf (n : Bool) (m : Nat) (e : Int) : Int :=
  let k : Int := (roundToInt 1 n m e : Nat)
  let exact := (splitAt m e 0 false).2.1 == false
  if n then (if exact then -k else -k - 1) else k

/-! ### Enclosures of the functions of R284

Values are held in units of 2^-160. Each function below is computed with an error far under the bound the spec gives; the result
may be any FP32 value within that bound, and Config says which. -/

/-- log 2 and pi / 2 in units of 2^-160, rounded down. -/
def lnTwo : Nat := 1013035739299659071135698605846798551586536899366
def halfPi : Nat := 2295721403524109460692402599871655564227077512209
def fixMul (a b : Nat) : Nat := a * b / 2 ^ 160

/-- exp a, for a below 1. -/
def expFix (a : Nat) : Nat :=
  ((List.range 44).foldl (fun (acc : Nat × Nat) n => let t := fixMul acc.2 a / (n + 1); (acc.1 + t, t)) (2 ^ 160, 2 ^ 160)).1
/-- sin a and cos a, for a below 2. -/
def sinFix (a : Nat) : Int :=
  ((List.range 24).foldl (fun (acc : Int × Nat) n =>
    let t := fixMul (fixMul acc.2 a) a / ((2 * n + 2) * (2 * n + 3))
    (if n % 2 = 0 then acc.1 - t else acc.1 + t, t)) ((a : Int), a)).1
def cosFix (a : Nat) : Int :=
  ((List.range 24).foldl (fun (acc : Int × Nat) n =>
    let t := fixMul (fixMul acc.2 a) a / ((2 * n + 1) * (2 * n + 2))
    (if n % 2 = 0 then acc.1 - t else acc.1 + t, t)) ((2 : Int) ^ 160, 2 ^ 160)).1
/-- log2 of a value from 1 up to 2. -/
def logFix (v : Nat) : Nat :=
  let z := (v - 2 ^ 160) * 2 ^ 160 / (v + 2 ^ 160)
  let s := ((List.range 52).foldl (fun (acc : Nat × Nat) n => (acc.1 + acc.2 / (2 * n + 1), fixMul (fixMul acc.2 z) z)) (0, z)).1
  2 * s * 2 ^ 160 / lnTwo

/-- FP32 codes in the order of their values, -0 below +0. -/
def ordOf (b : Nat) : Int := if b < 2 ^ 31 then (b : Int) else -((b - 2 ^ 31 : Nat) : Int) - 1
def ofOrd (k : Int) : Nat := if 0 ≤ k then k.toNat else 2 ^ 31 + (-k - 1).toNat

/-- The FP32 value next at or above (at or below) a * 2^-s. -/
def dirRound (up : Bool) (a : Int) (s : Nat) : Nat :=
  if a = 0 then 0 else (fp32.roundMag (if up then 2 else 3) (decide (a < 0)) a.natAbs (-(s : Int)) false).1

/-- The n-th code of a list of ranges. -/
def nthOf : List (Int × Int) → Nat → Int
  | [], _ => 0
  | r :: rs, n => if n < (r.2 - r.1 + 1).toNat then r.1 + (n : Nat) else nthOf rs (n - (r.2 - r.1 + 1).toNat)
/-- A result out of ranges of codes; a tiny one is inexact and counts underflow. -/
def amongst (rs : List (Int × Int)) (pick : Nat) : FpR :=
  let r := ofOrd (nthOf rs (pick % max 1 ((rs.map (fun r => (r.2 - r.1 + 1).toNat)).foldl (· + ·) 0)))
  (r, if r % 2 ^ 31 < 2 ^ 23 then evUnderflow else 0)
/-- A result between two codes. -/
def between (lo hi : Int) (pick : Nat) : FpR := amongst [(lo, hi)] pick

/-- The codes of the values from a to b, in units of 2^-s. -/
def codesIn (a b : Int) (s : Nat) : Int × Int := (ordOf (dirRound true a s), ordOf (dirRound false b s))
/-- A result within `bound` of v, all in units of 2^-s and v known to `err`: what is within it whatever v is there. -/
def within (v : Int) (err bound s pick : Nat) : FpR := amongst [codesIn (v - (bound - err)) (v + (bound - err)) s] pick

/-- The ulp of an FP32 result v, in units of 2^-s. -/
def ulpAt (v : Int) (s : Nat) : Nat := 2 ^ (max ((Nat.log2 v.natAbs : Int) - 23) ((s : Int) - 149)).toNat

/-- A result within `n` ulp of v, the ulp being that of the result: results below the power of two under |v|, those of its own binade, and
those from the power of two above it each by their own; between the last two, codes may be left out (R284). -/
def withinUlps (v : Int) (err n s pick : Nat) : FpR :=
  let a : Int := v.natAbs
  let b := Nat.log2 v.natAbs
  let u : Int := ulpAt v s
  let below : Int := ulpAt (2 ^ b - 1) s
  let above : Int := ulpAt (2 ^ (b + 1)) s
  let lo : Int := if a + err - n * below < 2 ^ b then a + err - n * below else max (2 ^ b) (a + err - n * u)
  let own : Int × Int := (lo, min (2 ^ (b + 1) - 1) (a - err + n * u))
  let next : List (Int × Int) := if 2 ^ (b + 1) ≤ a - err + n * above then [(2 ^ (b + 1), a - err + n * above)] else []
  amongst ((own :: next).map (fun r => if v < 0 then codesIn (-r.2) (-r.1) s else codesIn r.1 r.2 s)) pick

/-- `exp2` (R284): exact at integers where representable, within 1 ulp elsewhere. -/
def sfuExp2 (mode : Nat) (x : Nat) : FpR :=
  match fp32.readPlain x with
  | .nan => (fp32.nan, 0)
  | .inf n => (if n then 0 else fp32.infBits, 0)
  | .fin n m e =>
    if m = 0 then (0x3F800000, 0)
    else
      let k := if decide ((20 : Int) ≤ (Nat.log2 m : Int) + e) then (if n then -400 else 400) else floorOf n m e
      let pick := Config.exp2 (BitVec.ofNat 32 x) mode
      if 128 ≤ k then fp32.roundMag mode false 1 k false
      else if k < -150 then between 0 1 pick
      else if (splitAt m e 0 false).2.1 == false then fp32.roundMag mode false 1 k false
      else
        let a : Int := (m * 2 ^ (e + 160).toNat / 2 ^ (-(e + 160)).toNat : Nat)
        let f := ((if n then -a else a) - k * 2 ^ 160).toNat % 2 ^ 160
        let s := (160 - k).toNat
        let v : Int := expFix (fixMul f lnTwo)
        let r := withinUlps v (2 ^ 20) 1 s pick
        if r.1 < 2 ^ 31 then r else (0, evUnderflow)

/-- `log2` (R284): exactly n at 2^n, within 1 ulp outside [0.5, 2], within 2^-22 inside. -/
def sfuLog2 (mode : Nat) (x : Nat) : FpR :=
  match fp32.readPlain x with
  | .nan => (fp32.nan, 0)
  | .inf n => if n then (fp32.nan, evInvalid) else (fp32.infBits, 0)
  | .fin n m e =>
    if m = 0 then (fp32.signed true fp32.infBits, evDivZero)
    else if n then (fp32.nan, evInvalid)
    else
      let k : Int := (Nat.log2 m : Int) + e
      if m = 2 ^ Nat.log2 m then ((fp32.round mode (.ofInt k)).1, 0)
      else
        let v : Int := k * 2 ^ 160 + (logFix (m * 2 ^ 160 / 2 ^ Nat.log2 m) : Nat)
        if k = 0 || k = -1 then within v (2 ^ 20) (2 ^ 138) 160 (Config.log2 (BitVec.ofNat 32 x) mode)
        else withinUlps v (2 ^ 20) 1 160 (Config.log2 (BitVec.ofNat 32 x) mode)

/-- `sin` and `cos` (R284) of a finite nonzero x: within 2^-22 up to 2^16, beyond that anything in [-1, 1]. -/
def circular (sine n : Bool) (m : Nat) (e : Int) (pick : Nat) : FpR :=
  if decide ((17 : Int) ≤ (Nat.log2 m : Int) + e + 1) && !(m == 2 ^ Nat.log2 m && (Nat.log2 m : Int) + e == 16) then
    between (ordOf 0xBF800000) (ordOf 0x3F800000) pick
  else
    let a := m * 2 ^ (e + 160).toNat / 2 ^ (-(e + 160)).toNat
    let k := a / halfPi
    let r := a - k * halfPi
    let v := match (if sine then k else k + 1) % 4 with
      | 0 => sinFix r | 1 => cosFix r | 2 => -sinFix r | _ => -cosFix r
    within (if sine && n then -v else v) (2 ^ 24) (2 ^ 138) 160 pick

def sfuSin (mode : Nat) (x : Nat) : FpR :=
  match fp32.readPlain x with
  | .nan => (fp32.nan, 0)
  | .inf _ => (fp32.nan, evInvalid)
  | .fin n m e => if m = 0 then (fp32.signed n 0, 0) else circular true n m e (Config.sin (BitVec.ofNat 32 x) mode)

def sfuCos (mode : Nat) (x : Nat) : FpR :=
  match fp32.readPlain x with
  | .nan => (fp32.nan, 0)
  | .inf _ => (fp32.nan, evInvalid)
  | .fin n m e => if m = 0 then (0x3F800000, 0) else circular false n m e (Config.cos (BitVec.ofNat 32 x) mode)

/-- tanh of m * 2^e: in units of 2^-s, and its error. Below 2^-10 a polynomial, above it by the exponential. -/
def tanhFix (m : Nat) (e : Int) : Nat × Nat × Nat :=
  let a := m * 2 ^ (e + 160).toNat / 2 ^ (-(e + 160)).toNat
  if (Nat.log2 m : Int) + e < -10 then
    let q := fixMul a a
    let f := 2 ^ 160 - q / 3 + fixMul q q * 2 / 15 - fixMul (fixMul q q) q * 17 / 315
    (m * f, (160 - e).toNat, m * 2 ^ 76)
  else
    let w := if (Nat.log2 m : Int) + e ≤ 6 then (let k := 2 * a / lnTwo + 1; expFix (k * lnTwo - 2 * a) / 2 ^ k) else 0
    ((2 ^ 160 - w) * 2 ^ 160 / (2 ^ 160 + w), 160, 2 ^ 24)

/-- `tanh` (R284): within 2 ulp. -/
def sfuTanh (mode : Nat) (x : Nat) : FpR :=
  match fp32.readPlain x with
  | .nan => (fp32.nan, 0)
  | .inf n => (fp32.signed n 0x3F800000, 0)
  | .fin n m e =>
    if m = 0 then (fp32.signed n 0, 0)
    else
      let r := tanhFix m e
      let v : Int := r.1
      withinUlps (if n then -v else v) r.2.2 2 r.2.1 (Config.tanh (BitVec.ofNat 32 x) mode)

/-- `fscale` (R275): a * 2^b rounded once. -/
def fscaleBits (mode : Nat) (x : Nat) (b : Int) : FpR :=
  match fp32.readPlain x with
  | .fin n m e => if m = 0 then (x, 0) else fp32.roundMag mode n m (e + b) false
  | .inf _ => (x, 0)
  | .nan => (fp32.nan, 0)

/-- `frnd` (R275): the integral value the mode selects, with the sign of a and no event. -/
def frndBits (mode : Nat) (x : Nat) : Nat :=
  match fp32.readPlain x with
  | .fin n m e =>
    if m = 0 || decide (0 ≤ e) then x
    else
      let k := roundToInt mode n m e
      if k = 0 then fp32.signed n 0 else (fp32.roundMag 1 n k 0 false).1
  | .inf _ => x
  | .nan => fp32.nan

/-- `fclass` (R275): the one-hot class. -/
def fclassBits (x : Nat) : Nat :=
  match fp32.readPlain x with
  | .nan => 256
  | .inf n => if n then 1 else 128
  | .fin n m _ =>
    if m = 0 then (if n then 8 else 16)
    else if m < 2 ^ 23 then (if n then 4 else 32)
    else (if n then 2 else 64)

/-- One term of a chunk sum in the matrix array, truncated toward zero to a multiple of 2^q; whether bits were lost. -/
def truncTerm (q : Int) : Num → Int × Bool
  | .fin n m e =>
    let (v, lost, _) := splitAt m e q false
    (if n then -(v : Int) else v, lost)
  | _ => (0, false)

/-- floor(log2 |t|) of a nonzero finite term. -/
def termTop : Num → Option Int
  | .fin _ m e => if m = 0 then none else some ((Nat.log2 m : Int) + e)
  | _ => none

/-- One chunk of an `mma` sum (R235): the accumulator and the exact products, summed in the fixed way and rounded RNE. A NaN counts
event 0 where none of the chunk's inputs is one (R223, R228). -/
def chunkSum (terms : List Num) (nanIn : Bool) : FpR :=
  if terms.any Num.isNan then (fp32.nan, if nanIn then 0 else evInvalid)
  else if terms.any (· == .inf true) && terms.any (· == .inf false) then (fp32.nan, evInvalid)
  else if terms.any (· == .inf true) then (fp32.signed true fp32.infBits, 0)
  else if terms.any (· == .inf false) then (fp32.infBits, 0)
  else
    match (terms.filterMap termTop) with
    | [] => (fp32.signed (terms.all Num.isNeg) 0, 0)
    | t :: ts =>
      let e := ts.foldl max t
      let parts := terms.map (truncTerm (e - 60))
      let total : Int := parts.foldl (fun a p => a + p.1) 0
      let lost := parts.any (·.2)
      let v : Int := 2 * total + (if lost then total.sign else 0)
      fp32.round 0 (.fin (decide (v < 0)) v.natAbs (e - 61))

/-- The codebook of Q4N (R232), in units of 2^-8... each entry exact: numerator over 2048. -/
def q4nCode : Nat → Int
  | 0 => -2048 | 1 => -1424 | 2 => -1072 | 3 => -808 | 4 => -592 | 5 => -384 | 6 => -192 | 7 => 0
  | 8 => 160 | 9 => 328 | 10 => 512 | 11 => 720 | 12 => 960 | 13 => 1248 | 14 => 1616 | _ => 2048

/-- A Q4N element rounded once (RNE) to a partner format (R232): codebook[q] * S * c / 255. An infinite S gives an infinity or the
largest magnitude, with the sign of S where the other factor is 0 (log 91). -/
def q4nElement (f : FFmt) (q c : Nat) (s : Num) : FpR :=
  match s with
  | .nan => (f.nan, 0)
  | .inf n => f.round 0 (.inf (n != decide (q4nCode q * (c : Int) < 0)))
  | .fin n m e =>
    let cb := q4nCode q * (c : Int)
    let num := cb.natAbs * m
    let neg := n != decide (cb < 0)
    if num = 0 then (f.signed neg 0, 0)
    else
      let full := num * 2 ^ 60
      f.roundMag 0 neg (full / 255) (e - 71) (full % 255 ≠ 0)

end Sys2Proof.Machine
end

