-- ==== Sys2Proof/WellFormed.lean ====
section
/-! DEFINITION. Which instructions are legal by their word alone (R239 to R250, R251): operand values legal in their
context, destinations writable, register groups aligned, selectors and payload values listed. The run boundary bit is not
part of it: a wrong boundary is BAD_RUN at issue (R112), not an illegal encoding. -/

namespace Sys2Proof

/-- A value a vector source field may hold (R239). -/
def vSrc (x : BitVec 7) : Bool := decide (x.toNat ≤ 122)
/-- A value a vector destination field may hold (R239, R242). -/
def vDst (x : BitVec 7) : Bool := decide (x.toNat ≤ 95)
/-- A value a scalar source field may hold (R240). -/
def sSrc (x : BitVec 7) : Bool := decide (x.toNat ≤ 80)
/-- A value a scalar destination field may hold (R240, R242). -/
def sDst (x : BitVec 7) : Bool := decide (x.toNat ≤ 63)
/-- The Bs field of a one-source vector instruction (R241). -/
def oneSrc (x : BitVec 7) : Bool := decide (x.toNat = 0 ∨ x.toNat = 112)
/-- The first register of an aligned pair (R242). -/
def evenReg (x : BitVec 7) : Bool := decide (x.toNat % 2 = 0)
/-- Offset codes of `lshfl` and `lbfly` (R247). -/
def laneOffset (c : BitVec 7) : Bool :=
  decide (c.toNat < 16 ∧ 1 ≤ c.toNat % 8 ∧ c.toNat % 8 ≤ 5 ∨ 64 ≤ c.toNat ∧ 1 ≤ c.toNat % 32)
/-- The width and data registers of `ldg`, `stg`, `ldl`, `stl`, `ldt`, `stt` (R242, R248, R292). A single register of a
store may be any vector source. DEDUCED (log 10): a register group names registers `v0` to `v95` only. -/
def dataGroup (store : Bool) (k : Nat) (d : BitVec 7) : Bool :=
  decide (k ≤ 6) && !(store && decide (k = 1 ∨ k = 3)) &&
  (if k = 5 then vDst d && decide (d.toNat % 2 = 0)
   else if k = 6 then vDst d && decide (d.toNat % 4 = 0)
   else if store then vSrc d else vDst d)
/-- The data registers of `atom` and `atoml` (R242, R248). -/
def atomGroup (k : Nat) (d : BitVec 7) : Bool :=
  vDst d && (if k = 10 ∨ k = 16 then decide (d.toNat % 2 = 0) else if k = 17 then decide (d.toNat % 4 = 0) else true)
/-- The system register numbers of R252. -/
def sysReg (n : BitVec 8) : Bool := decide (n.toNat ≤ 0x0E ∨ 0x10 ≤ n.toNat ∧ n.toNat ≤ 0x13)

/-- Legal by its word (R251). Events of the device have no word. -/
def Instr.wf : Instr → Bool
  | .coldReset => false
  | .orderlyWarmReset => false
  | .forcedWarmReset => false
  | .orderlyResetTimeout => false
  | .retrainComplete => false
  | .operatingPointLower => false
  | .operatingPointRaise => false
  | .thermalShutdown => false
  | .droopTrip => false
  | .targetedSelfTest => false
  | .selfTestForcedWindow => false
  | .selfTestResult => false
  | .repairExport => false
  | .signedImageWrite => false
  | .spdmRequest => false
  | .keyInstall => false
  | .registerWrite => false
  | .memoryRequest => false
  | .channelSchedule => false
  | .promotion => false
  | .memoryRequestComplete => false
  | .victimWriteback => false
  | .perBankRefresh => false
  | .cacheLayerDisable => false
  | .patrolScrub => false
  | .rd => false
  | .wr => false
  | .wrm => false
  | .atomRequest => false
  | .mcw => false
  | .pwr => false
  | .msge => false
  | .msgh => false
  | .fin => false
  | .rsp => false
  | .requestTimeout => false
  | .portFailure => false
  | .flitReceive => false
  | .keyCounterExhausted => false
  | .keyWindowGo => false
  | .keyInstallDone => false
  | .checkpointGo => false
  | .checkpointAbort => false
  | .checkpointDone => false
  | .payloadRead => false
  | .refusedResend => false
  | .cairnCompletion => false
  | .cctlEnSet => false
  | .cctlEnClear => false
  | .bar2Write => false
  | .bar2Read => false
  | .form => false
  | .halt => false
  | .haltDone => false
  | .resume => false
  | .swapOut => false
  | .swapOutDone => false
  | .swapInDone => false
  | .dissolve => false
  | .lqEnable => false
  | .lqDisable => false
  | .writeIndexNotify => false
  | .launchRecordRead => false
  | .graphNodeComplete => false
  | .clusterPlacement => false
  | .reservation => false
  | .launchCompletion => false
  | .groupRetire => false
  | .taskDispatch => false
  | .taskStart => false
  | .taskHaltTimeout => false
  | .deferredEnqueue => false
  | .operationComplete => false
  | .sfuEntryComplete => false
  | .safeTimeout => false
  | .pairReset => false
  | .engineCommandStart => false
  | .engineCommandComplete => false
  | .windowTimeout => false
  | .farCopyInvalidation => false
  | .evictLastDemotion => false
  | .fqres => false
  | .fqr => false
  | .mcgWrite => false
  | .carTimeout => false
  | .cbcTimeout => false
  | .nop _ => true
  | .hintIl _ _ => true
  | .hintIh _ _ => true
  | .hintRnd _ _ _ m => decide (m.toNat ≤ 4)
  | .hintMo _ s o => decide (o.toNat ≤ 4) && decide (s.toNat ≤ 5)
  | .hintCp _ _ _ p => decide (p.toNat ≤ 2)
  | .hintAo _ o => decide (o.toNat ≤ 17)
  | .hintRw _ => true
  | .sadd _ _ d a b => sDst d && sSrc a && sSrc b
  | .ssub _ _ d a b => sDst d && sSrc a && sSrc b
  | .smul _ _ d a b => sDst d && sSrc a && sSrc b
  | .smulh _ _ d a b => sDst d && sSrc a && sSrc b
  | .sand _ _ d a b => sDst d && sSrc a && sSrc b
  | .sor _ _ d a b => sDst d && sSrc a && sSrc b
  | .sxor _ _ d a b => sDst d && sSrc a && sSrc b
  | .sandn _ _ d a b => sDst d && sSrc a && sSrc b
  | .sshl _ _ d a b => sDst d && sSrc a && sSrc b
  | .sshr _ _ d a b => sDst d && sSrc a && sSrc b
  | .ssra _ _ d a b => sDst d && sSrc a && sSrc b
  | .smin _ _ d a b => sDst d && sSrc a && sSrc b
  | .smax _ _ d a b => sDst d && sSrc a && sSrc b
  | .sminu _ _ d a b => sDst d && sSrc a && sSrc b
  | .smaxu _ _ d a b => sDst d && sSrc a && sSrc b
  | .sclz _ _ d a => sDst d && sSrc a
  | .saddi _ _ d a _ => sDst d && sSrc a
  | .sandi _ _ d a _ => sDst d && sSrc a
  | .sori _ _ d a _ => sDst d && sSrc a
  | .sxori _ _ d a _ => sDst d && sSrc a
  | .sshli _ _ d a _ => sDst d && sSrc a
  | .sshri _ _ d a _ => sDst d && sSrc a
  | .ssrai _ _ d a _ => sDst d && sSrc a
  | .sroti _ _ d a _ => sDst d && sSrc a
  | .scmp _ _ d a b c => sDst d && sSrc a && sSrc b && decide (c.toNat ≤ 6)
  | .smov _ _ d a => sDst d && sSrc a
  | .sfromv _ _ d a b => sDst d && vSrc a && sSrc b
  | .ssel _ _ d a b => sDst d && sSrc a && sSrc b
  | .sext _ _ d a b => sDst d && sSrc a && sSrc b
  | .spopc _ _ d a => sDst d && sSrc a
  | .br _ _ => true
  | .call _ _ => true
  | .brc _ c r _ => sSrc r && decide (c.toNat ≤ 5)
  | .brvAny _ _ r _ => vSrc r
  | .brvAll _ _ r _ => vSrc r
  | .jmpr _ r _ => sSrc r
  | .callr _ r _ => sSrc r
  | .ret _ r => sSrc r
  | .jmpf _ r _ => sSrc r
  | .callf _ r _ => sSrc r
  | .loop _ r p => sSrc r && decide (1 ≤ p.toNat) && decide (p.toNat ≤ 16383)
  | .regang _ => true
  | .safe _ _ _ => true
  | .exit _ => true
  | .trap _ _ => true
  | .lbrk _ => true
  | .yield _ => true
  | .emset _ _ => true
  | .emsave _ _ => true
  | .emload _ _ => true
  | .cfetch _ r _ => sSrc r
  | .smovi _ _ d _ => sDst d
  | .vadd _ _ d a b => vDst d && vSrc a && vSrc b
  | .vsub _ _ d a b => vDst d && vSrc a && vSrc b
  | .vmul _ _ d a b => vDst d && vSrc a && vSrc b
  | .vmulh _ _ d a b => vDst d && vSrc a && vSrc b
  | .vmad _ _ d a b => vDst d && vSrc a && vSrc b
  | .vabsd _ _ d a b => vDst d && vSrc a && vSrc b
  | .vmin _ _ d a b => vDst d && vSrc a && vSrc b
  | .vmax _ _ d a b => vDst d && vSrc a && vSrc b
  | .vminu _ _ d a b => vDst d && vSrc a && vSrc b
  | .vmaxu _ _ d a b => vDst d && vSrc a && vSrc b
  | .vand _ _ d a b => vDst d && vSrc a && vSrc b
  | .vor _ _ d a b => vDst d && vSrc a && vSrc b
  | .vxor _ _ d a b => vDst d && vSrc a && vSrc b
  | .vandn _ _ d a b => vDst d && vSrc a && vSrc b
  | .vshl _ _ d a b => vDst d && vSrc a && vSrc b
  | .vshr _ _ d a b => vDst d && vSrc a && vSrc b
  | .vsra _ _ d a b => vDst d && vSrc a && vSrc b
  | .vclz _ _ d a b => vDst d && vSrc a && oneSrc b
  | .vpopc _ _ d a b => vDst d && vSrc a && oneSrc b
  | .vbrev _ _ d a b => vDst d && vSrc a && oneSrc b
  | .vsel _ _ d a b => vDst d && vSrc a && vSrc b
  | .vmov _ _ d a b => vDst d && vSrc a && oneSrc b
  | .vmulhu _ _ d a b => vDst d && vSrc a && vSrc b
  | .vbfe _ _ d a b => vDst d && vSrc a && vSrc b
  | .vaddi _ _ d a _ => vDst d && vSrc a
  | .vandi _ _ d a _ => vDst d && vSrc a
  | .vori _ _ d a _ => vDst d && vSrc a
  | .vxori _ _ d a _ => vDst d && vSrc a
  | .vshli _ _ d a _ => vDst d && vSrc a
  | .vshri _ _ d a _ => vDst d && vSrc a
  | .vsrai _ _ d a _ => vDst d && vSrc a
  | .vroti _ _ d a _ => vDst d && vSrc a
  | .vcmp _ _ d a b c => vDst d && vSrc a && vSrc b && decide (c.toNat ≤ 6)
  | .fadd _ _ d a b => vDst d && vSrc a && vSrc b
  | .fsub _ _ d a b => vDst d && vSrc a && vSrc b
  | .fmul _ _ d a b => vDst d && vSrc a && vSrc b
  | .ffma _ _ d a b => vDst d && vSrc a && vSrc b
  | .fmin _ _ d a b => vDst d && vSrc a && vSrc b
  | .fmax _ _ d a b => vDst d && vSrc a && vSrc b
  | .fabs _ _ d a b => vDst d && vSrc a && oneSrc b
  | .fneg _ _ d a b => vDst d && vSrc a && oneSrc b
  | .fceq _ _ d a b => vDst d && vSrc a && vSrc b
  | .fclt _ _ d a b => vDst d && vSrc a && vSrc b
  | .fcle _ _ d a b => vDst d && vSrc a && vSrc b
  | .fcun _ _ d a b => vDst d && vSrc a && vSrc b
  | .fcpysgn _ _ d a b => vDst d && vSrc a && vSrc b
  | .fclass _ _ d a b => vDst d && vSrc a && oneSrc b
  | .fscale _ _ d a b => vDst d && vSrc a && vSrc b
  | .frnd _ _ d a b => vDst d && vSrc a && oneSrc b
  | .cvt _ _ d a t _ m => vDst d && vSrc a && decide (m.toNat ≤ 4) && decide (t.toNat ≤ 10 ∨ t.toNat = 13) && decide (t.toNat = 13 → d.toNat % 2 = 0)
  | .pk2 _ _ d a b => vDst d && vSrc a && vSrc b
  | .pk4 _ _ d a b => vDst d && vSrc a && vSrc b
  | .pk8 _ _ d a b => vDst d && vSrc a && vSrc b
  | .upk2 _ _ d a b => vDst d && vSrc a && oneSrc b && evenReg d
  | .upk4 _ _ d a b => vDst d && vSrc a && oneSrc b && evenReg d
  | .upk8 _ _ d a b => vDst d && vSrc a && oneSrc b && evenReg d
  | .lshfl _ _ d a o => vDst d && vSrc a && laneOffset o
  | .lbcast _ _ d a b => vDst d && vSrc a && vSrc b
  | .lsum _ _ d a k => vDst d && vSrc a && decide (k.toNat ≤ 2)
  | .lmin _ _ d a k => vDst d && vSrc a && decide (k.toNat ≤ 2)
  | .lmax _ _ d a k => vDst d && vSrc a && decide (k.toNat ≤ 2)
  | .lscan _ _ d a k => vDst d && vSrc a && decide (k.toNat ≤ 2)
  | .lvote _ _ d a => vDst d && vSrc a
  | .lbfly _ _ d a o => vDst d && vSrc a && laneOffset o
  | .rcp _ d a b => vDst d && vSrc a && oneSrc b
  | .rsqrt _ d a b => vDst d && vSrc a && oneSrc b
  | .sqrt _ d a b => vDst d && vSrc a && oneSrc b
  | .exp2 _ d a b => vDst d && vSrc a && oneSrc b
  | .log2 _ d a b => vDst d && vSrc a && oneSrc b
  | .sin _ d a b => vDst d && vSrc a && oneSrc b
  | .cos _ d a b => vDst d && vSrc a && oneSrc b
  | .tanh _ d a b => vDst d && vSrc a && oneSrc b
  | .badd2 _ _ d a b => vDst d && vSrc a && vSrc b
  | .bmul2 _ _ d a b => vDst d && vSrc a && vSrc b
  | .bfma2 _ _ d a b => vDst d && vSrc a && vSrc b
  | .hadd2 _ _ d a b => vDst d && vSrc a && vSrc b
  | .hmul2 _ _ d a b => vDst d && vSrc a && vSrc b
  | .hfma2 _ _ d a b => vDst d && vSrc a && vSrc b
  | .bmax2 _ _ d a b => vDst d && vSrc a && vSrc b
  | .bmin2 _ _ d a b => vDst d && vSrc a && vSrc b
  | .vmovi _ _ d _ => vDst d
  | .tmapAdd _ x y z => sSrc x && sSrc y && sSrc z
  | .tmapMul _ x y z => sSrc x && sSrc y && sSrc z
  | .tmapFma _ x y z => sSrc x && sSrc y && sSrc z
  | .tmapMax _ x y z => sSrc x && sSrc y && sSrc z
  | .tmapCvt _ x y z => sSrc x && sSrc y && sSrc z
  | .tmapCpy _ x y z => sSrc x && sSrc y && sSrc z
  | .itset _ _ a => decide (a.toNat % 8 = 0) && decide (a.toNat ≤ 56)
  | .ldg _ d a _ k => dataGroup false k.toNat d && vSrc a
  | .stg _ d a _ k => dataGroup true k.toNat d && vSrc a
  | .ldl _ d a _ k => dataGroup false k.toNat d && vSrc a
  | .stl _ d a _ k => dataGroup true k.toNat d && vSrc a
  | .ldt _ d a _ k => dataGroup false k.toNat d && vSrc a
  | .stt _ d a _ k => dataGroup true k.toNat d && vSrc a
  | .ldp _ d a s k => vDst d && vSrc a && decide (s.toNat ≤ 62) && decide (1 ≤ k.toNat) && decide (k.toNat ≤ 24)
  | .ldpr _ d a s k => vDst d && vSrc a && decide (s.toNat ≤ 62) && decide (1 ≤ k.toNat) && decide (k.toNat ≤ 24)
  | .stp _ d a s k => vSrc d && vSrc a && decide (s.toNat ≤ 62) && decide (1 ≤ k.toNat) && decide (k.toNat ≤ 24)
  | .atom _ d a _ k => decide (k.toNat ≤ 17) && atomGroup k.toNat d && vSrc a
  | .atoml _ d a _ k => decide (k.toNat ≤ 15) && atomGroup k.toNat d && vSrc a
  | .rld _ d a _ _ => vDst d && vSrc a
  | .rst _ d a _ _ => vSrc d && vSrc a
  | .ratom _ d a _ _ => vDst d && vSrc a
  | .fence _ s o => decide (o.toNat ≤ 4) && decide (s.toNat ≤ 5)
  | .waitc _ _ p => decide (p.toNat ≤ 6)
  | .bar _ => true
  | .barc _ => true
  | .cvpF32 _ _ d a => vDst d && vSrc a
  | .cvpF32m _ _ d a => vDst d && vSrc a
  | .cvpBf _ _ d a => vDst d && vSrc a
  | .cvpBfm _ _ d a => vDst d && vSrc a
  | .ptrd _ _ d a => sDst d && vSrc a
  | .ptwr _ d a => vDst d && sSrc a
  | .cpf2 _ a _ => vSrc a
  | .cpf1 _ a _ => vSrc a
  | .cef _ a _ => vSrc a
  | .cel _ a _ => vSrc a
  | .cnm _ a _ => vSrc a
  | .ctrim _ t a _ => vSrc a && decide (t.toNat ≤ 24)
  | .cinv _ a _ => vSrc a
  | .cwb _ a _ => vSrc a
  | .cpyin _ x y z => sSrc x && sSrc y && decide (z.toNat % 8 = 0)
  | .cpyout _ x y z => sSrc x && sSrc y && decide (z.toNat % 8 = 0)
  | .cpyp _ x y z => sSrc x && sSrc y && decide (z.toNat % 8 = 0)
  | .gath _ x y z => sSrc x && sSrc y && decide (z.toNat % 8 = 0)
  | .scat _ x y z => sSrc x && sSrc y && decide (z.toNat % 8 = 0)
  | .cpyc _ x y z => sSrc x && sSrc y && decide (z.toNat % 8 = 0)
  | .cpyr _ x y z => sSrc x && sSrc y && decide (z.toNat % 8 = 0)
  | .tbinit _ _ => true
  | .tbarr _ a _ => sSrc a
  | .tbexp _ a _ => sSrc a
  | .tbwait _ a _ => sSrc a
  | .tbtest _ d a _ => evenReg d && decide (d.toNat ≤ 62) && sSrc a
  | .mma _ f x y _ => sSrc x && sSrc y && decide (f.toNat ≤ 9)
  | .mdr _ f x y z => sSrc x && sSrc y && decide (f.toNat ≤ 8) && decide (16 ≤ z.toNat → f.toNat = 7)
  | .wbl _ f x y p => sSrc x && sSrc y && decide (f.toNat ≤ 7) && decide (p = true → 6 ≤ f.toNat)
  | .ttr _ x y => sSrc x && sSrc y
  | .tscale _ x y => sSrc x && sSrc y
  | .tzero _ x y => sSrc x && sSrc y
  | .tzeroAcc _ x y _ => sSrc x && sSrc y
  | .tcvt _ x y => sSrc x && sSrc y
  | .tadd _ x y => sSrc x && sSrc y
  | .tmov _ x y => sSrc x && sSrc y
  | .pqry _ x y _ => sSrc x && sSrc y
  | .pdot _ x y _ => sSrc x && sSrc y
  | .pdotr _ x y _ => sSrc x && sSrc y
  | .pbnd _ x y _ => sSrc x && sSrc y
  | .selk _ x y => sSrc x && sSrc y
  | .selkx _ x y => sSrc x && sSrc y
  | .psel _ x y => sSrc x && sSrc y
  | .lmerge _ x y => sSrc x && sSrc y
  | .lsort _ x y _ => sSrc x && sSrc y
  | .ssrch _ x y _ k => sSrc x && sSrc y && decide (k.toNat ≤ 2)
  | .tspawn _ d a b => sDst d && decide (a.toNat % 8 = 0) && decide (a.toNat ≤ 56) && sSrc b
  | .sdec _ d a => sDst d && sSrc a
  | .tqry _ d a => sDst d && sSrc a
  | .fres _ d a b => sDst d && sSrc a && sSrc b
  | .freg _ d a b => sDst d && sSrc a && sSrc b
  | .fget _ d a b => sDst d && sSrc a && sSrc b && evenReg d
  | .msend _ d a => sDst d && decide (a.toNat % 8 = 0) && decide (a.toNat ≤ 56)
  | .mpost _ d a => sDst d && sSrc a
  | .mprobe _ d a => sDst d && evenReg d && sSrc a
  | .mcancel _ d a => sDst d && sSrc a
  | .mtest _ d a => sDst d && sSrc a
  | .mpostRa _ d a => sDst d && sSrc a
  | .car _ d a b => sDst d && sSrc a && sSrc b
  | .cbc _ d a b => sDst d && sSrc a && sSrc b
  | .cbar _ d a => sDst d && sSrc a
  | .rgive _ k => decide (1 ≤ k.toNat) && decide (k.toNat ≤ 11)
  | .rclaim _ _ d k => sDst d && decide (1 ≤ k.toNat) && decide (k.toNat ≤ 11)
  | .rcnt _ _ d => sDst d
  | .rdsr _ d n => sDst d && sysReg n
  | .wrsr _ a n => sSrc a && sysReg n
  | .sret _ => true
  | .rwld _ a b => sSrc a && sSrc b
  | .rwctl _ _ => true
  | .tinv _ a b => sSrc a && sSrc b
  | .kvapp _ a v _ => sSrc a && decide (v.toNat % 8 = 0) && decide (v.toNat + 16 ≤ 96)
  | .orderlyWritebackEnd => false
  | .droopRecovery => false
  | .configurationRequest => false
  | .portRetrainComplete => false

end Sys2Proof
end

