-- ==== Sys2Proof/Decode.lean ====
section
/-! DEFINITION. The decoder: total on any bytes, one word per 4 B, little-endian (R238), and every word an instruction or
rejected by name (R251); and the encoder, written from the same formats. -/

namespace Sys2Proof

/-- Why a word is no instruction (R251). Every one of these traps ILLEGAL_ENCODING with TRX the word. -/
inductive DecodeError where
  /-- The bytes are fewer than one word. -/
  | shortFetch
  /-- The major, fn, kind, cond or selector is not listed, or a bit marked 0 is not 0 (R243 to R250). -/
  | unlisted (w : Word)
  /-- An operand value, destination, register group, format, mode, order, scope, path or k is illegal (R239 to R250). -/
  | illegalField (w : Word)
  deriving DecidableEq, Repr

/-- Bits [lo + len - 1 : lo] of a word, as a number. -/
def bitsAt (w : Word) (lo len : Nat) : Nat := w.toNat / 2 ^ lo % 2 ^ len
/-- Bits [lo + len - 1 : lo] of a word. -/
def field (w : Word) (lo len : Nat) : BitVec len := BitVec.ofNat len (bitsAt w lo len)
/-- One bit of a word. -/
def bitAt (w : Word) (lo : Nat) : Bool := decide (bitsAt w lo 1 = 1)
/-- An instruction that is legal only if some bits, marked 0 or fixed, hold a value (R238). -/
def fixedAt (w : Word) (lo len v : Nat) (i : Instr) : Option Instr := if bitsAt w lo len = v then some i else none

/-- Major 0x00 (R245). -/
def decodeMajor00 (w : Word) : Option Instr :=
  match bitsAt w 21 4 with
  | 0 => fixedAt w 0 21 0 (.nop (bitAt w 31))
  | 1 => some (.hintIl (bitAt w 31) (field w 0 21))
  | 2 => fixedAt w 11 10 0 (.hintIh (bitAt w 31) (field w 0 11))
  | 3 => fixedAt w 6 15 0 (.hintRnd (bitAt w 31) (bitAt w 5) (field w 3 2) (field w 0 3))
  | 4 => fixedAt w 6 15 0 (.hintMo (bitAt w 31) (field w 3 3) (field w 0 3))
  | 5 => fixedAt w 20 1 0 (.hintCp (bitAt w 31) (field w 4 16) (field w 2 2) (field w 0 2))
  | 6 => fixedAt w 5 16 0 (.hintAo (bitAt w 31) (field w 0 5))
  | 7 => fixedAt w 0 21 0 (.hintRw (bitAt w 31))
  | _ => none

/-- Major 0x01 (R245). -/
def decodeMajor01 (w : Word) : Option Instr :=
  match bitsAt w 0 3 with
  | 0 => some (.sadd (bitAt w 31) (bitAt w 24) (field w 17 7) (field w 10 7) (field w 3 7))
  | 1 => some (.ssub (bitAt w 31) (bitAt w 24) (field w 17 7) (field w 10 7) (field w 3 7))
  | 2 => some (.smul (bitAt w 31) (bitAt w 24) (field w 17 7) (field w 10 7) (field w 3 7))
  | 3 => some (.smulh (bitAt w 31) (bitAt w 24) (field w 17 7) (field w 10 7) (field w 3 7))
  | 4 => some (.sand (bitAt w 31) (bitAt w 24) (field w 17 7) (field w 10 7) (field w 3 7))
  | 5 => some (.sor (bitAt w 31) (bitAt w 24) (field w 17 7) (field w 10 7) (field w 3 7))
  | 6 => some (.sxor (bitAt w 31) (bitAt w 24) (field w 17 7) (field w 10 7) (field w 3 7))
  | _ => some (.sandn (bitAt w 31) (bitAt w 24) (field w 17 7) (field w 10 7) (field w 3 7))

/-- Major 0x02 (R245). -/
def decodeMajor02 (w : Word) : Option Instr :=
  match bitsAt w 0 3 with
  | 0 => some (.sshl (bitAt w 31) (bitAt w 24) (field w 17 7) (field w 10 7) (field w 3 7))
  | 1 => some (.sshr (bitAt w 31) (bitAt w 24) (field w 17 7) (field w 10 7) (field w 3 7))
  | 2 => some (.ssra (bitAt w 31) (bitAt w 24) (field w 17 7) (field w 10 7) (field w 3 7))
  | 3 => some (.smin (bitAt w 31) (bitAt w 24) (field w 17 7) (field w 10 7) (field w 3 7))
  | 4 => some (.smax (bitAt w 31) (bitAt w 24) (field w 17 7) (field w 10 7) (field w 3 7))
  | 5 => some (.sminu (bitAt w 31) (bitAt w 24) (field w 17 7) (field w 10 7) (field w 3 7))
  | 6 => some (.smaxu (bitAt w 31) (bitAt w 24) (field w 17 7) (field w 10 7) (field w 3 7))
  | _ => fixedAt w 3 7 0 (.sclz (bitAt w 31) (bitAt w 24) (field w 17 7) (field w 10 7))

/-- Major 0x03 (R245). -/
def decodeMajor03 (w : Word) : Option Instr :=
  some (.saddi (bitAt w 31) (bitAt w 24) (field w 17 7) (field w 10 7) (field w 0 10))

/-- Major 0x04 (R245). -/
def decodeMajor04 (w : Word) : Option Instr :=
  match bitsAt w 8 2 with
  | 0 => some (.sandi (bitAt w 31) (bitAt w 24) (field w 17 7) (field w 10 7) (field w 0 8))
  | 1 => some (.sori (bitAt w 31) (bitAt w 24) (field w 17 7) (field w 10 7) (field w 0 8))
  | 2 => some (.sxori (bitAt w 31) (bitAt w 24) (field w 17 7) (field w 10 7) (field w 0 8))
  | _ => none

/-- Major 0x05 (R245). -/
def decodeMajor05 (w : Word) : Option Instr :=
  match bitsAt w 8 2 with
  | 0 => fixedAt w 6 2 0 (.sshli (bitAt w 31) (bitAt w 24) (field w 17 7) (field w 10 7) (field w 0 6))
  | 1 => fixedAt w 6 2 0 (.sshri (bitAt w 31) (bitAt w 24) (field w 17 7) (field w 10 7) (field w 0 6))
  | 2 => fixedAt w 6 2 0 (.ssrai (bitAt w 31) (bitAt w 24) (field w 17 7) (field w 10 7) (field w 0 6))
  | _ => fixedAt w 6 2 0 (.sroti (bitAt w 31) (bitAt w 24) (field w 17 7) (field w 10 7) (field w 0 6))

/-- Major 0x06 (R245). -/
def decodeMajor06 (w : Word) : Option Instr :=
  some (.scmp (bitAt w 31) (bitAt w 24) (field w 17 7) (field w 10 7) (field w 3 7) (field w 0 3))

/-- Major 0x07 (R245). -/
def decodeMajor07 (w : Word) : Option Instr :=
  match bitsAt w 0 3 with
  | 0 => fixedAt w 3 7 0 (.smov (bitAt w 31) (bitAt w 24) (field w 17 7) (field w 10 7))
  | 1 => some (.sfromv (bitAt w 31) (bitAt w 24) (field w 17 7) (field w 10 7) (field w 3 7))
  | 2 => some (.ssel (bitAt w 31) (bitAt w 24) (field w 17 7) (field w 10 7) (field w 3 7))
  | 3 => some (.sext (bitAt w 31) (bitAt w 24) (field w 17 7) (field w 10 7) (field w 3 7))
  | 4 => fixedAt w 3 7 0 (.spopc (bitAt w 31) (bitAt w 24) (field w 17 7) (field w 10 7))
  | _ => none

/-- Major 0x08 (R245). -/
def decodeMajor08 (w : Word) : Option Instr :=
  match bitsAt w 21 4 with
  | 0 => some (.br (bitAt w 31) (field w 0 21))
  | 1 => some (.call (bitAt w 31) (field w 0 21))
  | _ => none

/-- Major 0x09 (R245). -/
def decodeMajor09 (w : Word) : Option Instr :=
  some (.brc (bitAt w 31) (field w 22 3) (field w 15 7) (field w 0 15))

/-- Major 0x0A (R245). -/
def decodeMajor0A (w : Word) : Option Instr :=
  match bitsAt w 24 1 with
  | 0 => some (.brvAny (bitAt w 31) (field w 22 2) (field w 15 7) (field w 0 15))
  | _ => some (.brvAll (bitAt w 31) (field w 22 2) (field w 15 7) (field w 0 15))

/-- Major 0x0B (R245). -/
def decodeMajor0B (w : Word) : Option Instr :=
  match bitsAt w 22 3 with
  | 0 => some (.jmpr (bitAt w 31) (field w 15 7) (field w 0 15))
  | 1 => some (.callr (bitAt w 31) (field w 15 7) (field w 0 15))
  | 2 => fixedAt w 0 15 0 (.ret (bitAt w 31) (field w 15 7))
  | 3 => some (.jmpf (bitAt w 31) (field w 15 7) (field w 0 15))
  | 4 => some (.callf (bitAt w 31) (field w 15 7) (field w 0 15))
  | _ => none

/-- Major 0x0C (R245). -/
def decodeMajor0C (w : Word) : Option Instr :=
  match bitsAt w 22 3 with
  | 0 => some (.loop (bitAt w 31) (field w 15 7) (field w 0 15))
  | _ => none

/-- Major 0x0D (R245). -/
def decodeMajor0D (w : Word) : Option Instr :=
  match bitsAt w 20 5 with
  | 0 => fixedAt w 0 20 0 (.regang (bitAt w 31))
  | 1 => some (.safe (bitAt w 31) (field w 12 8) (field w 0 12))
  | 2 => fixedAt w 0 20 0 (.exit (bitAt w 31))
  | 3 => some (.trap (bitAt w 31) (field w 0 20))
  | 4 => fixedAt w 0 20 0 (.lbrk (bitAt w 31))
  | 5 => fixedAt w 0 20 0 (.yield (bitAt w 31))
  | 6 => fixedAt w 2 18 0 (.emset (bitAt w 31) (field w 0 2))
  | 7 => fixedAt w 2 18 0 (.emsave (bitAt w 31) (field w 0 2))
  | 8 => fixedAt w 2 18 0 (.emload (bitAt w 31) (field w 0 2))
  | _ => none

/-- Major 0x0E (R245). -/
def decodeMajor0E (w : Word) : Option Instr :=
  match bitsAt w 22 3 with
  | 0 => some (.cfetch (bitAt w 31) (field w 15 7) (field w 0 15))
  | _ => none

/-- Major 0x0F (R245). -/
def decodeMajor0F (w : Word) : Option Instr :=
  some (.smovi (bitAt w 31) (bitAt w 24) (field w 17 7) (field w 0 17))

/-- Major 0x10 (R247). -/
def decodeMajor10 (w : Word) : Option Instr :=
  match bitsAt w 0 3 with
  | 0 => some (.vadd (bitAt w 31) (bitAt w 24) (field w 17 7) (field w 10 7) (field w 3 7))
  | 1 => some (.vsub (bitAt w 31) (bitAt w 24) (field w 17 7) (field w 10 7) (field w 3 7))
  | 2 => some (.vmul (bitAt w 31) (bitAt w 24) (field w 17 7) (field w 10 7) (field w 3 7))
  | 3 => some (.vmulh (bitAt w 31) (bitAt w 24) (field w 17 7) (field w 10 7) (field w 3 7))
  | 4 => some (.vmad (bitAt w 31) (bitAt w 24) (field w 17 7) (field w 10 7) (field w 3 7))
  | 5 => some (.vabsd (bitAt w 31) (bitAt w 24) (field w 17 7) (field w 10 7) (field w 3 7))
  | 6 => some (.vmin (bitAt w 31) (bitAt w 24) (field w 17 7) (field w 10 7) (field w 3 7))
  | _ => some (.vmax (bitAt w 31) (bitAt w 24) (field w 17 7) (field w 10 7) (field w 3 7))

/-- Major 0x11 (R247). -/
def decodeMajor11 (w : Word) : Option Instr :=
  match bitsAt w 0 3 with
  | 0 => some (.vminu (bitAt w 31) (bitAt w 24) (field w 17 7) (field w 10 7) (field w 3 7))
  | 1 => some (.vmaxu (bitAt w 31) (bitAt w 24) (field w 17 7) (field w 10 7) (field w 3 7))
  | 2 => some (.vand (bitAt w 31) (bitAt w 24) (field w 17 7) (field w 10 7) (field w 3 7))
  | 3 => some (.vor (bitAt w 31) (bitAt w 24) (field w 17 7) (field w 10 7) (field w 3 7))
  | 4 => some (.vxor (bitAt w 31) (bitAt w 24) (field w 17 7) (field w 10 7) (field w 3 7))
  | 5 => some (.vandn (bitAt w 31) (bitAt w 24) (field w 17 7) (field w 10 7) (field w 3 7))
  | 6 => some (.vshl (bitAt w 31) (bitAt w 24) (field w 17 7) (field w 10 7) (field w 3 7))
  | _ => some (.vshr (bitAt w 31) (bitAt w 24) (field w 17 7) (field w 10 7) (field w 3 7))

/-- Major 0x12 (R247). -/
def decodeMajor12 (w : Word) : Option Instr :=
  match bitsAt w 0 3 with
  | 0 => some (.vsra (bitAt w 31) (bitAt w 24) (field w 17 7) (field w 10 7) (field w 3 7))
  | 1 => some (.vclz (bitAt w 31) (bitAt w 24) (field w 17 7) (field w 10 7) (field w 3 7))
  | 2 => some (.vpopc (bitAt w 31) (bitAt w 24) (field w 17 7) (field w 10 7) (field w 3 7))
  | 3 => some (.vbrev (bitAt w 31) (bitAt w 24) (field w 17 7) (field w 10 7) (field w 3 7))
  | 4 => some (.vsel (bitAt w 31) (bitAt w 24) (field w 17 7) (field w 10 7) (field w 3 7))
  | 5 => some (.vmov (bitAt w 31) (bitAt w 24) (field w 17 7) (field w 10 7) (field w 3 7))
  | 6 => some (.vmulhu (bitAt w 31) (bitAt w 24) (field w 17 7) (field w 10 7) (field w 3 7))
  | _ => some (.vbfe (bitAt w 31) (bitAt w 24) (field w 17 7) (field w 10 7) (field w 3 7))

/-- Major 0x13 (R247). -/
def decodeMajor13 (w : Word) : Option Instr :=
  some (.vaddi (bitAt w 31) (bitAt w 24) (field w 17 7) (field w 10 7) (field w 0 10))

/-- Major 0x14 (R247). -/
def decodeMajor14 (w : Word) : Option Instr :=
  match bitsAt w 8 2 with
  | 0 => some (.vandi (bitAt w 31) (bitAt w 24) (field w 17 7) (field w 10 7) (field w 0 8))
  | 1 => some (.vori (bitAt w 31) (bitAt w 24) (field w 17 7) (field w 10 7) (field w 0 8))
  | 2 => some (.vxori (bitAt w 31) (bitAt w 24) (field w 17 7) (field w 10 7) (field w 0 8))
  | _ => none

/-- Major 0x15 (R247). -/
def decodeMajor15 (w : Word) : Option Instr :=
  match bitsAt w 8 2 with
  | 0 => fixedAt w 5 3 0 (.vshli (bitAt w 31) (bitAt w 24) (field w 17 7) (field w 10 7) (field w 0 5))
  | 1 => fixedAt w 5 3 0 (.vshri (bitAt w 31) (bitAt w 24) (field w 17 7) (field w 10 7) (field w 0 5))
  | 2 => fixedAt w 5 3 0 (.vsrai (bitAt w 31) (bitAt w 24) (field w 17 7) (field w 10 7) (field w 0 5))
  | _ => fixedAt w 5 3 0 (.vroti (bitAt w 31) (bitAt w 24) (field w 17 7) (field w 10 7) (field w 0 5))

/-- Major 0x16 (R247). -/
def decodeMajor16 (w : Word) : Option Instr :=
  some (.vcmp (bitAt w 31) (bitAt w 24) (field w 17 7) (field w 10 7) (field w 3 7) (field w 0 3))

/-- Major 0x17 (R247). -/
def decodeMajor17 (w : Word) : Option Instr :=
  match bitsAt w 0 3 with
  | 0 => some (.fadd (bitAt w 31) (bitAt w 24) (field w 17 7) (field w 10 7) (field w 3 7))
  | 1 => some (.fsub (bitAt w 31) (bitAt w 24) (field w 17 7) (field w 10 7) (field w 3 7))
  | 2 => some (.fmul (bitAt w 31) (bitAt w 24) (field w 17 7) (field w 10 7) (field w 3 7))
  | 3 => some (.ffma (bitAt w 31) (bitAt w 24) (field w 17 7) (field w 10 7) (field w 3 7))
  | 4 => some (.fmin (bitAt w 31) (bitAt w 24) (field w 17 7) (field w 10 7) (field w 3 7))
  | 5 => some (.fmax (bitAt w 31) (bitAt w 24) (field w 17 7) (field w 10 7) (field w 3 7))
  | 6 => some (.fabs (bitAt w 31) (bitAt w 24) (field w 17 7) (field w 10 7) (field w 3 7))
  | _ => some (.fneg (bitAt w 31) (bitAt w 24) (field w 17 7) (field w 10 7) (field w 3 7))

/-- Major 0x18 (R247). -/
def decodeMajor18 (w : Word) : Option Instr :=
  match bitsAt w 0 3 with
  | 0 => some (.fceq (bitAt w 31) (bitAt w 24) (field w 17 7) (field w 10 7) (field w 3 7))
  | 1 => some (.fclt (bitAt w 31) (bitAt w 24) (field w 17 7) (field w 10 7) (field w 3 7))
  | 2 => some (.fcle (bitAt w 31) (bitAt w 24) (field w 17 7) (field w 10 7) (field w 3 7))
  | 3 => some (.fcun (bitAt w 31) (bitAt w 24) (field w 17 7) (field w 10 7) (field w 3 7))
  | 4 => some (.fcpysgn (bitAt w 31) (bitAt w 24) (field w 17 7) (field w 10 7) (field w 3 7))
  | 5 => some (.fclass (bitAt w 31) (bitAt w 24) (field w 17 7) (field w 10 7) (field w 3 7))
  | 6 => some (.fscale (bitAt w 31) (bitAt w 24) (field w 17 7) (field w 10 7) (field w 3 7))
  | _ => some (.frnd (bitAt w 31) (bitAt w 24) (field w 17 7) (field w 10 7) (field w 3 7))

/-- Major 0x19 (R247). -/
def decodeMajor19 (w : Word) : Option Instr :=
  some (.cvt (bitAt w 31) (bitAt w 24) (field w 17 7) (field w 10 7) (field w 6 4) (field w 3 3) (field w 0 3))

/-- Major 0x1A (R247). -/
def decodeMajor1A (w : Word) : Option Instr :=
  match bitsAt w 0 3 with
  | 0 => some (.pk2 (bitAt w 31) (bitAt w 24) (field w 17 7) (field w 10 7) (field w 3 7))
  | 1 => some (.pk4 (bitAt w 31) (bitAt w 24) (field w 17 7) (field w 10 7) (field w 3 7))
  | 2 => some (.pk8 (bitAt w 31) (bitAt w 24) (field w 17 7) (field w 10 7) (field w 3 7))
  | 3 => some (.upk2 (bitAt w 31) (bitAt w 24) (field w 17 7) (field w 10 7) (field w 3 7))
  | 4 => some (.upk4 (bitAt w 31) (bitAt w 24) (field w 17 7) (field w 10 7) (field w 3 7))
  | 5 => some (.upk8 (bitAt w 31) (bitAt w 24) (field w 17 7) (field w 10 7) (field w 3 7))
  | _ => none

/-- Major 0x1B (R247). -/
def decodeMajor1B (w : Word) : Option Instr :=
  match bitsAt w 0 3 with
  | 0 => some (.lshfl (bitAt w 31) (bitAt w 24) (field w 17 7) (field w 10 7) (field w 3 7))
  | 1 => some (.lbcast (bitAt w 31) (bitAt w 24) (field w 17 7) (field w 10 7) (field w 3 7))
  | 2 => some (.lsum (bitAt w 31) (bitAt w 24) (field w 17 7) (field w 10 7) (field w 3 7))
  | 3 => some (.lmin (bitAt w 31) (bitAt w 24) (field w 17 7) (field w 10 7) (field w 3 7))
  | 4 => some (.lmax (bitAt w 31) (bitAt w 24) (field w 17 7) (field w 10 7) (field w 3 7))
  | 5 => some (.lscan (bitAt w 31) (bitAt w 24) (field w 17 7) (field w 10 7) (field w 3 7))
  | 6 => fixedAt w 3 7 112 (.lvote (bitAt w 31) (bitAt w 24) (field w 17 7) (field w 10 7))
  | _ => some (.lbfly (bitAt w 31) (bitAt w 24) (field w 17 7) (field w 10 7) (field w 3 7))

/-- Major 0x1C (R247). -/
def decodeMajor1C (w : Word) : Option Instr :=
  match bitsAt w 0 3 with
  | 0 => fixedAt w 24 1 0 (.rcp (bitAt w 31) (field w 17 7) (field w 10 7) (field w 3 7))
  | 1 => fixedAt w 24 1 0 (.rsqrt (bitAt w 31) (field w 17 7) (field w 10 7) (field w 3 7))
  | 2 => fixedAt w 24 1 0 (.sqrt (bitAt w 31) (field w 17 7) (field w 10 7) (field w 3 7))
  | 3 => fixedAt w 24 1 0 (.exp2 (bitAt w 31) (field w 17 7) (field w 10 7) (field w 3 7))
  | 4 => fixedAt w 24 1 0 (.log2 (bitAt w 31) (field w 17 7) (field w 10 7) (field w 3 7))
  | 5 => fixedAt w 24 1 0 (.sin (bitAt w 31) (field w 17 7) (field w 10 7) (field w 3 7))
  | 6 => fixedAt w 24 1 0 (.cos (bitAt w 31) (field w 17 7) (field w 10 7) (field w 3 7))
  | _ => fixedAt w 24 1 0 (.tanh (bitAt w 31) (field w 17 7) (field w 10 7) (field w 3 7))

/-- Major 0x1D (R247). -/
def decodeMajor1D (w : Word) : Option Instr :=
  match bitsAt w 0 3 with
  | 0 => some (.badd2 (bitAt w 31) (bitAt w 24) (field w 17 7) (field w 10 7) (field w 3 7))
  | 1 => some (.bmul2 (bitAt w 31) (bitAt w 24) (field w 17 7) (field w 10 7) (field w 3 7))
  | 2 => some (.bfma2 (bitAt w 31) (bitAt w 24) (field w 17 7) (field w 10 7) (field w 3 7))
  | 3 => some (.hadd2 (bitAt w 31) (bitAt w 24) (field w 17 7) (field w 10 7) (field w 3 7))
  | 4 => some (.hmul2 (bitAt w 31) (bitAt w 24) (field w 17 7) (field w 10 7) (field w 3 7))
  | 5 => some (.hfma2 (bitAt w 31) (bitAt w 24) (field w 17 7) (field w 10 7) (field w 3 7))
  | 6 => some (.bmax2 (bitAt w 31) (bitAt w 24) (field w 17 7) (field w 10 7) (field w 3 7))
  | _ => some (.bmin2 (bitAt w 31) (bitAt w 24) (field w 17 7) (field w 10 7) (field w 3 7))

/-- Major 0x1E (R247). -/
def decodeMajor1E (w : Word) : Option Instr :=
  some (.vmovi (bitAt w 31) (bitAt w 24) (field w 17 7) (field w 0 17))

/-- Major 0x1F (R247). -/
def decodeMajor1F (w : Word) : Option Instr :=
  match bitsAt w 0 3 with
  | 0 => fixedAt w 24 1 0 (.tmapAdd (bitAt w 31) (field w 17 7) (field w 10 7) (field w 3 7))
  | 1 => fixedAt w 24 1 0 (.tmapMul (bitAt w 31) (field w 17 7) (field w 10 7) (field w 3 7))
  | 2 => fixedAt w 24 1 0 (.tmapFma (bitAt w 31) (field w 17 7) (field w 10 7) (field w 3 7))
  | 3 => fixedAt w 24 1 0 (.tmapMax (bitAt w 31) (field w 17 7) (field w 10 7) (field w 3 7))
  | 4 => fixedAt w 24 1 0 (.tmapCvt (bitAt w 31) (field w 17 7) (field w 10 7) (field w 3 7))
  | 5 => fixedAt w 24 1 0 (.tmapCpy (bitAt w 31) (field w 17 7) (field w 10 7) (field w 3 7))
  | 6 => if bitsAt w 3 7 = 0 ∧ bitsAt w 19 6 = 0 then some (.itset (bitAt w 31) (field w 17 2) (field w 10 7)) else none
  | _ => none

/-- Major 0x20 (R248). -/
def decodeMajor20 (w : Word) : Option Instr :=
  some (.ldg (bitAt w 31) (field w 18 7) (field w 11 7) (field w 5 6) (field w 0 5))

/-- Major 0x21 (R248). -/
def decodeMajor21 (w : Word) : Option Instr :=
  some (.stg (bitAt w 31) (field w 18 7) (field w 11 7) (field w 5 6) (field w 0 5))

/-- Major 0x22 (R248). -/
def decodeMajor22 (w : Word) : Option Instr :=
  some (.ldl (bitAt w 31) (field w 18 7) (field w 11 7) (field w 5 6) (field w 0 5))

/-- Major 0x23 (R248). -/
def decodeMajor23 (w : Word) : Option Instr :=
  some (.stl (bitAt w 31) (field w 18 7) (field w 11 7) (field w 5 6) (field w 0 5))

/-- Major 0x24 (R248). -/
def decodeMajor24 (w : Word) : Option Instr :=
  match bitsAt w 4 1 with
  | 0 => some (.ldt (bitAt w 31) (field w 18 7) (field w 11 7) (field w 5 6) (field w 0 4))
  | _ => some (.stt (bitAt w 31) (field w 18 7) (field w 11 7) (field w 5 6) (field w 0 4))

/-- Major 0x25 (R248). -/
def decodeMajor25 (w : Word) : Option Instr :=
  some (.ldp (bitAt w 31) (field w 18 7) (field w 11 7) (field w 5 6) (field w 0 5))

/-- Major 0x26 (R248). -/
def decodeMajor26 (w : Word) : Option Instr :=
  some (.ldpr (bitAt w 31) (field w 18 7) (field w 11 7) (field w 5 6) (field w 0 5))

/-- Major 0x27 (R248). -/
def decodeMajor27 (w : Word) : Option Instr :=
  some (.stp (bitAt w 31) (field w 18 7) (field w 11 7) (field w 5 6) (field w 0 5))

/-- Major 0x28 (R248). -/
def decodeMajor28 (w : Word) : Option Instr :=
  some (.atom (bitAt w 31) (field w 18 7) (field w 11 7) (field w 5 6) (field w 0 5))

/-- Major 0x29 (R248). -/
def decodeMajor29 (w : Word) : Option Instr :=
  some (.atoml (bitAt w 31) (field w 18 7) (field w 11 7) (field w 5 6) (field w 0 5))

/-- Major 0x2A (R248). -/
def decodeMajor2A (w : Word) : Option Instr :=
  some (.rld (bitAt w 31) (field w 18 7) (field w 11 7) (field w 5 6) (field w 0 5))

/-- Major 0x2B (R248). -/
def decodeMajor2B (w : Word) : Option Instr :=
  some (.rst (bitAt w 31) (field w 18 7) (field w 11 7) (field w 5 6) (field w 0 5))

/-- Major 0x2C (R248). -/
def decodeMajor2C (w : Word) : Option Instr :=
  some (.ratom (bitAt w 31) (field w 18 7) (field w 11 7) (field w 5 6) (field w 0 5))

/-- Major 0x2D (R248). -/
def decodeMajor2D (w : Word) : Option Instr :=
  match bitsAt w 20 5 with
  | 0 => fixedAt w 6 14 0 (.fence (bitAt w 31) (field w 3 3) (field w 0 3))
  | 1 => fixedAt w 9 11 0 (.waitc (bitAt w 31) (field w 3 6) (field w 0 3))
  | 2 => fixedAt w 0 20 0 (.bar (bitAt w 31))
  | 3 => fixedAt w 0 20 0 (.barc (bitAt w 31))
  | _ => none

/-- Major 0x2E (R248). -/
def decodeMajor2E (w : Word) : Option Instr :=
  match bitsAt w 0 3 with
  | 0 => fixedAt w 3 7 0 (.cvpF32 (bitAt w 31) (bitAt w 24) (field w 17 7) (field w 10 7))
  | 1 => fixedAt w 3 7 0 (.cvpF32m (bitAt w 31) (bitAt w 24) (field w 17 7) (field w 10 7))
  | 2 => fixedAt w 3 7 0 (.cvpBf (bitAt w 31) (bitAt w 24) (field w 17 7) (field w 10 7))
  | 3 => fixedAt w 3 7 0 (.cvpBfm (bitAt w 31) (bitAt w 24) (field w 17 7) (field w 10 7))
  | 4 => fixedAt w 3 7 0 (.ptrd (bitAt w 31) (bitAt w 24) (field w 17 7) (field w 10 7))
  | 5 => if bitsAt w 3 7 = 0 ∧ bitsAt w 24 1 = 0 then some (.ptwr (bitAt w 31) (field w 17 7) (field w 10 7)) else none
  | _ => none

/-- Major 0x2F (R248). -/
def decodeMajor2F (w : Word) : Option Instr :=
  match bitsAt w 0 5 with
  | 0 => fixedAt w 18 7 0 (.cpf2 (bitAt w 31) (field w 11 7) (field w 5 6))
  | 1 => fixedAt w 18 7 0 (.cpf1 (bitAt w 31) (field w 11 7) (field w 5 6))
  | 2 => fixedAt w 18 7 0 (.cef (bitAt w 31) (field w 11 7) (field w 5 6))
  | 3 => fixedAt w 18 7 0 (.cel (bitAt w 31) (field w 11 7) (field w 5 6))
  | 4 => fixedAt w 18 7 0 (.cnm (bitAt w 31) (field w 11 7) (field w 5 6))
  | 5 => some (.ctrim (bitAt w 31) (field w 18 7) (field w 11 7) (field w 5 6))
  | 6 => fixedAt w 18 7 0 (.cinv (bitAt w 31) (field w 11 7) (field w 5 6))
  | 7 => fixedAt w 18 7 0 (.cwb (bitAt w 31) (field w 11 7) (field w 5 6))
  | _ => none

/-- Major 0x30 (R248). -/
def decodeMajor30 (w : Word) : Option Instr :=
  match bitsAt w 0 5 with
  | 0 => some (.cpyin (bitAt w 31) (field w 18 7) (field w 11 7) (field w 5 6))
  | 1 => some (.cpyout (bitAt w 31) (field w 18 7) (field w 11 7) (field w 5 6))
  | 2 => some (.cpyp (bitAt w 31) (field w 18 7) (field w 11 7) (field w 5 6))
  | 3 => some (.gath (bitAt w 31) (field w 18 7) (field w 11 7) (field w 5 6))
  | 4 => some (.scat (bitAt w 31) (field w 18 7) (field w 11 7) (field w 5 6))
  | 5 => some (.cpyc (bitAt w 31) (field w 18 7) (field w 11 7) (field w 5 6))
  | 6 => some (.cpyr (bitAt w 31) (field w 18 7) (field w 11 7) (field w 5 6))
  | _ => none

/-- Major 0x31 (R248). -/
def decodeMajor31 (w : Word) : Option Instr :=
  match bitsAt w 0 5 with
  | 0 => fixedAt w 11 14 0 (.tbinit (bitAt w 31) (field w 5 6))
  | 1 => fixedAt w 18 7 0 (.tbarr (bitAt w 31) (field w 11 7) (field w 5 6))
  | 2 => fixedAt w 18 7 0 (.tbexp (bitAt w 31) (field w 11 7) (field w 5 6))
  | 3 => fixedAt w 18 7 0 (.tbwait (bitAt w 31) (field w 11 7) (field w 5 6))
  | 4 => some (.tbtest (bitAt w 31) (field w 18 7) (field w 11 7) (field w 5 6))
  | _ => none

/-- Major 0x32 (R249). -/
def decodeMajor32 (w : Word) : Option Instr :=
  some (.mma (bitAt w 31) (field w 20 5) (field w 13 7) (field w 6 7) (field w 0 6))

/-- Major 0x33 (R249). -/
def decodeMajor33 (w : Word) : Option Instr :=
  fixedAt w 5 1 0 (.mdr (bitAt w 31) (field w 20 5) (field w 13 7) (field w 6 7) (field w 0 5))

/-- Major 0x34 (R249). -/
def decodeMajor34 (w : Word) : Option Instr :=
  fixedAt w 1 5 0 (.wbl (bitAt w 31) (field w 20 5) (field w 13 7) (field w 6 7) (bitAt w 0))

/-- Major 0x35 (R249). -/
def decodeMajor35 (w : Word) : Option Instr :=
  match bitsAt w 20 5 with
  | 0 => fixedAt w 0 6 0 (.ttr (bitAt w 31) (field w 13 7) (field w 6 7))
  | 1 => fixedAt w 0 6 0 (.tscale (bitAt w 31) (field w 13 7) (field w 6 7))
  | 2 => if bitsAt w 0 6 = 0 then some (.tzero (bitAt w 31) (field w 13 7) (field w 6 7)) else fixedAt w 2 4 1 (.tzeroAcc (bitAt w 31) (field w 13 7) (field w 6 7) (field w 0 2))
  | 3 => fixedAt w 0 6 0 (.tcvt (bitAt w 31) (field w 13 7) (field w 6 7))
  | 4 => fixedAt w 0 6 0 (.tadd (bitAt w 31) (field w 13 7) (field w 6 7))
  | 5 => fixedAt w 0 6 0 (.tmov (bitAt w 31) (field w 13 7) (field w 6 7))
  | _ => none

/-- Major 0x36 (R249). -/
def decodeMajor36 (w : Word) : Option Instr :=
  match bitsAt w 20 5 with
  | 0 => fixedAt w 2 4 0 (.pqry (bitAt w 31) (field w 13 7) (field w 6 7) (field w 0 2))
  | 1 => fixedAt w 2 4 0 (.pdot (bitAt w 31) (field w 13 7) (field w 6 7) (field w 0 2))
  | 2 => fixedAt w 2 4 0 (.pdotr (bitAt w 31) (field w 13 7) (field w 6 7) (field w 0 2))
  | 3 => fixedAt w 2 4 0 (.pbnd (bitAt w 31) (field w 13 7) (field w 6 7) (field w 0 2))
  | _ => none

/-- Major 0x37 (R249). -/
def decodeMajor37 (w : Word) : Option Instr :=
  match bitsAt w 20 5 with
  | 0 => fixedAt w 0 6 0 (.selk (bitAt w 31) (field w 13 7) (field w 6 7))
  | 1 => fixedAt w 0 6 0 (.selkx (bitAt w 31) (field w 13 7) (field w 6 7))
  | 2 => fixedAt w 0 6 0 (.psel (bitAt w 31) (field w 13 7) (field w 6 7))
  | 3 => fixedAt w 0 6 0 (.lmerge (bitAt w 31) (field w 13 7) (field w 6 7))
  | 4 => fixedAt w 1 5 0 (.lsort (bitAt w 31) (field w 13 7) (field w 6 7) (bitAt w 0))
  | 5 => fixedAt w 3 3 0 (.ssrch (bitAt w 31) (field w 13 7) (field w 6 7) (bitAt w 2) (field w 0 2))
  | _ => none

/-- Major 0x38 (R249). -/
def decodeMajor38 (w : Word) : Option Instr :=
  match bitsAt w 0 3 with
  | 0 => fixedAt w 24 1 0 (.tspawn (bitAt w 31) (field w 17 7) (field w 10 7) (field w 3 7))
  | 1 => if bitsAt w 3 7 = 0 ∧ bitsAt w 24 1 = 0 then some (.sdec (bitAt w 31) (field w 17 7) (field w 10 7)) else none
  | 2 => if bitsAt w 3 7 = 0 ∧ bitsAt w 24 1 = 0 then some (.tqry (bitAt w 31) (field w 17 7) (field w 10 7)) else none
  | _ => none

/-- Major 0x39 (R249). -/
def decodeMajor39 (w : Word) : Option Instr :=
  match bitsAt w 0 3 with
  | 0 => fixedAt w 24 1 0 (.fres (bitAt w 31) (field w 17 7) (field w 10 7) (field w 3 7))
  | 1 => fixedAt w 24 1 0 (.freg (bitAt w 31) (field w 17 7) (field w 10 7) (field w 3 7))
  | 2 => fixedAt w 24 1 0 (.fget (bitAt w 31) (field w 17 7) (field w 10 7) (field w 3 7))
  | _ => none

/-- Major 0x3A (R249). -/
def decodeMajor3A (w : Word) : Option Instr :=
  match bitsAt w 0 3 with
  | 0 => if bitsAt w 3 7 = 0 ∧ bitsAt w 24 1 = 0 then some (.msend (bitAt w 31) (field w 17 7) (field w 10 7)) else none
  | 1 => if bitsAt w 3 7 = 0 ∧ bitsAt w 24 1 = 0 then some (.mpost (bitAt w 31) (field w 17 7) (field w 10 7)) else none
  | 2 => if bitsAt w 3 7 = 0 ∧ bitsAt w 24 1 = 0 then some (.mprobe (bitAt w 31) (field w 17 7) (field w 10 7)) else none
  | 3 => if bitsAt w 3 7 = 0 ∧ bitsAt w 24 1 = 0 then some (.mcancel (bitAt w 31) (field w 17 7) (field w 10 7)) else none
  | 4 => if bitsAt w 3 7 = 0 ∧ bitsAt w 24 1 = 0 then some (.mtest (bitAt w 31) (field w 17 7) (field w 10 7)) else none
  | 5 => if bitsAt w 3 7 = 0 ∧ bitsAt w 24 1 = 0 then some (.mpostRa (bitAt w 31) (field w 17 7) (field w 10 7)) else none
  | _ => none

/-- Major 0x3B (R249). -/
def decodeMajor3B (w : Word) : Option Instr :=
  match bitsAt w 0 3 with
  | 0 => fixedAt w 24 1 0 (.car (bitAt w 31) (field w 17 7) (field w 10 7) (field w 3 7))
  | 1 => fixedAt w 24 1 0 (.cbc (bitAt w 31) (field w 17 7) (field w 10 7) (field w 3 7))
  | 2 => if bitsAt w 3 7 = 0 ∧ bitsAt w 24 1 = 0 then some (.cbar (bitAt w 31) (field w 17 7) (field w 10 7)) else none
  | _ => none

/-- Major 0x3C (R249). -/
def decodeMajor3C (w : Word) : Option Instr :=
  match bitsAt w 8 2 with
  | 0 => if bitsAt w 4 4 = 0 ∧ bitsAt w 10 15 = 0 then some (.rgive (bitAt w 31) (field w 0 4)) else none
  | 1 => if bitsAt w 4 4 = 0 ∧ bitsAt w 10 7 = 0 then some (.rclaim (bitAt w 31) (bitAt w 24) (field w 17 7) (field w 0 4)) else none
  | 2 => if bitsAt w 0 8 = 0 ∧ bitsAt w 10 7 = 0 then some (.rcnt (bitAt w 31) (bitAt w 24) (field w 17 7)) else none
  | _ => none

/-- Major 0x3D (R249). -/
def decodeMajor3D (w : Word) : Option Instr :=
  match bitsAt w 20 5 with
  | 0 => fixedAt w 8 5 0 (.rdsr (bitAt w 31) (field w 13 7) (field w 0 8))
  | 1 => fixedAt w 8 5 0 (.wrsr (bitAt w 31) (field w 13 7) (field w 0 8))
  | 2 => fixedAt w 0 20 0 (.sret (bitAt w 31))
  | 3 => fixedAt w 0 6 0 (.rwld (bitAt w 31) (field w 13 7) (field w 6 7))
  | 4 => fixedAt w 3 17 0 (.rwctl (bitAt w 31) (field w 0 3))
  | 5 => fixedAt w 0 6 0 (.tinv (bitAt w 31) (field w 13 7) (field w 6 7))
  | 6 => some (.kvapp (bitAt w 31) (field w 13 7) (field w 6 7) (field w 0 6))
  | _ => none

/-- The constructor a word names, its operands not yet checked (R245 to R249). -/
def decodeRaw (w : Word) : Option Instr :=
  match bitsAt w 25 6 with
  | 0 => decodeMajor00 w
  | 1 => decodeMajor01 w
  | 2 => decodeMajor02 w
  | 3 => decodeMajor03 w
  | 4 => decodeMajor04 w
  | 5 => decodeMajor05 w
  | 6 => decodeMajor06 w
  | 7 => decodeMajor07 w
  | 8 => decodeMajor08 w
  | 9 => decodeMajor09 w
  | 10 => decodeMajor0A w
  | 11 => decodeMajor0B w
  | 12 => decodeMajor0C w
  | 13 => decodeMajor0D w
  | 14 => decodeMajor0E w
  | 15 => decodeMajor0F w
  | 16 => decodeMajor10 w
  | 17 => decodeMajor11 w
  | 18 => decodeMajor12 w
  | 19 => decodeMajor13 w
  | 20 => decodeMajor14 w
  | 21 => decodeMajor15 w
  | 22 => decodeMajor16 w
  | 23 => decodeMajor17 w
  | 24 => decodeMajor18 w
  | 25 => decodeMajor19 w
  | 26 => decodeMajor1A w
  | 27 => decodeMajor1B w
  | 28 => decodeMajor1C w
  | 29 => decodeMajor1D w
  | 30 => decodeMajor1E w
  | 31 => decodeMajor1F w
  | 32 => decodeMajor20 w
  | 33 => decodeMajor21 w
  | 34 => decodeMajor22 w
  | 35 => decodeMajor23 w
  | 36 => decodeMajor24 w
  | 37 => decodeMajor25 w
  | 38 => decodeMajor26 w
  | 39 => decodeMajor27 w
  | 40 => decodeMajor28 w
  | 41 => decodeMajor29 w
  | 42 => decodeMajor2A w
  | 43 => decodeMajor2B w
  | 44 => decodeMajor2C w
  | 45 => decodeMajor2D w
  | 46 => decodeMajor2E w
  | 47 => decodeMajor2F w
  | 48 => decodeMajor30 w
  | 49 => decodeMajor31 w
  | 50 => decodeMajor32 w
  | 51 => decodeMajor33 w
  | 52 => decodeMajor34 w
  | 53 => decodeMajor35 w
  | 54 => decodeMajor36 w
  | 55 => decodeMajor37 w
  | 56 => decodeMajor38 w
  | 57 => decodeMajor39 w
  | 58 => decodeMajor3A w
  | 59 => decodeMajor3B w
  | 60 => decodeMajor3C w
  | 61 => decodeMajor3D w
  | _ => none

/-- The instruction a word is, or the name of what makes it none (R251). -/
def decodeWord (w : Word) : Except DecodeError Instr :=
  match decodeRaw w with
  | none => .error (.unlisted w)
  | some i => if i.wf then .ok i else .error (.illegalField w)

/-- A word from four bytes, the first at the lowest address (R3, R238). -/
def wordOfBytes (b0 b1 b2 b3 : Byte) : Word :=
  BitVec.ofNat 32 (b0.toNat + 256 * b1.toNat + 65536 * b2.toNat + 16777216 * b3.toNat)

/-- The bytes of a word, lowest address first (R3). -/
def bytesOfWord (w : Word) : List Byte :=
  [BitVec.ofNat 8 w.toNat, BitVec.ofNat 8 (w.toNat / 256), BitVec.ofNat 8 (w.toNat / 65536),
   BitVec.ofNat 8 (w.toNat / 16777216)]

/-- Decoding from bytes: the instruction and the rest, or a rejection by name. -/
def decode : List Byte → Except DecodeError (Instr × List Byte)
  | b0 :: b1 :: b2 :: b3 :: rest => (decodeWord (wordOfBytes b0 b1 b2 b3)).map (fun i => (i, rest))
  | _ => .error .shortFetch

/-- The instruction the decoder reads from an opcode-table word of `nbits` bits (bits above are 0). -/
def decodeTableWord (nbits w : Nat) : Option Instr :=
  match decode (bytesOfWord (BitVec.ofNat 32 (w % 2 ^ nbits))) with
  | .ok (i, _) => some i
  | .error _ => none

/-- The number of a word given as its fields from bit 0 up, each with its length. -/
def wordNat : List (Nat × Nat) → Nat
  | [] => 0
  | (len, x) :: fs => x + 2 ^ len * wordNat fs
/-- The word of its fields from bit 0 up (R238). -/
def wordOf (fs : List (Nat × Nat)) : Word := BitVec.ofNat 32 (wordNat fs)

/-- The word of an instruction, field by field from bit 0 up (R238, R243 to R250). Events of the device have no word; theirs
is `none`. -/
def encode : Instr → Option Word
  | .coldReset => none
  | .orderlyWarmReset => none
  | .forcedWarmReset => none
  | .orderlyResetTimeout => none
  | .retrainComplete => none
  | .operatingPointLower => none
  | .operatingPointRaise => none
  | .thermalShutdown => none
  | .droopTrip => none
  | .targetedSelfTest => none
  | .selfTestForcedWindow => none
  | .selfTestResult => none
  | .repairExport => none
  | .signedImageWrite => none
  | .spdmRequest => none
  | .keyInstall => none
  | .registerWrite => none
  | .memoryRequest => none
  | .channelSchedule => none
  | .promotion => none
  | .memoryRequestComplete => none
  | .victimWriteback => none
  | .perBankRefresh => none
  | .cacheLayerDisable => none
  | .patrolScrub => none
  | .rd => none
  | .wr => none
  | .wrm => none
  | .atomRequest => none
  | .mcw => none
  | .pwr => none
  | .msge => none
  | .msgh => none
  | .fin => none
  | .rsp => none
  | .requestTimeout => none
  | .portFailure => none
  | .flitReceive => none
  | .keyCounterExhausted => none
  | .keyWindowGo => none
  | .keyInstallDone => none
  | .checkpointGo => none
  | .checkpointAbort => none
  | .checkpointDone => none
  | .payloadRead => none
  | .refusedResend => none
  | .cairnCompletion => none
  | .cctlEnSet => none
  | .cctlEnClear => none
  | .bar2Write => none
  | .bar2Read => none
  | .form => none
  | .halt => none
  | .haltDone => none
  | .resume => none
  | .swapOut => none
  | .swapOutDone => none
  | .swapInDone => none
  | .dissolve => none
  | .lqEnable => none
  | .lqDisable => none
  | .writeIndexNotify => none
  | .launchRecordRead => none
  | .graphNodeComplete => none
  | .clusterPlacement => none
  | .reservation => none
  | .launchCompletion => none
  | .groupRetire => none
  | .taskDispatch => none
  | .taskStart => none
  | .taskHaltTimeout => none
  | .deferredEnqueue => none
  | .operationComplete => none
  | .sfuEntryComplete => none
  | .safeTimeout => none
  | .pairReset => none
  | .engineCommandStart => none
  | .engineCommandComplete => none
  | .windowTimeout => none
  | .farCopyInvalidation => none
  | .evictLastDemotion => none
  | .fqres => none
  | .fqr => none
  | .mcgWrite => none
  | .carTimeout => none
  | .cbcTimeout => none
  | .nop e => some (wordOf [(21, 0), (4, 0), (6, 0x0), (1, e.toNat)])
  | .hintIl e i => some (wordOf [(21, i.toNat), (4, 1), (6, 0x0), (1, e.toNat)])
  | .hintIh e i => some (wordOf [(11, i.toNat), (10, 0), (4, 2), (6, 0x0), (1, e.toNat)])
  | .hintRnd e x n m => some (wordOf [(3, m.toNat), (2, n.toNat), (1, x.toNat), (15, 0), (4, 3), (6, 0x0), (1, e.toNat)])
  | .hintMo e s o => some (wordOf [(3, o.toNat), (3, s.toNat), (15, 0), (4, 4), (6, 0x0), (1, e.toNat)])
  | .hintCp e d k p => some (wordOf [(2, p.toNat), (2, k.toNat), (16, d.toNat), (1, 0), (4, 5), (6, 0x0), (1, e.toNat)])
  | .hintAo e o => some (wordOf [(5, o.toNat), (16, 0), (4, 6), (6, 0x0), (1, e.toNat)])
  | .hintRw e => some (wordOf [(21, 0), (4, 7), (6, 0x0), (1, e.toNat)])
  | .sadd e w d a b => some (wordOf [(3, 0), (7, b.toNat), (7, a.toNat), (7, d.toNat), (1, w.toNat), (6, 0x1), (1, e.toNat)])
  | .ssub e w d a b => some (wordOf [(3, 1), (7, b.toNat), (7, a.toNat), (7, d.toNat), (1, w.toNat), (6, 0x1), (1, e.toNat)])
  | .smul e w d a b => some (wordOf [(3, 2), (7, b.toNat), (7, a.toNat), (7, d.toNat), (1, w.toNat), (6, 0x1), (1, e.toNat)])
  | .smulh e w d a b => some (wordOf [(3, 3), (7, b.toNat), (7, a.toNat), (7, d.toNat), (1, w.toNat), (6, 0x1), (1, e.toNat)])
  | .sand e w d a b => some (wordOf [(3, 4), (7, b.toNat), (7, a.toNat), (7, d.toNat), (1, w.toNat), (6, 0x1), (1, e.toNat)])
  | .sor e w d a b => some (wordOf [(3, 5), (7, b.toNat), (7, a.toNat), (7, d.toNat), (1, w.toNat), (6, 0x1), (1, e.toNat)])
  | .sxor e w d a b => some (wordOf [(3, 6), (7, b.toNat), (7, a.toNat), (7, d.toNat), (1, w.toNat), (6, 0x1), (1, e.toNat)])
  | .sandn e w d a b => some (wordOf [(3, 7), (7, b.toNat), (7, a.toNat), (7, d.toNat), (1, w.toNat), (6, 0x1), (1, e.toNat)])
  | .sshl e w d a b => some (wordOf [(3, 0), (7, b.toNat), (7, a.toNat), (7, d.toNat), (1, w.toNat), (6, 0x2), (1, e.toNat)])
  | .sshr e w d a b => some (wordOf [(3, 1), (7, b.toNat), (7, a.toNat), (7, d.toNat), (1, w.toNat), (6, 0x2), (1, e.toNat)])
  | .ssra e w d a b => some (wordOf [(3, 2), (7, b.toNat), (7, a.toNat), (7, d.toNat), (1, w.toNat), (6, 0x2), (1, e.toNat)])
  | .smin e w d a b => some (wordOf [(3, 3), (7, b.toNat), (7, a.toNat), (7, d.toNat), (1, w.toNat), (6, 0x2), (1, e.toNat)])
  | .smax e w d a b => some (wordOf [(3, 4), (7, b.toNat), (7, a.toNat), (7, d.toNat), (1, w.toNat), (6, 0x2), (1, e.toNat)])
  | .sminu e w d a b => some (wordOf [(3, 5), (7, b.toNat), (7, a.toNat), (7, d.toNat), (1, w.toNat), (6, 0x2), (1, e.toNat)])
  | .smaxu e w d a b => some (wordOf [(3, 6), (7, b.toNat), (7, a.toNat), (7, d.toNat), (1, w.toNat), (6, 0x2), (1, e.toNat)])
  | .sclz e w d a => some (wordOf [(3, 7), (7, 0), (7, a.toNat), (7, d.toNat), (1, w.toNat), (6, 0x2), (1, e.toNat)])
  | .saddi e w d a i => some (wordOf [(10, i.toNat), (7, a.toNat), (7, d.toNat), (1, w.toNat), (6, 0x3), (1, e.toNat)])
  | .sandi e w d a i => some (wordOf [(8, i.toNat), (2, 0), (7, a.toNat), (7, d.toNat), (1, w.toNat), (6, 0x4), (1, e.toNat)])
  | .sori e w d a i => some (wordOf [(8, i.toNat), (2, 1), (7, a.toNat), (7, d.toNat), (1, w.toNat), (6, 0x4), (1, e.toNat)])
  | .sxori e w d a i => some (wordOf [(8, i.toNat), (2, 2), (7, a.toNat), (7, d.toNat), (1, w.toNat), (6, 0x4), (1, e.toNat)])
  | .sshli e w d a c => some (wordOf [(6, c.toNat), (2, 0), (2, 0), (7, a.toNat), (7, d.toNat), (1, w.toNat), (6, 0x5), (1, e.toNat)])
  | .sshri e w d a c => some (wordOf [(6, c.toNat), (2, 0), (2, 1), (7, a.toNat), (7, d.toNat), (1, w.toNat), (6, 0x5), (1, e.toNat)])
  | .ssrai e w d a c => some (wordOf [(6, c.toNat), (2, 0), (2, 2), (7, a.toNat), (7, d.toNat), (1, w.toNat), (6, 0x5), (1, e.toNat)])
  | .sroti e w d a c => some (wordOf [(6, c.toNat), (2, 0), (2, 3), (7, a.toNat), (7, d.toNat), (1, w.toNat), (6, 0x5), (1, e.toNat)])
  | .scmp e w d a b c => some (wordOf [(3, c.toNat), (7, b.toNat), (7, a.toNat), (7, d.toNat), (1, w.toNat), (6, 0x6), (1, e.toNat)])
  | .smov e w d a => some (wordOf [(3, 0), (7, 0), (7, a.toNat), (7, d.toNat), (1, w.toNat), (6, 0x7), (1, e.toNat)])
  | .sfromv e w d a b => some (wordOf [(3, 1), (7, b.toNat), (7, a.toNat), (7, d.toNat), (1, w.toNat), (6, 0x7), (1, e.toNat)])
  | .ssel e w d a b => some (wordOf [(3, 2), (7, b.toNat), (7, a.toNat), (7, d.toNat), (1, w.toNat), (6, 0x7), (1, e.toNat)])
  | .sext e w d a b => some (wordOf [(3, 3), (7, b.toNat), (7, a.toNat), (7, d.toNat), (1, w.toNat), (6, 0x7), (1, e.toNat)])
  | .spopc e w d a => some (wordOf [(3, 4), (7, 0), (7, a.toNat), (7, d.toNat), (1, w.toNat), (6, 0x7), (1, e.toNat)])
  | .br e p => some (wordOf [(21, p.toNat), (4, 0), (6, 0x8), (1, e.toNat)])
  | .call e p => some (wordOf [(21, p.toNat), (4, 1), (6, 0x8), (1, e.toNat)])
  | .brc e c r p => some (wordOf [(15, p.toNat), (7, r.toNat), (3, c.toNat), (6, 0x9), (1, e.toNat)])
  | .brvAny e t r p => some (wordOf [(15, p.toNat), (7, r.toNat), (2, t.toNat), (1, 0), (6, 0xA), (1, e.toNat)])
  | .brvAll e t r p => some (wordOf [(15, p.toNat), (7, r.toNat), (2, t.toNat), (1, 1), (6, 0xA), (1, e.toNat)])
  | .jmpr e r p => some (wordOf [(15, p.toNat), (7, r.toNat), (3, 0), (6, 0xB), (1, e.toNat)])
  | .callr e r p => some (wordOf [(15, p.toNat), (7, r.toNat), (3, 1), (6, 0xB), (1, e.toNat)])
  | .ret e r => some (wordOf [(15, 0), (7, r.toNat), (3, 2), (6, 0xB), (1, e.toNat)])
  | .jmpf e r p => some (wordOf [(15, p.toNat), (7, r.toNat), (3, 3), (6, 0xB), (1, e.toNat)])
  | .callf e r p => some (wordOf [(15, p.toNat), (7, r.toNat), (3, 4), (6, 0xB), (1, e.toNat)])
  | .loop e r p => some (wordOf [(15, p.toNat), (7, r.toNat), (3, 0), (6, 0xC), (1, e.toNat)])
  | .regang e => some (wordOf [(20, 0), (5, 0), (6, 0xD), (1, e.toNat)])
  | .safe e s u => some (wordOf [(12, u.toNat), (8, s.toNat), (5, 1), (6, 0xD), (1, e.toNat)])
  | .exit e => some (wordOf [(20, 0), (5, 2), (6, 0xD), (1, e.toNat)])
  | .trap e v => some (wordOf [(20, v.toNat), (5, 3), (6, 0xD), (1, e.toNat)])
  | .lbrk e => some (wordOf [(20, 0), (5, 4), (6, 0xD), (1, e.toNat)])
  | .yield e => some (wordOf [(20, 0), (5, 5), (6, 0xD), (1, e.toNat)])
  | .emset e n => some (wordOf [(2, n.toNat), (18, 0), (5, 6), (6, 0xD), (1, e.toNat)])
  | .emsave e n => some (wordOf [(2, n.toNat), (18, 0), (5, 7), (6, 0xD), (1, e.toNat)])
  | .emload e n => some (wordOf [(2, n.toNat), (18, 0), (5, 8), (6, 0xD), (1, e.toNat)])
  | .cfetch e r p => some (wordOf [(15, p.toNat), (7, r.toNat), (3, 0), (6, 0xE), (1, e.toNat)])
  | .smovi e w d i => some (wordOf [(17, i.toNat), (7, d.toNat), (1, w.toNat), (6, 0xF), (1, e.toNat)])
  | .vadd e w d a b => some (wordOf [(3, 0), (7, b.toNat), (7, a.toNat), (7, d.toNat), (1, w.toNat), (6, 0x10), (1, e.toNat)])
  | .vsub e w d a b => some (wordOf [(3, 1), (7, b.toNat), (7, a.toNat), (7, d.toNat), (1, w.toNat), (6, 0x10), (1, e.toNat)])
  | .vmul e w d a b => some (wordOf [(3, 2), (7, b.toNat), (7, a.toNat), (7, d.toNat), (1, w.toNat), (6, 0x10), (1, e.toNat)])
  | .vmulh e w d a b => some (wordOf [(3, 3), (7, b.toNat), (7, a.toNat), (7, d.toNat), (1, w.toNat), (6, 0x10), (1, e.toNat)])
  | .vmad e w d a b => some (wordOf [(3, 4), (7, b.toNat), (7, a.toNat), (7, d.toNat), (1, w.toNat), (6, 0x10), (1, e.toNat)])
  | .vabsd e w d a b => some (wordOf [(3, 5), (7, b.toNat), (7, a.toNat), (7, d.toNat), (1, w.toNat), (6, 0x10), (1, e.toNat)])
  | .vmin e w d a b => some (wordOf [(3, 6), (7, b.toNat), (7, a.toNat), (7, d.toNat), (1, w.toNat), (6, 0x10), (1, e.toNat)])
  | .vmax e w d a b => some (wordOf [(3, 7), (7, b.toNat), (7, a.toNat), (7, d.toNat), (1, w.toNat), (6, 0x10), (1, e.toNat)])
  | .vminu e w d a b => some (wordOf [(3, 0), (7, b.toNat), (7, a.toNat), (7, d.toNat), (1, w.toNat), (6, 0x11), (1, e.toNat)])
  | .vmaxu e w d a b => some (wordOf [(3, 1), (7, b.toNat), (7, a.toNat), (7, d.toNat), (1, w.toNat), (6, 0x11), (1, e.toNat)])
  | .vand e w d a b => some (wordOf [(3, 2), (7, b.toNat), (7, a.toNat), (7, d.toNat), (1, w.toNat), (6, 0x11), (1, e.toNat)])
  | .vor e w d a b => some (wordOf [(3, 3), (7, b.toNat), (7, a.toNat), (7, d.toNat), (1, w.toNat), (6, 0x11), (1, e.toNat)])
  | .vxor e w d a b => some (wordOf [(3, 4), (7, b.toNat), (7, a.toNat), (7, d.toNat), (1, w.toNat), (6, 0x11), (1, e.toNat)])
  | .vandn e w d a b => some (wordOf [(3, 5), (7, b.toNat), (7, a.toNat), (7, d.toNat), (1, w.toNat), (6, 0x11), (1, e.toNat)])
  | .vshl e w d a b => some (wordOf [(3, 6), (7, b.toNat), (7, a.toNat), (7, d.toNat), (1, w.toNat), (6, 0x11), (1, e.toNat)])
  | .vshr e w d a b => some (wordOf [(3, 7), (7, b.toNat), (7, a.toNat), (7, d.toNat), (1, w.toNat), (6, 0x11), (1, e.toNat)])
  | .vsra e w d a b => some (wordOf [(3, 0), (7, b.toNat), (7, a.toNat), (7, d.toNat), (1, w.toNat), (6, 0x12), (1, e.toNat)])
  | .vclz e w d a b => some (wordOf [(3, 1), (7, b.toNat), (7, a.toNat), (7, d.toNat), (1, w.toNat), (6, 0x12), (1, e.toNat)])
  | .vpopc e w d a b => some (wordOf [(3, 2), (7, b.toNat), (7, a.toNat), (7, d.toNat), (1, w.toNat), (6, 0x12), (1, e.toNat)])
  | .vbrev e w d a b => some (wordOf [(3, 3), (7, b.toNat), (7, a.toNat), (7, d.toNat), (1, w.toNat), (6, 0x12), (1, e.toNat)])
  | .vsel e w d a b => some (wordOf [(3, 4), (7, b.toNat), (7, a.toNat), (7, d.toNat), (1, w.toNat), (6, 0x12), (1, e.toNat)])
  | .vmov e w d a b => some (wordOf [(3, 5), (7, b.toNat), (7, a.toNat), (7, d.toNat), (1, w.toNat), (6, 0x12), (1, e.toNat)])
  | .vmulhu e w d a b => some (wordOf [(3, 6), (7, b.toNat), (7, a.toNat), (7, d.toNat), (1, w.toNat), (6, 0x12), (1, e.toNat)])
  | .vbfe e w d a b => some (wordOf [(3, 7), (7, b.toNat), (7, a.toNat), (7, d.toNat), (1, w.toNat), (6, 0x12), (1, e.toNat)])
  | .vaddi e w d a i => some (wordOf [(10, i.toNat), (7, a.toNat), (7, d.toNat), (1, w.toNat), (6, 0x13), (1, e.toNat)])
  | .vandi e w d a i => some (wordOf [(8, i.toNat), (2, 0), (7, a.toNat), (7, d.toNat), (1, w.toNat), (6, 0x14), (1, e.toNat)])
  | .vori e w d a i => some (wordOf [(8, i.toNat), (2, 1), (7, a.toNat), (7, d.toNat), (1, w.toNat), (6, 0x14), (1, e.toNat)])
  | .vxori e w d a i => some (wordOf [(8, i.toNat), (2, 2), (7, a.toNat), (7, d.toNat), (1, w.toNat), (6, 0x14), (1, e.toNat)])
  | .vshli e w d a i => some (wordOf [(5, i.toNat), (3, 0), (2, 0), (7, a.toNat), (7, d.toNat), (1, w.toNat), (6, 0x15), (1, e.toNat)])
  | .vshri e w d a i => some (wordOf [(5, i.toNat), (3, 0), (2, 1), (7, a.toNat), (7, d.toNat), (1, w.toNat), (6, 0x15), (1, e.toNat)])
  | .vsrai e w d a i => some (wordOf [(5, i.toNat), (3, 0), (2, 2), (7, a.toNat), (7, d.toNat), (1, w.toNat), (6, 0x15), (1, e.toNat)])
  | .vroti e w d a i => some (wordOf [(5, i.toNat), (3, 0), (2, 3), (7, a.toNat), (7, d.toNat), (1, w.toNat), (6, 0x15), (1, e.toNat)])
  | .vcmp e w d a b c => some (wordOf [(3, c.toNat), (7, b.toNat), (7, a.toNat), (7, d.toNat), (1, w.toNat), (6, 0x16), (1, e.toNat)])
  | .fadd e w d a b => some (wordOf [(3, 0), (7, b.toNat), (7, a.toNat), (7, d.toNat), (1, w.toNat), (6, 0x17), (1, e.toNat)])
  | .fsub e w d a b => some (wordOf [(3, 1), (7, b.toNat), (7, a.toNat), (7, d.toNat), (1, w.toNat), (6, 0x17), (1, e.toNat)])
  | .fmul e w d a b => some (wordOf [(3, 2), (7, b.toNat), (7, a.toNat), (7, d.toNat), (1, w.toNat), (6, 0x17), (1, e.toNat)])
  | .ffma e w d a b => some (wordOf [(3, 3), (7, b.toNat), (7, a.toNat), (7, d.toNat), (1, w.toNat), (6, 0x17), (1, e.toNat)])
  | .fmin e w d a b => some (wordOf [(3, 4), (7, b.toNat), (7, a.toNat), (7, d.toNat), (1, w.toNat), (6, 0x17), (1, e.toNat)])
  | .fmax e w d a b => some (wordOf [(3, 5), (7, b.toNat), (7, a.toNat), (7, d.toNat), (1, w.toNat), (6, 0x17), (1, e.toNat)])
  | .fabs e w d a b => some (wordOf [(3, 6), (7, b.toNat), (7, a.toNat), (7, d.toNat), (1, w.toNat), (6, 0x17), (1, e.toNat)])
  | .fneg e w d a b => some (wordOf [(3, 7), (7, b.toNat), (7, a.toNat), (7, d.toNat), (1, w.toNat), (6, 0x17), (1, e.toNat)])
  | .fceq e w d a b => some (wordOf [(3, 0), (7, b.toNat), (7, a.toNat), (7, d.toNat), (1, w.toNat), (6, 0x18), (1, e.toNat)])
  | .fclt e w d a b => some (wordOf [(3, 1), (7, b.toNat), (7, a.toNat), (7, d.toNat), (1, w.toNat), (6, 0x18), (1, e.toNat)])
  | .fcle e w d a b => some (wordOf [(3, 2), (7, b.toNat), (7, a.toNat), (7, d.toNat), (1, w.toNat), (6, 0x18), (1, e.toNat)])
  | .fcun e w d a b => some (wordOf [(3, 3), (7, b.toNat), (7, a.toNat), (7, d.toNat), (1, w.toNat), (6, 0x18), (1, e.toNat)])
  | .fcpysgn e w d a b => some (wordOf [(3, 4), (7, b.toNat), (7, a.toNat), (7, d.toNat), (1, w.toNat), (6, 0x18), (1, e.toNat)])
  | .fclass e w d a b => some (wordOf [(3, 5), (7, b.toNat), (7, a.toNat), (7, d.toNat), (1, w.toNat), (6, 0x18), (1, e.toNat)])
  | .fscale e w d a b => some (wordOf [(3, 6), (7, b.toNat), (7, a.toNat), (7, d.toNat), (1, w.toNat), (6, 0x18), (1, e.toNat)])
  | .frnd e w d a b => some (wordOf [(3, 7), (7, b.toNat), (7, a.toNat), (7, d.toNat), (1, w.toNat), (6, 0x18), (1, e.toNat)])
  | .cvt e w d a t s m => some (wordOf [(3, m.toNat), (3, s.toNat), (4, t.toNat), (7, a.toNat), (7, d.toNat), (1, w.toNat), (6, 0x19), (1, e.toNat)])
  | .pk2 e w d a b => some (wordOf [(3, 0), (7, b.toNat), (7, a.toNat), (7, d.toNat), (1, w.toNat), (6, 0x1A), (1, e.toNat)])
  | .pk4 e w d a b => some (wordOf [(3, 1), (7, b.toNat), (7, a.toNat), (7, d.toNat), (1, w.toNat), (6, 0x1A), (1, e.toNat)])
  | .pk8 e w d a b => some (wordOf [(3, 2), (7, b.toNat), (7, a.toNat), (7, d.toNat), (1, w.toNat), (6, 0x1A), (1, e.toNat)])
  | .upk2 e w d a b => some (wordOf [(3, 3), (7, b.toNat), (7, a.toNat), (7, d.toNat), (1, w.toNat), (6, 0x1A), (1, e.toNat)])
  | .upk4 e w d a b => some (wordOf [(3, 4), (7, b.toNat), (7, a.toNat), (7, d.toNat), (1, w.toNat), (6, 0x1A), (1, e.toNat)])
  | .upk8 e w d a b => some (wordOf [(3, 5), (7, b.toNat), (7, a.toNat), (7, d.toNat), (1, w.toNat), (6, 0x1A), (1, e.toNat)])
  | .lshfl e w d a o => some (wordOf [(3, 0), (7, o.toNat), (7, a.toNat), (7, d.toNat), (1, w.toNat), (6, 0x1B), (1, e.toNat)])
  | .lbcast e w d a b => some (wordOf [(3, 1), (7, b.toNat), (7, a.toNat), (7, d.toNat), (1, w.toNat), (6, 0x1B), (1, e.toNat)])
  | .lsum e w d a k => some (wordOf [(3, 2), (7, k.toNat), (7, a.toNat), (7, d.toNat), (1, w.toNat), (6, 0x1B), (1, e.toNat)])
  | .lmin e w d a k => some (wordOf [(3, 3), (7, k.toNat), (7, a.toNat), (7, d.toNat), (1, w.toNat), (6, 0x1B), (1, e.toNat)])
  | .lmax e w d a k => some (wordOf [(3, 4), (7, k.toNat), (7, a.toNat), (7, d.toNat), (1, w.toNat), (6, 0x1B), (1, e.toNat)])
  | .lscan e w d a k => some (wordOf [(3, 5), (7, k.toNat), (7, a.toNat), (7, d.toNat), (1, w.toNat), (6, 0x1B), (1, e.toNat)])
  | .lvote e w d a => some (wordOf [(3, 6), (7, 112), (7, a.toNat), (7, d.toNat), (1, w.toNat), (6, 0x1B), (1, e.toNat)])
  | .lbfly e w d a o => some (wordOf [(3, 7), (7, o.toNat), (7, a.toNat), (7, d.toNat), (1, w.toNat), (6, 0x1B), (1, e.toNat)])
  | .rcp e d a b => some (wordOf [(3, 0), (7, b.toNat), (7, a.toNat), (7, d.toNat), (1, 0), (6, 0x1C), (1, e.toNat)])
  | .rsqrt e d a b => some (wordOf [(3, 1), (7, b.toNat), (7, a.toNat), (7, d.toNat), (1, 0), (6, 0x1C), (1, e.toNat)])
  | .sqrt e d a b => some (wordOf [(3, 2), (7, b.toNat), (7, a.toNat), (7, d.toNat), (1, 0), (6, 0x1C), (1, e.toNat)])
  | .exp2 e d a b => some (wordOf [(3, 3), (7, b.toNat), (7, a.toNat), (7, d.toNat), (1, 0), (6, 0x1C), (1, e.toNat)])
  | .log2 e d a b => some (wordOf [(3, 4), (7, b.toNat), (7, a.toNat), (7, d.toNat), (1, 0), (6, 0x1C), (1, e.toNat)])
  | .sin e d a b => some (wordOf [(3, 5), (7, b.toNat), (7, a.toNat), (7, d.toNat), (1, 0), (6, 0x1C), (1, e.toNat)])
  | .cos e d a b => some (wordOf [(3, 6), (7, b.toNat), (7, a.toNat), (7, d.toNat), (1, 0), (6, 0x1C), (1, e.toNat)])
  | .tanh e d a b => some (wordOf [(3, 7), (7, b.toNat), (7, a.toNat), (7, d.toNat), (1, 0), (6, 0x1C), (1, e.toNat)])
  | .badd2 e w d a b => some (wordOf [(3, 0), (7, b.toNat), (7, a.toNat), (7, d.toNat), (1, w.toNat), (6, 0x1D), (1, e.toNat)])
  | .bmul2 e w d a b => some (wordOf [(3, 1), (7, b.toNat), (7, a.toNat), (7, d.toNat), (1, w.toNat), (6, 0x1D), (1, e.toNat)])
  | .bfma2 e w d a b => some (wordOf [(3, 2), (7, b.toNat), (7, a.toNat), (7, d.toNat), (1, w.toNat), (6, 0x1D), (1, e.toNat)])
  | .hadd2 e w d a b => some (wordOf [(3, 3), (7, b.toNat), (7, a.toNat), (7, d.toNat), (1, w.toNat), (6, 0x1D), (1, e.toNat)])
  | .hmul2 e w d a b => some (wordOf [(3, 4), (7, b.toNat), (7, a.toNat), (7, d.toNat), (1, w.toNat), (6, 0x1D), (1, e.toNat)])
  | .hfma2 e w d a b => some (wordOf [(3, 5), (7, b.toNat), (7, a.toNat), (7, d.toNat), (1, w.toNat), (6, 0x1D), (1, e.toNat)])
  | .bmax2 e w d a b => some (wordOf [(3, 6), (7, b.toNat), (7, a.toNat), (7, d.toNat), (1, w.toNat), (6, 0x1D), (1, e.toNat)])
  | .bmin2 e w d a b => some (wordOf [(3, 7), (7, b.toNat), (7, a.toNat), (7, d.toNat), (1, w.toNat), (6, 0x1D), (1, e.toNat)])
  | .vmovi e w d i => some (wordOf [(17, i.toNat), (7, d.toNat), (1, w.toNat), (6, 0x1E), (1, e.toNat)])
  | .tmapAdd e x y z => some (wordOf [(3, 0), (7, z.toNat), (7, y.toNat), (7, x.toNat), (1, 0), (6, 0x1F), (1, e.toNat)])
  | .tmapMul e x y z => some (wordOf [(3, 1), (7, z.toNat), (7, y.toNat), (7, x.toNat), (1, 0), (6, 0x1F), (1, e.toNat)])
  | .tmapFma e x y z => some (wordOf [(3, 2), (7, z.toNat), (7, y.toNat), (7, x.toNat), (1, 0), (6, 0x1F), (1, e.toNat)])
  | .tmapMax e x y z => some (wordOf [(3, 3), (7, z.toNat), (7, y.toNat), (7, x.toNat), (1, 0), (6, 0x1F), (1, e.toNat)])
  | .tmapCvt e x y z => some (wordOf [(3, 4), (7, z.toNat), (7, y.toNat), (7, x.toNat), (1, 0), (6, 0x1F), (1, e.toNat)])
  | .tmapCpy e x y z => some (wordOf [(3, 5), (7, z.toNat), (7, y.toNat), (7, x.toNat), (1, 0), (6, 0x1F), (1, e.toNat)])
  | .itset e n a => some (wordOf [(3, 6), (7, 0), (7, a.toNat), (2, n.toNat), (6, 0), (6, 0x1F), (1, e.toNat)])
  | .ldg e d a s k => some (wordOf [(5, k.toNat), (6, s.toNat), (7, a.toNat), (7, d.toNat), (6, 0x20), (1, e.toNat)])
  | .stg e d a s k => some (wordOf [(5, k.toNat), (6, s.toNat), (7, a.toNat), (7, d.toNat), (6, 0x21), (1, e.toNat)])
  | .ldl e d a s k => some (wordOf [(5, k.toNat), (6, s.toNat), (7, a.toNat), (7, d.toNat), (6, 0x22), (1, e.toNat)])
  | .stl e d a s k => some (wordOf [(5, k.toNat), (6, s.toNat), (7, a.toNat), (7, d.toNat), (6, 0x23), (1, e.toNat)])
  | .ldt e d a s k => some (wordOf [(4, k.toNat), (1, 0), (6, s.toNat), (7, a.toNat), (7, d.toNat), (6, 0x24), (1, e.toNat)])
  | .stt e d a s k => some (wordOf [(4, k.toNat), (1, 1), (6, s.toNat), (7, a.toNat), (7, d.toNat), (6, 0x24), (1, e.toNat)])
  | .ldp e d a s k => some (wordOf [(5, k.toNat), (6, s.toNat), (7, a.toNat), (7, d.toNat), (6, 0x25), (1, e.toNat)])
  | .ldpr e d a s k => some (wordOf [(5, k.toNat), (6, s.toNat), (7, a.toNat), (7, d.toNat), (6, 0x26), (1, e.toNat)])
  | .stp e d a s k => some (wordOf [(5, k.toNat), (6, s.toNat), (7, a.toNat), (7, d.toNat), (6, 0x27), (1, e.toNat)])
  | .atom e d a s k => some (wordOf [(5, k.toNat), (6, s.toNat), (7, a.toNat), (7, d.toNat), (6, 0x28), (1, e.toNat)])
  | .atoml e d a s k => some (wordOf [(5, k.toNat), (6, s.toNat), (7, a.toNat), (7, d.toNat), (6, 0x29), (1, e.toNat)])
  | .rld e d a s k => some (wordOf [(5, k.toNat), (6, s.toNat), (7, a.toNat), (7, d.toNat), (6, 0x2A), (1, e.toNat)])
  | .rst e d a s k => some (wordOf [(5, k.toNat), (6, s.toNat), (7, a.toNat), (7, d.toNat), (6, 0x2B), (1, e.toNat)])
  | .ratom e d a s k => some (wordOf [(5, k.toNat), (6, s.toNat), (7, a.toNat), (7, d.toNat), (6, 0x2C), (1, e.toNat)])
  | .fence e s o => some (wordOf [(3, o.toNat), (3, s.toNat), (14, 0), (5, 0), (6, 0x2D), (1, e.toNat)])
  | .waitc e s p => some (wordOf [(3, p.toNat), (6, s.toNat), (11, 0), (5, 1), (6, 0x2D), (1, e.toNat)])
  | .bar e => some (wordOf [(20, 0), (5, 2), (6, 0x2D), (1, e.toNat)])
  | .barc e => some (wordOf [(20, 0), (5, 3), (6, 0x2D), (1, e.toNat)])
  | .cvpF32 e w d a => some (wordOf [(3, 0), (7, 0), (7, a.toNat), (7, d.toNat), (1, w.toNat), (6, 0x2E), (1, e.toNat)])
  | .cvpF32m e w d a => some (wordOf [(3, 1), (7, 0), (7, a.toNat), (7, d.toNat), (1, w.toNat), (6, 0x2E), (1, e.toNat)])
  | .cvpBf e w d a => some (wordOf [(3, 2), (7, 0), (7, a.toNat), (7, d.toNat), (1, w.toNat), (6, 0x2E), (1, e.toNat)])
  | .cvpBfm e w d a => some (wordOf [(3, 3), (7, 0), (7, a.toNat), (7, d.toNat), (1, w.toNat), (6, 0x2E), (1, e.toNat)])
  | .ptrd e w d a => some (wordOf [(3, 4), (7, 0), (7, a.toNat), (7, d.toNat), (1, w.toNat), (6, 0x2E), (1, e.toNat)])
  | .ptwr e d a => some (wordOf [(3, 5), (7, 0), (7, a.toNat), (7, d.toNat), (1, 0), (6, 0x2E), (1, e.toNat)])
  | .cpf2 e a s => some (wordOf [(5, 0), (6, s.toNat), (7, a.toNat), (7, 0), (6, 0x2F), (1, e.toNat)])
  | .cpf1 e a s => some (wordOf [(5, 1), (6, s.toNat), (7, a.toNat), (7, 0), (6, 0x2F), (1, e.toNat)])
  | .cef e a s => some (wordOf [(5, 2), (6, s.toNat), (7, a.toNat), (7, 0), (6, 0x2F), (1, e.toNat)])
  | .cel e a s => some (wordOf [(5, 3), (6, s.toNat), (7, a.toNat), (7, 0), (6, 0x2F), (1, e.toNat)])
  | .cnm e a s => some (wordOf [(5, 4), (6, s.toNat), (7, a.toNat), (7, 0), (6, 0x2F), (1, e.toNat)])
  | .ctrim e t a s => some (wordOf [(5, 5), (6, s.toNat), (7, a.toNat), (7, t.toNat), (6, 0x2F), (1, e.toNat)])
  | .cinv e a s => some (wordOf [(5, 6), (6, s.toNat), (7, a.toNat), (7, 0), (6, 0x2F), (1, e.toNat)])
  | .cwb e a s => some (wordOf [(5, 7), (6, s.toNat), (7, a.toNat), (7, 0), (6, 0x2F), (1, e.toNat)])
  | .cpyin e x y z => some (wordOf [(5, 0), (6, z.toNat), (7, y.toNat), (7, x.toNat), (6, 0x30), (1, e.toNat)])
  | .cpyout e x y z => some (wordOf [(5, 1), (6, z.toNat), (7, y.toNat), (7, x.toNat), (6, 0x30), (1, e.toNat)])
  | .cpyp e x y z => some (wordOf [(5, 2), (6, z.toNat), (7, y.toNat), (7, x.toNat), (6, 0x30), (1, e.toNat)])
  | .gath e x y z => some (wordOf [(5, 3), (6, z.toNat), (7, y.toNat), (7, x.toNat), (6, 0x30), (1, e.toNat)])
  | .scat e x y z => some (wordOf [(5, 4), (6, z.toNat), (7, y.toNat), (7, x.toNat), (6, 0x30), (1, e.toNat)])
  | .cpyc e x y z => some (wordOf [(5, 5), (6, z.toNat), (7, y.toNat), (7, x.toNat), (6, 0x30), (1, e.toNat)])
  | .cpyr e x y z => some (wordOf [(5, 6), (6, z.toNat), (7, y.toNat), (7, x.toNat), (6, 0x30), (1, e.toNat)])
  | .tbinit e s => some (wordOf [(5, 0), (6, s.toNat), (14, 0), (6, 0x31), (1, e.toNat)])
  | .tbarr e a s => some (wordOf [(5, 1), (6, s.toNat), (7, a.toNat), (7, 0), (6, 0x31), (1, e.toNat)])
  | .tbexp e a s => some (wordOf [(5, 2), (6, s.toNat), (7, a.toNat), (7, 0), (6, 0x31), (1, e.toNat)])
  | .tbwait e a s => some (wordOf [(5, 3), (6, s.toNat), (7, a.toNat), (7, 0), (6, 0x31), (1, e.toNat)])
  | .tbtest e d a s => some (wordOf [(5, 4), (6, s.toNat), (7, a.toNat), (7, d.toNat), (6, 0x31), (1, e.toNat)])
  | .mma e f x y z => some (wordOf [(6, z.toNat), (7, y.toNat), (7, x.toNat), (5, f.toNat), (6, 0x32), (1, e.toNat)])
  | .mdr e f x y z => some (wordOf [(5, z.toNat), (1, 0), (7, y.toNat), (7, x.toNat), (5, f.toNat), (6, 0x33), (1, e.toNat)])
  | .wbl e f x y p => some (wordOf [(1, p.toNat), (5, 0), (7, y.toNat), (7, x.toNat), (5, f.toNat), (6, 0x34), (1, e.toNat)])
  | .ttr e x y => some (wordOf [(6, 0), (7, y.toNat), (7, x.toNat), (5, 0), (6, 0x35), (1, e.toNat)])
  | .tscale e x y => some (wordOf [(6, 0), (7, y.toNat), (7, x.toNat), (5, 1), (6, 0x35), (1, e.toNat)])
  | .tzero e x y => some (wordOf [(6, 0), (7, y.toNat), (7, x.toNat), (5, 2), (6, 0x35), (1, e.toNat)])
  | .tzeroAcc e x y n => some (wordOf [(2, n.toNat), (4, 1), (7, y.toNat), (7, x.toNat), (5, 2), (6, 0x35), (1, e.toNat)])
  | .tcvt e x y => some (wordOf [(6, 0), (7, y.toNat), (7, x.toNat), (5, 3), (6, 0x35), (1, e.toNat)])
  | .tadd e x y => some (wordOf [(6, 0), (7, y.toNat), (7, x.toNat), (5, 4), (6, 0x35), (1, e.toNat)])
  | .tmov e x y => some (wordOf [(6, 0), (7, y.toNat), (7, x.toNat), (5, 5), (6, 0x35), (1, e.toNat)])
  | .pqry e x y n => some (wordOf [(2, n.toNat), (4, 0), (7, y.toNat), (7, x.toNat), (5, 0), (6, 0x36), (1, e.toNat)])
  | .pdot e x y n => some (wordOf [(2, n.toNat), (4, 0), (7, y.toNat), (7, x.toNat), (5, 1), (6, 0x36), (1, e.toNat)])
  | .pdotr e x y n => some (wordOf [(2, n.toNat), (4, 0), (7, y.toNat), (7, x.toNat), (5, 2), (6, 0x36), (1, e.toNat)])
  | .pbnd e x y n => some (wordOf [(2, n.toNat), (4, 0), (7, y.toNat), (7, x.toNat), (5, 3), (6, 0x36), (1, e.toNat)])
  | .selk e x y => some (wordOf [(6, 0), (7, y.toNat), (7, x.toNat), (5, 0), (6, 0x37), (1, e.toNat)])
  | .selkx e x y => some (wordOf [(6, 0), (7, y.toNat), (7, x.toNat), (5, 1), (6, 0x37), (1, e.toNat)])
  | .psel e x y => some (wordOf [(6, 0), (7, y.toNat), (7, x.toNat), (5, 2), (6, 0x37), (1, e.toNat)])
  | .lmerge e x y => some (wordOf [(6, 0), (7, y.toNat), (7, x.toNat), (5, 3), (6, 0x37), (1, e.toNat)])
  | .lsort e x y q => some (wordOf [(1, q.toNat), (5, 0), (7, y.toNat), (7, x.toNat), (5, 4), (6, 0x37), (1, e.toNat)])
  | .ssrch e x y l k => some (wordOf [(2, k.toNat), (1, l.toNat), (3, 0), (7, y.toNat), (7, x.toNat), (5, 5), (6, 0x37), (1, e.toNat)])
  | .tspawn e d a b => some (wordOf [(3, 0), (7, b.toNat), (7, a.toNat), (7, d.toNat), (1, 0), (6, 0x38), (1, e.toNat)])
  | .sdec e d a => some (wordOf [(3, 1), (7, 0), (7, a.toNat), (7, d.toNat), (1, 0), (6, 0x38), (1, e.toNat)])
  | .tqry e d a => some (wordOf [(3, 2), (7, 0), (7, a.toNat), (7, d.toNat), (1, 0), (6, 0x38), (1, e.toNat)])
  | .fres e d a b => some (wordOf [(3, 0), (7, b.toNat), (7, a.toNat), (7, d.toNat), (1, 0), (6, 0x39), (1, e.toNat)])
  | .freg e d a b => some (wordOf [(3, 1), (7, b.toNat), (7, a.toNat), (7, d.toNat), (1, 0), (6, 0x39), (1, e.toNat)])
  | .fget e d a b => some (wordOf [(3, 2), (7, b.toNat), (7, a.toNat), (7, d.toNat), (1, 0), (6, 0x39), (1, e.toNat)])
  | .msend e d a => some (wordOf [(3, 0), (7, 0), (7, a.toNat), (7, d.toNat), (1, 0), (6, 0x3A), (1, e.toNat)])
  | .mpost e d a => some (wordOf [(3, 1), (7, 0), (7, a.toNat), (7, d.toNat), (1, 0), (6, 0x3A), (1, e.toNat)])
  | .mprobe e d a => some (wordOf [(3, 2), (7, 0), (7, a.toNat), (7, d.toNat), (1, 0), (6, 0x3A), (1, e.toNat)])
  | .mcancel e d a => some (wordOf [(3, 3), (7, 0), (7, a.toNat), (7, d.toNat), (1, 0), (6, 0x3A), (1, e.toNat)])
  | .mtest e d a => some (wordOf [(3, 4), (7, 0), (7, a.toNat), (7, d.toNat), (1, 0), (6, 0x3A), (1, e.toNat)])
  | .mpostRa e d a => some (wordOf [(3, 5), (7, 0), (7, a.toNat), (7, d.toNat), (1, 0), (6, 0x3A), (1, e.toNat)])
  | .car e d a b => some (wordOf [(3, 0), (7, b.toNat), (7, a.toNat), (7, d.toNat), (1, 0), (6, 0x3B), (1, e.toNat)])
  | .cbc e d a b => some (wordOf [(3, 1), (7, b.toNat), (7, a.toNat), (7, d.toNat), (1, 0), (6, 0x3B), (1, e.toNat)])
  | .cbar e d a => some (wordOf [(3, 2), (7, 0), (7, a.toNat), (7, d.toNat), (1, 0), (6, 0x3B), (1, e.toNat)])
  | .rgive e k => some (wordOf [(4, k.toNat), (4, 0), (2, 0), (15, 0), (6, 0x3C), (1, e.toNat)])
  | .rclaim e w d k => some (wordOf [(4, k.toNat), (4, 0), (2, 1), (7, 0), (7, d.toNat), (1, w.toNat), (6, 0x3C), (1, e.toNat)])
  | .rcnt e w d => some (wordOf [(8, 0), (2, 2), (7, 0), (7, d.toNat), (1, w.toNat), (6, 0x3C), (1, e.toNat)])
  | .rdsr e d n => some (wordOf [(8, n.toNat), (5, 0), (7, d.toNat), (5, 0), (6, 0x3D), (1, e.toNat)])
  | .wrsr e a n => some (wordOf [(8, n.toNat), (5, 0), (7, a.toNat), (5, 1), (6, 0x3D), (1, e.toNat)])
  | .sret e => some (wordOf [(20, 0), (5, 2), (6, 0x3D), (1, e.toNat)])
  | .rwld e a b => some (wordOf [(6, 0), (7, b.toNat), (7, a.toNat), (5, 3), (6, 0x3D), (1, e.toNat)])
  | .rwctl e k => some (wordOf [(3, k.toNat), (17, 0), (5, 4), (6, 0x3D), (1, e.toNat)])
  | .tinv e a b => some (wordOf [(6, 0), (7, b.toNat), (7, a.toNat), (5, 5), (6, 0x3D), (1, e.toNat)])
  | .kvapp e a v d => some (wordOf [(6, d.toNat), (7, v.toNat), (7, a.toNat), (5, 6), (6, 0x3D), (1, e.toNat)])
  | .orderlyWritebackEnd => none
  | .droopRecovery => none
  | .configurationRequest => none
  | .portRetrainComplete => none

end Sys2Proof
end

