-- ==== Sys2Proof/Machine/Types.lean ====
section
/-! DEFINITION. The parts of the state that belong to cores, groups and caches (chapters 06, 07, 08, 09, 12): plain data. -/

namespace Sys2Proof.Machine

/-- Pending hint fields of an issue unit (R244). -/
structure Hints where
  /-- the immediate, present or not -/
  imm : Option Word := none
  /-- the rounding mode of `hint.rnd` -/
  rnd : Option Nat := none
  /-- N of `xvN` and the `.xv` qualifier -/
  xvn : Nat := 0
  xvq : Bool := false
  /-- order and scope of `hint.mo` -/
  mo : Option (Nat × Nat) := none
  /-- policy, class and relative deadline of `hint.cp` -/
  cp : Option (Nat × Nat × Nat) := none
  /-- the remote atomic operation of `hint.ao` -/
  ao : Option Nat := none
  /-- `hint.rw` -/
  rw : Bool := false
  deriving DecidableEq, Repr

/-- What one position of a run left in the latch chain (R119, R120). `lat` is the producer's fixed latency, 0 where it is
asynchronous or has no register result; `low` is the lowest lane active at its issue (0 when none was). -/
structure Latch where
  lat : Nat := 0
  vec : Bool := false
  val : Dword := 0
  lanes : List Word := []
  ptag : BitVec 16 := 0
  low : Nat := 0
  deriving DecidableEq, Repr

/-- A vector register: 32 lanes, its ptag (R174) and whether it was written poisoned (R34). -/
structure VReg where
  lanes : List Word := List.replicate 32 0
  ptag : BitVec 16 := 0
  poison : Bool := false
  deriving DecidableEq, Repr

/-- One register write: of a scalar register, of the active lanes of a vector register with a new ptag, or of a ptag. -/
inductive RegWrite where
  | s (d : Nat) (v : Dword)
  | v (d : Nat) (mask : Word) (lanes : List Word) (ptag : BitVec 16) (poison : Bool)
  | tag (d : Nat) (ptag : BitVec 16)
  deriving DecidableEq, Repr

/-- A fixed-latency write that has not landed: `left` more slots of its unit (R114). -/
structure DueWrite where
  left : Nat
  w : RegWrite
  deriving DecidableEq, Repr

/-- An open hardware loop (R265): its counter, the first instruction of its body and the last. -/
structure Loop where
  count : Nat
  start : Va
  last : Va
  deriving DecidableEq, Repr

/-- What an issue unit waits for. `exited` units issue nothing more (R267). -/
inductive Wait where
  | ready
  | regang
  | bar
  | barc
  | tbwait (addr : Nat) (arg : Dword)
  | exited
  deriving DecidableEq, Repr

/-- An issue unit (R102, R109): the slices that share a program counter. `pos` is the run position of the next
instruction, `chain` the latch chain with the newest position first. -/
structure IUnit where
  uid : Nat := 0
  slices : BitVec 8 := 255
  pc : Va := 0
  loops : List Loop := []
  pos : Nat := 0
  chain : List Latch := []
  hints : Hints := {}
  due : List DueWrite := []
  stamp : Nat := 0
  streak : Nat := 0
  yielded : Bool := false
  /-- its streak has ended by the cap or `yield`, and its stamp is renewed (R102) -/
  ended : Bool := false
  wait : Wait := .ready
  /-- this unit has arrived at the barrier it waits at and is not counted again (R304) -/
  arrived : Bool := false
  /-- the barrier it waited at has completed (R303) -/
  passed : Bool := false
  /-- lines that the first instruction of its next run was found to wait for: a task's store for sets that other tasks have pinned (R219), a
  cache-control command for earlier accesses (R311) -/
  awaits : List Nat := []
  deriving DecidableEq, Repr

/-- An event reported at a `waitc` (R124, R222): its path, the operation's number and order within it, cause and TRX. -/
structure Report where
  path : Nat
  seq : Nat
  cause : Nat
  trx : Dword
  /-- the place of the request among those of its operation: its lowest lane, or its index (R42, R217) -/
  lane : Nat := 0
  /-- TRA where it is not the `waitc` itself (TILE_FAULT, R153) -/
  tra : Option Va := none
  /-- the faulted instance whose originals `sret` enters (R154) -/
  inst : Option Nat := none
  /-- a faulted sweep's iterator, the index it stopped at, and the iterator's write count at capture (R289) -/
  iter : Option (Nat × Nat × Nat) := none
  deriving DecidableEq, Repr

/-- Kinds of asynchronous operations (R121). -/
inductive OpKind where
  | sfu
  | ldl | stl | atoml
  | ldg | ldt | ldp | ldpr
  | stg | stt | stp | atom
  | fres | freg | fget | tspawn | sdec | tqry
  | rld | rst | ratom
  | msend | mpost | mprobe | mcancel | mtest
  | car | cbc | cbar
  | engine
  | cfetch
  deriving DecidableEq, Repr

/-- How far an operation has come: issued, performed, parked on a fault record (R214), held by a write-protected page
(R216), or sent and waiting for responses or for another unit of the device. -/
inductive OpStatus where
  | issued
  | performed
  | parked (rec : Nat)
  | held
  | sent
  deriving DecidableEq, Repr

/-- Where an engine command stands: held in the Reckoner window (R137), entered into the scoreboard, started, or retired
(R133). -/
inductive Stage where
  | window
  | entered
  | started
  | retired
  deriving DecidableEq, Repr

/-- An engine command (R133, R137): its word and address, the captured slot values, the further registers of a layout
record, the iterator, the captured hint fields, its rewrite count and the instance it belongs to. -/
structure Cmd where
  word : Word := 0
  addr : Va := 0
  /-- its operation's number at issue, once an instance keeps it as an original (R154) -/
  num : Option Nat := none
  x : Option Dword := none
  y : Option Dword := none
  z : Option Dword := none
  record : List Dword := []
  iter : List Dword := []
  /-- number of `itset` to the iterator when captured (R289) -/
  itGen : Nat := 0
  /-- the extra value captured for FP4, and the `.xv` qualifier -/
  xv : Nat := 0
  xvq : Bool := false
  cp : Option (Nat × Nat × Nat) := none
  count : Nat := 0
  inst : Option Nat := none
  rep : Nat := 0
  stage : Stage := .window
  /-- entry number in the scoreboard, and the core cycle in which it started -/
  entry : Nat := 0
  began : Nat := 0
  /-- elements moved before it parked (R309), and those that its outstanding request moves -/
  moved : Nat := 0
  waiting : Nat := 0
  /-- of the element it has come to, which two 256 B blocks share, the bytes moved, and those once its outstanding request is answered -/
  part : Nat := 0
  partNext : Nat := 0
  /-- the list it gathers names key-value pages (R308) -/
  kv : Bool := false
  /-- image offset of the V part of a page being fetched from another device -/
  vAt : Nat := 0
  /-- sectors posted to barriers at issue or formation: barrier address, sectors (R183, R369) -/
  posted : List (Nat × Nat) := []
  /-- local ranges written and read, while it is held in the window (R142): start, length -/
  wr : List (Nat × Nat) := []
  rd : List (Nat × Nat) := []
  /-- level of the group at issue (R206, R209) -/
  priv : Bool := false
  /-- commands of its own group that wait for this replayed original (R154) -/
  holds : List Nat := []
  deriving DecidableEq, Repr

/-- An asynchronous operation of a group: everything captured at issue, and what it has produced. -/
structure Op where
  seq : Nat
  path : Nat
  pc : Va
  kind : OpKind
  /-- width, depth, operation code or function -/
  k : Nat := 0
  /-- destination registers: first, how many, vector or scalar -/
  d : Nat := 0
  dn : Nat := 0
  dvec : Bool := true
  mask : Word := 0
  /-- per lane: virtual or local address -/
  addrs : List Nat := []
  /-- per lane and piece (lane * pieces + piece), or per plane word: the IA -/
  ias : List Nat := []
  /-- requests not yet performed: piece, lanes in ascending order (R291) -/
  reqs : List (Nat × List Nat) := []
  /-- register operands read at issue, each 32 lanes -/
  data : List (List Word) := []
  ptag : BitVec 16 := 0
  poison : Bool := false
  vals : List Dword := []
  ranks : List Nat := []
  mo : Nat := 0
  scope : Nat := 0
  pol : Nat := 0
  cls : Nat := 1
  deadline : Nat := 0
  rnd : Nat := 0
  priv : Bool := false
  /-- a range register with SOR = 1 serves one of its accesses (R210); SOR of each access, as `ias` lists them (R209) -/
  so : Bool := false
  sors : List Bool := []
  /-- what each request that is left waits for, in the order of `reqs`: a fault record, or `wpHold` (R214, R216) -/
  waits : List Nat := []
  status : OpStatus := .issued
  cmd : Option Cmd := none
  out : List RegWrite := []
  reports : List Report := []
  deriving DecidableEq, Repr

/-- An instance of a rewrite (R138, R153, R154, R369). -/
structure Instance where
  id : Nat
  rule : Nat
  addr : Va
  originals : List Cmd
  /-- replacements not yet complete -/
  left : Nat
  /-- sectors of the matched entries, added to DONE when the last replacement completes, and whether with FLT -/
  owed : List (Nat × Nat)
  flt : Bool := false
  /-- instances whose replacements it took, one per entry: each of those ends with it -/
  ups : List Nat := []
  /-- place of its first original in the issue order, for R222 -/
  order : Nat := 0
  /-- it has faulted: entry number of the replacement that did -/
  fault : Option Nat := none
  deriving DecidableEq, Repr

/-- The trap state captured at entry and restored by `sret` (R118, R220, R352). -/
structure TrapSave where
  stat : Dword
  uid : Nat
  pos : Nat
  chain : List Latch
  hints : Hints
  due : List DueWrite
  /-- open loops at entry (R128) -/
  loops : List Loop := []
  /-- what the registers of those writes held at entry (R118) -/
  old : List RegWrite := []
  resume : Va
  traWritten : Bool := false
  inst : Option Nat := none
  /-- entry number of the next command at trap entry (R154) -/
  cut : Nat := 0
  /-- what the trapped unit waited for, so that it waits again without being counted twice (R304), and whether the barrier that it
  stands at has completed (R303) -/
  arrived : Bool := false
  passed : Bool := false
  deriving DecidableEq, Repr

/-- Who occupies a slot. -/
inductive Holder where
  | free
  | group
  | task
  deriving DecidableEq, Repr

/-- Pre-emption of a group (R104, R105). -/
inductive Preempt where
  | none
  | requested
  | stopping (units : BitVec 12) (octets : BitVec 8)
  /-- not stopped in time: it stops at its next run boundary -/
  | forced
  | stopped
  deriving DecidableEq, Repr

/-- A task record (R94), its 64 bytes. -/
abbrev TaskRecord := List Byte

/-- What a task inherits (R96). -/
structure Inherit where
  rwp : BitVec 3 := 0
  fxb : Dword := 0
  lnch : Word := 0
  safeto : Nat := 0
  deriving DecidableEq, Repr

/-- How a task's buffered store asks memory at the exit (R27, R202, R209): its policy, class and relative deadline, and its level. -/
structure BufAsk where
  pol : Nat := 0
  cls : Nat := 1
  deadline : Nat := 0
  priv : Bool := false
  /-- address of the storing instruction, which a fault record names (R214) -/
  iaddr : Nat := 0
  deriving DecidableEq, Repr

/-- A store a task has buffered in L1 (R202), with the SOR of its range registers (R209): bytes at an IA, or a plane store: the
IAs and the words of H, S, M1 on, and PSTR. -/
inductive BufStore where
  | bytes (ia : Nat) (bs : List Byte) (sor : Bool) (ask : BufAsk)
  | plane (ias : List Nat) (pstr : Nat) (words : List Word) (sors : List Bool) (ask : BufAsk)
  deriving DecidableEq, Repr

/-- Role of a core in a matrix pair (R90, R316). -/
inductive PairRole where
  | single
  | leader (follower : Nat) (launch cluster : Nat)
  | follower (leader : Nat) (launch cluster : Nat)
  deriving DecidableEq, Repr

/-- A group or a task in its slot (R86 to R89, R96, R111). -/
structure Group where
  holder : Holder := .free
  part : Nat := 0
  /-- the launch, and the indexes of R88 -/
  launch : Nat := 0
  gid : Nat := 0
  tid : Nat := 0
  cid : Nat := 0
  role : Nat := 0
  /-- the cluster instance, for `barc` and the cluster's memory scope -/
  cluster : Nat := 0
  /-- the role that its cluster gives its core (R90) -/
  pairRole : PairRole := .single
  /-- slots of the team's groups in group order; empty for a task -/
  team : List Nat := []
  /-- pages of a task's region -/
  pages : List Nat := []
  task : TaskRecord := []
  inherit : Inherit := {}
  /-- the order of start among the tasks of the core (R219) -/
  born : Nat := 0
  /-- stores a task has buffered, oldest first (R202) -/
  tbuf : List BufStore := []
  /-- a store of the task is stalled for want of a pinned line (R219) -/
  pinStall : Bool := false
  /-- register state -/
  sregs : Map Dword := []
  vregs : Map VReg := []
  masks : List Word := [0xFFFFFFFF, 0, 0, 0]
  iters : Map (List Dword) := []
  itGens : Map Nat := []
  units : Nat := 6
  /-- system registers (R221, R252) -/
  stat : Dword := 0
  trc : Dword := 0
  tra : Dword := 0
  trx : Dword := 0
  trv : Dword := 0
  rwp : BitVec 3 := 0
  rws : Dword := 0
  fxb : Dword := 0
  fxt : Dword := 0xFFFFFFFF
  lnch : Word := 0
  xvs : List (BitVec 16) := [0, 0, 0, 0]
  /-- issue -/
  iunits : List IUnit := []
  nextUid : Nat := 1
  ops : List Op := []
  reports : List Report := []
  instances : List Instance := []
  save : Option TrapSave := none
  /-- barriers passed and arrivals at the next (R303) -/
  bars : Nat := 0
  barcs : Nat := 0
  /-- adds waiting to be made at FXB, in order: counter number, count (R223) -/
  fxAdds : List (Nat × Nat) := []
  /-- adds waiting to be made at RWS, in order (R155) -/
  rwAdds : List (Nat × Nat) := []
  preempt : Preempt := .none
  /-- a task that has exited performs the steps of its completion (R96) -/
  finishing : Bool := false
  /-- the group ends as a trap that is not resumed (R220), or a task is aborted (R218) -/
  ended : Option Nat := none
  aborted : Bool := false
  /-- the record an aborted task waits for before it is dispatched again (R218), and the graph node it runs for -/
  abortRec : Option Nat := none
  node : Option (Nat × Nat) := none
  /-- the fault record a stalled instruction waits for, and whether it was resolved FATAL (R214, R215) -/
  waitRec : Option (Nat × Bool) := none
  /-- the IA of that access, and whether it writes -/
  waitIa : Nat × Bool := (0, false)
  deriving DecidableEq, Repr

/-- A quarter (R86, R102, R108, R126, R132). -/
structure Quarter where
  /-- the slot and unit that issue -/
  cur : Option (Nat × Nat) := none
  /-- free units of the pool -/
  pool : Nat := 8
  /-- units that a free group slot lacks of its 6 (R132) -/
  short : Map Nat := []
  /-- SFU entries in issue order: slot and operation number -/
  sfu : List (Nat × Nat) := []
  deriving DecidableEq, Repr

/-- An instruction frame (R129): a resident 4 KiB segment. Code bytes are listed by offset; an unlisted
byte is 0. -/
structure Frame where
  seg : Nat
  part : Nat
  code : List Host.Cell := []
  issued : Nat := 0
  deriving DecidableEq, Repr

/-- The attributes that a translation gives (R213): writable, kind (R200), write-protect window, tier. -/
structure Attr where
  w : Bool := true
  ord : Nat := 0
  wp : Bool := false
  tier : Nat := 0
  deriving DecidableEq, Repr

/-- A cache line (R160, R166): ordinary (128 bytes) or plane (26 words of 4 bytes, held depth `depth`). `dirty` is one
bit per 16 B chunk; the attributes are those of the translation that filled it (R213). -/
structure Line where
  part : Nat
  ia : Nat
  plane : Bool := false
  pstr : Nat := 0
  depth : Nat := 0
  data : List Byte
  /-- poisoned granules of an ordinary line (0, 1), or poisoned words of a plane line -/
  bad : List Nat := []
  dirty : BitVec 8 := 0
  /-- slot of a per-thread line (R161) -/
  owner : Option Nat := none
  /-- 0 evict-first, 1 normal, 2 evict-last (R171) -/
  prio : Nat := 1
  used : Nat := 0
  /-- landings and fills pending into it (R172) -/
  busy : Nat := 0
  writable : Bool := true
  ord : Nat := 0
  wp : Bool := false
  tier : Nat := 0
  /-- where its bytes lie: the physical or host address of an ordinary line, or of each word of a plane line -/
  pas : List Nat := []
  /-- the attributes of each word of a plane line (R213), and its words' IAs -/
  attrs : List Attr := []
  ias : List Nat := []
  /-- what of the dirty chunks was stored: bytes of a per-thread line (R161), words of a plane line (R168, R312) -/
  stored : BitVec 128 := 0
  deriving DecidableEq, Repr

/-- A far copy of an ordinary line (R194) held by the L2 of one die, and whether its invalidation is in flight. -/
structure FarCopy where
  die : Nat
  part : Nat
  ia : Nat
  data : List Byte
  bad : List Nat := []
  stale : Bool := false
  deriving DecidableEq, Repr

/-- Kind of an accumulator (R315). -/
inductive AccKind where
  | zero | fp32 | i32
  deriving DecidableEq, Repr

/-- Tag of a weight slot (R315, R317). -/
inductive WTag where
  | empty | b16 | f8e4 | f8e5 | i8 | i4 | fp4 | cbf | cf8
  deriving DecidableEq, Repr

/-- A matrix operand latched by the last `mma` (R315): its element codes by row, and its format number. -/
structure Latched where
  fmt : Nat
  rows : List (List Nat)
  deriving DecidableEq, Repr

/-- State of a matrix pair, kept in its leader, or of an unpaired core (R315). -/
structure Matrix where
  acc : Map (AccKind × List Word) := []
  slots : Map (WTag × List Nat) := []
  bypass : Map Nat := []
  latA : Option Latched := none
  latB : Option Latched := none
  deriving DecidableEq, Repr

/-- A query slot of the plane-dot unit (R321): C weights, the FP32 scale. -/
structure Query where
  weights : List Int := []
  q : Nat := 0
  deriving DecidableEq, Repr

/-- A queued or prefetching task (R94, R95). -/
structure QTask where
  id : Nat
  part : Nat
  record : TaskRecord
  inherit : Inherit
  /-- shadow slot and pages once dispatched; `ready` when everything has arrived -/
  slot : Option Nat := none
  pages : List Nat := []
  /-- the number at which its prefetch began (R356) -/
  began : Nat := 0
  ready : Bool := false
  /-- requeued after an abort: not dispatched before this fault record is resolved (R218) -/
  blocked : Option Nat := none
  /-- graph and node that started it (R83) -/
  node : Option (Nat × Nat) := none
  deriving DecidableEq, Repr

/-- A core (R108). -/
structure Core where
  clk : Dword := 0
  groups : Map Group := []
  quarters : Map Quarter := []
  frames : List Frame := []
  /-- local memory 0 to 524,287: the team area, then the task area at 393,216 (R87); poisoned bytes beside it -/
  lmem : List Host.Cell := []
  lpoison : List Nat := []
  l1 : List Line := []
  /-- entry number of the next engine command (R133) -/
  entries : Nat := 0
  matrix : Matrix := {}
  pair : PairRole := .single
  queries : Map Query := []
  /-- queued and prefetching tasks in order of capture (R94), the queue served last per priority, and how often each waiting task,
  by its id, was passed over (R97) -/
  tasks : List QTask := []
  lastQueue : Map Nat := []
  passed : Map Nat := []
  /-- the core's clock is stretched (R9); trips in the current millisecond -/
  drooping : Bool := false
  trips : List Nat := []
  /-- shadow window of the partition on this core (R84): the partition holding it -/
  shadowOf : Option Nat := none
  deriving DecidableEq, Repr

end Sys2Proof.Machine
end

