-- ==== Sys2Proof/Machine/DeviceTypes.lean ====
section
/-! DEFINITION. The parts of the state that belong to the package, main memory, the fabric, the Cairn and the partitions
(chapters 01 to 06, 12, 21): plain data. -/

namespace Sys2Proof.Machine

/-- Events the management engine posts (R10, R11, R12, R26, R35, R75, R136, R217, R220 and the chapters that name them). -/
inductive MgmtEvent where
  | transient (res : Resource)
  | retired (res : Resource)
  | noSpare (res : Resource)
  | unclassified (res : Resource)
  | repbad
  | tagloss (stack set : Nat)
  | patrolPoison (pa : Nat)
  | pcmdbad (part : Nat)
  | matrixReset (core : Nat)
  | trapUnresumed (core slot : Nat)
  | portDown (port : Nat)
  /-- a key record refused, with its failure code (R50) -/
  | keyRecord (part code : Nat)
  /-- a BAR2 access answered with Unsupported Request before READY (R17) -/
  | unsupported (fn off : Nat)
  deriving DecidableEq, Repr

/-- What the device answers over MCTP, SPDM and to configuration requests (R12, R14, R17, R50). -/
inductive Answer where
  /-- the repair section and its signature -/
  | repair (section_ signature : List Byte)
  | measurements (values signature : List Byte)
  | spdmError
  | retryStatus
  | configuration
  | key (state code : Nat)
  deriving DecidableEq, Repr

/-- How far a reset has come (R15, R17). -/
inductive ResetPhase where
  | running
  /-- an orderly reset writes back -/
  | writeBack
  /-- state is cleared; retrains run -/
  | retraining
  deriving DecidableEq, Repr

/-- Package, power, health and reset (chapter 01). -/
structure Pkg where
  ready : Bool := false
  hbmtr : Bool := false
  sadtr : Bool := false
  imgok : Bool := false
  idok : Bool := false
  recov : Bool := false
  lastrst : Nat := 0
  imgslot : Bool := false
  throt : Throttle := .none
  phase : ResetPhase := .retraining
  /-- LASTRST of the reset in progress -/
  kind : Nat := 0
  idPending : Bool := false
  clocksStopped : Bool := false
  flashA : Image := ⟨true, [], .absent⟩
  flashB : Image := ⟨true, [], .absent⟩
  /-- the vendor section that a cold reset accepted and copied into configuration RAM (R12), with what its slot's repair section
  then was -/
  image : Option Image := none
  /-- repair maps in configuration RAM -/
  repair : List Resource := []
  events : List MgmtEvent := []
  /-- self-tests pending, and resources taken out of service for one -/
  tests : List Resource := []
  windows : List Resource := []
  /-- what R10 has marked degraded: the resources whose units it left in service -/
  degraded : List Resource := []
  /-- operating point of each die in mV; how many steps it stands lowered -/
  opPoint : List Nat := [650, 650]
  lowered : List Nat := [0, 0]
  /-- answers given, newest last -/
  answers : List Answer := []
  /-- device time base, 8 ns ticks (R7, R27) -/
  tick : Nat := 0
  deriving DecidableEq, Repr

/-- A block of the DRAM cache layer (R24, R25): its number within its channel, sectors valid and dirty, LRU stamp. Its
data is listed by offset. -/
structure CBlock where
  block : Nat
  valid : BitVec 32 := 0
  dirty : BitVec 32 := 0
  used : Nat := 0
  data : List Host.Cell := []
  poison : List Nat := []
  deriving DecidableEq, Repr

/-- A request queued at a channel (R27 to R30), with the place its address had in storage when it was accepted (R22): channel, and
offset there. -/
structure QReq where
  id : Nat
  req : MemReq
  place : Nat × Nat
  arrived : Nat
  promoted : Bool := false
  deriving DecidableEq, Repr

/-- Main memory (chapter 02). -/
structure Hbm where
  /-- storage by physical place (channel, then offset in its slabs); an unlisted byte reads 0 (log 2) -/
  store : List Host.Cell := []
  /-- poisoned 64 B granules of storage, by number -/
  poison : List Nat := []
  /-- cache layer: channel * 4096 + set to at most 4 blocks -/
  layer : Map (List CBlock) := []
  /-- victims being written back: channel, block -/
  victims : List (Nat × CBlock) := []
  disabled : List Nat := []
  mgs : Map Nat := []
  queues : Map (List QReq) := []
  /-- requests scheduled and not yet completed: channel, request, data read, whether it was poisoned -/
  done : List (Nat × QReq × List Byte × Bool) := []
  nextReq : Nat := 0
  /-- the counter behind least-recently-used order in the cache layer (R25) -/
  uses : Nat := 0
  /-- channels that the step in progress has accessed, while a resource is out of service (R10) -/
  touched : List Nat := []
  missed : Map Nat := []
  mcsel : Word := 0
  /-- ticks waited on refresh per channel * 48 + bank; forced all-bank refreshes per channel; postponed per bank -/
  mcref : Map Nat := []
  mcfab : Map Nat := []
  postponed : Map Nat := []
  deriving DecidableEq, Repr

/-- A key slot of a port (R49, R51). -/
structure KeySlot where
  present : Bool := false
  job : Nat := 0
  key : Nat := 0
  gen : Nat := 0
  txCount : Nat := 0
  rxCount : Nat := 0
  deriving DecidableEq, Repr

/-- A Butus port (R36, R45, R49, R51). -/
structure Port where
  trained : Bool := false
  up : Bool := false
  fails : Nat := 0
  slots : Map KeySlot := []
  tagfail : Word := 0
  kdrop : Word := 0
  badpkt : Word := 0
  late : Word := 0
  deriving DecidableEq, Repr

/-- Who made a remote request, and what its response does (R41 to R44). -/
inductive Requester where
  | lane (core slot seq lane : Nat)
  | engine (core slot seq : Nat)
  | cairn (part sid : Nat)
  | coll (group seq : Nat)
  | checkpoint
  deriving DecidableEq, Repr

/-- An outstanding request by its tag (R41). -/
structure Outstanding where
  tag : Nat
  who : Requester
  pkt : Packet
  va : Nat := 0
  born : Nat := 0
  port : Nat := 0
  deriving DecidableEq, Repr

/-- A group of the collective unit (R46 to R48, R346 to R349). -/
structure Coll where
  /-- MCG -/
  count : Nat := 0
  index : Nat := 0
  valid : Bool := false
  /-- CRBUF -/
  base : Nat := 0
  bank : Nat := 0
  /-- contributions that have arrived, by bank and member -/
  arrived : List (Nat × Nat) := []
  /-- multicast writes of broadcasts that have arrived and are not yet accounted for: sender's rank, IA, bytes -/
  landed : List (Nat × Nat × Nat) := []
  broken : Bool := false
  /-- the operation in progress: core, slot, operation number, and whether one of its multicast writes failed -/
  busy : Option (Nat × Nat × Nat) := none
  failed : Bool := false
  deriving DecidableEq, Repr

/-- The fabric (chapter 03). -/
structure Fabric where
  drank : Nat := 4095
  pjob : Map (Nat × Bool) := []
  colls : Map Coll := []
  capRows : Map Nat := []
  ports : Map Port := []
  /-- key window (R50) -/
  kwrec : List Host.Cell := []
  kwState : Nat := 0
  kwCode : Nat := 0
  /-- the record being installed, and how many management commands wait for its end (R50) -/
  kwBusy : List Byte := []
  kwMctp : Nat := 0
  ckptDesc : Dword := 0
  ckptState : Nat := 0
  ckptCode : Nat := 0
  /-- descriptors captured: source, length in 2 MiB units, rank, IA; the next piece of 256 B; requests outstanding -/
  ckptList : List (Nat × Nat × Nat × Nat) := []
  ckptNext : Nat := 0
  ckptOpen : Nat := 0
  /-- ABORT was written while a packet was in flight -/
  ckptAborting : Bool := false
  out : List Outstanding := []
  nextTag : Nat := 0
  /-- packets handed to the switches, oldest first: port, packet -/
  tx : List (Nat × Packet) := []
  /-- requests held while their plane fails over (R45) -/
  heldTx : List Packet := []
  /-- message packets that a held message channel keeps at the ports, oldest first (R65): port, packet -/
  heldIn : List (Nat × Packet) := []
  /-- responses that their port cannot transmit yet (R49): port, packet -/
  heldRsp : List (Nat × Packet) := []
  deriving DecidableEq, Repr

/-- A posted receive (R59 to R61, R359): its index, its place among the posts, and its descriptor. -/
structure Posted where
  index : Nat
  order : Nat
  desc : List Byte := []
  armed : Bool := true
  deriving DecidableEq, Repr

/-- A message on the receive side (R62, R63, R66 to R69): its sender, its header, the payload that has arrived, and once matched
the descriptor it lands in and how far the landing has come. -/
structure InMsg where
  src : Nat
  sid : Nat
  hdr : Packet
  order : Nat
  /-- payload so far, in order, and pieces of it that arrived poisoned: start and length -/
  data : List Byte := []
  bad : List (Nat × Nat) := []
  /-- the descriptor, and the handle of the entry it was posted as -/
  desc : List Byte := []
  handle : Option Nat := none
  /-- bytes landed, or blocks landed where planed -/
  landed : Nat := 0
  poisoned : Bool := false
  parked : Option Nat := none
  failed : Option Nat := none
  /-- a pull of it is outstanding -/
  pulling : Bool := false
  /-- while it is queued: its entry of the header queue, and its slot of the eager data region (R63) -/
  entry : Nat := 0
  slot : Option Nat := none
  /-- bytes of its payload that lie in the slot -/
  stored : Nat := 0
  deriving DecidableEq, Repr

/-- A send not yet complete (R57, R63, R64, R358): its header, VA window and future, its payload once read, and whether its
packets have been injected. -/
structure OutMsg where
  sid : Nat
  dst : Nat
  hdr : Packet
  buf : Nat := 0
  pstr : Nat := 0
  fut : Nat := 0
  /-- the relative deadline of its packets, the policy of its reads, and whether they are a user's (R206, R333) -/
  rel : Nat := 0
  pol : Nat := 0
  user : Bool := false
  payload : List Byte := []
  staged : Bool := false
  sent : Bool := false
  acked : Nat := 0
  refused : Bool := false
  core : Nat := 0
  slot : Nat := 0
  seq : Nat := 0
  deriving DecidableEq, Repr

/-- Cairn state of a partition (chapter 04). `held`: its full header queue holds the message channel (R65). -/
structure Cairn where
  regs : Map Dword := []
  enabled : Bool := false
  posted : List Posted := []
  gens : Map Nat := []
  nextOrder : Nat := 0
  unexpected : List InMsg := []
  landings : List InMsg := []
  refusing : List Nat := []
  sid : Nat := 0
  sends : List OutMsg := []
  held : Bool := false
  deriving DecidableEq, Repr

/-- A range register (R208). -/
structure RangeReg where
  base : Dword := 0
  lim : Dword := 0
  off : Dword := 0
  attr : Word := 0
  deriving DecidableEq, Repr

/-- An open fault record (R214, R215): number, the page it names, and whether it is FATAL. -/
structure FaultRec where
  seq : Nat
  page : Nat
  bytes : List Byte := []
  posted : Bool := false
  deriving DecidableEq, Repr

/-- A translation a home slice has cached (R213), by 64 KiB page. -/
structure Walk where
  page : Nat
  pte : Dword
  level : Nat
  deriving DecidableEq, Repr

/-- Who a fault record names (R214): core, slot, requester code, address of the issuing instruction. -/
structure Faulter where
  core : Nat := 0
  slot : Nat := 0
  req : Nat := 0
  iaddr : Nat := 0
  deriving DecidableEq, Repr
/-- Who takes steps at futures and headers (R100, R101): die, name in a fault record, and how it asks memory (R27, R244): policy, class,
relative deadline, and the requester that R30 counts. -/
structure Agent where
  die : Nat := 0
  who : Faulter := {}
  pol : Nat := 0
  cls : Nat := 1
  rel : Nat := 0
  requester : Nat := 385
  deriving DecidableEq, Repr
/-- What agents other than an issuing instruction do to headers, futures and task records (R96, R100, R101), and what follows. -/
inductive Act where
  | dec (va : Nat)
  | res (va : Nat) (word value : Dword)
  /-- a future or header of a task, which must lie in device memory (R96) -/
  | tdec (va : Nat)
  | tres (va : Nat) (word value : Dword)
  /-- a resolution that has been translated and waits at its home slice (R214) -/
  | resAt (ia : Nat) (sor dev : Bool) (word value : Dword)
  /-- a decrement of the header at a VA that has been translated and waits at its home slice -/
  | decAt (va ia : Nat) (sor dev : Bool)
  | submit (core : Nat) (record : TaskRecord)
  /-- the last step of a task's completion frees its slot (R96); a graph's node has completed (R83) -/
  | free (core slot : Nat)
  | node (graph node : Nat)
  deriving DecidableEq, Repr

/-- Another agent's access that waits for a fault record (R67, R76, R78, R95, R100, R211). -/
inductive Parked where
  /-- decrements and resolutions of an agent: the one that waits, and the steps that follow it (R96, R100) -/
  | acts (ag : Agent) (inherit : Inherit) (steps : List Act)
  /-- a Cairn completion's future (R69), as the agent that resolves it asks memory -/
  | completion (ag : Agent) (va : Nat) (word value : Dword)
  /-- a store of the Cairn into its header queue or its eager data region (R63) -/
  | store (ia : Nat) (bs : List Byte)
  | launchRead (launch : Nat)
  /-- a completed node of a graph whose successors wait to be counted down (R83) -/
  | graphNode (graph node : Nat)
  | queueRead (queue : Nat)
  | remote (port : Nat) (pkt : Packet)
  /-- a virtual function's write that a write-protected page holds (R72, R216) -/
  | host (ia : Nat) (sor : Bool) (bs : List Byte)
  /-- a virtual function's read that waits for its earlier writes (R72): VA, length -/
  | hostRead (va n : Nat)
  deriving DecidableEq, Repr

/-- A launch queue (R77, R78): `r` is R, `seen` the last W, `waiting` a notification not yet handled, `parked` a record read or
an enabling that waits for a fault record. -/
structure LQueue where
  ring : Dword := 0
  line : Dword := 0
  log2n : Nat := 0
  en : Bool := false
  state : Nat := 0
  code : Nat := 0
  r : Dword := 0
  seen : Dword := 0
  waiting : Bool := false
  parked : Bool := false
  deriving DecidableEq, Repr

/-- A launch not yet complete (R80, R81, R89 to R92), in reading order: clusters placed, groups that have not retired, and its
failure; `parked` while a read of its code waits for a fault record. -/
structure Launch where
  id : Nat
  record : List Byte
  /-- graph and node that started it -/
  node : Option (Nat × Nat) := none
  next : Nat := 0
  live : Nat := 0
  failed : Option Nat := none
  parked : Bool := false
  /-- the graph it has started, for KIND 1 -/
  graph : Option Nat := none
  deriving DecidableEq, Repr

/-- A graph being walked (R83): its launch, its nodes whose start waits for a fault record, those started and not complete, complete
and not yet accounted for, and done. -/
structure Graph where
  id : Nat
  launch : Nat
  nodes : Nat
  pending : List Nat := []
  started : List Nat := []
  ended : List Nat := []
  done : List Nat := []
  failed : Bool := false
  deriving DecidableEq, Repr

/-- A record waiting in the scheduler for a task queue entry (R100): target core or none for the scheduler's choice. -/
structure Deferred where
  core : Option Nat
  record : TaskRecord
  inherit : Inherit
  node : Option (Nat × Nat) := none
  deriving DecidableEq, Repr

/-- A core of a swapped-out partition (R84). -/
structure Saved where
  core : Nat
  groups : Map Group
  quarters : Map Quarter
  frames : List Frame
  lmem : List Host.Cell
  lpoison : List Nat
  matrix : Matrix
  queries : Map Query
  tasks : List QTask
  /-- what its task queues have counted and served (R97) -/
  lastQueue : Map Nat := []
  passed : Map Nat := []
  pair : PairRole
  /-- it lies in the core's shadow window, not in the save area -/
  shadow : Bool
  deriving DecidableEq, Repr

/-- A partition (chapters 04, 05, 06, 08, 10, 12). -/
structure Part where
  units : BitVec 8 := 0
  rwpmax : BitVec 3 := 0
  userrw : Bool := false
  shen : Bool := false
  st : Nat := 0
  /-- degraded cores it was formed without (R10) -/
  without : List Nat := []
  psave : Dword := 0
  saved : List Saved := []
  pfrc : Word := 0
  pjerr : Word := 0
  ptmb : Dword := 0
  ptms : Nat := 0
  kvrs : Word := 0
  kvtn : Word := 0
  kvtb : Dword := 0
  kvgb : Dword := 0
  ptbr : Dword := 0
  ptvb : Dword := 0
  fqbase : Dword := 0
  fqcfg : Word := 0
  fqw : Dword := 0
  fqr : Dword := 0
  records : List FaultRec := []
  nextRec : Nat := 0
  ranges : Map RangeReg := []
  walks : List Walk := []
  parked : List (Nat × Parked) := []
  /-- valid rules of the table, by number (R144): their 64 bytes -/
  rules : Map (List Byte) := []
  lqs : Map LQueue := []
  tqBound : Map Nat := []
  launches : List Launch := []
  graphs : List Graph := []
  nextLaunch : Nat := 0
  nextCluster : Nat := 0
  /-- the launch that holds the reservation, and the cores it reserves (R91) -/
  reservation : Option (Nat × List Nat) := none
  deferred : List Deferred := []
  cairn : Cairn := {}
  deriving DecidableEq, Repr

end Sys2Proof.Machine
end

