-- ==== Sys2Proof/Machine/State.lean ====
section
/-! DEFINITION. The state of the C9 as plain data, the reasons a step can stop, and the state right after reset. -/

namespace Sys2Proof.Machine

/-- Why the machine stops with a fault. -/
inductive Fault where
  /-- Raised by `step` when all clocks are stopped after a thermal shutdown (R8) and the next turn is no cold reset: the
  device does nothing. Safe: the hardware does nothing either. -/
  | powerOff
  deriving DecidableEq, Repr

/-- Why an instruction is refused. -/
inductive Refusal where
  /-- Raised by `exec` for an instruction that has no meaning yet. Safe: nothing is claimed of it. -/
  | notModelled (mnemonic : String)
  deriving DecidableEq, Repr

/-- Which agent moves next (log 1): a quarter issues, an event occurs with its operands, an operation of a group is
performed ahead of its completion, time passes, or a core's clock runs on. -/
inductive Turn where
  | issue (core quarter : Nat)
  | event (i : Instr) (args : EventArgs)
  | perform (core slot seq : Nat)
  | ticks (n : Nat)
  /-- host software writes its own memory (R212: pages of host tier) -/
  | host (addr : Nat) (bs : List Byte)
  | cycles (core n : Nat)
  deriving DecidableEq, Repr

/-- The whole device. `turns` is the schedule, `focus` the core and quarter that issue when it is empty, `cur` the core,
slot and unit that issue now, `args` the operands of the event that occurs now, `seq` the number of the next operation,
launch or request, `draws` how often a free value was drawn. -/
structure State where
  pkg : Pkg := {}
  hbm : Hbm := {}
  fab : Fabric := {}
  parts : Map Part := []
  b2off : Map Dword := []
  cores : Map Core := []
  l2 : List Line := []
  far : List FarCopy := []
  /-- host memory by bus address, as pages of host tier reach it (R212) -/
  hostMem : List Host.Cell := []
  /-- interrupts raised towards the host by function, and event records posted for it (R224 and others) -/
  msix : List (Nat × Nat) := []
  hostEvents : List (List Nat) := []
  /-- answers to BAR2 and BAR0 reads, newest last: function number, data or an unsupported request -/
  bar2 : List (Nat × Option (List Byte)) := []
  turns : List Turn := []
  focus : Nat × Nat := (0, 0)
  cur : Nat × Nat × Nat := (0, 0, 0)
  args : EventArgs := {}
  seq : Nat := 1
  draws : Nat := 0
  /-- the counter behind least-recently-used order -/
  lru : Nat := 0
  deriving DecidableEq, Repr

/-- The machine right after reset (R16, R17, R18): HSTAT reads 0, no partition is formed, every cache, queue and table is
empty, memory lists nothing. Registers without a stated reset value are named in logs 2 and 4. -/
def State.reset : State := {}

end Sys2Proof.Machine
end

