-- ==== Sys2Proof/Machine/Base.lean ====
section
/-! DEFINITION. Sparse tables and byte memories, and the accessors of the state: every read and write of a core, a group,
a partition or a register goes through these. -/

namespace Sys2Proof.Machine

/-- Inserts into an ordered list, after its equals. -/
def insertBy {α : Type} (lt : α → α → Bool) (x : α) : List α → List α
  | [] => [x]
  | y :: ys => if lt x y then x :: y :: ys else y :: insertBy lt x ys
/-- Sorts by an order, equals in place. -/
def sortBy {α : Type} (lt : α → α → Bool) (l : List α) : List α := l.foldl (fun acc x => insertBy lt x acc) []

/-! ### Sparse tables -/

/-- The entry of a key, if it is listed. -/
def mfind {α : Type} : Map α → Nat → Option α
  | [], _ => none
  | (k, v) :: t, n => if n = k then some v else mfind t n

/-- The entry of a key, or the default. -/
def mget {α : Type} (d : α) (m : Map α) (n : Nat) : α := (mfind m n).getD d

/-- Puts an entry, keeping keys strictly rising. -/
def mput {α : Type} : Map α → Nat → α → Map α
  | [], n, v => [(n, v)]
  | (k, w) :: t, n, v => if n < k then (n, v) :: (k, w) :: t else if n = k then (n, v) :: t else (k, w) :: mput t n v

/-- Removes an entry. -/
def mdel {α : Type} : Map α → Nat → Map α
  | [], _ => []
  | (k, w) :: t, n => if n = k then t else (k, w) :: mdel t n

/-! ### Byte memories: an unlisted byte reads 0 (log 2) -/

abbrev Memory := List Host.Cell

/-- What an unlisted address reads as (log 2). -/
def unlisted : Byte := 0

/-- The canonical form: addresses strictly rising, no entry equal to what an unlisted address reads as. -/
def Memory.wf : Memory → Bool
  | [] => true
  | (a, b) :: t => b != unlisted && (match t with | [] => true | (a', _) :: _ => decide (a < a')) && Memory.wf t

/-- One byte. -/
def memByte : Memory → Nat → Byte
  | [], _ => unlisted
  | (k, b) :: t, a => if a = k then b else memByte t a

/-- Removes an address. -/
def memDel : Memory → Nat → Memory
  | [], _ => []
  | (k, b) :: t, a => if a = k then t else if a < k then (k, b) :: t else (k, b) :: memDel t a

/-- Inserts an entry at its place. -/
def memPut : Memory → Nat → Byte → Memory
  | [], a, v => [(a, v)]
  | (k, b) :: t, a, v => if a < k then (a, v) :: (k, b) :: t else if a = k then (a, v) :: t else (k, b) :: memPut t a v

/-- Writes one byte; writing what an unlisted address reads as removes the entry. -/
def memSet (m : Memory) (a : Nat) (v : Byte) : Memory := if v = unlisted then memDel m a else memPut m a v

/-- `n` bytes from an address, lowest first. -/
def memBytes (m : Memory) (a n : Nat) : List Byte := (List.range n).map (fun i => memByte m (a + i))

/-- Writes bytes from an address upward. -/
def memWrite : Memory → Nat → List Byte → Memory
  | m, _, [] => m
  | m, a, b :: bs => memWrite (memSet m a b) (a + 1) bs

/-- Bytes as a little-endian number (R3). -/
def leNat : List Byte → Nat
  | [] => 0
  | b :: bs => b.toNat + 256 * leNat bs

/-- The low `n` bytes of a number, lowest first (R3). -/
def leBytes : Nat → Nat → List Byte
  | 0, _ => []
  | n + 1, v => BitVec.ofNat 8 v :: leBytes n (v / 256)

/-- `n` bytes of a list from an offset; missing bytes are 0. -/
def bytesAt (l : List Byte) (off n : Nat) : List Byte := (List.range n).map (fun i => (l.drop off).getD i 0)

/-- A little-endian field of `n` bytes of a record. -/
def recField (l : List Byte) (off n : Nat) : Nat := leNat (bytesAt l off n)

/-- Replaces bytes of a list from an offset on. -/
def patch (l : List Byte) (off : Nat) (bs : List Byte) : List Byte :=
  l.take off ++ (bs.take (l.length - off)) ++ l.drop (off + bs.length)

/-- Replaces one element. -/
def setAt {α : Type} (l : List α) (i : Nat) (v : α) : List α := l.set i v

/-! ### Numbers -/

/-- Bits [lo + len - 1 : lo] of a number. -/
def nbits (v lo len : Nat) : Nat := v / 2 ^ lo % 2 ^ len
def nbit (v i : Nat) : Bool := v / 2 ^ i % 2 == 1
def ceilDiv (a b : Nat) : Nat := (a + b - 1) / b
def vaMod (v : Nat) : Nat := v % 2 ^ 57
/-- The sum of a base and a signed 32-bit offset modulo 2^w (R290). -/
def addOff (w base : Nat) (off : Word) : Nat := (((base : Int) + off.toInt) % (2 ^ w : Nat)).toNat
def b57 (n : Nat) : Va := BitVec.ofNat 57 n
def w32 (n : Nat) : Word := BitVec.ofNat 32 n
def d64 (n : Nat) : Dword := BitVec.ofNat 64 n
def boolD (b : Bool) : Dword := if b then 1 else 0
def boolW (b : Bool) : Word := if b then 1 else 0
/-- Adds to a 32-bit counter that stops at its greatest value. -/
def satAdd (c : Word) (n : Nat) : Word := w32 (min (c.toNat + n) 0xFFFFFFFF)

/-- The stamp of a request made at a tick with a relative deadline; 0 is none (R27, R243). -/
def stampFor (tick rel : Nat) : Nat := if rel = 0 then 0 else (tick + rel) % 65536

/-- Updates the elements of a list that a test selects. -/
def updWhere {α : Type} (p : α → Bool) (f : α → α) (l : List α) : List α := l.map (fun x => if p x then f x else x)

/-! ### Cores, quarters, groups, partitions -/

def State.core (s : State) (c : Nat) : Core := mget {} s.cores c
def State.setCore (s : State) (c : Nat) (k : Core) : State := { s with cores := mput s.cores c k }
def State.part (s : State) (p : Nat) : Part := mget {} s.parts p
def State.setPart (s : State) (p : Nat) (x : Part) : State := { s with parts := mput s.parts p x }
def Core.group (k : Core) (sl : Nat) : Group := mget {} k.groups sl
def Core.setGroup (k : Core) (sl : Nat) (g : Group) : Core := { k with groups := mput k.groups sl g }
def Core.quarter (k : Core) (q : Nat) : Quarter := mget {} k.quarters q
def Core.setQuarter (k : Core) (q : Nat) (x : Quarter) : Core := { k with quarters := mput k.quarters q x }
def State.group (s : State) (c sl : Nat) : Group := (s.core c).group sl
def State.setGroup (s : State) (c sl : Nat) (g : Group) : State := s.setCore c ((s.core c).setGroup sl g)

/-- The quarter of a slot (R86). -/
def quarterOf (sl : Nat) : Nat := if sl < 64 then sl / 16 else (sl - 64) / 2
/-- The compute die of a core (R74). -/
def dieOf (c : Nat) : Nat := c / 96
/-- The unit of a core (R74). -/
def unitOf (c : Nat) : Nat := c / 24
/-- The cores of a partition in ascending number (R73, R74). -/
def Part.cores (p : Part) : List Nat := (List.range 192).filter (fun c => nbit p.units.toNat (unitOf c) && !p.without.contains c)

def State.postMgmt (s : State) (e : MgmtEvent) : State := { s with pkg := { s.pkg with events := s.pkg.events ++ [e] } }

/-! ### The host's accesses (R13, R17, R72) -/

/-- The number under which a function's answers and registers are kept: the PF 0, VF p + 1. -/
def fnIndex : Fn → Nat
  | .pf => 0
  | .vf p => p + 1

/-- An answer to a read of the host. -/
def State.hostAnswer (s : State) (fn : Fn) (r : Option (List Byte)) : State := { s with bar2 := s.bar2 ++ [((fnIndex fn), r)] }

/-- An access before READY: Unsupported Request, logged (R13, R17). Where it is logged the spec leaves open: the management event queue is
the model's choice (log 117). -/
def State.unsupported (s : State) (fn : Fn) (off : Nat) : State := (s.postMgmt (.unsupported (fnIndex fn) off)).hostAnswer fn none

/-- A write of the BAR0 register at an offset: in recovery mode an Unsupported Request, else what it does (R13). That the refusal is
logged, and that a write before READY acts, is the model's choice (logs 117, 118). -/
def State.bar0 (s : State) (off : Nat) (go : State → State) : State :=
  if s.pkg.recov then s.postMgmt (.unsupported (fnIndex s.args.fn) off) else go s

/-- A fresh free value (log 5). -/
def State.draw (s : State) : State × Nat := ({ s with draws := s.draws + 1 }, Config.free s.draws)

/-! ### Issue units -/

def Group.iunit (g : Group) (uid : Nat) : IUnit := ((g.iunits.find? (fun u => u.uid == uid))).getD {}
def Group.setUnit (g : Group) (u : IUnit) : Group :=
  { g with iunits := updWhere (fun x => x.uid == u.uid) (fun _ => u) g.iunits }
def Group.live (g : Group) : List IUnit := g.iunits.filter (fun u => u.wait != .exited)

/-- The lanes of a set of slices (R85). -/
def lanesOf (sl : BitVec 8) : Word :=
  w32 ((List.range 32).foldl (fun a i => if sl.getLsbD (i / 4) then a + 2 ^ i else a) 0)
/-- The active lanes of a unit (R268, R271): set in `m0`, and in the unit's slices. -/
def Group.active (g : Group) (u : IUnit) : Word := (g.masks.getD 0 0) &&& lanesOf u.slices
/-- The lowest lane set, or 0. -/
def lowLane (m : Word) : Nat := ((List.range 32).find? (fun i => m.getLsbD i)).getD 0
def laneList (m : Word) : List Nat := (List.range 32).filter (fun i => m.getLsbD i)

/-! ### Free slots (R86, R132) -/

/-- Free slots that lack units of their 6 take the pool's units (R132). -/
def Quarter.fillShort (q : Quarter) : Quarter :=
  q.short.foldl (fun q e =>
    let n := min q.pool e.2
    { q with pool := q.pool - n, short := if n = e.2 then mdel q.short e.1 else mput q.short e.1 (e.2 - n) }) q

/-- A retiring group's register units go back: its slot keeps 6, the rest go to the pool, which fills the slots that lack units
(R132). -/
def Quarter.takeBack (q : Quarter) (sl units : Nat) : Quarter :=
  if 64 ≤ sl then q
  else (if units < 6 then { q with short := mput q.short sl (6 - units) } else { q with pool := q.pool + (units - 6) }).fillShort

/-- A slot is freed: its units return, its per-thread lines are dropped without write-back. -/
def State.freeSlot (s : State) (c sl : Nat) : State :=
  let k := s.core c
  let g := k.group sl
  let qn := quarterOf sl
  let q := (k.quarter qn).takeBack sl g.units
  let q := { q with cur := match q.cur with | some (t, u) => if t = sl then none else some (t, u) | none => none, sfu := q.sfu.filter (fun e => e.1 != sl) }
  let k := { k with l1 := k.l1.filter (fun l => l.owner != some sl), groups := mdel k.groups sl }
  s.setCore c (k.setQuarter qn q)

/-- A node of a graph has completed (R83). -/
def State.nodeDone (s : State) (p : Nat) (node : Option (Nat × Nat)) : State :=
  match node with
  | none => s
  | some (gr, n) =>
    let pt := s.part p
    s.setPart p { pt with graphs := updWhere (fun x => x.id == gr) (fun x => { x with started := x.started.filter (fun m => m != n), ended := x.ended ++ [n] }) pt.graphs }

/-! ### Registers -/

def Group.sreg (g : Group) (n : Nat) : Dword := mget 0 g.sregs n
def Group.setS (g : Group) (n : Nat) (v : Dword) : Group := { g with sregs := mput g.sregs n v }
def Group.vreg (g : Group) (n : Nat) : VReg := mget {} g.vregs n
def Group.setV (g : Group) (n : Nat) (v : VReg) : Group := { g with vregs := mput g.vregs n v }

/-- Lanes of `new` where the mask is set, of `old` elsewhere. -/
def blend (mask : Word) (new old : List Word) : List Word :=
  (List.range 32).map (fun i => if mask.getLsbD i then new.getD i 0 else old.getD i 0)

/-- Makes a register write (R114, R271): the lanes of its mask, and the whole ptag. -/
def Group.apply (g : Group) : RegWrite → Group
  | .s d v => g.setS d v
  | .v d mask lanes ptag poison =>
    let r := g.vreg d
    g.setV d { lanes := blend mask lanes r.lanes, ptag := ptag, poison := poison || (r.poison && mask != 0xFFFFFFFF) }
  | .tag d ptag => g.setV d { g.vreg d with ptag := ptag }

/-- One slot passes (R114): writes whose time has come land in order of issue, the others come closer. -/
def landOne (g : Group) : List DueWrite → Group × List DueWrite
  | [] => (g, [])
  | w :: ws =>
    let (g', rest) := landOne (if w.left ≤ 1 then g.apply w.w else g) ws
    (g', if w.left ≤ 1 then rest else { w with left := w.left - 1 } :: rest)

/-- Every due write lands, the sooner first and in order of issue within a slot (R115, R117). -/
def landAll (g : Group) (ws : List DueWrite) : Group :=
  (List.range 6).foldl (fun g k => (ws.filter (fun w => w.left == k + 1)).foldl (fun g w => g.apply w.w) g) g

/-- Registers an outstanding operation of the group will write (R123): vector registers and scalar registers. -/
def Op.pendingV (o : Op) : List Nat := if o.dvec then (List.range o.dn).map (fun i => o.d + i) else []
def Op.pendingS (o : Op) : List Nat := if o.dvec then [] else (List.range o.dn).map (fun i => o.d + i)
def Group.vPending (g : Group) (n : Nat) : Bool := g.ops.any (fun o => o.pendingV.contains n)
def Group.sPending (g : Group) (n : Nat) : Bool := g.ops.any (fun o => o.pendingS.contains n)
/-- The in-flight counter of a path (R122). -/
def Group.inFlight (g : Group) (path : Nat) : Nat := (g.ops.filter (fun o => o.path == path)).length
def Group.op (g : Group) (seq : Nat) : Option Op := g.ops.find? (fun o => o.seq == seq)
def Group.setOp (g : Group) (o : Op) : Group := { g with ops := updWhere (fun x => x.seq == o.seq) (fun _ => o) g.ops }
def Group.isTask (g : Group) : Bool := g.holder == .task
def Group.privileged (g : Group) : Bool := g.stat.getLsbD 0

end Sys2Proof.Machine
end

