-- ==== Sys2Proof/Machine/Hbm.lean ====
section
/-! DEFINITION. Main memory (chapter 02): placement of physical addresses, the DRAM cache layer, channel schedulers,
refresh, errors and poison, and the events of the memory side. Storage is kept by physical place, so that a changed
interleave scheme reads old data through the new mapping (R22). -/

namespace Sys2Proof.Machine

/-- Size of a memory group, 768 MiB (R20). -/
def memGroup : Nat := 805306368
/-- The first address past storage (R20). -/
def memEnd : Nat := 0xB400000000

/-- The channel and slab offset of an offset in a group (R21). -/
def placeOf (scheme o : Nat) : Nat × Nat :=
  let w := o % 256
  let stripe := fun (g : Nat) => let j := o / g; (j % 384, j / 384 * g + o % g)
  match scheme with
  | 0 => stripe 256
  | 1 => stripe 1024
  | 2 => stripe 4096
  | 3 =>
    let h := o / 402653184
    let j := o % 402653184 / 256
    let stack := 6 * h + j % 6
    (stack + 12 * (j / 6 % 32), j / 192 * 256 + w)
  | 4 => stripe 16384
  | 5 =>
    let j := o / 256
    let m := j / 64
    ((6 * (j % 64) + m) % 384, m / 6 * 256 + w)
  | 6 => stripe 65536
  | _ => (o / 2097152, o % 2097152)

/-- The channel of a physical address and its offset in that channel's storage (R20, R21). -/
def Hbm.chanOf (h : Hbm) (pa : Nat) : Nat × Nat :=
  let n := pa / memGroup
  let (g, t) := placeOf (mget 0 h.mgs n) (pa % memGroup)
  (g, n * 2097152 + t)

/-- The place of a channel offset in storage: 960 slabs of 2 MiB per channel. -/
def locOf (g x : Nat) : Nat := g * 2013265920 + x

/-- A channel's cache layer set that holds a block (R24). -/
def setKey (g blk : Nat) : Nat := g * 4096 + blk % 4096

def Hbm.findBlock (h : Hbm) (g blk : Nat) : Option CBlock := (mget [] h.layer (setKey g blk)).find? (·.block == blk)

def Hbm.putBlock (h : Hbm) (g : Nat) (b : CBlock) : Hbm :=
  { h with layer := mput h.layer (setKey g b.block) (updWhere (·.block == b.block) (fun _ => b) (mget [] h.layer (setKey g b.block))) }

/-- A sector's bytes as storage and the victim buffers, the newest first, give them (R25), and its poisoned granules (0 and 1). -/
def Hbm.storeSector (h : Hbm) (g x : Nat) : List Byte × List Nat :=
  match h.victims.reverse.find? (fun v => v.1 == g && v.2.block == x / 4096 && v.2.dirty.getLsbD (x % 4096 / 128)) with
  | some (_, b) => (memBytes b.data (x % 4096) 128, (List.range 2).filter (fun i => b.poison.contains (x % 4096 / 64 + i)))
  | none => (memBytes h.store (locOf g x) 128, (List.range 2).filter (fun i => h.poison.contains (locOf g x / 64 + i)))

/-- Writes a sector to storage. -/
def Hbm.setStore (h : Hbm) (g x : Nat) (bs : List Byte) (poison : List Nat) : Hbm :=
  let p := locOf g x / 64
  { h with store := memWrite h.store (locOf g x) bs,
           poison := (h.poison.filter (fun n => n != p && n != p + 1)) ++ poison.map (fun i => p + i) }

/-- Writes the dirty sectors of a block to storage (R25). -/
def Hbm.writeBlock (h : Hbm) (g : Nat) (b : CBlock) : Hbm :=
  ((List.range 32).filter (fun i => b.dirty.getLsbD i)).foldl (fun h i =>
    h.setStore g (b.block * 4096 + 128 * i) (memBytes b.data (128 * i) 128)
      ((List.range 2).filter (fun k => b.poison.contains (2 * i + k)))) h

/-- Allocates a block (R25): an invalid way, or the least recently used, whose dirty sectors go to the victim buffer. -/
def Hbm.allocBlock (h0 : Hbm) (g blk : Nat) : Hbm :=
  let h := { h0 with uses := h0.uses + 1 }
  match h.findBlock g blk with
  | some b => h.putBlock g { b with used := h0.uses }
  | none =>
    let ways := mget [] h.layer (setKey g blk)
    let fresh : CBlock := { block := blk, used := h0.uses }
    if ways.length < 4 then { h with layer := mput h.layer (setKey g blk) (ways ++ [fresh]) }
    else
      let lru := ways.foldl (fun a b => min a b.used) (ways.headD fresh).used
      match ways.find? (fun b => b.used == lru) with
      | none => h
      | some v =>
        { h with layer := mput h.layer (setKey g blk) (ways.filter (fun b => b.block != v.block) ++ [fresh]),
                 victims := if v.dirty == 0 then h.victims else h.victims ++ [(g, v)] }

/-- Makes a sector valid in an allocated block by reading storage (R25). -/
def Hbm.fillSector (h : Hbm) (g x : Nat) : Hbm :=
  match h.findBlock g (x / 4096) with
  | none => h
  | some b =>
    let i := x % 4096 / 128
    if b.valid.getLsbD i then h
    else
      let (bs, ps) := h.storeSector g x
      h.putBlock g { b with valid := b.valid ||| BitVec.ofNat 32 (2 ^ i), data := memWrite b.data (128 * i) bs,
                            poison := b.poison ++ ps.map (fun k => 2 * i + k) }

/-- Whether a request for a sector leaves the cache layer alone: its stack's layer is disabled, or it is of class 3 and misses (R25,
R26). -/
def Hbm.bypass (h : Hbm) (g x cls : Nat) : Bool :=
  h.disabled.contains (g % 12) || (cls == 3 && (match h.findBlock g (x / 4096) with | some b => !b.valid.getLsbD (x % 4096 / 128) | none => true))

/-- Reads the 128 B sector at a place: data, and which of its two granules are poisoned (R25, R33). -/
def Hbm.readSector (h : Hbm) (g x0 cls : Nat) : Hbm × List Byte × List Nat :=
  let blk := x0 / 4096
  let i := x0 % 4096 / 128
  if h.bypass g x0 cls then let (bs, ps) := h.storeSector g x0; (h, bs, ps)
  else
    let h := (h.allocBlock g blk).fillSector g x0
    match h.findBlock g blk with
    | none => (h, List.replicate 128 0, [])
    | some b => (h, memBytes b.data (128 * i) 128, (List.range 2).filter (fun k => b.poison.contains (2 * i + k)))

/-- Merges bytes into a sector (R34): a full granule clears poison, a part of a poisoned granule merges nothing. -/
def mergeSector (old : List Byte) (poison : List Nat) (off : Nat) (bs : List Byte) (bad : List Nat) : List Byte × List Nat :=
  (List.range 2).foldl (fun (acc : List Byte × List Nat) k =>
    let lo := max off (64 * k)
    let hi := min (off + bs.length) (64 * k + 64)
    if hi ≤ lo then acc
    else
      let part := bytesAt bs (lo - off) (hi - lo)
      if hi - lo = 64 then (patch acc.1 lo part, (acc.2.filter (· != k)) ++ (if bad.contains k then [k] else []))
      else if acc.2.contains k then acc
      else (patch acc.1 lo part, acc.2 ++ (if bad.contains k then [k] else []))) (old, poison)

/-- Writes bytes at an offset inside the 128 B sector at a place (R25, R34). `bad` names granules (0, 1) that the data carries poisoned. -/
def Hbm.writeSector (h : Hbm) (g x0 off : Nat) (bs : List Byte) (bad : List Nat) (cls : Nat) : Hbm :=
  let blk := x0 / 4096
  let i := x0 % 4096 / 128
  if h.bypass g x0 cls then
    let h := (h.victims.filter (fun v => v.1 == g && v.2.block == blk)).foldl (fun h v => h.writeBlock g v.2) h
    let h := { h with victims := h.victims.filter (fun v => !(v.1 == g && v.2.block == blk)) }
    let (old, ps) := h.storeSector g x0
    let (new, ps') := mergeSector old ps off bs bad
    h.setStore g x0 new ps'
  else
    let h := (h.allocBlock g blk).fillSector g x0
    match h.findBlock g blk with
    | none => h
    | some b =>
      let old := memBytes b.data (128 * i) 128
      let ps := (List.range 2).filter (fun k => b.poison.contains (2 * i + k))
      let (new, ps') := mergeSector old ps off bs bad
      h.putBlock g { b with dirty := b.dirty ||| BitVec.ofNat 32 (2 ^ i), data := memWrite b.data (128 * i) new,
                            poison := b.poison.filter (fun n => n / 2 != i) ++ ps'.map (fun k => 2 * i + k) }

/-! ### Homes and dies (R6, R10, R158) -/

/-- The home slice of an IA (R158). -/
def homeSlice (ia : Nat) : Nat :=
  (nbits ia 7 8) ^^^ (nbits ia 15 8) ^^^ (nbits ia 23 8) ^^^ (nbits ia 31 8) ^^^ (nbits ia 39 8) ^^^ (nbits ia 47 5)
def homeDie (ia : Nat) : Nat := homeSlice ia / 128
/-- The die that a channel's stack belongs to: six stacks on each (R6, R21). -/
def stackDie (chan : Nat) : Nat := chan % 12 / 6
/-- What of the memory side a step reaches, while a resource is out of service (R10): a channel, the saddle links, an L2 slice. -/
def saddleMark : Nat := 384
def sliceMark (k : Nat) : Nat := 400 + k
/-- The mark of a core whose local memory, caches or registers an event reaches. -/
def coreMark (c : Nat) : Nat := 700 + c

/-! ### Channel queues (R27 to R30) -/

/-- The absolute tick a 16-bit stamp names, seen from a request's arrival (R27). -/
def stampTick (arrived : Nat) (stamp : Nat) : Int :=
  let d := ((stamp : Int) - (arrived : Int)) % 65536
  if d < 32768 then (arrived : Int) + d else (arrived : Int) + d - 65536

/-- A rank as (class, no deadline, deadline): lower comes first (R28). -/
abbrev Rank := Nat × Nat × Int
def Rank.lt (a b : Rank) : Bool :=
  decide (a.1 < b.1) || (a.1 == b.1 && (decide (a.2.1 < b.2.1) || (a.2.1 == b.2.1 && decide (a.2.2 < b.2.2))))

/-- A request's own rank, promotion included (R28). -/
def QReq.rank (q : QReq) : Rank :=
  if q.promoted then (0, 0, (q.arrived : Int) + 500)
  else if q.req.stamp == 0 then (q.req.cls.toNat, 1, 0)
  else (q.req.cls.toNat, 0, stampTick q.arrived q.req.stamp.toNat)

/-- Whether two requests overlap one 64 B granule (R29). -/
def QReq.overlaps (a b : QReq) : Bool :=
  let la := a.req.pa / 64; let lb := b.req.pa / 64
  let ha := la + (if a.req.big then 1 else 0); let hb := lb + (if b.req.big then 1 else 0)
  decide (la ≤ hb) && decide (lb ≤ ha)

/-- Effective ranks: an older request takes the rank of a younger one that waits behind it where that is higher (R29). -/
def effRanks : List QReq → List (QReq × Rank)
  | [] => []
  | q :: qs =>
    let rest := effRanks qs
    let r := rest.foldl (fun r x => if q.overlaps x.1 && Rank.lt x.2 r then x.2 else r) q.rank
    (q, r) :: rest

/-- The request the scheduler chooses (R28, R29): the first in arrival order of the highest effective rank. -/
def chooseReq (qs : List QReq) : Option QReq :=
  match effRanks qs with
  | [] => none
  | x :: xs => some (xs.foldl (fun (b : QReq × Rank) y => if Rank.lt y.2 b.2 then y else b) x).1

/-- A deadline d is past at time T (R27). -/
def stampPast (t stamp : Nat) : Bool := decide (32768 ≤ ((stamp : Int) - (t : Int)) % 65536)

/-- The place of the sector that holds an address (R20 to R22). -/
def Hbm.sectorOf (h : Hbm) (pa : Nat) : Nat × Nat := h.chanOf (pa / 128 * 128)

/-- Serves a chosen request through the cache layer (R25), at the place its address had when it was accepted (R22). -/
def Hbm.serve (h : Hbm) (q : QReq) : Hbm × List Byte × Bool :=
  let n := if q.req.big then 128 else 64
  let off := q.req.pa % 128
  match q.req.data with
  | some bs => (h.writeSector q.place.1 q.place.2 off (bytesAt bs 0 n) [] q.req.cls.toNat, [], false)
  | none =>
    let (h, bs, ps) := h.readSector q.place.1 q.place.2 q.req.cls.toNat
    (h, bytesAt bs off n, ps.any (fun k => decide (off ≤ 64 * k) && decide (64 * k < off + n)))

/-- Serves the waiting requests of a channel that its scheduler takes before a request: those it chooses while that one waits
with them (R28, R29). -/
def Hbm.serveBefore (me : QReq) (g : Nat) : Nat → Hbm → Hbm
  | 0, h => h
  | fuel + 1, h =>
    let qs := mget [] h.queues g
    match chooseReq (qs ++ [me]) with
    | none => h
    | some q =>
      if q.id == me.id then h
      else
        let (h, bs, p) := h.serve q
        Hbm.serveBefore me g fuel { h with queues := mput h.queues g (qs.filter (fun x => x.id != q.id)), done := h.done ++ [(g, q, bs, p)] }

/-- What a request that arrives now at its channel finds served before it (R28, R29, log 7). It asks for the 64 B granule that its
bytes lie in, or for both granules of the sector (log 103). -/
def Hbm.arriveFirst (h : Hbm) (now pa n cls stamp : Nat) : Hbm :=
  let (g, x) := h.sectorOf pa
  let qs := mget [] h.queues g
  if qs.isEmpty then h
  else Hbm.serveBefore { id := h.nextReq, req := { pa := pa / 64 * 64, big := decide (64 < pa % 64 + n), data := none, cls := BitVec.ofNat 2 cls, stamp := BitVec.ofNat 16 stamp, requester := 386 },
                         place := (g, x), arrived := now } g qs.length h

/-- What a step reaches is noted while a resource is out of service (R10). -/
def State.touchChan (s : State) (g : Nat) : State := if s.pkg.windows.isEmpty then s else { s with hbm := { s.hbm with touched := g :: s.hbm.touched } }

/-- The channel of an access is noted while a resource is out of service (R10). -/
def State.touch (s : State) (pa : Nat) : State := s.touchChan (s.hbm.chanOf pa).1

/-- An access from a die to a stack of the other one crosses the saddle links (R6). -/
def State.crossStack (s : State) (die pa : Nat) : State := if stackDie (s.hbm.chanOf pa).1 = die then s else s.touchChan saddleMark

/-- Counts a request that ends now against its own stamp, for a requester that has a counter (R30). -/
def State.countDeadline (s : State) (requester stamp : Nat) : State :=
  if stamp != 0 && decide (requester < 386) && stampPast s.pkg.tick stamp then
    let m := mget 0 s.hbm.missed requester
    { s with hbm := { s.hbm with missed := mput s.hbm.missed requester (min (m + 1) 0xFFFFFFFF) } }
  else s

/-- A read of part of a sector by a home slice or a walker: it arrives, is scheduled among what waits at its channel, completes (log
7), and is counted against its stamp (R30). -/
def State.memRead (s : State) (pa n cls : Nat) (stamp : Nat := 0) (requester : Nat := 386) : State × List Byte × List Nat :=
  let s := s.touch pa
  let h := s.hbm.arriveFirst s.pkg.tick pa n cls stamp
  let (h, bs, ps) := h.readSector (h.sectorOf pa).1 (h.sectorOf pa).2 cls
  (({ s with hbm := h } : State).countDeadline requester stamp, bytesAt bs (pa % 128) n, ps)

/-- A write of part of a sector by a home slice. -/
def State.memWriteAt (s : State) (pa : Nat) (bs : List Byte) (bad : List Nat) (cls : Nat) (stamp : Nat := 0) (requester : Nat := 386) : State :=
  let s := s.touch pa
  let h := s.hbm.arriveFirst s.pkg.tick pa bs.length cls stamp
  ({ s with hbm := h.writeSector (h.sectorOf pa).1 (h.sectorOf pa).2 (pa % 128) bs bad cls } : State).countDeadline requester stamp

/-- Whether the granule of an address is poisoned in the newest copy that memory holds (R33). -/
def Hbm.isPoisoned (h : Hbm) (pa : Nat) : Bool :=
  let (g, x) := h.sectorOf pa
  let k := pa % 128 / 64
  match h.findBlock g (x / 4096) with
  | some b => if b.valid.getLsbD (x % 4096 / 128) then b.poison.contains (x % 4096 / 64 + k) else (h.storeSector g x).2.contains k
  | none => (h.storeSector g x).2.contains k

/-- An error on a resource asks for its self-test; further errors join a pending one (R10, R11). -/
def State.errorOn (s : State) (r : Resource) : State :=
  if s.pkg.tests.contains r then s else { s with pkg := { s.pkg with tests := s.pkg.tests ++ [r] } }

/-- Poisons the granule at a place in storage, in the victim buffer and in the cache layer (R33). -/
def Hbm.poisonPlace (h : Hbm) (g x : Nat) : Hbm :=
  let h := { h with poison := if h.poison.contains (locOf g x / 64) then h.poison else h.poison ++ [locOf g x / 64],
                    victims := updWhere (fun v => v.1 == g && v.2.block == x / 4096) (fun v => (v.1, { v.2 with poison := v.2.poison ++ [x % 4096 / 64] })) h.victims }
  match h.findBlock g (x / 4096) with
  | some b => if b.valid.getLsbD (x % 4096 / 128) then h.putBlock g { b with poison := b.poison ++ [x % 4096 / 64] } else h
  | none => h

/-- Poisons the granule of an address. -/
def Hbm.poisonAt (h : Hbm) (pa : Nat) : Hbm := h.poisonPlace (h.chanOf (pa / 64 * 64)).1 (h.chanOf (pa / 64 * 64)).2

/-- What the error code finds at a place, a channel and its offset there (R26, R33): a corrected error starts a self-test, an
uncorrectable one poisons the granule, a tag lost in both copies invalidates its way and posts TAGLOSS. The offset names the row
(log 20). -/
def State.eccOutcome (s : State) (chan x : Nat) : Ecc → State
  | .clean => s
  | .corrected => s.errorOn (.hbmRow chan x)
  | .uncorrectable => { s with hbm := s.hbm.poisonPlace chan (x / 64 * 64) } |>.errorOn (.hbmRow chan x)
  | .tagLost set way =>
    let key := chan * 4096 + set % 4096
    let ways := mget [] s.hbm.layer key
    if way < ways.length then
      { s with hbm := { s.hbm with layer := mput s.hbm.layer key (ways.eraseIdx way) } } |>.postMgmt (.tagloss (chan % 12) (set % 4096))
    else s

/-- MEMORY_REQUEST (R25, R28): a request arrives at its channel. One that is not aligned to its size, lies past storage or
names another channel than its address is none. -/
def execMemoryRequest (s : State) : Host.Outcome State Fault Refusal :=
  let r := s.args.req
  let size := if r.big then 128 else 64
  let (g, _) := s.hbm.chanOf r.pa
  if s.pkg.ready && r.pa % size == 0 && decide (r.pa < memEnd) && g == s.args.chan then
    let q : QReq := { id := s.hbm.nextReq, req := r, place := s.hbm.sectorOf r.pa, arrived := s.pkg.tick }
    .next { s with hbm := { s.hbm with queues := mput s.hbm.queues g (mget [] s.hbm.queues g ++ [q]), nextReq := s.hbm.nextReq + 1 } }
  else .next s

/-- CHANNEL_SCHEDULE (R28, R29): the chosen request is served; the error code's outcome acts before it. -/
def execChannelSchedule (s : State) : Host.Outcome State Fault Refusal :=
  let g := s.args.chan
  let s := s.touchChan g
  let qs := mget [] s.hbm.queues g
  match chooseReq qs with
  | none => .next s
  | some q =>
    let s := s.eccOutcome q.place.1 (q.place.2 + q.req.pa % 128) s.args.ecc
    let (h, bs, p) := s.hbm.serve q
    .next { s with hbm := { h with queues := mput h.queues g (qs.filter (fun x => x.id != q.id)), done := h.done ++ [(g, q, bs, p)] } }

/-- PROMOTION (R28): a request that has waited longer than 500 ticks. -/
def execPromotion (s : State) : Host.Outcome State Fault Refusal :=
  let qs := mget [] s.hbm.queues s.args.chan
  let late := fun (q : QReq) => q.id == s.args.id && decide (q.arrived + 500 < s.pkg.tick)
  if qs.any late then
    .next { s with hbm := { s.hbm with queues := mput s.hbm.queues s.args.chan (updWhere late (fun q => { q with promoted := true }) qs) } }
  else .next s

/-- MEMORY_REQUEST_COMPLETE (R30). -/
def execMemoryRequestComplete (s : State) : Host.Outcome State Fault Refusal :=
  match s.hbm.done.find? (fun d => d.2.1.id == s.args.id) with
  | none => .next s
  | some (_, q, _, _) =>
    let s := { s with hbm := { s.hbm with done := s.hbm.done.filter (fun d => d.2.1.id != s.args.id) } }
    .next (s.countDeadline q.req.requester q.req.stamp.toNat)

/-- VICTIM_WRITEBACK (R25): the oldest victim of a channel. -/
def execVictimWriteback (s : State) : Host.Outcome State Fault Refusal :=
  match s.hbm.victims.find? (fun v => v.1 == s.args.chan) with
  | none => .next s
  | some v =>
    let s := s.touchChan v.1
    let h := s.hbm.writeBlock v.1 v.2
    .next { s with hbm := { h with victims := h.victims.erase v } }

/-- Ticks that requests to a bank waited on refresh (R32). -/
def waitOn (m : Map Nat) (key n : Nat) : Map Nat := if n = 0 then m else mput m key (min (mget 0 m key + n) 0xFFFFFFFF)

/-- PER_BANK_REFRESH (R31, R32): refreshed, which also settles one refresh that the bank owes (log 121), or postponed while requests wait; a
ninth owed refresh forces an all-bank one, which settles all and makes requests to every bank wait. The ticks that requests
waited are an outcome of the event (log 6); a request waiting in the channel's queue counts as waiting for the bank (log 86). -/
def execPerBankRefresh (s : State) : Host.Outcome State Fault Refusal :=
  let g := s.args.chan
  let b := s.args.bank
  if g < 384 && b < 48 then
    let key := g * 48 + b
    let owed := mget 0 s.hbm.postponed key
    if s.args.postpone && !(mget [] s.hbm.queues g).isEmpty then
      if owed < 8 then .next { s with hbm := { s.hbm with postponed := mput s.hbm.postponed key (owed + 1) } }
      else
        let post := (List.range 48).foldl (fun m i => mdel m (g * 48 + i)) s.hbm.postponed
        let refs := (List.range 48).foldl (fun m i => waitOn m (g * 48 + i) (s.args.waits.getD i 0)) s.hbm.mcref
        .next { s with hbm := { s.hbm with postponed := post, mcref := refs, mcfab := mput s.hbm.mcfab g (min (mget 0 s.hbm.mcfab g + 1) 0xFFFFFFFF) } }
    else
      let post := if owed = 0 then s.hbm.postponed else mput s.hbm.postponed key (owed - 1)
      .next { s with hbm := { s.hbm with postponed := post, mcref := waitOn s.hbm.mcref key s.args.n } }
  else .next s

/-- CACHE_LAYER_DISABLE (R26): after TAGLOSS of the stack. -/
def execCacheLayerDisable (s : State) : Host.Outcome State Fault Refusal :=
  let st := s.args.stack
  let lost := s.pkg.events.any (fun e => match e with | .tagloss k _ => k == st | _ => false)
  if lost && !s.hbm.disabled.contains st then
    let mine := fun (g : Nat) => g % 12 == st
    let s := (List.range 32).foldl (fun s k => s.touchChan (st + 12 * k)) s
    let h := (s.hbm.victims.filter (fun v => mine v.1)).foldl (fun h v => h.writeBlock v.1 v.2) s.hbm
    let h := (h.layer.filter (fun e => mine (e.1 / 4096))).foldl (fun h e => e.2.foldl (fun h b => h.writeBlock (e.1 / 4096) b) h) h
    let h := { h with layer := h.layer.filter (fun e => !mine (e.1 / 4096)), victims := h.victims.filter (fun v => !mine v.1),
                      disabled := h.disabled ++ [st] }
    .next { s with hbm := h, pkg := { s.pkg with degraded := s.pkg.degraded ++ (List.range 32).map (fun k => Resource.hbmRow (st + 12 * k) 0) } }
  else .next s

/-- PATROL_SCRUB (R33, R35): its read arrives at the channel with class 3 and no deadline, after what is scheduled before it (R28, R29). -/
def execPatrolScrub (s : State) : Host.Outcome State Fault Refusal :=
  if s.pkg.ready && decide (s.args.pa < memEnd) then
    let (g, x) := s.hbm.chanOf s.args.pa
    let s := s.touchChan g
    let s := { s with hbm := s.hbm.arriveFirst s.pkg.tick (s.args.pa / 64 * 64) 64 3 0 }
    match s.args.ecc with
    | .uncorrectable => .next ((s.eccOutcome g x .uncorrectable).postMgmt (.patrolPoison (s.args.pa / 64 * 64)))
    | e => .next (s.eccOutcome g x e)
  else .next s

end Sys2Proof.Machine
end

