-- ==== Sys2Proof/Machine/Translate.lean ====
section
/-! DEFINITION. Address translation (chapter 12): range registers turn a VA into an IA at the issuing unit, page tables
turn an IA into a PA at the home slice; fault records and the fault queue. -/

namespace Sys2Proof.Machine

/-- The 64 KiB unit of a VA (R209). -/
def vaUnit (va : Nat) : Nat := va % 2 ^ 57 / 65536
def RangeReg.baseU (r : RangeReg) : Nat := nbits r.base.toNat 16 41
def RangeReg.limU (r : RangeReg) : Nat := nbits r.lim.toNat 16 41
def RangeReg.covers (r : RangeReg) (va : Nat) : Bool :=
  r.attr.getLsbD 0 && decide (r.baseU ≤ vaUnit va) && decide (vaUnit va ≤ r.limU)

/-- The range register that matches a VA: the lowest-numbered one (R209). -/
def Part.rangeOf (p : Part) (va : Nat) : Option (Nat × RangeReg) :=
  (List.range 16).findSome? (fun n => let r := mget {} p.ranges n; if r.covers va then some (n, r) else none)

/-- The IA of a VA under a register (R209). -/
def RangeReg.ia (r : RangeReg) (va : Nat) : Nat :=
  (((nbits r.off.toNat 16 36 * 65536 : Nat) + (va % 2 ^ 57 : Nat) - (r.baseU * 65536 : Nat) : Int) % (2 ^ 52 : Nat)).toNat

/-- What an access needs of its range register (R209). -/
structure Need where
  rd : Bool := false
  wr : Bool := false
  user : Bool := false
  deriving DecidableEq, Repr

def RangeReg.grants (r : RangeReg) (n : Need) : Bool :=
  (!n.rd || r.attr.getLsbD 1) && (!n.wr || r.attr.getLsbD 2) && (!n.user || r.attr.getLsbD 3)

/-- Translates the `n` bytes at a VA (R209): the IA and SOR, or the VA of the first failing byte. -/
def Part.xlate (p : Part) (va n : Nat) (need : Need) : Except Nat (Nat × Bool) :=
  match p.rangeOf va with
  | none => .error (vaMod va)
  | some (k, r) =>
    if !r.grants need then .error (vaMod va)
    else
      let last := vaMod (va + (n - 1))
      if vaUnit last = vaUnit va then .ok (r.ia va, r.attr.getLsbD 4)
      else
        let edge := vaMod ((vaUnit va + 1) * 65536)
        match p.rangeOf edge with
        | some (k', _) => if k' = k then .ok (r.ia va, r.attr.getLsbD 4) else .error edge
        | none => .error edge

/-! ### Page tables (R211 to R213) -/

/-- A finished translation: the physical or host address, the second copy of an RR page, and the attributes. -/
structure Xlat where
  pa : Nat
  pa1 : Nat := 0
  host : Bool := false
  w : Bool := true
  ord : Nat := 0
  wp : Bool := false
  deriving DecidableEq, Repr

/-- The attributes of a translation, as a line keeps them (R213). -/
def Xlat.attr (x : Xlat) : Attr := { w := x.w, ord := x.ord, wp := x.wp, tier := if x.host then 1 else 0 }
/-- The place that the access of a die takes: of an RR page, the copy of its own die (R207). -/
def Xlat.place (x : Xlat) (die : Nat) : Nat := if x.ord = 3 && die = 1 then x.pa1 else x.pa
/-- The kind that an access to words of several pages takes (R200): SO above RC above UO; RR stands alone. -/
def strongest (os : List Nat) : Nat := if os.contains 3 then 3 else if os.contains 1 then 1 else if os.isEmpty || os.contains 0 then 0 else 2

/-- How a translation or an access at the home slice ends. -/
inductive MemRes (α : Type) where
  | ok (v : α)
  | page
  | fatal
  | held
  deriving DecidableEq, Repr

/-- What a leaf entry gives for an offset in its page (R212), or none where it is unresolvable. -/
def leafXlat (h : Hbm) (e : Nat) (level ia : Nat) : Option Xlat :=
  if !nbit e 0 || nbit e 3 then none else
  let size := if level = 3 then 2097152 else 65536
  let off := ia % size
  let ord := nbits e 7 2
  let tier := nbits e 10 2
  let mgsOk := fun (pa : Nat) => mget 0 h.mgs (pa / memGroup) == nbits e 4 3
  let base : Xlat := { pa := 0, w := nbit e 2, ord := ord, wp := nbit e 9 }
  if ord = 3 then
    let a := nbits e 16 19 * 2097152
    let b := nbits e 35 19 * 2097152
    if level = 3 && tier = 0 && nbits e 54 10 = 0 && decide (a < memEnd) && decide (b < memEnd) && mgsOk a && mgsOk b then
      some { base with pa := a + off, pa1 := b + off }
    else none
  else if tier = 0 then
    let a := nbits e 16 24 * 65536
    if nbits e 40 24 = 0 && a % size = 0 && decide (a < memEnd) && mgsOk a then some { base with pa := a + off } else none
  else if tier = 1 then
    let a := nbits e 16 48 * 65536
    if a % size = 0 then some { base with pa := a + off, host := true } else none
  else none

/-- The walk from a table of a level on (R211, R212). A poisoned entry is unresolvable (DEDUCED, log 11). -/
def walkFrom (s : State) (ia : Nat) : Nat → Nat → State × MemRes (Nat × Nat)
  | 0, _ => (s, .fatal)
  | fuel + 1, table =>
    let level := 4 - fuel
    let idx := if level = 1 then nbits ia 39 13 else if level = 2 then nbits ia 30 9 else if level = 3 then nbits ia 21 9 else nbits ia 16 5
    let (s, bs, ps) := (s.crossStack (homeDie ia) (table + 8 * idx)).memRead (table + 8 * idx) 8 1
    let e := leNat bs
    if ps.contains ((table + 8 * idx) % 128 / 64) then (s, .fatal)
    else if !nbit e 0 then (s, .page)
    else if nbit e 3 || nbits e 12 4 != 0 then (s, .fatal)
    else if nbit e 1 then (if level ≤ 2 then (s, .fatal) else (s, .ok (e, level)))
    else if level = 4 || nbit e 11 || nbits e 7 2 = 3 || nbits e 40 24 != 0 || decide (memEnd ≤ nbits e 16 24 * 65536) then (s, .fatal)
    else walkFrom s ia fuel (nbits e 16 24 * 65536)

/-- The home slice's translation of an IA of a partition (R211 to R213). -/
def State.walk (s : State) (p ia : Nat) (write : Bool) : State × MemRes Xlat :=
  let pt := s.part p
  let base := nbits pt.ptbr.toNat 16 24 * 65536
  if ia / 2 ^ 48 % 16 = 15 || decide (memEnd ≤ base) then (s, .fatal)
  else
    let (s, r) := match pt.walks.find? (fun w => w.page == ia / 65536) with
      | some w => (s, MemRes.ok (w.pte.toNat, w.level))
      | none => walkFrom s ia 4 base
    match r with
    | .page => (s, .page)
    | .ok (e, level) =>
      match leafXlat s.hbm e level ia with
      | none => (s, .fatal)
      | some x =>
        let pt := s.part p
        let known := pt.walks.any (fun w => w.page == ia / 65536)
        let s := if known then s else s.setPart p { pt with walks := pt.walks ++ [{ page := ia / 65536, pte := d64 e, level := level }] }
        if write && !x.w then (s, .fatal) else (s, .ok x)
    | _ => (s, .fatal)

/-! ### The fault queue (R214, R215) -/

/-- The 32 bytes of a fault record (R214). -/
def faultBytes (ia : Nat) (core slot req : Nat) (write fatal : Bool) (seq iaddr : Nat) : List Byte :=
  leBytes 8 (ia % 2 ^ 52) ++
  leBytes 4 (core % 512 + slot % 128 * 512 + req % 8 * 65536 + (if write then 524288 else 0) + (if fatal then 1048576 else 0)) ++
  leBytes 4 seq ++ leBytes 8 (iaddr % 2 ^ 57) ++ leBytes 8 0


/-- Notes a fault (R214): a page fault joins an open record of its page or opens one, a fatal one only posts. Answers the
record's number. The ring is written by `postRecords`. -/
def State.noteFault (s : State) (p ia : Nat) (write fatal : Bool) (f : Faulter) : State × Nat :=
  let pt := s.part p
  match (if fatal then none else pt.records.find? (fun r => r.page == ia / 65536 && recField r.bytes 8 4 / 1048576 % 2 == 0)) with
  | some r => (s, r.seq)
  | none =>
    let n := pt.nextRec
    let r : FaultRec := { seq := n, page := ia / 65536, bytes := faultBytes ia f.core f.slot f.req write fatal n f.iaddr }
    (s.setPart p { pt with records := pt.records ++ [r], nextRec := n + 1 }, n)

end Sys2Proof.Machine
end

