-- ==== Sys2Proof/Machine/Cache.lean ====
section
/-! DEFINITION. L1 and L2 (chapter 09), far copies (R194), and every access that a home slice performs: ordinary reads
and writes, plane fills, plane stores, trims, atomics' read and write, with poison (R34) and page attributes (R213). -/

namespace Sys2Proof.Machine

/-! ### Sets -/

/-- Set keys (R160). -/
def l1Set (ia : Nat) : Nat := ia / 128 % 128
def l2Set (ia : Nat) : Nat := homeSlice ia * 2560 + ia / 128 % 8192 % 2560

/-- Chunks a plane line of depth h takes (R166). -/
def planeChunks (h : Nat) : Nat := if h < 3 then 1 else 1 + (h + 1) / 4
def Line.chunks (l : Line) : Nat := if l.plane then planeChunks l.depth else 8
def Line.same (a b : Line) : Bool := a.part == b.part && a.ia == b.ia && a.plane == b.plane && a.owner == b.owner
/-- A word of a plane line: 0 H, 1 S, k + 1 Mk. -/
def Line.word (l : Line) (w : Nat) : Nat := recField l.data (4 * w) 4
/-- A plane line cut to depth h: what its freed chunks and the planes above held is no longer held (R166, R169). -/
def Line.cut (l : Line) (h : Nat) : Line :=
  { l with depth := h, dirty := l.dirty &&& BitVec.ofNat 8 (2 ^ planeChunks h - 1), stored := l.stored &&& BitVec.ofNat 128 (2 ^ (h + 2) - 1) }
/-- Whether word w of a plane line is dirty: it was stored, and its chunk is dirty. -/
def Line.dirtyWord (l : Line) (w : Nat) : Bool := l.dirty.getLsbD (w / 4) && l.stored.getLsbD w
/-- V of an H word, 25 to 31 read as 24 (R163). -/
def hV (h : Nat) : Nat := min (nbits h 8 5) 24

/-! ### Making room (R170, R172) -/

/-- One step: trims the least recently used plane line of the lowest class present, or evicts. Answers the lines left and
the part that leaves, whose dirty words are to be written back. -/
def evictStep (inSet : Line → Bool) (tagOnly : Bool) (ls : List Line) : Option (List Line × Line) :=
  let el := ls.filter (fun l => inSet l && l.busy == 0)
  match el with
  | [] => none
  | x :: _ =>
    let cls := el.foldl (fun a l => min a l.prio) x.prio
    let cands := el.filter (fun l => l.prio == cls)
    let planes := cands.filter (fun l => l.plane && decide (2 < l.depth))
    let lru := fun (c : List Line) => (c.find? (fun l => c.all (fun m => decide (l.used ≤ m.used))))
    match (if tagOnly then none else lru planes) with
    | some l =>
      let c := l.chunks - 1
      let bit : BitVec 8 := BitVec.ofNat 8 (2 ^ c)
      some (updWhere (·.same l) (fun m => m.cut (4 * c - 2)) ls, { l with dirty := l.dirty &&& bit })
    | none => (lru cands).map (fun l => (ls.filter (fun m => !m.same l), l))

/-- Repeats the step until a tag (if asked for) and the chunks are free. -/
def makeRoom (inSet : Line → Bool) (pool tags0 chunks0 : Nat) (needTag : Bool) (need : Nat) :
    Nat → List Line → List Line → Option (List Line × List Line)
  | 0, _, _ => none
  | fuel + 1, ls, out =>
    let here := ls.filter inSet
    let tagOk := !needTag || decide (here.length + tags0 < 16)
    let chunkOk := decide ((here.map Line.chunks).foldl (· + ·) chunks0 + need ≤ pool)
    if tagOk && chunkOk then some (ls, out)
    else match evictStep inSet chunkOk ls with
      | none => none
      | some (ls', l) => makeRoom inSet pool tags0 chunks0 needTag need fuel ls' (out ++ [l])

/-! ### Writing back -/

/-- The requester index of an access that R30 gives no counter: of another device, or of the collective unit. -/
def noCounter : Nat := 386

/-- Who accesses and how (R27, R171, R206, R209): partition, die, core if it is a group's access, policy, class, whether
it writes, its range register's SOR, or that of each word of a plane access, user level, and how a fault record names it. -/
structure Acc where
  part : Nat
  die : Nat := 0
  core : Option Nat := none
  pol : Nat := 0
  cls : Nat := 1
  stamp : Nat := 0
  requester : Nat := 385
  write : Bool := false
  sor : Bool := false
  sors : List Bool := []
  user : Bool := false
  /-- a store of the Cairn into its own regions (R71) -/
  own : Bool := false
  who : Faulter := {}
  deriving DecidableEq, Repr
/-- The SOR under which word w of a plane access is made. -/
def Acc.sorAt (a : Acc) (w : Nat) : Bool := a.sors.getD w a.sor
/-- The access of a cache that writes a line back: it has no deadline (R27). -/
def backAcc (l : Line) : Acc := { part := l.part, requester := noCounter, write := true }

/-- Writes bytes from a home slice's die to the memory a line lies in: device memory, or host memory for pages of host tier. -/
def State.backing (s : State) (a : Acc) (die tier pa : Nat) (bs : List Byte) (bad : List Nat) : State :=
  if tier = 1 then { s with hostMem := memWrite s.hostMem pa bs } else (s.crossStack die pa).memWriteAt pa bs bad a.cls a.stamp a.requester

/-- Reads bytes from the memory a line lies in. -/
def State.backingRead (s : State) (a : Acc) (die tier pa n : Nat) : State × List Byte × List Nat :=
  if tier = 1 then (s, memBytes s.hostMem pa n, []) else (s.crossStack die pa).memRead pa n a.cls a.stamp a.requester

/-- A plane word goes to memory, and into the ordinary lines of L2 that hold it, so that none of them writes an older word over it
(R173). -/
def State.wordTo (s : State) (a : Acc) (die tier pa : Nat) (bs : List Byte) (bad : Bool) : State :=
  let s := s.backing a die tier pa bs (if bad then [pa % 128 / 64] else [])
  let holds := fun (l : Line) => !l.plane && l.tier == tier && decide (l.pas.getD 0 0 ≤ pa) && decide (pa < l.pas.getD 0 0 + 128)
  { s with l2 := updWhere holds (fun l =>
      let r := mergeSector l.data l.bad (pa % 128) bs (if bad then [pa % 128 / 64] else [])
      { l with data := r.1, bad := r.2 }) s.l2 }

/-- Writes a word of a plane line back, poisoned where it is, to the memory that its own page names (R33, R213). -/
def State.wordBack (s : State) (l : Line) (w : Nat) (a : Acc := backAcc l) : State :=
  s.wordTo a (homeDie l.ia) (l.attrs.getD w {}).tier (l.pas.getD w 0) (bytesAt l.data (4 * w) 4) (l.bad.contains w)

/-- Writes the dirty words of a line back (R169, R170, R213): the granules of an ordinary line that hold a dirty chunk,
or the words stored to a plane line, up to its depth. `a` says how memory is asked. -/
def State.writeBack (s : State) (l : Line) (a : Acc := backAcc l) : State :=
  if l.dirty == 0 then s
  else if l.plane then
    ((List.range (l.depth + 2)).filter l.dirtyWord).foldl (fun s w => s.wordBack l w a) s
  else
    ((List.range 2).filter (fun k => l.dirty.toNat / 16 ^ k % 16 != 0)).foldl (fun s k =>
      s.backing a (homeDie l.ia) l.tier (l.pas.getD 0 0 + 64 * k) (bytesAt l.data (64 * k) 64) (if l.bad.contains k then [k] else [])) s

/-- Lines in the order in which they are written back: the words of plane lines after the granules of ordinary lines, whose older
words of planes they replace (R173). -/
def planesLast (ls : List Line) : List Line := ls.filter (fun l => !l.plane) ++ ls.filter (fun l => l.plane)

/-! ### L2 -/

def State.l2Find (s : State) (p ia : Nat) (plane : Bool) : Option Line :=
  s.l2.find? (fun l => l.part == p && l.ia == ia && l.plane == plane)
def State.l2Put (s : State) (l : Line) : State :=
  { s with l2 := updWhere (·.same l) (fun _ => { l with used := s.lru }) s.l2, lru := s.lru + 1 }
def State.l2Drop (s : State) (l : Line) : State := { s with l2 := s.l2.filter (fun m => !m.same l) }

/-- Chunks of an L2 set's pool (R84, R160): each unit of the die of which some partition has shadow windows takes 6. -/
def State.l2Pool (s : State) (die : Nat) : Nat :=
  let taken := fun (k : Nat) => s.parts.any (fun e => e.2.shen && e.2.st != 0 && e.2.units.getLsbD (4 * die + k))
  64 - 6 * ((List.range 4).filter taken).length

/-- Allocates a line in L2, freeing space under R170; a set whose lines are all busy passes the line by and writes it
through (R172, log 12). -/
def State.l2Alloc (s : State) (l : Line) : State :=
  match makeRoom (fun m => l2Set m.ia == l2Set l.ia) (s.l2Pool (homeDie l.ia)) 0 0 true l.chunks 200 s.l2 [] with
  | none => s.writeBack l
  | some (ls, out) =>
    let s := { s with l2 := ls ++ [{ l with used := s.lru }], lru := s.lru + 1 }
    (planesLast out).foldl (fun s l => s.writeBack l) s

/-- A line grows to a depth: room for the chunks it gains (R167). -/
def State.l2Grow (s : State) (l : Line) (depth : Nat) : State :=
  let busy := updWhere (·.same l) (fun m => { m with busy := m.busy + 1 }) s.l2
  match makeRoom (fun m => l2Set m.ia == l2Set l.ia) (s.l2Pool (homeDie l.ia)) 0 0 false (planeChunks depth - l.chunks) 200 busy [] with
  | none => s
  | some (ls, out) =>
    (planesLast out).foldl (fun s l => s.writeBack l) { s with l2 := updWhere (·.same l) (fun m => { m with busy := m.busy - 1 }) ls }

/-- Priority after an access with a policy (R171): 0 normal, 1 evict-first, 2 evict-last, 3 `cnm`. -/
def prioAfter (pol prio : Nat) : Nat :=
  if prio = 2 then 2 else match pol with
    | 1 => 0
    | 2 => 2
    | 3 => 1
    | _ => prio
/-- Priority of a line allocated by an access with a policy (R171). -/
def prioNew (pol : Nat) : Nat := match pol with
  | 1 => 0
  | 2 => 2
  | _ => 1

/-- An access reaches the home slice of an IA, over the saddle links where that lies on the other die; a self-test may hold either
out of service (R10). -/
def State.reachSlice (s : State) (a : Acc) (ia : Nat) : State :=
  let s := s.touchChan (sliceMark (homeSlice ia))
  if homeDie ia = a.die then s else s.touchChan saddleMark

/-- A page whose open faults system software has ended as unresolvable, while they end (R215): an entry that is no entry stands for
it among the cached walks. -/
def deadEntry : Dword := 8
def State.dead (s : State) (p ia : Nat) : Bool := (s.part p).walks.any (fun w => w.page == ia / 65536 && w.pte == deadEntry)

/-- The ordinary line of an IA at its home slice, filled if absent (R160, R213). An RR page is not cached: the line of
ord 3 answered for it holds the copy of the accessor's die (R207). -/
def State.l2Line (s : State) (a : Acc) (ia : Nat) : State × MemRes Line :=
  let base := ia / 128 * 128
  if s.dead a.part base then (s, .fatal) else
  match s.l2Find a.part base false with
  | some l =>
    let s := s.reachSlice a base
    if a.write && !l.writable || (l.ord == 1 && !a.sor) then (s, .fatal)
    else if a.write && l.wp then (s, .held)
    else
      let l := { l with prio := prioAfter a.pol l.prio }
      (s.l2Put l, .ok l)
  | none =>
    match s.walk a.part base a.write with
    | (s, .ok x) =>
      let s := s.reachSlice a base
      if x.ord = 1 && !a.sor then (s, .fatal)
      else if x.ord = 3 && a.user then (s, .fatal)
      else if a.write && x.wp then (s, .held)
      else
        let (s, bs, ps) := s.backingRead a (homeDie base) (if x.host then 1 else 0) (x.place a.die) 128
        let l : Line := { part := a.part, ia := base, data := bs, bad := ps, prio := prioNew a.pol, writable := x.w, ord := x.ord,
                          wp := x.wp, tier := if x.host then 1 else 0, pas := if x.ord = 3 then [x.pa, x.pa1] else [x.pa] }
        if x.ord = 3 then (s, .ok l)
        else
          -- a plane line that makes room for it may have written a word of it (R173)
          let s := s.l2Alloc l
          (s, .ok ((s.l2Find a.part base false).getD l))
    | (s, .page) => (s, .page)
    | (s, _) => (s, .fatal)

/-- The line of an atomic at its home slice: of an RR page, the die-0 copy, whichever die asks (R207). -/
def State.atomLine (s : State) (a : Acc) (ia : Nat) : State × MemRes Line :=
  match s.l2Line a ia with
  | (s, .ok l) => if l.ord = 3 then s.l2Line { a with die := 0 } ia else (s, .ok l)
  | r => r

/-- A write at a home slice tells the watcher of a queue whose index line it changes (R78). -/
def State.notifyQueues (s : State) (p ia n : Nat) : State :=
  let pt := s.part p
  if pt.lqs.any (fun e => e.2.en && decide (nbits e.2.line.toNat 6 46 * 64 < ia + n) && decide (ia < nbits e.2.line.toNat 6 46 * 64 + 8)) then
    s.setPart p { pt with lqs := pt.lqs.map (fun e =>
      if e.2.en && decide (nbits e.2.line.toNat 6 46 * 64 < ia + n) && decide (ia < nbits e.2.line.toNat 6 46 * 64 + 8)
      then (e.1, { e.2 with waiting := true }) else e) }
  else s

/-- Far copies after a write (R194): the writer's own die drops its copy, a copy on the other die awaits invalidation. -/
def State.farWrite (s : State) (a : Acc) (base : Nat) : State :=
  if s.far.any (fun f => f.part == a.part && f.ia == base) then
    { s with far := (s.far.filter (fun f => !(f.part == a.part && f.ia == base && f.die == a.die))).map (fun f =>
      if f.part == a.part && f.ia == base then { f with stale := true } else f) }
  else s

/-- A read at the home slice that its die must not see undone (R193): a stale far copy of the line on that die goes. -/
def State.farSeen (s : State) (a : Acc) (ia : Nat) : State :=
  let old := fun (f : FarCopy) => f.stale && f.die == a.die && f.part == a.part && f.ia == ia / 128 * 128
  if s.far.any old then { s with far := s.far.filter (fun f => !old f) } else s

/-! ### The Cairn's stores (R63, R71) -/

def Cairn.reg (k : Cairn) (off : Nat) : Nat := (mget 0 k.regs off).toNat
/-- The IA of an entry of the header queue. -/
def Cairn.entryIa (k : Cairn) (i : Nat) : Nat := nbits (k.reg 0x10) 12 40 * 4096 + 32 * i
/-- The IA of a slot of the eager data region. -/
def Cairn.slotIa (k : Cairn) (i : Nat) : Nat := nbits (k.reg 0) 16 36 * 65536 + 8192 * i

/-- A queued message whose header entry has been overwritten: no field of it keeps its value (R71, log 9). -/
def InMsg.corrupt (m : InMsg) (v : Nat) : InMsg :=
  let f := fun (lo len : Nat) => nbits v lo len
  let msg := { m.hdr.msg with ctx := BitVec.ofNat 16 (f 0 16), sep := BitVec.ofNat 12 (f 16 12), mtag := w32 (f 28 32), mlen := w32 (f 60 32),
                              pds := BitVec.ofNat 5 (f 92 5), sid := BitVec.ofNat 16 (f 97 16), wia := BitVec.ofNat 46 (f 113 46) }
  { m with src := f 159 12, sid := f 97 16, hdr := { m.hdr with src := BitVec.ofNat 12 (f 159 12), msg := msg } }

/-- A write at an IA that is not the Cairn's own store of a message corrupts the messages whose entries it reaches (R71). -/
def State.queueHit (s : State) (a : Acc) (ia n : Nat) : State :=
  let pt := s.part a.part
  let k := pt.cairn
  let hit := fun (m : InMsg) => decide (ia < k.entryIa m.entry + 32) && decide (k.entryIa m.entry < ia + n)
  if a.own || !k.enabled || !k.unexpected.any hit then s
  else
    let (s, v) := s.draw
    s.setPart a.part { pt with cairn := { k with unexpected := updWhere hit (fun m => m.corrupt (v / 2 ^ (171 * m.entry))) k.unexpected } }

/-- Who else sees a write at an IA: a launch queue's watcher, and the Cairn. -/
def State.seen (s : State) (a : Acc) (ia n : Nat) : State := (s.queueHit a ia n).notifyQueues a.part ia n

/-- An ordinary write inside one 128 B line, performed at the home slice (R193, R34). `bad` names granules the data
carries poisoned. -/
def State.homeWrite (s : State) (a : Acc) (ia : Nat) (bs : List Byte) (bad : List Nat) : State × MemRes Unit :=
  match s.l2Line { a with write := true } ia with
  | (s, .ok l) =>
    let (d, ps) := mergeSector l.data l.bad (ia % 128) bs bad
    if l.ord = 3 then
      let s := (s.backing a 0 0 (l.pas.getD 0 0 + ia % 128) bs bad).backing a 1 0 (l.pas.getD 1 0 + ia % 128) bs bad
      (s.seen a ia bs.length, .ok ())
    else
      let dirty := (List.range 8).foldl (fun (b : BitVec 8) c =>
        if decide (16 * c < ia % 128 + bs.length) && decide (ia % 128 < 16 * c + 16) then b ||| BitVec.ofNat 8 (2 ^ c) else b) l.dirty
      let l' := { l with data := d, bad := ps, dirty := dirty }
      let s := if (s.l2Find a.part l.ia false).isSome then s.l2Put l' else s.writeBack l'
      ((s.farWrite a l.ia).seen a ia bs.length, .ok ())
  | (s, .page) => (s, .page)
  | (s, .held) => (s, .held)
  | (s, .fatal) => (s, .fatal)

/-- An ordinary read at the home slice: bytes, and whether one of them is poisoned. -/
def State.homeRead (s : State) (a : Acc) (ia n : Nat) : State × MemRes (List Byte × Bool) :=
  match s.l2Line a ia with
  | (s, .ok l) => (s, .ok (bytesAt l.data (ia % 128) n, (List.range 2).any (fun k => l.bad.contains k &&
      decide (64 * k < ia % 128 + n) && decide (ia % 128 < 64 * k + 64))))
  | (s, .page) => (s, .page)
  | (s, .held) => (s, .held)
  | (s, .fatal) => (s, .fatal)

/-- A write of any length at the home slices, line by line; it stops at the first part that faults. -/
def State.homeWrites (s : State) (a : Acc) : Nat → Nat → List Byte → State × MemRes Nat
  | 0, ia, _ => (s, .ok ia)
  | fuel + 1, ia, bs =>
    match bs with
    | [] => (s, .ok ia)
    | _ =>
      let n := min bs.length (128 - ia % 128)
      match s.homeWrite a ia (bs.take n) [] with
      | (s, .ok _) => State.homeWrites s a fuel (ia + n) (bs.drop n)
      | (s, .page) => (s, .page)
      | (s, .held) => (s, .held)
      | (s, .fatal) => (s, .fatal)

/-- A read of any length at the home slices, line by line. -/
def State.homeReads (s : State) (a : Acc) : Nat → Nat → Nat → List Byte → Bool → State × MemRes (List Byte × Bool)
  | 0, _, _, acc, p => (s, .ok (acc, p))
  | fuel + 1, ia, n, acc, p =>
    if n = 0 then (s, .ok (acc, p))
    else
      let k := min n (128 - ia % 128)
      match s.homeRead a ia k with
      | (s, .ok (bs, q)) => State.homeReads s a fuel (ia + k) (n - k) (acc ++ bs) (p || q)
      | (s, .page) => (s, .page)
      | (s, .held) => (s, .held)
      | (s, .fatal) => (s, .fatal)

/-- The IAs of an access of n bytes, one of each of its lines. -/
def lineIas (ia n : Nat) : List Nat := ia :: ((List.range (n / 128 + 1)).map (fun i => (ia / 128 + i + 1) * 128)).filter (fun x => decide (x < ia + n))
/-- The IA at which an access of n bytes meets its page fault, or an unresolvable one: the one that a fault record names (R214). -/
def State.pageAt (s : State) (a : Acc) (ia n : Nat) : Nat :=
  ((lineIas ia n).find? (fun i => match (s.l2Line a i).2 with | .page => true | _ => false)).getD ia
def State.fatalAt (s : State) (a : Acc) (ia n : Nat) : Nat :=
  ((lineIas ia n).find? (fun i => match (s.l2Line a i).2 with | .fatal => true | _ => false)).getD ia

/-! ### L1 and far copies -/

def Core.l1Find (k : Core) (p ia : Nat) (plane : Bool) (owner : Option Nat) : Option Line :=
  k.l1.find? (fun l => l.part == p && l.ia == ia && l.plane == plane && l.owner == owner)
def Core.l1Put (k : Core) (l : Line) : Core := { k with l1 := updWhere (·.same l) (fun _ => l) k.l1 }

/-- Lines that the buffered stores of a core's tasks pin in an L1 set (R219). -/
def bufLines (g : Group) : List (Nat × Nat) :=
  (g.tbuf.flatMap (fun b => match b with
    | .bytes ia bs _ _ => if bs.isEmpty then [] else [ia / 128, (ia + bs.length - 1) / 128]
    | .plane ias _ _ _ _ => ias.map (· / 128))).eraseDups.map (fun n => (n % 128, n))
def Core.pinned (k : Core) (set : Nat) : Nat :=
  k.groups.foldl (fun a e => if e.2.holder == .task then a + ((bufLines e.2).filter (fun x => x.1 == set)).length else a) 0

/-- Writes a part of a dirty per-thread line to its home slice; where the page no longer takes writes there, to the place that the
line was filled from (R213, R216). -/
def State.l1Part (s : State) (c : Nat) (v : Line) (off n : Nat) (bad : List Nat) : State :=
  match s.homeWrite { part := v.part, die := dieOf c, requester := c, sor := true, write := true } (v.ia + off) (bytesAt v.data off n) bad with
  | (s, .ok _) => s
  | (s, _) => s.backing (backAcc v) (homeDie v.ia) v.tier (v.pas.getD 0 0 + off) (bytesAt v.data off n) bad

/-- Runs of equal bits: start and length of each run of set ones among the first n. -/
def bitRuns (b : Nat) (n : Nat) : List (Nat × Nat) :=
  (List.range n).foldr (fun i acc => if nbit b i then (match acc with | (x, k) :: r => if x = i + 1 then (i, k + 1) :: r else (i, 1) :: acc | [] => [(i, 1)]) else acc) []
/-- A dirty per-thread line of a core's L1 is written back (R161): a granule that was stored throughout whole, poisoned where it is
(R33), of another the bytes that were stored, which merge with no poison there (R34). -/
def State.l1Home (s : State) (c : Nat) (v : Line) : State :=
  if v.dirty == 0 || v.plane then s
  else
    (List.range 2).foldl (fun s k =>
      let d := v.stored.toNat / 2 ^ (64 * k) % 2 ^ 64
      if d = 2 ^ 64 - 1 then s.l1Part c v (64 * k) 64 (if v.bad.contains k then [k] else [])
      else (bitRuns d 64).foldl (fun s r => s.l1Part c v (64 * k + r.1) r.2 []) s) s

/-- A line of L1 that has been written back is clean. -/
def Line.cleaned (l : Line) : Line := { l with dirty := 0, stored := 0 }
/-- Dirty per-thread lines of a core's L1 are written back and stay, clean (R161). -/
def State.l1CleanWhere (s : State) (c : Nat) (which : Line → Bool) : State :=
  let mine := fun (l : Line) => which l && l.dirty != 0 && !l.plane
  if (s.core c).l1.any mine then
    let s := ((s.core c).l1.filter mine).foldl (fun s l => s.l1Home c l) s
    s.setCore c { s.core c with l1 := updWhere mine Line.cleaned (s.core c).l1 }
  else s
/-- The ordinary and per-thread lines of an IA. -/
def Line.holdsIa (l : Line) (p ia : Nat) : Bool := l.part == p && l.ia == ia / 128 * 128 && !l.plane
/-- The dirty lines that a core's L1 holds of the line an IA names are written back and stay, clean (R161, R305). -/
def State.l1Clean (s : State) (c p ia : Nat) : State := s.l1CleanWhere c (fun l => l.holdsIa p ia)
/-- The ordinary lines that a core's L1 holds of the line an IA names go, per-thread ones after write-back (R161, R305). -/
def State.l1Evict (s : State) (c p ia : Nat) : State :=
  let s := s.l1Clean c p ia
  if (s.core c).l1.any (fun l => l.holdsIa p ia) then s.setCore c { s.core c with l1 := (s.core c).l1.filter (fun l => !l.holdsIa p ia) } else s
/-- What per-thread stores have left dirty in a core's L1 is performed at the home slices (R198). -/
def State.l1Land (s : State) (c : Nat) : State := s.l1CleanWhere c (fun _ => true)

/-- Allocates a line in L1, with what it pushes out: dirty per-thread lines go to the home slice (R161, R170). -/
def State.l1Alloc (s : State) (c : Nat) (l : Line) : State :=
  let k := s.core c
  let pins := k.pinned (l1Set l.ia)
  match makeRoom (fun m => l1Set m.ia == l1Set l.ia) 64 pins (8 * pins) true l.chunks 200 k.l1 [] with
  | none => s
  | some (ls, out) =>
    let s := { s.setCore c { k with l1 := ls ++ [{ l with used := s.lru }] } with lru := s.lru + 1 }
    out.foldl (fun s v => s.l1Home c v) s

/-- The ordinary line a group's load sees (R160, R194, R200, R293): L1, else the far copy of its die, else the home
slice; the last two allocate in L1. SO and RR pages bypass L1 and far copies. `owner` names a per-thread line; L1 holds no other line of the
IA beside the one that it allocates, so that no read of a group runs backward (R193). -/
def State.loadLine (s : State) (a : Acc) (c : Nat) (owner : Option Nat) (ia : Nat) : State × MemRes Line :=
  let base := ia / 128 * 128
  match (if s.dead a.part base then none else (s.core c).l1Find a.part base false owner) with
  | some l =>
    let l := { l with prio := prioAfter a.pol l.prio, used := s.lru }
    ({ s.setCore c ((s.core c).l1Put l) with lru := s.lru + 1 }, .ok l)
  | none =>
    let s := s.l1Evict c a.part base
    match (if s.dead a.part base then none else s.far.find? (fun f => f.die == dieOf c && f.part == a.part && f.ia == base)) with
    | some f =>
      let l : Line := { part := a.part, ia := base, data := f.data, bad := f.bad, prio := prioNew a.pol, owner := owner }
      (s.l1Alloc c l, .ok l)
    | none =>
      match s.l2Line { a with die := dieOf c } base with
      | (s, .ok l) =>
        if l.ord = 1 || l.ord = 3 then (s, .ok l)
        else
          let s := if homeDie base != dieOf c then
              { s with far := s.far ++ [{ die := dieOf c, part := a.part, ia := base, data := l.data, bad := l.bad }] } else s
          let m := { l.cleaned with prio := prioNew a.pol, owner := owner, busy := 0 }
          (s.l1Alloc c m, .ok m)
      | (s, .page) => (s, .page)
      | (s, .held) => (s, .held)
      | (s, .fatal) => (s, .fatal)

/-- A group's store is written through and updates an L1 copy that is present (R293), whose priority its policy sets (R171). -/
def State.l1Update (s : State) (c p ia : Nat) (bs : List Byte) (pol : Nat) : State :=
  match (s.core c).l1.find? (fun l => l.holdsIa p ia) with
  | none => s
  | some l =>
    let (d, ps) := mergeSector l.data l.bad (ia % 128) bs []
    s.setCore c ((s.core c).l1Put { l with data := d, bad := ps, prio := prioAfter pol l.prio })

/-- Every clean line of a core's L1 goes (R198); per-thread lines stay. -/
def State.l1Acquire (s : State) (c : Nat) : State :=
  let k := s.core c
  if k.l1.any (fun l => l.owner.isNone) then s.setCore c { k with l1 := k.l1.filter (fun l => l.owner.isSome) } else s

/-- One line of a core's L1 goes. -/
def State.l1Drop (s : State) (c p ia : Nat) (plane : Bool) : State :=
  let k := s.core c
  match k.l1Find p ia plane none with
  | none => s
  | some l => s.setCore c { k with l1 := k.l1.filter (fun m => !m.same l) }

/-- Every pending invalidation of a far copy lands (R194, R198). -/
def State.landFar (s : State) : State := if s.far.any (·.stale) then { s with far := s.far.filter (fun f => !f.stale) } else s

/-- Writes a line of L2 back and keeps it clean. -/
def State.l2Clean (s : State) (l : Line) (a : Acc := backAcc l) : State :=
  let s := (s.writeBack l a).touchChan (sliceMark (homeSlice l.ia))
  { s with l2 := updWhere (·.same l) Line.cleaned s.l2 }
/-- Lines of L2 are written back and stay, clean. -/
def State.cleanWhere (s : State) (which : Line → Bool) (how : Line → Acc := backAcc) : State :=
  (planesLast (s.l2.filter (fun l => which l && l.dirty != 0))).foldl (fun s l => s.l2Clean l (how l)) s
/-- Lines of L2 are written back and go. -/
def State.flushWhere (s : State) (which : Line → Bool) (how : Line → Acc := backAcc) : State :=
  (planesLast (s.l2.filter which)).foldl (fun s l => ((s.writeBack l (how l)).l2Drop l).touchChan (sliceMark (homeSlice l.ia))) s

/-- Dirty lines of host tier are written to the host, so that earlier writes are complete at system scope (R198). -/
def State.landHost (s : State) : State := s.cleanWhere (fun l => l.tier == 1 || l.attrs.any (fun a => a.tier == 1))

/-- What a release at a scope waits for beyond the accesses themselves (R198): far copies at cluster scope and wider, the host at
system scope. -/
def State.landAt (s : State) (scope : Nat) : State :=
  let s := if 2 ≤ scope then s.landFar else s
  if 5 ≤ scope then s.landHost else s
/-- What a release of a group of a core waits for: at cluster scope and wider, what its L1 holds dirty is performed first (R198). -/
def State.landFrom (s : State) (c scope : Nat) : State := (if 2 ≤ scope then s.l1Land c else s).landAt scope

/-! ### Plane lines (R166 to R169) -/

/-- Translates the words of a block from word w on at the home slices: physical addresses, host tier, or how it ends. -/
def State.walkWords (s : State) (a : Acc) (w : Nat) : List Nat → List Xlat → State × MemRes (List Xlat)
  | [], acc => (s, .ok acc)
  | ia :: ias, acc =>
    match s.walk a.part ia a.write with
    | (s, .ok x) =>
      if x.ord = 1 && !a.sorAt w || (x.ord = 3 && a.user) then (s, .fatal)
      else if a.write && x.wp then (s, .held)
      else State.walkWords s a (w + 1) ias (acc ++ [x])
    | (s, .page) => (s, .page)
    | (s, _) => (s, .fatal)


/-- Ordinary stores are performed in memory (R173): dirty ordinary lines that hold any of the words are written back before a
plane access reads or writes those words. -/
def State.cleanUnder (s : State) (xs : List Xlat) : State :=
  s.cleanWhere (fun l => !l.plane && xs.any (fun x => (l.tier == 1) == x.host && decide (l.pas.getD 0 0 ≤ x.pa) && decide (x.pa < l.pas.getD 0 0 + 128)))

/-- Reads words of a plane line from memory into it, from word w on, with their places and attributes. -/
def State.readWords (s : State) (a : Acc) : Line → Nat → List Xlat → State × Line
  | l, _, [] => (s, l)
  | l, w, x :: xs =>
    let pa := x.place a.die
    let (s, bs, ps) := s.backingRead a (homeDie l.ia) (if x.host then 1 else 0) pa 4
    State.readWords s a { l with data := patch l.data (4 * w) bs, pas := setAt l.pas w pa, attrs := setAt l.attrs w x.attr,
                                       bad := if ps.contains (pa % 128 / 64) then l.bad ++ [w] else l.bad } (w + 1) xs

/-- Fetches the words lo to hi - 1 of a plane line: those of planes above its V are not fetched, and read as zero (R167). Words of RR
pages and of others do not go together (R200). -/
def State.fetchWords (s : State) (a : Acc) (ias : List Nat) (l : Line) (lo hi : Nat) : State × MemRes Line :=
  let top := max lo (min hi (hV (l.word 0) + 2))
  match s.walkWords { a with write := false } lo ((ias.take top).drop lo) [] with
  | (s, .ok xs) =>
    let kinds := (l.attrs.take lo ++ xs.map Xlat.attr).map (·.ord)
    if kinds.contains 3 && kinds.any (fun k => k != 3) then (s, .fatal)
    else
      let (s, l) := (s.cleanUnder xs).readWords a { l with bad := l.bad.filter (fun w => decide (w < lo)) } lo xs
      (s, .ok { l with data := patch l.data (4 * top) (List.replicate (4 * (hi - top)) 0), ord := strongest kinds })
  | (s, .page) => (s, .page)
  | (s, .held) => (s, .held)
  | (s, .fatal) => (s, .fatal)

/-- An empty plane line. -/
def planeBlank (a : Acc) (ia pstr : Nat) : Line :=
  { part := a.part, ia := ia, plane := true, pstr := pstr, depth := 0, data := List.replicate 104 0, prio := prioNew a.pol,
    pas := List.replicate 26 0, attrs := List.replicate 26 {}, ias := [ia] }

/-- What the kept attributes of a line's words refuse a read (R206, R210, R213). -/
def Line.refuses (l : Line) (a : Acc) (d : Nat) : Bool :=
  (List.range (d + 2)).any (fun w => let t := l.attrs.getD w {}; (t.ord == 1 && !a.sorAt w) || (t.ord == 3 && a.user))
/-- The IAs of a line's words, as far as an access names them. -/
def Line.named (l : Line) (ias : List Nat) : List Nat := if l.ias.length < ias.length then ias else l.ias

/-- The plane line of a block at its home slice, held to depth d (R166, R167). `ias` are the IAs of H, S, M1 to Md. A line of RR
pages is not cached (R207). -/
def State.l2Plane (s : State) (a : Acc) (ias : List Nat) (pstr d : Nat) : State × MemRes Line :=
  let h := ias.getD 0 0
  let s := s.reachSlice a h
  let s := match s.l2Find a.part h true with
    | some l => if l.pstr = pstr then s else (s.writeBack l).l2Drop l
    | none => s
  if ias.any (s.dead a.part) then (s, .fatal) else
  match s.l2Find a.part h true with
  | some l =>
    if l.refuses a (min (min d l.depth) (hV (l.word 0))) then (s, .fatal)
    else if d ≤ l.depth then
      let l := { l with prio := prioAfter a.pol l.prio }
      (s.l2Put l, .ok l)
    else
      match s.fetchWords a ias l (l.depth + 2) (d + 2) with
      | (s, .ok m) =>
        let s := s.l2Grow l d
        let m := { m with depth := d, ias := l.named (ias.take (d + 2)), prio := prioAfter a.pol l.prio }
        (s.l2Put m, .ok m)
      | (s, r) => (s, r)
  | none =>
    match s.fetchWords a ias (planeBlank a h pstr) 0 2 with
    | (s, .ok l) => match s.fetchWords a ias l 2 (d + 2) with
      | (s, .ok l) =>
        let t := l.attrs.getD 0 {}
        let l := { l with depth := d, ias := ias.take (d + 2), writable := t.w, wp := t.wp, tier := t.tier }
        if l.ord = 3 then (s, .ok l) else (s.l2Alloc l, .ok l)
      | (s, r) => (s, r)
    | (s, r) => (s, r)

/-- Words as bytes. -/
def wordBytes (ws : List Word) : List Byte := ws.flatMap (fun w => leBytes 4 w.toNat)

/-- The first IA of some words whose page is missing, or has no translation: the one that a fault names. -/
def State.missIa (s : State) (p : Nat) (ias : List Nat) (write : Bool) : Nat :=
  (ias.find? (fun i => match (s.walk p i write).2 with | .page => true | _ => false)).getD (ias.headD 0)
def State.deadIa (s : State) (p : Nat) (ias : List Nat) (write : Bool) : Nat :=
  (ias.find? (fun i => match (s.walk p i write).2 with | .fatal => true | _ => false)).getD (ias.headD 0)

/-- Words of a plane store that go to memory, not into a line: to both copies of an RR page (R207). -/
def State.storeWords (s : State) (a : Acc) (h : Nat) (xs : List Xlat) (words : List Word) (bad : List Nat) (which : List Nat) : State :=
  which.foldl (fun s w =>
    let x := xs.getD w { pa := 0 }
    let put := fun (s : State) (pa : Nat) => s.wordTo a (homeDie h) (if x.host then 1 else 0) pa (leBytes 4 (words.getD w 0).toNat) (bad.contains w)
    if x.ord = 3 then put (put s x.pa) x.pa1 else put s x.pa) s

/-- The new words of a plane line, and which of them are poisoned: a word is part of its granule, so one that is poisoned stays so and
takes no data (R34). -/
def Line.takeWords (l : Line) (n : Nat) (words : List Word) (bad : List Nat) (was : Nat → Bool) : Line :=
  { l with data := (List.range n).foldl (fun d w => if was w then d else patch d (4 * w) (leBytes 4 (words.getD w 0).toNat)) l.data,
           bad := (List.range n).filter (fun w => bad.contains w || was w) }

/-- A plane store of depth d (R168), as one step: `words` are H, S, M1 to Md; `bad` names those that are poisoned. Words of planes that a present line does
not hold are written to memory. -/
def State.planeStore (s : State) (a : Acc) (ias : List Nat) (pstr d : Nat) (words : List Word) (bad : List Nat) : State × MemRes Unit :=
  let h := ias.getD 0 0
  let s := s.reachSlice a h
  match s.walkWords { a with write := true } 0 (ias.take (d + 2)) [] with
  | (s, .ok xs) =>
    let kinds := xs.map (·.ord)
    let told := fun (s : State) => (ias.take (d + 2)).foldl (fun s ia => s.seen a ia 4) s
    if kinds.contains 3 && kinds.any (fun k => k != 3) then (s, .fatal)
    else if kinds.contains 3 then (told (s.storeWords a h xs words bad (List.range (d + 2))), .ok ())
    else
    let s := s.cleanUnder xs
    let s := match s.l2Find a.part h true with
      | some l => if l.pstr = pstr then s else (s.writeBack l).l2Drop l
      | none => s
    match s.l2Find a.part h true with
    | some l =>
      let h' := min l.depth d
      let n := h' + 2
      let dirty := (List.range (planeChunks h')).foldl (fun (b : BitVec 8) c => b ||| BitVec.ofNat 8 (2 ^ c)) 0
      let l' := { l.takeWords n words bad l.bad.contains with depth := h', dirty := dirty, stored := BitVec.ofNat 128 (2 ^ n - 1), prio := prioAfter a.pol l.prio, ord := strongest kinds, pas := xs.map (·.pa) ++ l.pas.drop xs.length, attrs := xs.map Xlat.attr ++ l.attrs.drop xs.length, ias := l.named (ias.take (d + 2)) }
      -- dirty words of planes that are no longer held stay in memory as they were last stored
      let s := ((List.range (l.depth + 2)).filter (fun w => decide (n ≤ w) && decide (d + 2 ≤ w) && l.dirtyWord w)).foldl (fun s w => s.wordBack l w) s
      let s := s.l2Put l'
      let rest := (List.range (d + 2)).filter (fun w => decide (n ≤ w))
      let s := s.storeWords a h xs words bad rest
      (told s, .ok ())
    | none =>
      let t := (xs.getD 0 { pa := 0 }).attr
      let dirty := (List.range (planeChunks d)).foldl (fun (b : BitVec 8) c => b ||| BitVec.ofNat 8 (2 ^ c)) 0
      let was := fun (w : Nat) => let x := xs.getD w { pa := 0 }; !x.host && s.hbm.isPoisoned x.pa
      let l := (planeBlank a h pstr).takeWords (d + 2) words bad was
      let l := { l with depth := d, dirty := dirty, stored := BitVec.ofNat 128 (2 ^ (d + 2) - 1), writable := t.w, ord := strongest kinds, wp := t.wp, tier := t.tier, pas := xs.map (·.pa) ++ List.replicate (26 - xs.length) 0, attrs := xs.map Xlat.attr ++ List.replicate (26 - xs.length) {}, ias := ias.take (d + 2) }
      (told (s.l2Alloc l), .ok ())
  | (s, .page) => (s, .page)
  | (s, .held) => (s, .held)
  | (s, .fatal) => (s, .fatal)

/-- The L1 line of the storing core after a plane store (R168), whose priority its policy sets (R171). -/
def State.l1PlaneStore (s : State) (c p ia pstr d : Nat) (words : List Word) (pol : Nat) : State :=
  match (s.core c).l1Find p ia true none with
  | none => s
  | some l =>
    if l.pstr = pstr then
      let h' := min l.depth d
      s.setCore c ((s.core c).l1Put { l with depth := h', data := patch l.data 0 (wordBytes (words.take (h' + 2))), prio := prioAfter pol l.prio })
    else s.l1Drop c p ia true

/-- The plane line a plane load sees (R167, R297): the L1 line, deepened from the home slice where it is too shallow. A deepening asks
the home slice only for planes up to the V that L1 holds, and for none where those are held (R312). -/
def State.loadPlane (s : State) (a : Acc) (c : Nat) (ias : List Nat) (pstr d : Nat) : State × MemRes Line :=
  let h := ias.getD 0 0
  let s := match (s.core c).l1Find a.part h true none with
    | some l => if l.pstr = pstr then s else s.l1Drop c a.part h true
    | none => s
  let hit := if ias.any (s.dead a.part) then none else (s.core c).l1Find a.part h true none
  match (match hit with | some l => if d ≤ l.depth then some l else none | none => none) with
  | some l =>
    let l := { l with prio := prioAfter a.pol l.prio, used := s.lru }
    ({ s.setCore c ((s.core c).l1Put l) with lru := s.lru + 1 }, .ok l)
  | none =>
    let zeros := fun (l : Line) (v : Nat) => patch l.data (4 * (v + 2)) (List.replicate (4 * (d - v)) 0)
    let keep := fun (s : State) (l : Line) => ((s.l1Drop c a.part h true).l1Alloc c l, MemRes.ok l)
    let need := match hit with | some l => min d (hV (l.word 0)) | none => d
    match (match hit with | some l => if need ≤ l.depth then some l else none | none => none) with
    | some l => keep s { l with depth := d, data := zeros l l.depth, ias := l.named (ias.take (d + 2)), prio := prioAfter a.pol l.prio }
    | none =>
      match s.l2Plane { a with die := dieOf c } (ias.take (need + 2)) pstr need with
      | (s, .ok m) =>
        if m.ord = 1 || m.ord = 3 then (s, .ok m)
        else match hit with
          | some l =>
            -- a refine fetches the missing planes only, those above the V it holds as zero
            let lo := 4 * (l.depth + 2)
            let data := patch l.data lo (bytesAt m.data lo (4 * (need + 2) - lo))
            keep s { l with depth := d, data := zeros { l with data := data } need, bad := (l.bad ++ m.bad).eraseDups, ias := l.named (ias.take (d + 2)), prio := prioAfter a.pol l.prio }
          | none => keep s { m.cleaned with depth := d, prio := prioNew a.pol, busy := 0 }
      | (s, .page) => (s, .page)
      | (s, .held) => (s, .held)
      | (s, .fatal) => (s, .fatal)

/-! ### Trims, write-backs and invalidations of named lines (R169, R213, R305) -/

/-- How the memory requests of a cache control instruction ask memory (R27, R30, R244): as its pending `hint.cp` says. -/
def Acc.forBack (a : Acc) (l : Line) : Acc := { backAcc l with cls := a.cls, stamp := a.stamp, requester := a.requester }

/-- `ctrim` to target t at the home slice (R169): what it no longer holds is written back first. -/
def State.l2Trim (s : State) (a : Acc) (ia t : Nat) : State :=
  let s := s.reachSlice a ia
  match s.l2Find a.part ia true with
  | none => s
  | some l =>
    if t = 0 then (s.writeBack l (a.forBack l)).l2Drop l
    else if l.depth ≤ t then s
    else
      let s := ((List.range (l.depth + 2)).filter (fun w => decide (t + 2 ≤ w) && l.dirtyWord w)).foldl (fun s w => s.wordBack l w (a.forBack l)) s
      { s with l2 := updWhere (·.same l) (fun m => m.cut t) s.l2 }

/-- The lines of L2 that an IA names: the ordinary line that holds it, and the plane line of that H word. -/
def Line.namedBy (l : Line) (p ia : Nat) : Bool := l.part == p && ((!l.plane && l.ia == ia / 128 * 128) || (l.plane && l.ia == ia))

/-- Writes back and invalidates what L2, the far copies and a core's L1 hold of the line that an IA names. -/
def State.invalidate (s : State) (a : Acc) (c ia : Nat) : State :=
  let base := ia / 128 * 128
  let p := a.part
  let s := (s.reachSlice a ia).flushWhere (fun l => l.namedBy p ia) a.forBack
  let s := if s.far.any (fun f => f.part == p && f.ia == base) then { s with far := s.far.filter (fun f => !(f.part == p && f.ia == base)) } else s
  (s.l1Drop c p base false).l1Drop c p ia true

/-- Writes back and invalidates every line of an IA range in L2, far copies and the partition's L1s, and drops its cached
walks (R213, R354). -/
def State.invalidateRange (s : State) (p lo n : Nat) : State :=
  let inR := fun (ia : Nat) => decide (lo ≤ ia) && decide (ia < lo + n)
  let touches := fun (l : Line) => l.part == p &&
    (inR l.ia || (l.plane && (l.ias.take (l.depth + 2)).any inR))
  let s := s.cores.foldl (fun s e =>
    let mine := e.2.l1.filter touches
    let s := mine.foldl (fun s l => s.l1Home e.1 l) s
    if mine.isEmpty then s else s.setCore e.1 { s.core e.1 with l1 := (s.core e.1).l1.filter (fun l => !touches l) }) s
  let s := s.flushWhere touches
  let s := { s with far := s.far.filter (fun f => !(f.part == p && inR f.ia)) }
  let pt := s.part p
  s.setPart p { pt with walks := pt.walks.filter (fun w => !(decide (w.page * 65536 < lo + n) && decide (lo < w.page * 65536 + 65536))) }

end Sys2Proof.Machine
end

