-- ==== Sys2Proof/Machine/Operands.lean ====
section
/-! DEFINITION. Operand fields (R239 to R241): what each value of a field reads in vector and in scalar context, and the
checks on them at issue (R119, R123, R131, R244, R251). -/

namespace Sys2Proof.Machine

/-- An operand field of an instruction: its context, its value, how many registers it spans from there, and whether the
instruction reads or writes it. -/
structure Field where
  vec : Bool
  code : Nat
  regs : Nat := 1
  wr : Bool := false
  deriving DecidableEq, Repr

def vSrcF (c : BitVec 7) : Field := { vec := true, code := c.toNat }
def sSrcF (c : BitVec 7) : Field := { vec := false, code := c.toNat }
def vDstF (c : BitVec 7) : Field := { vec := true, code := c.toNat, wr := true }
def sDstF (c : BitVec 7) : Field := { vec := false, code := c.toNat, wr := true }
def sRegF (c : BitVec 6) : Field := { vec := false, code := c.toNat }
def Field.many (f : Field) (n : Nat) : Field := { f with regs := n }

/-- The latch a field value names, if it names one (R119). -/
def Field.latch (f : Field) : Option Nat :=
  if f.vec then (if 96 ≤ f.code ∧ f.code ≤ 103 then some (f.code - 96) else none)
  else (if 64 ≤ f.code ∧ f.code ≤ 71 then some (f.code - 64) else none)
/-- Whether the field value names the pending immediate (R239, R240). -/
def Field.isImm (f : Field) : Bool := if f.vec then f.code == 122 else f.code == 79
/-- Whether the field names a vector register, or a scalar register. -/
def Field.isVReg (f : Field) : Bool := f.vec && decide (f.code < 96)
/-- Scalar registers that a field reads or writes: also `s0` to `s7` broadcast in vector context. -/
def Field.sRegs (f : Field) : List Nat :=
  if f.vec then (if 104 ≤ f.code ∧ f.code ≤ 111 then [f.code - 104] else [])
  else (if f.code < 64 then (List.range f.regs).map (fun i => f.code + i) else [])
def Field.vRegs (f : Field) : List Nat := if f.isVReg then (List.range f.regs).map (fun i => f.code + i) else []

/-- A latch read too early (R119): no such position in the run, a longer latency, or no register result. -/
def latchEarly (u : IUnit) (k : Nat) : Bool :=
  match u.chain[k]? with
  | none => true
  | some l => l.lat == 0 || decide (k + 1 < l.lat)

/-- Operand specials of R88, as 64-bit values: `gid`, `tid`, `cid`, `role`, `gangw` from the first of the five. -/
def Group.special (g : Group) : Nat → Dword
  | 0 => d64 g.gid
  | 1 => d64 g.tid
  | 2 => d64 g.cid
  | 3 => d64 g.role
  | _ => 32

/-- A latch read by a vector reader (R120). -/
def Latch.asVec (l : Latch) : List Word := if l.vec then l.lanes else List.replicate 32 (w32 l.val.toNat)
/-- A latch read by a scalar reader (R120). -/
def Latch.asScalar (l : Latch) : Dword := if l.vec then d64 (l.lanes.getD l.low 0).toNat else l.val

/-- The 32 lanes of a vector operand (R239). -/
def Group.readV (g : Group) (u : IUnit) (code : Nat) : List Word :=
  if code < 96 then (g.vreg code).lanes
  else if code < 104 then (u.chain.getD (code - 96) {}).asVec
  else if code < 112 then List.replicate 32 (w32 (g.sreg (code - 104)).toNat)
  else if code = 112 then List.replicate 32 0
  else if code = 113 then List.replicate 32 1
  else if code = 114 then List.replicate 32 0x3F800000
  else if code = 115 then (List.range 32).map w32
  else if code = 116 then (List.range 32).map (fun i => w32 (i / 4))
  else if code < 122 then List.replicate 32 (w32 (g.special (code - 117)).toNat)
  else List.replicate 32 (u.hints.imm.getD 0)

/-- The ptag of a vector operand (R239, R120): that of a register or of a vector producer's latch, else 0. -/
def Group.readTag (g : Group) (u : IUnit) (code : Nat) : BitVec 16 :=
  if code < 96 then (g.vreg code).ptag
  else if code < 104 then (let l := u.chain.getD (code - 96) {}; if l.vec then l.ptag else 0)
  else 0

/-- Whether a vector operand was written poisoned (R34). -/
def Group.readPoison (g : Group) (code : Nat) : Bool := decide (code < 96) && (g.vreg code).poison

/-- A scalar operand (R240); `clk` is CLK of the core as the instruction issues (R254). -/
def Group.readS (g : Group) (u : IUnit) (clk : Dword) (code : Nat) : Dword :=
  if code < 64 then g.sreg code
  else if code < 72 then (u.chain.getD (code - 64) {}).asScalar
  else if code = 72 then 0
  else if code = 73 then 1
  else if code < 79 then g.special (code - 74)
  else if code = 79 then (u.hints.imm.getD 0).signExtend 64
  else clk

/-- ILLEGAL_ENCODING among the operand fields at issue: a vector register at or above 8n (TRX is the field value, R131),
or `imm` with no immediate pending (TRX is the word, R244). -/
def illegalField (g : Group) (u : IUnit) (word : Dword) (fs : List Field) : Option Dword :=
  fs.findSome? (fun f =>
    if f.isVReg && decide (8 * g.units < f.code + f.regs) then some (d64 f.code)
    else if f.isImm && u.hints.imm.isNone then some word
    else none)

/-- LATCH_EARLY among the source fields: TRX is the field value (R119). -/
def earlyField (u : IUnit) (fs : List Field) : Option Dword :=
  fs.findSome? (fun f => match f.latch with
    | some k => if latchEarly u k then some (d64 f.code) else none
    | none => none)

/-- PENDING_READ among the fields: TRX is the field value of the register that is pending (R123). -/
def pendingField (g : Group) (fs : List Field) : Option Dword :=
  fs.findSome? (fun f =>
    match f.vRegs.find? g.vPending with
    | some r => some (d64 r)
    | none => match f.sRegs.find? g.sPending with
      | some r => some (d64 (if f.vec then f.code else r))
      | none => none)

end Sys2Proof.Machine
end

