-- ==== Sys2Proof/Machine/Flags.lean ====
section
/-! DEFINITION. Conditions (R258, R262, R263, R274), the status register's bits (R221), and the exception counters that
floating-point results add to (R223). -/

namespace Sys2Proof.Machine

/-- The conditions of `scmp` and `vcmp` (R258), at any width: 0 eq, 1 ne, 2 lt, 3 le, 4 ltu, 5 leu, 6 tst. -/
def condHolds {w : Nat} (c : Nat) (a b : BitVec w) : Bool :=
  match c with
  | 0 => a == b
  | 1 => a != b
  | 2 => a.slt b
  | 3 => a.sle b
  | 4 => a.ult b
  | 5 => a.ule b
  | _ => a &&& b != 0

/-- The conditions of `brc` (R262): 0 eqz, 1 nez, 2 ltz, 3 gez, 4 lez, 5 gtz. -/
def brcTaken (c : Nat) (a : Dword) : Bool :=
  match c with
  | 0 => a == 0
  | 1 => a != 0
  | 2 => a.slt 0
  | 3 => !a.slt 0
  | 4 => a.sle 0
  | _ => !a.sle 0

/-- The lane tests of `brv` (R263): 0 nez, 1 eqz, 2 ltz, 3 gez. -/
def laneTest (t : Nat) (a : Word) : Bool :=
  match t with
  | 0 => a != 0
  | 1 => a == 0
  | 2 => a.slt 0
  | _ => !a.slt 0

/-- The slices of a unit that take a vector branch (R109). -/
def slicesTaking (all : Bool) (t : Nat) (active : Word) (slices : BitVec 8) (a : List Word) : BitVec 8 :=
  BitVec.ofNat 8 ((List.range 8).foldl (fun acc j =>
    let lanes := (List.range 4).filter (fun i => active.getLsbD (4 * j + i))
    let hit := fun (i : Nat) => laneTest t (a.getD (4 * j + i) 0)
    if slices.getLsbD j && !lanes.isEmpty && (if all then lanes.all hit else lanes.any hit) then acc + 2 ^ j else acc) 0)

/-- STAT after trap entry: PRIV and INTRAP set, TASK kept (R220, R221). -/
def statInTrap (st : Dword) : Dword := st ||| 3
def statPriv (st : Dword) : Bool := st.getLsbD 0
def statInTrapBit (st : Dword) : Bool := st.getLsbD 1

/-- An add of an instruction's events of one kind waits for its place at FXB (R223, R224, log 87); with FXB 0 nothing is counted. -/
def Group.countEvent (g : Group) (fmt e : Nat) (n : Nat) : Group :=
  if g.fxb == 0 || n == 0 then g else { g with fxAdds := g.fxAdds ++ [(4 * fmt + e, n)] }

/-- Counts the events of a list of roundings to one format (R223): once per result element. -/
def Group.countEvents (g : Group) (fmt : Nat) (evs : List Ev) : Group :=
  (List.range 4).foldl (fun g e => g.countEvent fmt e (evs.filter (fun v => v.getLsbD e)).length) g

end Sys2Proof.Machine
end

