-- ==== Sys2Proof/Machine/Ops.lean ====
section
/-! DEFINITION. The shared operations of issue: code segments (R129, R130), taking a trap and returning from one (R118,
R220, R352), stalls, and the one combinator through which every instruction issues: decode checks in the order of R251,
flush points (R142), execution, and what ends an instruction (R114, R115, R244, R266). -/

namespace Sys2Proof.Machine

/-! ### Code segments -/

def segOf (va : Va) : Nat := va.toNat / 4096
/-- The frame that holds a resident segment of a partition. -/
def Core.resident (k : Core) (p : Nat) (seg : Nat) : Option Frame :=
  k.frames.find? (fun f => f.part == p && f.seg == seg)
/-- Whether a `cfetch` of the partition that satisfies a condition is loading the segment into a frame of the core (R130, R356). -/
def Core.segLoading (k : Core) (p : Nat) (seg : Nat) (f : Op → Bool := fun _ => true) : Bool :=
  k.groups.any (fun e => e.2.part == p && e.2.ops.any (fun o => o.kind == .cfetch && o.status != .performed && o.addrs == [seg * 4096] && f o))
/-- Whether a dispatched task's prefetch that satisfies a condition is loading a segment on a core. -/
def Core.prefetches (k : Core) (p seg : Nat) (f : QTask → Bool := fun _ => true) : Bool :=
  k.tasks.any (fun q => q.part == p && q.slot.isSome && !q.ready && f q && decide (recField q.record 0 6 / 4096 ≤ seg) &&
    decide (seg < recField q.record 0 6 / 4096 + recField q.record 6 2))
/-- Whether the prefetch of a dispatched task that began before a number, or a placement whose read waits for a fault record, which any
core of the partition may turn out to receive (log 88), is loading a segment of the partition on a core (R130, R356). -/
def State.prefetching (s : State) (c p seg before : Nat) : Bool :=
  (s.core c).prefetches p seg (fun q => decide (q.began < before)) ||
  ((s.part p).cores.contains c && (s.part p).launches.any (fun l => l.parked && recField l.record 4 1 == 0 && recField l.record 8 8 % 2 ^ 57 / 4096 + 1 == seg))
/-- Whether any load of the segment is under way on the core (R130): by a `cfetch`, a prefetch or a placement. -/
def State.codeLoading (s : State) (c p seg : Nat) : Bool := (s.core c).segLoading p seg || s.prefetching c p seg s.seq
/-- The code bytes of a resident segment at an offset, as a word (R238). -/
def Frame.word (f : Frame) (off : Nat) : Word :=
  wordOfBytes (memByte f.code off) (memByte f.code (off + 1)) (memByte f.code (off + 2)) (memByte f.code (off + 3))
/-- The word at an address, if its segment is resident. -/
def Core.fetch (k : Core) (p : Nat) (va : Va) : Option Word := (k.resident p (segOf va)).map (fun f => f.word (va.toNat % 4096))

/-! ### The issuing unit -/

/-- The issuing unit and where it stands. -/
structure Ictx where
  c : Nat
  sl : Nat
  g : Group
  u : IUnit
  clk : Dword
  deriving DecidableEq, Repr

def State.ictx (s : State) : Ictx :=
  let k := s.core s.cur.1
  let g := k.group s.cur.2.1
  { c := s.cur.1, sl := s.cur.2.1, g := g, u := g.iunit s.cur.2.2, clk := k.clk }

def Ictx.active (x : Ictx) : Word := x.g.active x.u
def Ictx.readV (x : Ictx) (c : BitVec 7) : List Word := x.g.readV x.u c.toNat
def Ictx.readS (x : Ictx) (c : BitVec 7) : Dword := x.g.readS x.u x.clk c.toNat
/-- The lanes a vector result leaves in its latch: the result where active, the old contents of D elsewhere (R120). -/
def Ictx.merge (x : Ictx) (d : BitVec 7) (r : List Word) : List Word := blend x.active r (x.g.vreg d.toNat).lanes
/-- The rounding mode of an instruction without a field of its own (R244). -/
def Ictx.mode (x : Ictx) : Nat := x.u.hints.rnd.getD 0
/-- The extra value that FP4 code 1000 stands for here (R229, R244). -/
def Ictx.xv (x : Ictx) : Nat := (x.g.xvs.getD x.u.hints.xvn 0).toNat

/-! ### The Reckoner window as far as issue sees it (R141, R142) -/

/-- Commands of a core that are in the scoreboard: entered and not retired (R133). -/
def Core.onBoard (k : Core) : Nat :=
  (k.groups.map (fun e => (e.2.ops.filter (fun o => match o.cmd with | some m => m.stage == .entered || m.stage == .started | none => false)).length)).foldl (· + ·) 0
/-- The entries of a group's window enter the scoreboard in order, as many as it has room for (R133, R141, R142). -/
def flushWindow (k : Core) (g : Group) : Core × Group :=
  let r := g.ops.foldl (fun (acc : Nat × Nat × List Op) o =>
    match o.cmd with
    | some m => if m.stage == .window && decide (0 < acc.2.1) then (acc.1 + 1, acc.2.1 - 1, acc.2.2 ++ [{ o with cmd := some { m with stage := .entered, entry := acc.1 } }])
                else (acc.1, acc.2.1, acc.2.2 ++ [o])
    | none => (acc.1, acc.2.1, acc.2.2 ++ [o])) (k.entries, 64 - k.onBoard, [])
  ({ k with entries := r.1 }, { g with ops := r.2.2 })
def Group.windowOps (g : Group) : List Op := g.ops.filter (fun o => match o.cmd with | some m => m.stage == .window | none => false)

/-- Flushes the window of a slot, as far as the scoreboard has room; what is left stalls the unit that flushes (R133). -/
def State.flush (s : State) (c sl : Nat) : State :=
  if (s.group c sl).windowOps.isEmpty then s
  else
    let (k, g) := flushWindow (s.core c) (s.group c sl)
    s.setCore c (k.setGroup sl g)

/-! ### SFU entries (R126, R127) -/

/-- The oldest operation of a path completes: its results are written, its reports recorded, its count falls (R122). -/
def Group.retireOp (g : Group) (o : Op) : Group :=
  let g := o.out.foldl Group.apply g
  { g with ops := g.ops.filter (fun x => x.seq != o.seq), reports := g.reports ++ o.reports }

/-- All SFU entries of a group complete (R127). -/
def drainSfu (k : Core) (sl : Nat) (g : Group) : Core × Group :=
  let mine := g.ops.filter (fun o => o.path == 6)
  if mine.isEmpty then (k, g)
  else
    let q := k.quarter (quarterOf sl)
    (k.setQuarter (quarterOf sl) { q with sfu := q.sfu.filter (fun e => e.1 != sl) }, mine.foldl Group.retireOp g)

/-! ### Traps -/

/-- The group ends as a trap that is not resumed (R220): every unit stops for good, and the management engine is told. -/
def State.endGroup (s : State) (c sl : Nat) (status : Nat) : State :=
  let g := s.group c sl
  let g := { g with ended := some status, iunits := g.iunits.map (fun u => { u with wait := .exited, loops := [], due := [] }), save := none }
  (s.setGroup c sl g).postMgmt (.trapUnresumed c sl)

/-- What the register of a write holds now, as a write. -/
def Group.held (g : Group) : RegWrite → RegWrite
  | .s d _ => .s d (g.sreg d)
  | .v d _ _ _ _ => let r := g.vreg d; .v d 0xFFFFFFFF r.lanes r.ptag r.poison
  | .tag d _ => .tag d (g.vreg d).ptag

/-- Whether entries of a slot's window found no room. -/
def State.windowLeft (s : State) (c sl : Nat) : Bool := !(s.group c sl).windowOps.isEmpty
/-- Taking a trap (R118, R127, R142, R220): the window is flushed, SFU entries drain, the unit's position, latches,
pending hints, due writes and open loops are captured, TRC, TRA and TRX are written, PRIV and INTRAP are set, and the unit goes on at
TRV + 64 * code. Without a handler, or inside one, the group ends. -/
def State.takeTrap (s : State) (c sl uid cause : Nat) (trx : Dword) (tra resume : Va) (inst : Option Nat := none) : State :=
  let s := s.flush c sl
  let (k, g) := drainSfu (s.core c) sl (s.group c sl)
  let s := s.setCore c (k.setGroup sl g)
  let u := g.iunit uid
  let g' := { g with trc := d64 cause, tra := d64 tra.toNat, trx := trx, pinStall := false }
  let target : Va := b57 (g.trv.toNat + 64 * cause)
  if statInTrapBit g.stat || g.trv == 0 || (k.resident g.part (segOf target)).isNone then (s.setGroup c sl g').endGroup c sl 5
  else
    let save : TrapSave := { stat := g.stat, uid := uid, pos := u.pos, chain := u.chain, hints := u.hints, due := u.due, loops := u.loops,
                             old := u.due.map (fun w => g.held w.w), resume := resume, inst := inst, arrived := u.arrived, passed := u.passed, cut := k.entries }
    let u' := { u with pc := target, loops := [], pos := 0, chain := [], hints := {}, due := [], wait := .ready, arrived := false, passed := false, awaits := [] }
    s.setGroup c sl ({ g' with stat := statInTrap g.stat, save := some save }.setUnit u')

/-- The originals that a return from a trap enters (R154): those of the faulted instance whose trap it is. -/
def Group.returning (g : Group) : List Cmd :=
  match g.save.bind (·.inst) with
  | some id => ((g.instances.find? (fun (i : Instance) => i.id == id)).map (·.originals)).getD []
  | none => []
/-- Whether the originals that a return from a trap enters would find the scoreboard full: they stall the unit until there is room for all
of them, or until nothing else is on it (R133, R154, log 39). -/
def Core.returnStalls (k : Core) (g : Group) : Bool :=
  !g.returning.isEmpty && k.onBoard != 0 && decide (64 < k.onBoard + g.returning.length)
/-- Where a return from a trap goes on (R352): the resume point, or TRA where the handler has written it. -/
def Group.returnsTo (g : Group) : Option Va := g.save.map (fun v => if v.traWritten then b57 g.tra.toNat else v.resume)

/-- Returning from a trap (R118, R352): STAT, position, latches, hints, open loops and due writes are those captured, and the registers of
those writes hold what they held at entry; the unit goes on at the resume point, or at TRA where the handler has written it. At
the start of a run every write has landed (R115). -/
def State.trapReturn (s : State) (c sl uid : Nat) : State :=
  let g := s.group c sl
  match g.save with
  | none => s.setGroup c sl { g with stat := g.stat &&& ~~~(2 : Dword) }
  | some v =>
    let g := v.old.foldl Group.apply g
    let g := if v.pos = 0 then landAll g v.due else g
    let u := g.iunit uid
    let u' := { u with pc := if v.traWritten then b57 g.tra.toNat else v.resume, pos := v.pos, chain := v.chain, hints := v.hints, loops := v.loops,
                       due := if v.pos = 0 then [] else v.due, arrived := v.arrived, passed := v.passed, wait := .ready }
    s.setGroup c sl ({ g with stat := v.stat, save := none }.setUnit u')

/-! ### Issue -/

/-- What an instruction asks of issue: itself, its boundary bit, its operand fields in the order D, A, Bs, S, X, Y,
register (R251), whether it needs PRIV, whether it must end its run (R113), whether it is a hint, and whether it is a flush
point (R142). -/
structure Issue where
  i : Instr
  e : Bool
  fields : List Field := []
  priv : Bool := false
  mustEnd : Bool := false
  hint : Bool := false
  flush : Bool := false
  /-- ILLEGAL_ENCODING for a reason the word alone does not show (R197, R244) -/
  illegal : Bool := false
  deriving DecidableEq, Repr

/-- An instruction that traps once it has executed: the window is flushed first. -/
def Issue.trapsAfter (x : Issue) : Bool := match x.i with | .trap _ _ => true | _ => false
/-- Where the unit goes on. -/
inductive Next where
  | seq
  | to (va : Va)
  /-- as `to`, waiting for a segment that is being loaded (R130) -/
  | toWait (va : Va)
  /-- the loop at whose end the instruction stands is not stepped (R266), and nothing follows in order -/
  | leave (va : Va)
  deriving DecidableEq, Repr

/-- How an instruction's execution ends. -/
inductive Done where
  /-- it completes: what its position leaves in the latch chain, its fixed-latency writes, and where the unit goes on -/
  | fin (s : State) (latch : Latch) (writes : List DueWrite) (next : Next) (after : Wait)
  /-- a precise trap: nothing of the instruction is done -/
  | trap (cause : Nat) (trx : Dword)
  /-- a trap taken once the instruction has executed (SW_TRAP), with the resume point -/
  | trapAfter (s : State) (cause : Nat) (trx : Dword)
  /-- a trap reported here (R124, R153): cause, TRX, TRA, and the faulted instance -/
  | report (s : State) (cause : Nat) (trx : Dword) (tra : Va) (inst : Option Nat)
  /-- the unit stalls inside its run; something else of the machine moves -/
  | stall (s : State)
  /-- the unit waits and releases its quarter (R116) -/
  | wait (s : State) (w : Wait)
  /-- the instruction has put the unit where it goes on (`sret`) -/
  | done (s : State)

/-- The program counter and loops after an instruction in order (R266). -/
def loopStep (pc : Va) : List Loop → Va × List Loop
  | [] => (pc + 4, [])
  | l :: ls =>
    if l.last = pc then (if 1 < l.count then (l.start, { l with count := l.count - 1 } :: ls) else loopStep pc ls)
    else (pc + 4, l :: ls)

def atLoopEnd (u : IUnit) : Bool := match u.loops with | [] => false | l :: _ => l.last == u.pc

/-- BAD_RUN (R112, R266): the 24th instruction or one that must end its run has B = 0, or a hint other than `nop` has
B = 1, or the last instruction of the innermost loop has B = 0. -/
def badRun (x : Issue) (u : IUnit) : Bool :=
  (!x.e && (decide (23 ≤ u.pos) || x.mustEnd || atLoopEnd u)) || (x.e && x.hint && (match x.i with | .nop _ => false | _ => true))

/-- The decode traps at issue, in the order of R251: cause and TRX. -/
def decodeTrap (x : Issue) (g : Group) (u : IUnit) : Option (Nat × Dword) :=
  let word : Dword := d64 ((encode x.i).getD 0).toNat
  match illegalField g u word x.fields with
  | some v => some (0x01, v)
  | none =>
    if x.illegal then some (0x01, word)
    else if x.priv && !g.privileged then some (0x05, word)
    else if badRun x u then some (0x02, 0)
    else match earlyField u x.fields with
      | some v => some (0x03, v)
      | none => (pendingField g x.fields).map (fun v => (0x04, v))

/-- What ends an instruction for its unit and group: one slot passes for the due writes (R114), at a run boundary all land
(R115; with `hold` a trap captures them first), the latch chain and position move, pending hints clear after a non-hint instruction and at a boundary (R244), and
the program counter moves. -/
def finishUnit (x : Issue) (g : Group) (u : IUnit) (latch : Latch) (writes : List DueWrite) (next : Next) (after : Wait) (hold : Bool := false) : Group :=
  let (g, due) := landOne g (u.due ++ writes)
  let g := if x.e && !hold then landAll g due else g
  let (pc, loops) := match next with
    | .seq => loopStep u.pc u.loops
    | .to va => (va, u.loops)
    | .toWait va => (va, u.loops)
    | .leave va => (va, u.loops)
  g.setUnit { u with
    pc := pc, loops := if after == .exited then [] else loops,
    due := if x.e && !hold then [] else due,
    chain := if x.e then [] else (latch :: u.chain).take 8,
    hints := if x.e || !x.hint then {} else u.hints,
    pos := if x.e then 0 else u.pos + 1,
    streak := if x.e then u.streak + 1 else u.streak,
    wait := after, arrived := false, passed := false, awaits := [] }

/-- The target a completing instruction needs resident, if it lies in another segment (R130). -/
def needsSegment (u : IUnit) (next : Next) : Option Va :=
  let t := match next with
    | .seq => (loopStep u.pc u.loops).1
    | .to va => va
    | .toWait va => va
    | .leave va => va
  if segOf t = segOf u.pc then none else some t

/-- One core cycle passes. -/
def State.cycle (s : State) (c : Nat) (n : Nat := 1) : State := s.setCore c { s.core c with clk := (s.core c).clk + d64 n }

/-- A trap is taken in the cycle in which the window has room to flush; until then its unit stalls (R133, R142). -/
def State.trapNow (s : State) (c sl uid cause : Nat) (trx : Dword) (tra resume : Va) (inst : Option Nat := none) : State :=
  let s := s.flush c sl
  if s.windowLeft c sl then s.cycle c else (s.takeTrap c sl uid cause trx tra resume inst).cycle c
/-- Whether a report comes before another: in the issue order of their operations, then of their requests (R42, R217, R222). -/
def Report.le (a b : Report) : Bool := decide (a.seq < b.seq) || (a.seq == b.seq && decide (a.lane ≤ b.lane))

/-- The first of some reports in the issue order of their operations and requests (R222). -/
def firstReport : List Report → Option Report
  | [] => none
  | r :: rs => match firstReport rs with
    | none => some r
    | some q => if r.le q then some r else some q

/-- A TILE_FAULT that waits to be taken at a flush point (R153), while no handler runs. -/
def Group.tileFault (g : Group) : Option Report :=
  if statInTrapBit g.stat then none else firstReport (g.reports.filter (fun r => r.cause == 0x14))
/-- A report is taken: it goes, and a faulted sweep's iterator receives the index it stopped at, unless it was set since (R289). -/
def Group.dropReport (g : Group) (r : Report) : Group :=
  let g := { g with reports := g.reports.erase r }
  match r.iter with
  | some (k, p, gen) =>
    if mget 0 g.itGens k = gen then { g with iters := mput g.iters k ((mget (List.replicate 8 0) g.iters k).set 5 (d64 p)) } else g
  | none => g

/-- The one way an instruction issues (R251, R142, R114): decode traps, the flush, execution, and its end. -/
def issue (x : Issue) (s : State) (body : Ictx → State → Done) : Host.Outcome State Fault Refusal :=
  let ctx := s.ictx
  let c := ctx.c
  let sl := ctx.sl
  let uid := s.cur.2.2
  let pc := ctx.u.pc
  let trap := fun (s : State) (cause : Nat) (trx : Dword) => Host.Outcome.next (s.trapNow c sl uid cause trx pc pc)
  match (if ctx.u.wait == .ready then decodeTrap x ctx.g ctx.u else none) with
  | some (cause, trx) => trap s cause trx
  | none =>
    match (if x.flush then ctx.g.tileFault else none) with
    | some r => if (s.flush c sl).windowLeft c sl then .next ((s.flush c sl).cycle c)
      else .next ((s.setGroup c sl (ctx.g.dropReport r)).trapNow c sl uid r.cause r.trx (r.tra.getD pc) pc r.inst)
    | none =>
      let s0 := if x.flush || x.trapsAfter then s.flush c sl else s
      if (x.flush || x.trapsAfter) && s0.windowLeft c sl then .next (s0.cycle c) else
      match body { ctx with g := s0.group c sl } s0 with
      | .trap cause trx => trap s0 cause trx
      | .trapAfter s1 cause trx =>
        let g := finishUnit x (s1.group c sl) ((s1.group c sl).iunit uid) {} [] .seq .ready true
        let s2 := s1.setGroup c sl g
        .next (s2.trapNow c sl uid cause trx pc (g.iunit uid).pc)
      | .report s1 cause trx tra inst =>
        -- a report is taken in the cycle in which the window has room (R142)
        if (s0.flush c sl).windowLeft c sl then .next ((s0.flush c sl).cycle c) else .next (s1.trapNow c sl uid cause trx tra pc inst)
      | .stall s1 => .next (s1.cycle c)
      | .wait s1 w => .next ((s1.setGroup c sl ((s1.group c sl).setUnit { (s1.group c sl).iunit uid with wait := w, arrived := true })).cycle c)
      | .done s1 => .next (s1.cycle c)
      | .fin s1 latch writes next after =>
        let g1 := s1.group c sl
        let u1 := g1.iunit uid
        match (if after == .exited then none else needsSegment u1 next) with
        | none => .next ((s1.setGroup c sl (finishUnit x g1 u1 latch writes next after)).cycle c)
        | some t =>
          if ((s1.core c).resident g1.part (segOf t)).isSome then
            .next ((s1.setGroup c sl (finishUnit x g1 u1 latch writes next after)).cycle c)
          else
            match next with
            | .toWait _ => if s1.codeLoading c g1.part (segOf t) then .next (s0.cycle c) else trap s0 0x06 (d64 t.toNat)
            | _ => trap s0 0x06 (d64 t.toNat)

/-! ### Shapes of fixed-latency instructions -/

/-- A scalar result of latency L (R260): register unless W, and latch. -/
def finScalar (s : State) (w : Bool) (d : BitVec 7) (lat : Nat) (v : Dword) : Done :=
  .fin s { lat := lat, vec := false, val := v } (if w then [] else [{ left := lat, w := .s d.toNat v }]) .seq .ready

/-- A vector result of latency L (R271): active lanes and ptag unless W; the latch holds the whole result (R120). With no
active lane nothing is written and the latch holds D's old contents (R125). -/
def finVector (x : Ictx) (s : State) (w : Bool) (d : BitVec 7) (lat : Nat) (r : List Word) (tag : BitVec 16) : Done :=
  let act := x.active
  let old := x.g.vreg d.toNat
  let latch : Latch := { lat := lat, vec := true, lanes := x.merge d r, ptag := if act == 0 then old.ptag else tag, low := lowLane act }
  .fin s latch (if w || act == 0 then [] else [{ left := lat, w := .v d.toNat act r tag false }]) .seq .ready

/-- An instruction without a register result (R119): its position has no latch value. -/
def finPlain (s : State) : Done := .fin s {} [] .seq .ready

/-- Updates the issuing group. -/
def State.onGroup (s : State) (x : Ictx) (f : Group → Group) : State := s.setGroup x.c x.sl (f (s.group x.c x.sl))
def State.onUnit (s : State) (x : Ictx) (f : IUnit → IUnit) : State := s.onGroup x (fun g => g.setUnit (f (g.iunit x.u.uid)))

end Sys2Proof.Machine
end

