-- ==== Sys2Proof/Machine/Scalar.lean ====
section
/-! DEFINITION. Hints (R243, R244, R255) and scalar arithmetic, logic, compares and moves (R256 to R260). -/

namespace Sys2Proof.Machine

/-! ### Hints -/

/-- A hint: occupies a position and changes the pending fields of its unit (R244, R255). -/
def hintOp (i : Instr) (e : Bool) (f : Hints → Hints) (s : State) : Host.Outcome State Fault Refusal :=
  issue { i := i, e := e, hint := true } s (fun x s => finPlain (s.onUnit x (fun u => { u with hints := f u.hints })))

/-- NOP (R255): changes nothing. -/
def execNop (e : Bool) (s : State) : Host.Outcome State Fault Refusal := hintOp (.nop e) e id s
/-- HINT_IL (R244): the immediate is the payload sign-extended. -/
def execHintIl (e : Bool) (i : BitVec 21) (s : State) : Host.Outcome State Fault Refusal :=
  hintOp (.hintIl e i) e (fun h => { h with imm := some (i.signExtend 32) }) s
/-- HINT_IH (R244): bits [31:21] of the immediate. -/
def execHintIh (e : Bool) (i : BitVec 11) (s : State) : Host.Outcome State Fault Refusal :=
  hintOp (.hintIh e i) e (fun h => { h with imm := some (w32 ((h.imm.getD 0).toNat % 2097152 + i.toNat * 2097152)) }) s
/-- HINT_RND (R243): rounding mode, `xvN` and the `.xv` qualifier. -/
def execHintRnd (e : Bool) (x : Bool) (n : BitVec 2) (m : BitVec 3) (s : State) : Host.Outcome State Fault Refusal :=
  hintOp (.hintRnd e x n m) e (fun h => { h with rnd := some m.toNat, xvn := n.toNat, xvq := x }) s
/-- HINT_MO (R243): order and scope. -/
def execHintMo (e : Bool) (sc : BitVec 3) (o : BitVec 3) (s : State) : Host.Outcome State Fault Refusal :=
  hintOp (.hintMo e sc o) e (fun h => { h with mo := some (o.toNat, sc.toNat) }) s
/-- HINT_CP (R243): policy, class and relative deadline. -/
def execHintCp (e : Bool) (d : BitVec 16) (k : BitVec 2) (p : BitVec 2) (s : State) : Host.Outcome State Fault Refusal :=
  hintOp (.hintCp e d k p) e (fun h => { h with cp := some (p.toNat, k.toNat, d.toNat) }) s
/-- HINT_AO (R243): the remote atomic operation. -/
def execHintAo (e : Bool) (o : BitVec 5) (s : State) : Host.Outcome State Fault Refusal :=
  hintOp (.hintAo e o) e (fun h => { h with ao := some o.toNat }) s
/-- HINT_RW (R143). -/
def execHintRw (e : Bool) (s : State) : Host.Outcome State Fault Refusal := hintOp (.hintRw e) e (fun h => { h with rw := true }) s

/-! ### Shapes -/

/-- Two scalar sources, a result after one slot (R256, R260). -/
def scalar2 (i : Instr) (e w : Bool) (d a b : BitVec 7) (f : Dword → Dword → Dword) (s : State) : Host.Outcome State Fault Refusal :=
  issue { i := i, e := e, fields := [sDstF d, sSrcF a, sSrcF b] } s (fun x s => finScalar s w d 1 (f (x.readS a) (x.readS b)))
/-- One scalar source, a result after one slot. -/
def scalar1 (i : Instr) (e w : Bool) (d a : BitVec 7) (f : Dword → Dword) (s : State) : Host.Outcome State Fault Refusal :=
  issue { i := i, e := e, fields := [sDstF d, sSrcF a] } s (fun x s => finScalar s w d 1 (f (x.readS a)))

/-- Leading zero bits (R256, R272). -/
def clzOf (w n : Nat) : Nat := if n = 0 then w else w - 1 - Nat.log2 n
/-- Set bits. -/
def popOf (w n : Nat) : Nat := ((List.range w).filter (fun i => nbit n i)).length

/-- SADD (R256: the sum modulo 2^64). -/
def execSadd (e w : Bool) (d a b : BitVec 7) (s : State) : Host.Outcome State Fault Refusal :=
  scalar2 (.sadd e w d a b) e w d a b (fun x y => x + y) s
/-- SSUB (R256: the difference modulo 2^64). -/
def execSsub (e w : Bool) (d a b : BitVec 7) (s : State) : Host.Outcome State Fault Refusal :=
  scalar2 (.ssub e w d a b) e w d a b (fun x y => x - y) s
/-- SMUL (R256: the low 64 bits of the product). -/
def execSmul (e w : Bool) (d a b : BitVec 7) (s : State) : Host.Outcome State Fault Refusal :=
  scalar2 (.smul e w d a b) e w d a b (fun x y => x * y) s
/-- SMULH (R256: bits [127:64] of the exact signed product). -/
def execSmulh (e w : Bool) (d a b : BitVec 7) (s : State) : Host.Outcome State Fault Refusal :=
  scalar2 (.smulh e w d a b) e w d a b (fun x y => BitVec.ofInt 64 (x.toInt * y.toInt / 2 ^ 64)) s
/-- SAND (R256). -/
def execSand (e w : Bool) (d a b : BitVec 7) (s : State) : Host.Outcome State Fault Refusal :=
  scalar2 (.sand e w d a b) e w d a b (fun x y => x &&& y) s
/-- SOR (R256). -/
def execSor (e w : Bool) (d a b : BitVec 7) (s : State) : Host.Outcome State Fault Refusal :=
  scalar2 (.sor e w d a b) e w d a b (fun x y => x ||| y) s
/-- SXOR (R256). -/
def execSxor (e w : Bool) (d a b : BitVec 7) (s : State) : Host.Outcome State Fault Refusal :=
  scalar2 (.sxor e w d a b) e w d a b (fun x y => x ^^^ y) s
/-- SANDN (R256: a AND NOT b). -/
def execSandn (e w : Bool) (d a b : BitVec 7) (s : State) : Host.Outcome State Fault Refusal :=
  scalar2 (.sandn e w d a b) e w d a b (fun x y => x &&& ~~~y) s
/-- SSHL (R256: the count is b[5:0]). -/
def execSshl (e w : Bool) (d a b : BitVec 7) (s : State) : Host.Outcome State Fault Refusal :=
  scalar2 (.sshl e w d a b) e w d a b (fun x y => x <<< (y.toNat % 64)) s
/-- SSHR (R256). -/
def execSshr (e w : Bool) (d a b : BitVec 7) (s : State) : Host.Outcome State Fault Refusal :=
  scalar2 (.sshr e w d a b) e w d a b (fun x y => x >>> (y.toNat % 64)) s
/-- SSRA (R256). -/
def execSsra (e w : Bool) (d a b : BitVec 7) (s : State) : Host.Outcome State Fault Refusal :=
  scalar2 (.ssra e w d a b) e w d a b (fun x y => x.sshiftRight (y.toNat % 64)) s
/-- SMIN (R256: signed). -/
def execSmin (e w : Bool) (d a b : BitVec 7) (s : State) : Host.Outcome State Fault Refusal :=
  scalar2 (.smin e w d a b) e w d a b (fun x y => if x.slt y then x else y) s
/-- SMAX (R256: signed). -/
def execSmax (e w : Bool) (d a b : BitVec 7) (s : State) : Host.Outcome State Fault Refusal :=
  scalar2 (.smax e w d a b) e w d a b (fun x y => if x.slt y then y else x) s
/-- SMINU (R256: unsigned). -/
def execSminu (e w : Bool) (d a b : BitVec 7) (s : State) : Host.Outcome State Fault Refusal :=
  scalar2 (.sminu e w d a b) e w d a b (fun x y => if x.ult y then x else y) s
/-- SMAXU (R256: unsigned). -/
def execSmaxu (e w : Bool) (d a b : BitVec 7) (s : State) : Host.Outcome State Fault Refusal :=
  scalar2 (.smaxu e w d a b) e w d a b (fun x y => if x.ult y then y else x) s
/-- SEXT (R259: a[n:0] sign-extended from bit n = b[5:0]). -/
def execSext (e w : Bool) (d a b : BitVec 7) (s : State) : Host.Outcome State Fault Refusal :=
  scalar2 (.sext e w d a b) e w d a b (fun x y => BitVec.ofInt 64 (Int.bmod (x.toNat % 2 ^ (y.toNat % 64 + 1) : Nat) (2 ^ (y.toNat % 64 + 1)))) s
/-- SCLZ (R256). -/
def execSclz (e w : Bool) (d a : BitVec 7) (s : State) : Host.Outcome State Fault Refusal :=
  scalar1 (.sclz e w d a) e w d a (fun x => d64 (clzOf 64 x.toNat)) s
/-- SADDI (R257). -/
def execSaddi (e w : Bool) (d a : BitVec 7) (i : BitVec 10) (s : State) : Host.Outcome State Fault Refusal :=
  scalar1 (.saddi e w d a i) e w d a (fun x => x + i.signExtend 64) s
/-- SANDI (R257). -/
def execSandi (e w : Bool) (d a : BitVec 7) (i : BitVec 8) (s : State) : Host.Outcome State Fault Refusal :=
  scalar1 (.sandi e w d a i) e w d a (fun x => x &&& i.signExtend 64) s
/-- SORI (R257). -/
def execSori (e w : Bool) (d a : BitVec 7) (i : BitVec 8) (s : State) : Host.Outcome State Fault Refusal :=
  scalar1 (.sori e w d a i) e w d a (fun x => x ||| i.signExtend 64) s
/-- SXORI (R257). -/
def execSxori (e w : Bool) (d a : BitVec 7) (i : BitVec 8) (s : State) : Host.Outcome State Fault Refusal :=
  scalar1 (.sxori e w d a i) e w d a (fun x => x ^^^ i.signExtend 64) s
/-- SSHLI (R257). -/
def execSshli (e w : Bool) (d a : BitVec 7) (n : BitVec 6) (s : State) : Host.Outcome State Fault Refusal :=
  scalar1 (.sshli e w d a n) e w d a (fun x => x <<< n.toNat) s
/-- SSHRI (R257). -/
def execSshri (e w : Bool) (d a : BitVec 7) (n : BitVec 6) (s : State) : Host.Outcome State Fault Refusal :=
  scalar1 (.sshri e w d a n) e w d a (fun x => x >>> n.toNat) s
/-- SSRAI (R257). -/
def execSsrai (e w : Bool) (d a : BitVec 7) (n : BitVec 6) (s : State) : Host.Outcome State Fault Refusal :=
  scalar1 (.ssrai e w d a n) e w d a (fun x => x.sshiftRight n.toNat) s
/-- SROTI (R257): rotated right. -/
def execSroti (e w : Bool) (d a : BitVec 7) (n : BitVec 6) (s : State) : Host.Outcome State Fault Refusal :=
  scalar1 (.sroti e w d a n) e w d a (fun x => x.rotateRight n.toNat) s
/-- SCMP (R258). -/
def execScmp (e w : Bool) (d a b : BitVec 7) (c : BitVec 3) (s : State) : Host.Outcome State Fault Refusal :=
  scalar2 (.scmp e w d a b c) e w d a b (fun x y => boolD (condHolds c.toNat x y)) s
/-- SMOV (R259). -/
def execSmov (e w : Bool) (d a : BitVec 7) (s : State) : Host.Outcome State Fault Refusal :=
  scalar1 (.smov e w d a) e w d a id s
/-- SFROMV (R259): lane b[4:0] of a vector operand, zero-extended, whatever the mask; six slots (R260). -/
def execSfromv (e w : Bool) (d a b : BitVec 7) (s : State) : Host.Outcome State Fault Refusal :=
  issue { i := .sfromv e w d a b, e := e, fields := [sDstF d, vSrcF a, sSrcF b] } s
    (fun x s => finScalar s w d 6 (d64 ((x.readV a).getD ((x.readS b).toNat % 32) 0).toNat))
/-- SSEL (R259): D is read as the third source. -/
def execSsel (e w : Bool) (d a b : BitVec 7) (s : State) : Host.Outcome State Fault Refusal :=
  issue { i := .ssel e w d a b, e := e, fields := [sDstF d, sSrcF a, sSrcF b] } s
    (fun x s => finScalar s w d 1 (if x.g.sreg d.toNat != 0 then x.readS a else x.readS b))
/-- SPOPC (R259). -/
def execSpopc (e w : Bool) (d a : BitVec 7) (s : State) : Host.Outcome State Fault Refusal :=
  scalar1 (.spopc e w d a) e w d a (fun x => d64 (popOf 64 x.toNat)) s
/-- SMOVI (R257): the sign-extended immediate. -/
def execSmovi (e w : Bool) (d : BitVec 7) (i : BitVec 17) (s : State) : Host.Outcome State Fault Refusal :=
  issue { i := .smovi e w d i, e := e, fields := [sDstF d] } s (fun _ s => finScalar s w d 1 (i.signExtend 64))

end Sys2Proof.Machine
end

