-- ==== Sys2Proof/Machine/Control.lean ====
section
/-! DEFINITION. Control: branches, calls, loops, gang control, masks, code fetch and register units (R109, R110, R131,
R261 to R270). -/

namespace Sys2Proof.Machine

/-- The target of a displacement in words (R238). -/
def Ictx.target {w : Nat} (x : Ictx) (p : BitVec w) : Va := x.u.pc + (p.signExtend 57 <<< 2)
/-- The link register's new value (R261, R264). -/
def Ictx.link (x : Ictx) : DueWrite := { left := 1, w := .s 63 (d64 (x.u.pc + 4).toNat) }

/-- A field list that also names the link register, which a call writes (R123). -/
def linkF : Field := { vec := false, code := 63, wr := true }

/-- BR (R261). -/
def execBr (e : Bool) (p : BitVec 21) (s : State) : Host.Outcome State Fault Refusal :=
  issue { i := .br e p, e := e, mustEnd := true, flush := true } s (fun x s => .fin s {} [] (.to (x.target p)) .ready)
/-- CALL (R261). -/
def execCall (e : Bool) (p : BitVec 21) (s : State) : Host.Outcome State Fault Refusal :=
  issue { i := .call e p, e := e, fields := [linkF], mustEnd := true, flush := true } s
    (fun x s => .fin s {} [x.link] (.to (x.target p)) .ready)
/-- BRC (R262). -/
def execBrc (e : Bool) (c : BitVec 3) (r : BitVec 7) (p : BitVec 15) (s : State) : Host.Outcome State Fault Refusal :=
  issue { i := .brc e c r p, e := e, fields := [sSrcF r], mustEnd := true, flush := true } s
    (fun x s => .fin s {} [] (if brcTaken c.toNat (x.readS r) then .to (x.target p) else .seq) .ready)

/-- A vector branch (R109, R263): each slice decides; the unit stays whole, or parts into the slices that take the branch
and those that fall through, which issue first. Both go on with its streak, which this run was part of (R102). -/
def vectorBranch (i : Instr) (e all : Bool) (t : BitVec 2) (r : BitVec 7) (p : BitVec 15) (s : State) :
    Host.Outcome State Fault Refusal :=
  issue { i := i, e := e, fields := [vSrcF r], mustEnd := true, flush := true } s (fun x s =>
    let take := slicesTaking all t.toNat x.active x.u.slices (x.readV r)
    if take == 0 then .fin s {} [] .seq .ready
    else if take == x.u.slices then .fin s {} [] (.to (x.target p)) .ready
    else if (segOf (x.target p) != segOf x.u.pc) && ((s.core x.c).resident x.g.part (segOf (x.target p))).isNone then
      .trap 0x06 (d64 (x.target p).toNat)
    else
      let g := s.group x.c x.sl
      -- the branching slices form a new unit at the target with the parting unit's stamp, streak and loops
      let v : IUnit := { x.u with uid := g.nextUid, slices := take, pc := x.target p, pos := 0, chain := [], hints := {}, due := [], streak := x.u.streak + 1 }
      let g := { g with iunits := g.iunits ++ [v], nextUid := g.nextUid + 1 }
      let g := g.setUnit { g.iunit x.u.uid with slices := x.u.slices &&& ~~~take }
      .fin (s.setGroup x.c x.sl g) {} [] .seq .ready)

/-- BRV_ANY (R263). -/
def execBrvAny (e : Bool) (t : BitVec 2) (r : BitVec 7) (p : BitVec 15) (s : State) : Host.Outcome State Fault Refusal :=
  vectorBranch (.brvAny e t r p) e false t r p s
/-- BRV_ALL (R263). -/
def execBrvAll (e : Bool) (t : BitVec 2) (r : BitVec 7) (p : BitVec 15) (s : State) : Host.Outcome State Fault Refusal :=
  vectorBranch (.brvAll e t r p) e true t r p s

/-- A jump through a register (R264): MISALIGN when the target is not 4 B aligned. -/
def jumpReg (i : Instr) (e : Bool) (r : BitVec 7) (p : BitVec 15) (link wait : Bool) (s : State) : Host.Outcome State Fault Refusal :=
  issue { i := i, e := e, fields := (if link then [sSrcF r, linkF] else [sSrcF r]), mustEnd := true, flush := true } s (fun x s =>
    let t : Va := (x.readS r).setWidth 57 + (p.signExtend 57 <<< 2)
    if t.toNat % 4 != 0 then .trap 0x09 (d64 t.toNat)
    else .fin s {} (if link then [x.link] else []) (if wait then .toWait t else .to t) .ready)

/-- JMPR (R264). -/
def execJmpr (e : Bool) (r : BitVec 7) (p : BitVec 15) (s : State) : Host.Outcome State Fault Refusal :=
  jumpReg (.jmpr e r p) e r p false false s
/-- CALLR (R264). -/
def execCallr (e : Bool) (r : BitVec 7) (p : BitVec 15) (s : State) : Host.Outcome State Fault Refusal :=
  jumpReg (.callr e r p) e r p true false s
/-- RET (R264). -/
def execRet (e : Bool) (r : BitVec 7) (s : State) : Host.Outcome State Fault Refusal := jumpReg (.ret e r) e r 0 false false s
/-- JMPF (R264, R130): waits for a segment that is being loaded. -/
def execJmpf (e : Bool) (r : BitVec 7) (p : BitVec 15) (s : State) : Host.Outcome State Fault Refusal :=
  jumpReg (.jmpf e r p) e r p false true s
/-- CALLF (R264, R130). -/
def execCallf (e : Bool) (r : BitVec 7) (p : BitVec 15) (s : State) : Host.Outcome State Fault Refusal :=
  jumpReg (.callf e r p) e r p true true s

/-- LOOP (R265): opens a level, or skips the body on a count of 0. -/
def execLoop (e : Bool) (r : BitVec 7) (p : BitVec 15) (s : State) : Host.Outcome State Fault Refusal :=
  issue { i := .loop e r p, e := e, fields := [sSrcF r], mustEnd := true, flush := true } s (fun x s =>
    if 3 ≤ x.u.loops.length then .trap 0x07 0
    else
      let last := x.u.pc + (p.setWidth 57 <<< 2)
      let n := (x.readS r).toNat
      if n = 0 then .fin s {} [] (.to (last + 4)) .ready
      else
        .fin (s.onUnit x (fun u => { u with loops := { count := n, start := x.u.pc + 4, last := last } :: u.loops })) {} [] (.leave (x.u.pc + 4)) .ready)

/-- Units of a group that all wait at `regang` merge (R110): one unit for each distinct address and loop state, with the
oldest stamp. It goes on with the longest of their streaks, so that a loop of partings and merges comes to its cap (R103, log 133). -/
def mergeUnits : List IUnit → List IUnit
  | [] => []
  | u :: us =>
    match mergeUnits us with
    | [] => [{ u with wait := .ready }]
    | ms => if ms.any (fun m => m.pc == u.pc && m.loops == u.loops) then
        ms.map (fun m => if m.pc == u.pc && m.loops == u.loops then
          { m with uid := u.uid, slices := m.slices ||| u.slices, stamp := min m.stamp u.stamp, streak := max m.streak u.streak,
                   yielded := m.yielded && u.yielded, ended := m.ended && u.ended } else m)
      else { u with wait := .ready } :: ms

/-- The streaks that the cap or `yield` ends end, and their units' stamps are renewed to a cycle (R102). -/
def Group.renew (g : Group) (clk : Nat) : Group :=
  { g with iunits := g.iunits.map (fun u => if (decide (16 ≤ u.streak) || u.yielded) && !u.ended && u.pos == 0 then { u with stamp := clk, ended := true } else u) }

/-- The wait at `regang` ends when every slice has exited or waits at one (R110). -/
def Group.regang (g : Group) (clk : Nat) : Group :=
  let g := g.renew clk
  if g.iunits.all (fun u => u.wait == .exited || u.wait == .regang) then
    { g with iunits := g.iunits.filter (fun u => u.wait == .exited) ++ mergeUnits (g.iunits.filter (fun u => u.wait == .regang)) }
  else g

/-- Applies a group update after an instruction has issued. -/
def afterIssue (c sl : Nat) (f : Group → Group) : Host.Outcome State Fault Refusal → Host.Outcome State Fault Refusal
  | .next s => .next (s.setGroup c sl (f (s.group c sl)))
  | o => o

/-- REGANG (R110, R267). -/
def execRegang (e : Bool) (s : State) : Host.Outcome State Fault Refusal :=
  afterIssue s.cur.1 s.cur.2.1 (fun g => g.regang s.ictx.clk.toNat)
    (issue { i := .regang e, e := e, mustEnd := true } s (fun x s => .fin s {} [] (.leave (x.u.pc + 4)) .regang))

/-- SAFE (R104, R267): with a pre-emption pending the group stops at the end of this run, the masks' dead registers
lost. -/
def execSafe (e : Bool) (o : BitVec 8) (u : BitVec 12) (s : State) : Host.Outcome State Fault Refusal :=
  issue { i := .safe e o u, e := e, flush := true } s (fun x s =>
    finPlain (s.onGroup x (fun g => match g.preempt with
      | .requested => { g with preempt := .stopping u o }
      | .stopping v q => { g with preempt := .stopping (v ||| u) (q ||| o) }
      | _ => g)))

/-- EXIT (R267): the slices of the unit issue nothing more. A `regang` of another unit counts them. -/
def execExit (e : Bool) (s : State) : Host.Outcome State Fault Refusal :=
  afterIssue s.cur.1 s.cur.2.1 (fun g => g.regang s.ictx.clk.toNat)
    (issue { i := .exit e, e := e, mustEnd := true, flush := true } s (fun x s => .fin s {} [] (.leave (x.u.pc + 4)) .exited))

/-- TRAP (R267): SW_TRAP after it executes. -/
def execTrap (e : Bool) (v : BitVec 20) (s : State) : Host.Outcome State Fault Refusal :=
  issue { i := .trap e v, e := e, mustEnd := true } s (fun _ s => .trapAfter s 0x20 (d64 v.toNat))

/-- LBRK (R266): closes the innermost loop and goes on after its end. -/
def execLbrk (e : Bool) (s : State) : Host.Outcome State Fault Refusal :=
  issue { i := .lbrk e, e := e, mustEnd := true, flush := true } s (fun x s =>
    match x.u.loops with
    | [] => .fin s {} [] (.leave (x.u.pc + 4)) .ready
    | l :: ls => .fin (s.onUnit x (fun u => { u with loops := ls })) {} [] (.leave (l.last + 4)) .ready)

/-- YIELD (R267): ends the unit's streak. -/
def execYield (e : Bool) (s : State) : Host.Outcome State Fault Refusal :=
  issue { i := .yield e, e := e, mustEnd := true } s (fun x s => finPlain (s.onUnit x (fun u => { u with yielded := true })))

/-- Lanes in `keep` of one mask, of the other elsewhere. -/
def maskMix (u new old : Word) : Word := (new &&& u) ||| (old &&& ~~~u)

/-- EMSET (R268): saves `m0`, then narrows it to the lanes where latch `l0` is not 0; lanes of the issuing unit only. -/
def execEmset (e : Bool) (n : BitVec 2) (s : State) : Host.Outcome State Fault Refusal :=
  issue { i := .emset e n, e := e, fields := [{ vec := true, code := 96 }] } s (fun x s =>
    let us := lanesOf x.u.slices
    let l0 := x.g.readV x.u 96
    let hit := w32 ((List.range 32).foldl (fun a i => if l0.getD i 0 != 0 then a + 2 ^ i else a) 0)
    finPlain (s.onGroup x (fun g =>
      let m0 := g.masks.getD 0 0
      let ms := setAt g.masks n.toNat (maskMix us m0 (g.masks.getD n.toNat 0))
      { g with masks := setAt ms 0 (maskMix us (m0 &&& hit) m0) })))
/-- EMSAVE (R268). -/
def execEmsave (e : Bool) (n : BitVec 2) (s : State) : Host.Outcome State Fault Refusal :=
  issue { i := .emsave e n, e := e } s (fun x s =>
    finPlain (s.onGroup x (fun g => { g with masks := setAt g.masks n.toNat (maskMix (lanesOf x.u.slices) (g.masks.getD 0 0) (g.masks.getD n.toNat 0)) })))
/-- EMLOAD (R268). -/
def execEmload (e : Bool) (n : BitVec 2) (s : State) : Host.Outcome State Fault Refusal :=
  issue { i := .emload e n, e := e } s (fun x s =>
    finPlain (s.onGroup x (fun g => { g with masks := setAt g.masks 0 (maskMix (lanesOf x.u.slices) (g.masks.getD n.toNat 0) (g.masks.getD 0 0)) })))

/-! ### Asynchronous issue -/

/-- The pending hint fields an operation captures (R244): order and scope, policy, class and relative deadline, from which each of its
requests takes its stamp as it is made (R243). -/
def Op.withHints (o : Op) (h : Hints) : Op :=
  let mo := h.mo.getD (0, 0)
  let cp := h.cp.getD (0, 1, 0)
  { o with mo := mo.1, scope := mo.2, pol := cp.1, cls := cp.2.1,
           deadline := cp.2.2, rnd := h.rnd.getD 0 }

/-- An operation enters its path (R121, R122); with 63 in flight the unit stalls while the oldest completes. The stall's
progress is a step of its own (log 7). -/
def enterOp (x : Ictx) (s : State) (stalled : State → State) (o : Op) : Done :=
  let g := s.group x.c x.sl
  if 63 ≤ g.inFlight o.path then .stall (stalled s)
  else finPlain { s.setGroup x.c x.sl { g with ops := g.ops ++ [{ o with seq := s.seq, pc := x.u.pc, priv := g.privileged }] } with seq := s.seq + 1 }

/-! ### Register units (R131, R132, R270) -/

/-- RGIVE: the top k units go to the quarter's pool, and from it to the free slots that lack units. -/
def execRgive (e : Bool) (k : BitVec 4) (s : State) : Host.Outcome State Fault Refusal :=
  issue { i := .rgive e k, e := e, illegal := decide (s.ictx.g.units ≤ k.toNat) } s (fun x s =>
    let n := x.g.units
    match ((List.range (8 * k.toNat)).map (fun i => 8 * (n - k.toNat) + i)).find? x.g.vPending with
      | some r => .trap 0x04 (d64 r)
      | none =>
        let q := (s.core x.c).quarter (quarterOf x.sl)
        -- a shadow slot's units never enter the pool
        let s := if x.sl < 64 then s.setCore x.c ((s.core x.c).setQuarter (quarterOf x.sl) ({ q with pool := q.pool + k.toNat } : Quarter).fillShort) else s
        finPlain (s.onGroup x (fun g => { g with units := n - k.toNat })))

/-- RCLAIM: k zeroed units or none, and the number claimed. A task claims only of its own 12. -/
def execRclaim (e w : Bool) (d : BitVec 7) (k : BitVec 4) (s : State) : Host.Outcome State Fault Refusal :=
  issue { i := .rclaim e w d k, e := e, fields := [sDstF d] } s (fun x s =>
    let n := x.g.units
    let q := (s.core x.c).quarter (quarterOf x.sl)
    let room := if x.sl < 64 then decide (k.toNat ≤ q.pool) else true
    if room && decide (n + k.toNat ≤ 12) then
      let s := if x.sl < 64 then s.setCore x.c ((s.core x.c).setQuarter (quarterOf x.sl) { q with pool := q.pool - k.toNat }) else s
      let fresh := fun (r : Nat × VReg) => decide (8 * n ≤ r.1) && decide (r.1 < 8 * (n + k.toNat))
      let s := s.onGroup x (fun g => { g with units := n + k.toNat, vregs := g.vregs.filter (fun r => !fresh r) })
      finScalar s w d 1 (d64 k.toNat)
    else finScalar s w d 1 0)

/-- RCNT: the number of units held. -/
def execRcnt (e w : Bool) (d : BitVec 7) (s : State) : Host.Outcome State Fault Refusal :=
  issue { i := .rcnt e w d, e := e, fields := [sDstF d] } s (fun x s => finScalar s w d 1 (d64 x.g.units))

end Sys2Proof.Machine
end

