-- ==== Sys2Proof/Machine/Tasks.lean ====
section
/-! DEFINITION. Fault records of agents (R214, R215), task queues (R94, R97), futures and join headers (R100, R101) as the
home slices and the scheduler perform them. -/

namespace Sys2Proof.Machine

/-! ### The fault queue's ring (R215) -/

/-- Posts records in order while the ring has room: record i lies in slot i mod 2^LOG2N. A FATAL record parks nothing and is
closed once posted. The host sees a record that is posted. One that a write-protected page holds is posted later (R216). -/
def postRecords (p : Nat) : Nat → State → State
  | 0, s => s
  | fuel + 1, s =>
    let pt := s.part p
    let n := 2 ^ (let k := pt.fqcfg.toNat % 16; if k = 0 then 1 else k)
    match pt.records.find? (fun r => !r.posted) with
    | none => s
    | some r =>
      if (pt.fqw - pt.fqr).toNat < n then
        let (s, res) := s.homeWrite { part := p, sor := true } (nbits pt.fqbase.toNat 5 47 * 32 + 32 * (pt.fqw.toNat % n)) r.bytes []
        if (match res with | .held => true | _ => false) then s else
        let s := s.landAt 5
        let pt := s.part p
        let isFatal := nbit (recField r.bytes 8 4) 20
        let recs := if isFatal then pt.records.filter (fun x => x.seq != r.seq)
          else updWhere (fun x => x.seq == r.seq) (fun x => { x with posted := true }) pt.records
        postRecords p fuel (s.setPart p { pt with fqw := pt.fqw + 1, records := recs })
      else s

/-- A fault is noted and its record posted where the ring has room (R214, R215). -/
def State.fault (s : State) (p ia : Nat) (write fatal : Bool) (f : Faulter) : State × Nat :=
  let (s, n) := s.noteFault p ia write fatal f
  (postRecords p ((s.part p).records.length + 1) s, n)

/-- A join, future or completion event that is only counted (R106). -/
def State.pjErr (s : State) (p : Nat) : State :=
  let pt := s.part p
  s.setPart p { pt with pjerr := satAdd pt.pjerr 1 }

/-! ### Task records and queues (R94, R97, R100) -/

def TaskRecord.entry (r : TaskRecord) : Nat := recField r 0 8
def TaskRecord.segs (r : TaskRecord) : Nat := nbits (TaskRecord.entry r) 48 16
def TaskRecord.succ (r : TaskRecord) : Nat := recField r 0x10 8
def TaskRecord.fut (r : TaskRecord) : Nat := recField r 0x18 8
def TaskRecord.prio (r : TaskRecord) : Nat := nbits (recField r 0x26 2) 0 2
def TaskRecord.queue (r : TaskRecord) : Nat := nbits (recField r 0x26 2) 2 4
def TaskRecord.plen (r : TaskRecord) : Nat := recField r 0x30 4
def TaskRecord.lsize (r : TaskRecord) : Nat := recField r 0x34 4
/-- Pages of the task's region (R95). -/
def TaskRecord.npages (r : TaskRecord) : Nat := ceilDiv (max (TaskRecord.plen r) (TaskRecord.lsize r)) 4096

/-- A record that fails (R94). -/
def TaskRecord.bad (r : TaskRecord) : Bool :=
  TaskRecord.segs r == 0 || decide (8 < TaskRecord.segs r) || TaskRecord.entry r % 4 != 0 || TaskRecord.succ r % 64 != 0 ||
  TaskRecord.fut r % 16 != 0 || decide (65536 < TaskRecord.plen r) || decide (65536 < TaskRecord.lsize r) ||
  recField r 0x26 2 / 256 != 0

/-- Queued and prefetching tasks of a core (R94); a task that waits for its fault record is not queued yet (R218). -/
def queuedTasks (ts : List QTask) : Nat := (ts.filter (fun q => q.blocked.isNone)).length
def Core.queued (k : Core) : Nat := queuedTasks k.tasks
/-- The saved state of a core of a swapped-out partition (R84). -/
def Part.savedOn (p : Part) (c : Nat) : Option Saved := p.saved.find? (fun v => v.core == c)
/-- Queued tasks of a partition on a core of its own: while it is swapped out, those saved (R84). -/
def State.queuedOn (s : State) (p c : Nat) : Nat :=
  match (s.part p).savedOn c with
  | some v => queuedTasks v.tasks
  | none => (s.core c).queued

/-- The core of a partition with the fewest tasks, the lowest number among equals (R100). -/
def State.fewest (s : State) (p : Nat) : Option Nat :=
  let cs := (s.part p).cores
  cs.find? (fun c => cs.all (fun d => decide (s.queuedOn p c ≤ s.queuedOn p d)))

/-- Captures a record into a core's queue: while the partition is swapped out, into what is saved of it (R84, R100). -/
def State.capture (s : State) (p c : Nat) (r : TaskRecord) (inh : Inherit) (node : Option (Nat × Nat)) : State :=
  let t : QTask := { id := s.seq, part := p, record := r, inherit := inh, node := node }
  let pt := s.part p
  let s' := match pt.savedOn c with
    | some _ => s.setPart p { pt with saved := updWhere (fun v => v.core == c) (fun v => { v with tasks := v.tasks ++ [t] }) pt.saved }
    | none => let k := s.core c; s.setCore c { k with tasks := k.tasks ++ [t] }
  { s' with seq := s.seq + 1 }

/-- Places a record on a core, or where the scheduler chooses; with the queue full it waits in the scheduler (R100). -/
def State.placeTask (s : State) (p : Nat) (target : Option Nat) (r : TaskRecord) (inh : Inherit) (node : Option (Nat × Nat)) : State :=
  match (match target with | some c => some c | none => s.fewest p) with
  | none => s
  | some c =>
    if s.queuedOn p c < 256 then s.capture p c r inh node
    else
      let pt := s.part p
      s.setPart p { pt with deferred := pt.deferred ++ [{ core := target, record := r, inherit := inh, node := node }] }

/-! ### Futures and join headers -/

/-- The number under which accesses held by write-protected pages wait (R216). -/
def wpHold : Nat := 2 ^ 33

/-- How a step at a home slice ends for the agent that asked for it. -/
inductive AgentRes (α : Type) where
  | ok (v : α)
  | page (ia : Nat)
  | fatal (ia : Nat)
  | range
  | poison
  | held
  deriving DecidableEq, Repr

/-- The access that an agent makes at a tick. -/
def Agent.acc (ag : Agent) (p : Nat) (tick : Nat) (write sor : Bool) : Acc :=
  { part := p, die := ag.die, pol := ag.pol, cls := ag.cls, stamp := stampFor tick ag.rel, requester := ag.requester, write := write, sor := sor, who := ag.who }
/-- A decrement of the join header at an IA, VA `va` (R100), under an access that writes: COUNT before it, and the record to enqueue with
its core and whether the header breaks its rules. -/
def State.decrementIa (s : State) (a : Acc) (va ia : Nat) (devOnly : Bool) : State × AgentRes (Dword × Option (Nat × TaskRecord × Bool)) :=
  match s.atomLine a ia with
  | (s, .page) => (s, .page ia)
  | (s, .fatal) => (s, .fatal ia)
  | (s, .held) => (s, .held)
  | (s, .ok l) =>
    if devOnly && l.tier == 1 then (s, .fatal ia)
    else if l.bad.contains (ia % 128 / 64) then (s, .poison)
    else
      let h := bytesAt l.data (ia % 128) 64
      let count := d64 (recField h 0 8)
      let write := fun (s : State) => (s.homeWrite a ia (leBytes 8 (count - 1).toNat) []).1
      if count = 1 then
        match (s.part a.part).xlate (va + 64) 64 { rd := true, user := a.user } with
        | .error _ => (s, .range)
        | .ok (ia2, sor2) =>
          match s.homeRead { a with write := false, sor := sor2 } ia2 64 with
          | (s, .page) => (s, .page ia2)
          | (s, .ok (r, false)) =>
            let core := recField h 8 2
            (write s, .ok (count, some (core % 512, r, core / 512 != 0 || recField h 10 54 != 0)))
          | (s, .ok (_, true)) => (s, .poison)
          | (s, .held) => (s, .held)
          | (s, .fatal) => (s, .fatal ia2)
      else (write s, .ok (count, none))
/-- A decrement by an agent of the header at VA, translated as it is made (R100). -/
def State.decrementAt (s : State) (p : Nat) (ag : Agent) (va : Nat) (devOnly : Bool) : State × AgentRes (Dword × Option (Nat × TaskRecord × Bool)) :=
  match (s.part p).xlate va 64 { rd := true } with
  | .error _ => (s, .range)
  | .ok (ia, sor) => s.decrementIa (ag.acc p s.pkg.tick true sor) va ia devOnly
/-- A resolution of a future with a state word and value (R101), performed at its home slice: the old state word. -/
def State.resolveIa (s : State) (a : Acc) (ia : Nat) (word value : Dword) (devOnly : Bool) : State × AgentRes Dword :=
  match s.atomLine a ia with
  | (s, .page) => (s, .page ia)
  | (s, .fatal) => (s, .fatal ia)
  | (s, .held) => (s, .held)
  | (s, .ok l) =>
    if devOnly && l.tier == 1 then (s, .fatal ia)
    else if l.bad.contains (ia % 128 / 64) then (s, .poison)
    else
      let old := d64 (recField (bytesAt l.data (ia % 128) 16) 0 8)
      if old.toNat % 4 < 2 then ((s.homeWrite a ia (leBytes 8 word.toNat ++ leBytes 8 value.toNat) []).1, .ok old)
      else (s, .ok old)

/-- The header a WAITING state word names (R101). -/
def headerOf (old : Dword) : Nat := (old.toNat / 64 * 64 + 2 ^ 64 - 64) % 2 ^ 64

/-- The state word of a resolution with a status (R338). -/
def futureWord (status : Nat) : Dword := d64 ((if status = 0 then 2 else 3) + 4 * (status % 16))

/-- A record to enqueue on CORE (R100): one that fails R94 resolves its future and decrements its successor instead. -/
def submitActs (r : TaskRecord) : List Act :=
  (if TaskRecord.fut r = 0 || TaskRecord.fut r % 16 != 0 then [] else [.tres (TaskRecord.fut r) (futureWord 1) 0]) ++
  (if TaskRecord.succ r = 0 || TaskRecord.succ r % 64 != 0 then [] else [.tdec (TaskRecord.succ r)])

/-- Steps of an agent wait until a record is resolved, or a write-protected page takes writes again (R214, R216). -/
def State.parkActs (s : State) (p n : Nat) (ag : Agent) (inh : Inherit) (steps : List Act) : State :=
  let pt := s.part p
  s.setPart p { pt with parked := pt.parked ++ [(n, .acts ag inh steps)] }

/-- Performs steps in order, each one's consequences next (R96, R100, R101). A page fault parks the step and those that follow it;
an event that leaves its target unchanged counts in PJERR. -/
def runActs (p : Nat) (ag : Agent) (inh : Inherit) : Nat → State → List Act → State
  | 0, s, _ => s
  | _, s, [] => s
  | fuel + 1, s, act :: rest =>
    let dec := fun (va ia : Nat) (sor dev : Bool) =>
      match s.decrementIa (ag.acc p s.pkg.tick true sor) va ia dev with
      | (s, .ok (count, r)) =>
        let s := if count.toInt ≤ 0 then s.pjErr p else s
        match r with
        | none => runActs p ag inh fuel s rest
        | some (core, rec, bad) =>
          let outside := core != 0x1FF && !(s.part p).cores.contains core
          let s := if outside || bad then s.pjErr p else s
          runActs p ag inh fuel s (.submit (if outside || bad then 0x1FF else core) rec :: rest)
      | (s, .page miss) =>
        let (s, n) := s.fault p miss true false ag.who
        s.parkActs p n ag inh (.decAt va ia sor dev :: rest)
      | (s, .held) => s.parkActs p wpHold ag inh (.decAt va ia sor dev :: rest)
      | (s, .fatal ia) => runActs p ag inh fuel ((s.fault p ia true true ag.who).1.pjErr p) rest
      | (s, _) => runActs p ag inh fuel (s.pjErr p) rest
    let decVa := fun (va : Nat) (dev : Bool) =>
      match (s.part p).xlate va 64 { rd := true } with
      | .error _ => runActs p ag inh fuel (s.pjErr p) rest
      | .ok (ia, sor) => dec va ia sor dev
    let res := fun (ia : Nat) (sor dev : Bool) (w v : Dword) =>
      match s.resolveIa (ag.acc p s.pkg.tick true sor) ia w v dev with
      | (s, .ok old) =>
        if old.toNat % 4 = 1 then runActs p ag inh fuel s (.dec (headerOf old) :: rest)
        else if old.toNat % 4 = 0 then runActs p ag inh fuel s rest
        else runActs p ag inh fuel (s.pjErr p) rest
      | (s, .page ia) =>
        let (s, n) := s.fault p ia true false ag.who
        s.parkActs p n ag inh (.resAt ia sor dev w v :: rest)
      | (s, .held) => s.parkActs p wpHold ag inh (.resAt ia sor dev w v :: rest)
      | (s, .fatal ia) => runActs p ag inh fuel ((s.fault p ia true true ag.who).1.pjErr p) rest
      | (s, _) => runActs p ag inh fuel (s.pjErr p) rest
    let resVa := fun (va : Nat) (dev : Bool) (w v : Dword) =>
      match (s.part p).xlate va 16 { rd := true, wr := true } with
      | .error _ => runActs p ag inh fuel (s.pjErr p) rest
      | .ok (ia, sor) => res ia sor dev w v
    match act with
    | .dec va => decVa va false
    | .tdec va => decVa va true
    | .decAt va ia sor dev => dec va ia sor dev
    | .res va w v => resVa va false w v
    | .tres va w v => resVa va true w v
    | .resAt ia sor dev w v => res ia sor dev w v
    | .submit core r =>
      if TaskRecord.bad r then runActs p ag inh fuel s (submitActs r ++ rest)
      else runActs p ag inh fuel (s.placeTask p (if core = 0x1FF then none else some core) r inh none) rest
    | .free c sl => runActs p ag inh fuel (s.freeSlot c sl) rest
    | .node g n => runActs p ag inh fuel (s.nodeDone p (some (g, n))) rest

/-- Runs steps, which are releases at device scope (R96, R101), with a bound that no run reaches (log 13). -/
def State.acts (s : State) (p : Nat) (ag : Agent) (inh : Inherit) (l : List Act) : State := runActs p ag inh (2 ^ 60) s.landFar l

/-- A resolution of the future at VA, translated as it is made (R101): the old state word. -/
def State.resolveAt (s : State) (p : Nat) (ag : Agent) (va : Nat) (word value : Dword) (devOnly : Bool) : State × AgentRes Dword :=
  match (s.part p).xlate va 16 { rd := true, wr := true } with
  | .error _ => (s, .range)
  | .ok (ia, sor) => s.resolveIa (ag.acc p s.pkg.tick true sor) ia word value devOnly

/-- What a group or task passes on to a task it causes (R96). -/
def Group.passes (g : Group) : Inherit :=
  { g.inherit with safeto := if g.inherit.safeto = 0 then 65536 else g.inherit.safeto }

end Sys2Proof.Machine
end

