-- ==== Sys2Proof/Machine/Vector.lean ====
section
/-! DEFINITION. Vector integer and logic, FP32, conversions, packs, lane instructions, packed 16-bit arithmetic and
planar conversions (R271 to R282, R285, R287, R300). -/

namespace Sys2Proof.Machine

/-! ### Shapes (R271) -/

/-- Two vector sources, a 1-slot result in every active lane, ptag 0. -/
def vector2 (i : Instr) (e w : Bool) (d a b : BitVec 7) (f : Word → Word → Word) (s : State) : Host.Outcome State Fault Refusal :=
  issue { i := i, e := e, fields := [vDstF d, vSrcF a, vSrcF b] } s (fun x s =>
    finVector x s w d 1 (List.zipWith f (x.readV a) (x.readV b)) 0)
/-- One vector source. -/
def vector1 (i : Instr) (e w : Bool) (d a : BitVec 7) (f : Word → Word) (s : State) : Host.Outcome State Fault Refusal :=
  issue { i := i, e := e, fields := [vDstF d, vSrcF a] } s (fun x s => finVector x s w d 1 ((x.readV a).map f) 0)
/-- Two vector sources and D as the third (R241). -/
def vector3 (i : Instr) (e w : Bool) (d a b : BitVec 7) (f : Word → Word → Word → Word) (s : State) : Host.Outcome State Fault Refusal :=
  issue { i := i, e := e, fields := [vDstF d, vSrcF a, vSrcF b] } s (fun x s =>
    finVector x s w d 1 (List.zipWith (fun p c => f p.1 p.2 c) (List.zip (x.readV a) (x.readV b)) (x.g.vreg d.toNat).lanes) 0)

/-- A signed number as a lane. -/
def wInt (n : Int) : Word := BitVec.ofInt 32 n
/-- `vbfe` (R272). -/
def bfe (a b : Word) : Word :=
  let o := b.toNat % 32
  let w := min (min (b.toNat / 32 % 64) 32) (32 - o)
  w32 (a.toNat / 2 ^ o % 2 ^ w)

/-- VADD (R272). -/
def execVadd (e w : Bool) (d a b : BitVec 7) (s : State) : Host.Outcome State Fault Refusal :=
  vector2 (.vadd e w d a b) e w d a b (fun x y => x + y) s
/-- VSUB (R272). -/
def execVsub (e w : Bool) (d a b : BitVec 7) (s : State) : Host.Outcome State Fault Refusal :=
  vector2 (.vsub e w d a b) e w d a b (fun x y => x - y) s
/-- VMUL (R272: the low 32 bits). -/
def execVmul (e w : Bool) (d a b : BitVec 7) (s : State) : Host.Outcome State Fault Refusal :=
  vector2 (.vmul e w d a b) e w d a b (fun x y => x * y) s
/-- VMULH (R272: bits [63:32] of the exact signed product). -/
def execVmulh (e w : Bool) (d a b : BitVec 7) (s : State) : Host.Outcome State Fault Refusal :=
  vector2 (.vmulh e w d a b) e w d a b (fun x y => wInt (x.toInt * y.toInt / 2 ^ 32)) s
/-- VABSD (R272: |a - b| of signed values, exact). -/
def execVabsd (e w : Bool) (d a b : BitVec 7) (s : State) : Host.Outcome State Fault Refusal :=
  vector2 (.vabsd e w d a b) e w d a b (fun x y => w32 (x.toInt - y.toInt).natAbs) s
/-- VMIN (R272: signed). -/
def execVmin (e w : Bool) (d a b : BitVec 7) (s : State) : Host.Outcome State Fault Refusal :=
  vector2 (.vmin e w d a b) e w d a b (fun x y => if x.slt y then x else y) s
/-- VMAX (R272: signed). -/
def execVmax (e w : Bool) (d a b : BitVec 7) (s : State) : Host.Outcome State Fault Refusal :=
  vector2 (.vmax e w d a b) e w d a b (fun x y => if x.slt y then y else x) s
/-- VMINU (R272: unsigned). -/
def execVminu (e w : Bool) (d a b : BitVec 7) (s : State) : Host.Outcome State Fault Refusal :=
  vector2 (.vminu e w d a b) e w d a b (fun x y => if x.ult y then x else y) s
/-- VMAXU (R272: unsigned). -/
def execVmaxu (e w : Bool) (d a b : BitVec 7) (s : State) : Host.Outcome State Fault Refusal :=
  vector2 (.vmaxu e w d a b) e w d a b (fun x y => if x.ult y then y else x) s
/-- VAND (R272). -/
def execVand (e w : Bool) (d a b : BitVec 7) (s : State) : Host.Outcome State Fault Refusal :=
  vector2 (.vand e w d a b) e w d a b (fun x y => x &&& y) s
/-- VOR (R272). -/
def execVor (e w : Bool) (d a b : BitVec 7) (s : State) : Host.Outcome State Fault Refusal :=
  vector2 (.vor e w d a b) e w d a b (fun x y => x ||| y) s
/-- VXOR (R272). -/
def execVxor (e w : Bool) (d a b : BitVec 7) (s : State) : Host.Outcome State Fault Refusal :=
  vector2 (.vxor e w d a b) e w d a b (fun x y => x ^^^ y) s
/-- VANDN (R272). -/
def execVandn (e w : Bool) (d a b : BitVec 7) (s : State) : Host.Outcome State Fault Refusal :=
  vector2 (.vandn e w d a b) e w d a b (fun x y => x &&& ~~~y) s
/-- VSHL (R272). -/
def execVshl (e w : Bool) (d a b : BitVec 7) (s : State) : Host.Outcome State Fault Refusal :=
  vector2 (.vshl e w d a b) e w d a b (fun x y => x <<< (y.toNat % 32)) s
/-- VSHR (R272). -/
def execVshr (e w : Bool) (d a b : BitVec 7) (s : State) : Host.Outcome State Fault Refusal :=
  vector2 (.vshr e w d a b) e w d a b (fun x y => x >>> (y.toNat % 32)) s
/-- VSRA (R272). -/
def execVsra (e w : Bool) (d a b : BitVec 7) (s : State) : Host.Outcome State Fault Refusal :=
  vector2 (.vsra e w d a b) e w d a b (fun x y => x.sshiftRight (y.toNat % 32)) s
/-- VMULHU (R272: bits [63:32] of the exact unsigned product). -/
def execVmulhu (e w : Bool) (d a b : BitVec 7) (s : State) : Host.Outcome State Fault Refusal :=
  vector2 (.vmulhu e w d a b) e w d a b (fun x y => w32 (x.toNat * y.toNat / 2 ^ 32)) s
/-- VBFE (R272). -/
def execVbfe (e w : Bool) (d a b : BitVec 7) (s : State) : Host.Outcome State Fault Refusal :=
  vector2 (.vbfe e w d a b) e w d a b (fun x y => bfe x y) s
/-- VMAD (R272: the low 32 bits of a * b + d). -/
def execVmad (e w : Bool) (d a b : BitVec 7) (s : State) : Host.Outcome State Fault Refusal :=
  vector3 (.vmad e w d a b) e w d a b (fun x y z => x * y + z) s
/-- VSEL (R272: a where d is not 0). -/
def execVsel (e w : Bool) (d a b : BitVec 7) (s : State) : Host.Outcome State Fault Refusal :=
  vector3 (.vsel e w d a b) e w d a b (fun x y z => if z != 0 then x else y) s
/-- VCLZ (R272). -/
def execVclz (e w : Bool) (d a b : BitVec 7) (s : State) : Host.Outcome State Fault Refusal :=
  vector1 (.vclz e w d a b) e w d a (fun x => w32 (clzOf 32 x.toNat)) s
/-- VPOPC (R272). -/
def execVpopc (e w : Bool) (d a b : BitVec 7) (s : State) : Host.Outcome State Fault Refusal :=
  vector1 (.vpopc e w d a b) e w d a (fun x => w32 (popOf 32 x.toNat)) s
/-- VBREV (R272). -/
def execVbrev (e w : Bool) (d a b : BitVec 7) (s : State) : Host.Outcome State Fault Refusal :=
  vector1 (.vbrev e w d a b) e w d a (fun x => x.reverse) s
/-- VMOV (R272): with the source's ptag. -/
def execVmov (e w : Bool) (d a b : BitVec 7) (s : State) : Host.Outcome State Fault Refusal :=
  issue { i := .vmov e w d a b, e := e, fields := [vDstF d, vSrcF a] } s (fun x s =>
    finVector x s w d 1 (x.readV a) (x.g.readTag x.u a.toNat))
/-- VADDI (R273). -/
def execVaddi (e w : Bool) (d a : BitVec 7) (i : BitVec 10) (s : State) : Host.Outcome State Fault Refusal :=
  vector1 (.vaddi e w d a i) e w d a (fun x => x + i.signExtend 32) s
/-- VANDI (R273). -/
def execVandi (e w : Bool) (d a : BitVec 7) (i : BitVec 8) (s : State) : Host.Outcome State Fault Refusal :=
  vector1 (.vandi e w d a i) e w d a (fun x => x &&& i.signExtend 32) s
/-- VORI (R273). -/
def execVori (e w : Bool) (d a : BitVec 7) (i : BitVec 8) (s : State) : Host.Outcome State Fault Refusal :=
  vector1 (.vori e w d a i) e w d a (fun x => x ||| i.signExtend 32) s
/-- VXORI (R273). -/
def execVxori (e w : Bool) (d a : BitVec 7) (i : BitVec 8) (s : State) : Host.Outcome State Fault Refusal :=
  vector1 (.vxori e w d a i) e w d a (fun x => x ^^^ i.signExtend 32) s
/-- VSHLI (R273). -/
def execVshli (e w : Bool) (d a : BitVec 7) (i : BitVec 5) (s : State) : Host.Outcome State Fault Refusal :=
  vector1 (.vshli e w d a i) e w d a (fun x => x <<< i.toNat) s
/-- VSHRI (R273). -/
def execVshri (e w : Bool) (d a : BitVec 7) (i : BitVec 5) (s : State) : Host.Outcome State Fault Refusal :=
  vector1 (.vshri e w d a i) e w d a (fun x => x >>> i.toNat) s
/-- VSRAI (R273). -/
def execVsrai (e w : Bool) (d a : BitVec 7) (i : BitVec 5) (s : State) : Host.Outcome State Fault Refusal :=
  vector1 (.vsrai e w d a i) e w d a (fun x => x.sshiftRight i.toNat) s
/-- VROTI (R273). -/
def execVroti (e w : Bool) (d a : BitVec 7) (i : BitVec 5) (s : State) : Host.Outcome State Fault Refusal :=
  vector1 (.vroti e w d a i) e w d a (fun x => x.rotateRight i.toNat) s
/-- VMOVI (R273). -/
def execVmovi (e w : Bool) (d : BitVec 7) (i : BitVec 17) (s : State) : Host.Outcome State Fault Refusal :=
  issue { i := .vmovi e w d i, e := e, fields := [vDstF d] } s (fun x s => finVector x s w d 1 (List.replicate 32 (i.signExtend 32)) 0)
/-- VCMP (R274). -/
def execVcmp (e w : Bool) (d a b : BitVec 7) (c : BitVec 3) (s : State) : Host.Outcome State Fault Refusal :=
  vector2 (.vcmp e w d a b c) e w d a b (fun x y => boolW (condHolds c.toNat x y)) s

/-! ### FP32 (R275) -/

/-- The events of the active lanes (R223, R271). -/
def activeEvents (act : Word) (rs : List FpR) : List Ev :=
  ((List.range 32).filter (fun i => act.getLsbD i)).map (fun i => (rs.getD i (0, 0)).2)

/-- Rounded lane results of latency L, their events counted for each active lane. -/
def finFloat (x : Ictx) (s : State) (w : Bool) (d : BitVec 7) (lat fmt : Nat) (rs : List FpR) : Done :=
  finVector x (s.onGroup x (fun g => g.countEvents fmt (activeEvents x.active rs))) w d lat (rs.map (fun r => w32 r.1)) 0

/-- An FP32 lane's exact value. -/
def f32 (x : Word) : Num := fp32.readPlain x.toNat

/-- Two FP32 sources, rounded in the pending mode after four slots. -/
def float2 (i : Instr) (e w : Bool) (d a b : BitVec 7) (f : Nat → Num → Num → FpR) (s : State) : Host.Outcome State Fault Refusal :=
  issue { i := i, e := e, fields := [vDstF d, vSrcF a, vSrcF b] } s (fun x s =>
    finFloat x s w d 4 0 (List.zipWith (fun p q => f x.mode (f32 p) (f32 q)) (x.readV a) (x.readV b)))
/-- Two sources, a result that raises no event. -/
def floatPlain2 (i : Instr) (e w : Bool) (d a b : BitVec 7) (f : Word → Word → Nat) (s : State) : Host.Outcome State Fault Refusal :=
  issue { i := i, e := e, fields := [vDstF d, vSrcF a, vSrcF b] } s (fun x s =>
    finVector x s w d 4 (List.zipWith (fun p q => w32 (f p q)) (x.readV a) (x.readV b)) 0)
/-- One source, a result that raises no event. -/
def floatPlain1 (i : Instr) (e w : Bool) (d a : BitVec 7) (f : Nat → Word → Nat) (s : State) : Host.Outcome State Fault Refusal :=
  issue { i := i, e := e, fields := [vDstF d, vSrcF a] } s (fun x s =>
    finVector x s w d 4 ((x.readV a).map (fun p => w32 (f x.mode p))) 0)

/-- A magnitude with a sign, a NaN made canonical (R275). -/
def withSign (x : Word) (neg : Bool) : Nat :=
  if (f32 x).isNan then fp32.nan else x.toNat % 2 ^ 31 + (if neg then 2 ^ 31 else 0)

/-- FADD (R275). -/
def execFadd (e w : Bool) (d a b : BitVec 7) (s : State) : Host.Outcome State Fault Refusal :=
  float2 (.fadd e w d a b) e w d a b (fun m p q => fp32.addR m p q) s
/-- FSUB (R275). -/
def execFsub (e w : Bool) (d a b : BitVec 7) (s : State) : Host.Outcome State Fault Refusal :=
  float2 (.fsub e w d a b) e w d a b (fun m p q => fp32.addR m p q.neg) s
/-- FMUL (R275). -/
def execFmul (e w : Bool) (d a b : BitVec 7) (s : State) : Host.Outcome State Fault Refusal :=
  float2 (.fmul e w d a b) e w d a b (fun m p q => fp32.mulR m p q) s
/-- FFMA (R275): a * b + d, exact before its one rounding. -/
def execFfma (e w : Bool) (d a b : BitVec 7) (s : State) : Host.Outcome State Fault Refusal :=
  issue { i := .ffma e w d a b, e := e, fields := [vDstF d, vSrcF a, vSrcF b] } s (fun x s =>
    finFloat x s w d 4 0 (List.zipWith (fun p c => fp32.fmaR x.mode (f32 p.1) (f32 p.2) (f32 c))
      (List.zip (x.readV a) (x.readV b)) (x.g.vreg d.toNat).lanes))
/-- FMIN (R275). -/
def execFmin (e w : Bool) (d a b : BitVec 7) (s : State) : Host.Outcome State Fault Refusal :=
  floatPlain2 (.fmin e w d a b) e w d a b (fun p q => fp32.minBits p.toNat q.toNat) s
/-- FMAX (R275). -/
def execFmax (e w : Bool) (d a b : BitVec 7) (s : State) : Host.Outcome State Fault Refusal :=
  floatPlain2 (.fmax e w d a b) e w d a b (fun p q => fp32.maxBits p.toNat q.toNat) s
/-- FABS (R275). -/
def execFabs (e w : Bool) (d a b : BitVec 7) (s : State) : Host.Outcome State Fault Refusal :=
  floatPlain1 (.fabs e w d a b) e w d a (fun _ p => withSign p false) s
/-- FNEG (R275). -/
def execFneg (e w : Bool) (d a b : BitVec 7) (s : State) : Host.Outcome State Fault Refusal :=
  floatPlain1 (.fneg e w d a b) e w d a (fun _ p => withSign p (!p.getLsbD 31)) s
/-- FCEQ (R275). -/
def execFceq (e w : Bool) (d a b : BitVec 7) (s : State) : Host.Outcome State Fault Refusal :=
  floatPlain2 (.fceq e w d a b) e w d a b (fun p q => ((f32 p).eq (f32 q)).toNat) s
/-- FCLT (R275). -/
def execFclt (e w : Bool) (d a b : BitVec 7) (s : State) : Host.Outcome State Fault Refusal :=
  floatPlain2 (.fclt e w d a b) e w d a b (fun p q => ((f32 p).lt (f32 q)).toNat) s
/-- FCLE (R275). -/
def execFcle (e w : Bool) (d a b : BitVec 7) (s : State) : Host.Outcome State Fault Refusal :=
  floatPlain2 (.fcle e w d a b) e w d a b (fun p q => ((f32 p).le (f32 q)).toNat) s
/-- FCUN (R275). -/
def execFcun (e w : Bool) (d a b : BitVec 7) (s : State) : Host.Outcome State Fault Refusal :=
  floatPlain2 (.fcun e w d a b) e w d a b (fun p q => ((f32 p).isNan || (f32 q).isNan).toNat) s
/-- FCPYSGN (R275). -/
def execFcpysgn (e w : Bool) (d a b : BitVec 7) (s : State) : Host.Outcome State Fault Refusal :=
  floatPlain2 (.fcpysgn e w d a b) e w d a b (fun p q => withSign p (q.getLsbD 31)) s
/-- FCLASS (R275). -/
def execFclass (e w : Bool) (d a b : BitVec 7) (s : State) : Host.Outcome State Fault Refusal :=
  floatPlain1 (.fclass e w d a b) e w d a (fun _ p => fclassBits p.toNat) s
/-- FSCALE (R275): a * 2^b, b a signed integer. -/
def execFscale (e w : Bool) (d a b : BitVec 7) (s : State) : Host.Outcome State Fault Refusal :=
  issue { i := .fscale e w d a b, e := e, fields := [vDstF d, vSrcF a, vSrcF b] } s (fun x s =>
    finFloat x s w d 4 0 (List.zipWith (fun p q => fscaleBits x.mode p.toNat q.toInt) (x.readV a) (x.readV b)))
/-- FRND (R275). -/
def execFrnd (e w : Bool) (d a b : BitVec 7) (s : State) : Host.Outcome State Fault Refusal :=
  floatPlain1 (.frnd e w d a b) e w d a (fun m p => frndBits m p.toNat) s

/-! ### Conversions and packs (R276, R277) -/

/-- The exact value of a `cvt` source lane (R276): kinds FP32, BF16, FP16, F8E4, F8E5, FP4, I32, U32. -/
def cvtSource (kind xv : Nat) (x : Word) : Num :=
  match kind with
  | 6 => .ofInt x.toInt
  | 7 => .ofInt x.toNat
  | k => readFmt k xv x.toNat

/-- A result pair of latency six: D and D + 1; the latch holds D's value (R276, R277). -/
def finPair (x : Ictx) (s : State) (w : Bool) (d : BitVec 7) (lo hi : List Word) : Done :=
  match finVector x s w d 6 lo 0 with
  | .fin s l ws n a => .fin s l (if w || x.active == 0 then ws else ws ++ [{ left := 6, w := .v (d.toNat + 1) x.active hi 0 false }]) n a
  | r => r

/-- CVT (R276, R234): integers sign-extended to 32 bits, an I64 to D and D + 1. -/
def execCvt (e w : Bool) (d a : BitVec 7) (t : BitVec 4) (k : BitVec 3) (m : BitVec 3) (s : State) : Host.Outcome State Fault Refusal :=
  issue { i := .cvt e w d a t k m, e := e, fields := [(vDstF d).many (if t.toNat = 13 then 2 else 1), vSrcF a] } s (fun x s =>
    let rs := (x.readV a).map (fun p => convertTo t.toNat m.toNat x.xv x.u.hints.xvq (cvtSource k.toNat x.xv p))
    if t.toNat = 13 then finPair x s w d (rs.map (fun r => w32 r.1)) (rs.map (fun r => w32 (r.1 / 2 ^ 32)))
    else if t.toNat ≤ 5 then finFloat x s w d 6 t.toNat rs
    else if t.toNat = 10 then finVector x s w d 6 (rs.map (fun r => w32 r.1)) 0
    else finVector x s w d 6 (rs.map (fun r => wInt (readInt t.toNat r.1))) 0)

/-- Byte j, nibble j and half j of a lane. -/
def laneByte (x : Word) (j : Nat) : Nat := nbits x.toNat (8 * j) 8
def laneNib (x : Word) (j : Nat) : Nat := nbits x.toNat (4 * j) 4
def laneHalf (x : Word) (j : Nat) : Nat := nbits x.toNat (16 * j) 16

/-- A pack: two sources, six slots. -/
def packOp (i : Instr) (e w : Bool) (d a b : BitVec 7) (f : Word → Word → Nat) (s : State) : Host.Outcome State Fault Refusal :=
  issue { i := i, e := e, fields := [vDstF d, vSrcF a, vSrcF b] } s (fun x s =>
    finVector x s w d 6 (List.zipWith (fun p q => w32 (f p q)) (x.readV a) (x.readV b)) 0)
/-- An unpack: an aligned pair, six slots. -/
def unpackOp (i : Instr) (e w : Bool) (d a : BitVec 7) (f : Word → Nat × Nat) (s : State) : Host.Outcome State Fault Refusal :=
  issue { i := i, e := e, fields := [(vDstF d).many 2, vSrcF a] } s (fun x s =>
    finPair x s w d ((x.readV a).map (fun p => w32 (f p).1)) ((x.readV a).map (fun p => w32 (f p).2)))

/-- PK2 (R277). -/
def execPk2 (e w : Bool) (d a b : BitVec 7) (s : State) : Host.Outcome State Fault Refusal :=
  packOp (.pk2 e w d a b) e w d a b (fun p q => laneHalf p 0 + laneHalf q 0 * 65536) s
/-- PK4 (R277). -/
def execPk4 (e w : Bool) (d a b : BitVec 7) (s : State) : Host.Outcome State Fault Refusal :=
  packOp (.pk4 e w d a b) e w d a b (fun p q => laneByte p 0 + laneByte p 2 * 256 + laneByte q 0 * 65536 + laneByte q 2 * 16777216) s
/-- PK8 (R277). -/
def execPk8 (e w : Bool) (d a b : BitVec 7) (s : State) : Host.Outcome State Fault Refusal :=
  packOp (.pk8 e w d a b) e w d a b (fun p q =>
    (List.range 4).foldl (fun n j => n + laneNib p (2 * j) * 16 ^ j + laneNib q (2 * j) * 16 ^ (4 + j)) 0) s
/-- UPK2 (R277). -/
def execUpk2 (e w : Bool) (d a b : BitVec 7) (s : State) : Host.Outcome State Fault Refusal :=
  unpackOp (.upk2 e w d a b) e w d a (fun p => (laneHalf p 0, laneHalf p 1)) s
/-- UPK4 (R277). -/
def execUpk4 (e w : Bool) (d a b : BitVec 7) (s : State) : Host.Outcome State Fault Refusal :=
  unpackOp (.upk4 e w d a b) e w d a (fun p => (laneByte p 0 + laneByte p 1 * 65536, laneByte p 2 + laneByte p 3 * 65536)) s
/-- UPK8 (R277). -/
def execUpk8 (e w : Bool) (d a b : BitVec 7) (s : State) : Host.Outcome State Fault Refusal :=
  unpackOp (.upk8 e w d a b) e w d a (fun p =>
    ((List.range 4).foldl (fun n j => n + laneNib p j * 256 ^ j) 0, (List.range 4).foldl (fun n j => n + laneNib p (4 + j) * 256 ^ j) 0)) s

/-! ### Lane instructions (R278 to R282) -/

/-- The signed offset an offset code names (R247). -/
def offsetOf (c : BitVec 7) : Int :=
  if c.toNat < 64 then (let o : Int := (32 / 2 ^ (c.toNat % 8) : Nat); if c.getLsbD 3 then -o else o)
  else (let o : Int := (c.toNat % 32 : Nat); if c.getLsbD 5 then -o else o)

/-- A lane result of six slots. -/
def laneOp (i : Instr) (e w : Bool) (d a : BitVec 7) (more : List Field) (f : Ictx → List Word → List Word) (s : State) :
    Host.Outcome State Fault Refusal :=
  issue { i := i, e := e, fields := [vDstF d, vSrcF a] ++ more } s (fun x s => finVector x s w d 6 (f x (x.readV a)) 0)

/-- LSHFL (R279). -/
def execLshfl (e w : Bool) (d a o : BitVec 7) (s : State) : Host.Outcome State Fault Refusal :=
  laneOp (.lshfl e w d a o) e w d a [] (fun _ v => (List.range 32).map (fun (i : Nat) => v.getD (((i : Int) + offsetOf o) % 32).toNat 0)) s
/-- LBFLY (R279). -/
def execLbfly (e w : Bool) (d a o : BitVec 7) (s : State) : Host.Outcome State Fault Refusal :=
  laneOp (.lbfly e w d a o) e w d a [] (fun _ v => (List.range 32).map (fun i => v.getD (i ^^^ (offsetOf o).natAbs) 0)) s
/-- LBCAST (R279). -/
def execLbcast (e w : Bool) (d a b : BitVec 7) (s : State) : Host.Outcome State Fault Refusal :=
  laneOp (.lbcast e w d a b) e w d a [vSrcF b] (fun x v => (x.readV b).map (fun j => v.getD (j.toNat % 32) 0)) s

/-- The tree sum of R280 in FP32 over 32 lanes: values with the events raised on each lane's tree. -/
def treeSum (mode : Nat) (v : List FpR) : List FpR :=
  [16, 8, 4, 2, 1].foldl (fun x d => (List.range 32).map (fun i =>
    let p := x.getD i (0, 0); let q := x.getD (i ^^^ d) (0, 0)
    let r := fp32.addR mode (fp32.readPlain p.1) (fp32.readPlain q.1)
    (r.1, r.2 ||| p.2 ||| q.2))) v
/-- The prefix sum of R281 in FP32. -/
def scanSum (mode : Nat) (v : List FpR) : List FpR :=
  [1, 2, 4, 8, 16].foldl (fun x d => (List.range 32).map (fun i =>
    if i < d then x.getD i (0, 0)
    else
      let p := x.getD (i - d) (0, 0); let q := x.getD i (0, 0)
      let r := fp32.addR mode (fp32.readPlain p.1) (fp32.readPlain q.1)
      (r.1, r.2 ||| p.2 ||| q.2))) v
/-- An FP32 lane with any NaN made canonical: no NaN passes through (R227). -/
def canonLane (x : Word) : Word := if 0x7F800000 < x.toNat % 2 ^ 31 then 0x7FC00000 else x
/-- The lanes that take part: -0 (f32) or 0 in place of an inactive one. -/
def laneInputs (act : Word) (float : Bool) (v : List Word) : List FpR :=
  (List.range 32).map (fun i => (if act.getLsbD i then (if float then canonLane (v.getD i 0) else v.getD i 0).toNat else if float then 2 ^ 31 else 0, 0))

/-- LSUM (R280). -/
def execLsum (e w : Bool) (d a k : BitVec 7) (s : State) : Host.Outcome State Fault Refusal :=
  issue { i := .lsum e w d a k, e := e, fields := [vDstF d, vSrcF a] } s (fun x s =>
    if k.toNat = 2 then
      let r := (treeSum x.mode (laneInputs x.active true (x.readV a))).getD 0 (0, 0)
      finFloat x s w d 6 0 (List.replicate 32 r)
    else
      let t := (laneInputs x.active false (x.readV a)).foldl (fun n r => n + r.1) 0
      finVector x s w d 6 (List.replicate 32 (w32 t)) 0)

/-- The least or greatest active lane by a choice of the better of two (R280). -/
def reduceLanes (act : Word) (f : Word → Word → Word) (v : List Word) : Word :=
  match (laneList act).map (fun i => v.getD i 0) with
  | [] => 0
  | p :: ps => ps.foldl f p

/-- LMIN (R280). -/
def execLmin (e w : Bool) (d a k : BitVec 7) (s : State) : Host.Outcome State Fault Refusal :=
  laneOp (.lmin e w d a k) e w d a [] (fun x v => List.replicate 32 (reduceLanes x.active (fun p q =>
    if k.toNat = 2 then w32 (fp32.minBits p.toNat q.toNat) else if k.toNat = 1 then (if p.ult q then p else q) else (if p.slt q then p else q)) (if k.toNat = 2 then v.map canonLane else v))) s
/-- LMAX (R280). -/
def execLmax (e w : Bool) (d a k : BitVec 7) (s : State) : Host.Outcome State Fault Refusal :=
  laneOp (.lmax e w d a k) e w d a [] (fun x v => List.replicate 32 (reduceLanes x.active (fun p q =>
    if k.toNat = 2 then w32 (fp32.maxBits p.toNat q.toNat) else if k.toNat = 1 then (if p.ult q then q else p) else (if p.slt q then q else p)) (if k.toNat = 2 then v.map canonLane else v))) s
/-- LSCAN (R281). -/
def execLscan (e w : Bool) (d a k : BitVec 7) (s : State) : Host.Outcome State Fault Refusal :=
  issue { i := .lscan e w d a k, e := e, fields := [vDstF d, vSrcF a] } s (fun x s =>
    if k.toNat = 2 then finFloat x s w d 6 0 (scanSum x.mode (laneInputs x.active true (x.readV a)))
    else
      let v := laneInputs x.active false (x.readV a)
      finVector x s w d 6 ((List.range 32).map (fun i => w32 ((v.take (i + 1)).foldl (fun n r => n + r.1) 0))) 0)
/-- LVOTE (R282). -/
def execLvote (e w : Bool) (d a : BitVec 7) (s : State) : Host.Outcome State Fault Refusal :=
  laneOp (.lvote e w d a) e w d a [] (fun x v => List.replicate 32
    (w32 ((laneList x.active).foldl (fun n i => if v.getD i 0 != 0 then n + 2 ^ i else n) 0))) s

/-! ### Packed 16-bit arithmetic (R285) -/

/-- A packed result: both halves rounded, the events of each half of each active lane counted. -/
def packed (i : Instr) (e w : Bool) (d a b : BitVec 7) (f : FFmt) (op : Nat → Num → Num → Num → FpR) (s : State) :
    Host.Outcome State Fault Refusal :=
  issue { i := i, e := e, fields := [vDstF d, vSrcF a, vSrcF b] } s (fun x s =>
    let half := fun (j : Nat) => List.zipWith (fun p c => op x.mode (f.readPlain (laneHalf p.1 j)) (f.readPlain (laneHalf p.2 j)) (f.readPlain (laneHalf c j)))
      (List.zip (x.readV a) (x.readV b)) (x.g.vreg d.toNat).lanes
    let lo := half 0
    let hi := half 1
    let s := s.onGroup x (fun g => g.countEvents f.code (activeEvents x.active lo ++ activeEvents x.active hi))
    finVector x s w d 4 (List.zipWith (fun p q => w32 (p.1 + q.1 * 65536)) lo hi) 0)

/-- BADD2 (R285). -/
def execBadd2 (e w : Bool) (d a b : BitVec 7) (s : State) : Host.Outcome State Fault Refusal :=
  packed (.badd2 e w d a b) e w d a b bf16 (fun m p q _ => bf16.addR m p q) s
/-- BMUL2 (R285). -/
def execBmul2 (e w : Bool) (d a b : BitVec 7) (s : State) : Host.Outcome State Fault Refusal :=
  packed (.bmul2 e w d a b) e w d a b bf16 (fun m p q _ => bf16.mulR m p q) s
/-- BFMA2 (R285). -/
def execBfma2 (e w : Bool) (d a b : BitVec 7) (s : State) : Host.Outcome State Fault Refusal :=
  packed (.bfma2 e w d a b) e w d a b bf16 (fun m p q c => bf16.fmaR m p q c) s
/-- HADD2 (R285). -/
def execHadd2 (e w : Bool) (d a b : BitVec 7) (s : State) : Host.Outcome State Fault Refusal :=
  packed (.hadd2 e w d a b) e w d a b fp16 (fun m p q _ => fp16.addR m p q) s
/-- HMUL2 (R285). -/
def execHmul2 (e w : Bool) (d a b : BitVec 7) (s : State) : Host.Outcome State Fault Refusal :=
  packed (.hmul2 e w d a b) e w d a b fp16 (fun m p q _ => fp16.mulR m p q) s
/-- HFMA2 (R285). -/
def execHfma2 (e w : Bool) (d a b : BitVec 7) (s : State) : Host.Outcome State Fault Refusal :=
  packed (.hfma2 e w d a b) e w d a b fp16 (fun m p q c => fp16.fmaR m p q c) s
/-- BMAX2 (R285). -/
def execBmax2 (e w : Bool) (d a b : BitVec 7) (s : State) : Host.Outcome State Fault Refusal :=
  floatPlain2 (.bmax2 e w d a b) e w d a b (fun p q => bf16.maxBits (laneHalf p 0) (laneHalf q 0) + bf16.maxBits (laneHalf p 1) (laneHalf q 1) * 65536) s
/-- BMIN2 (R285). -/
def execBmin2 (e w : Bool) (d a b : BitVec 7) (s : State) : Host.Outcome State Fault Refusal :=
  floatPlain2 (.bmin2 e w d a b) e w d a b (fun p q => bf16.minBits (laneHalf p 0) (laneHalf q 0) + bf16.minBits (laneHalf p 1) (laneHalf q 1) * 65536) s

/-! ### Planar registers (R174, R175, R300) and iterators (R287) -/

/-- The depth a ptag gives, 25 to 31 read as 24 (R174). -/
def tagDepth (t : BitVec 16) : Nat := min (nbits t.toNat 8 5) 24

/-- The exact value of a planar lane (R175), with the midpoint term where asked. -/
def planarValue (tag : BitVec 16) (mid : Bool) (x : Word) : Num :=
  let depth := tagDepth tag
  let neg := x.getLsbD 31
  let f := x.toNat % 2 ^ 24 / 2 ^ (24 - depth) * 2 ^ (24 - depth)
  let e := tag.toNat % 256
  if e = 255 then (if f = 0 then .fin neg 0 0 else .inf neg)
  else
    let m := if mid && f != 0 then 2 * f + 2 ^ (24 - depth) else 2 * f
    .fin neg m ((e : Int) - 126 - 25)

/-- `cvp` (R300): RNE to FP32 or BF16, events counted, six slots. -/
def cvpOp (i : Instr) (e w : Bool) (d a : BitVec 7) (f : FFmt) (mid : Bool) (s : State) : Host.Outcome State Fault Refusal :=
  issue { i := i, e := e, fields := [vDstF d, vSrcF a] } s (fun x s =>
    finFloat x s w d 6 f.code ((x.readV a).map (fun p => f.round 0 (planarValue (x.g.readTag x.u a.toNat) mid p))))

/-- CVP_F32 (R300). -/
def execCvpF32 (e w : Bool) (d a : BitVec 7) (s : State) : Host.Outcome State Fault Refusal := cvpOp (.cvpF32 e w d a) e w d a fp32 false s
/-- CVP_F32M (R300). -/
def execCvpF32m (e w : Bool) (d a : BitVec 7) (s : State) : Host.Outcome State Fault Refusal := cvpOp (.cvpF32m e w d a) e w d a fp32 true s
/-- CVP_BF (R300). -/
def execCvpBf (e w : Bool) (d a : BitVec 7) (s : State) : Host.Outcome State Fault Refusal := cvpOp (.cvpBf e w d a) e w d a bf16 false s
/-- CVP_BFM (R300). -/
def execCvpBfm (e w : Bool) (d a : BitVec 7) (s : State) : Host.Outcome State Fault Refusal := cvpOp (.cvpBfm e w d a) e w d a bf16 true s
/-- PTRD (R300): the ptag to a scalar register, whatever the mask. -/
def execPtrd (e w : Bool) (d a : BitVec 7) (s : State) : Host.Outcome State Fault Refusal :=
  issue { i := .ptrd e w d a, e := e, fields := [sDstF d, vSrcF a] } s (fun x s => finScalar s w d 1 (d64 (x.g.readTag x.u a.toNat).toNat))
/-- PTWR (R300): a ptag from a scalar, bit 15 as 0; the lanes stay. -/
def execPtwr (e : Bool) (d a : BitVec 7) (s : State) : Host.Outcome State Fault Refusal :=
  issue { i := .ptwr e d a, e := e, fields := [vDstF d, sSrcF a] } s (fun x s =>
    .fin s {} [{ left := 1, w := .tag d.toNat (BitVec.ofNat 16 ((x.readS a).toNat % 32768)) }] .seq .ready)
/-- ITSET (R287): word m of `itN` from scalar register 8j + m. -/
def execItset (e : Bool) (n : BitVec 2) (a : BitVec 7) (s : State) : Host.Outcome State Fault Refusal :=
  issue { i := .itset e n a, e := e, fields := [(sSrcF a).many 8] } s (fun x s =>
    finPlain (s.onGroup x (fun g => { g with
      iters := mput g.iters n.toNat ((List.range 8).map (fun m => x.g.sreg (a.toNat + m))),
      itGens := mput g.itGens n.toNat (mget 0 g.itGens n.toNat + 1) })))

end Sys2Proof.Machine
end

