-- ==== Sys2Proof/Machine/Perform.lean ====
section
/-! DEFINITION. Performing asynchronous memory operations (R162, R168, R176, R193 to R202, R214, R217, R292 to R301) and the
operations on tasks and futures (R334 to R340), and what orders them within their group. -/

namespace Sys2Proof.Machine

/-! ### Local memory (R87, R294) -/

/-- The length of the window of a team or task. -/
def Group.localSize (g : Group) : Nat := if g.isTask then 4096 * g.pages.length else 6144 * g.team.length
/-- Where a local address of the window lies in the core's local memory. -/
def Group.localPhys (g : Group) (a : Nat) : Nat :=
  if g.isTask then 393216 + 4096 * g.pages.getD (a / 4096) 0 + a % 4096 else 6144 * g.team.getD (a / 6144) 0 + a % 6144
def Core.lread (k : Core) (g : Group) (a n : Nat) : List Byte := (List.range n).map (fun i => memByte k.lmem (g.localPhys (a + i)))
def Core.lbad (k : Core) (g : Group) (a n : Nat) : Bool := (List.range n).any (fun i => k.lpoison.contains (g.localPhys (a + i)))
/-- Writes bytes, poisoned or not. -/
def Core.lwriteP (k : Core) (g : Group) (a : Nat) (bs : List Byte) (bad : Bool) : Core :=
  let ps := (List.range bs.length).map (fun i => g.localPhys (a + i))
  let mem := (ps.zip bs).foldl (fun m e => memSet m e.1 e.2) k.lmem
  let clean := if k.lpoison.isEmpty then [] else k.lpoison.filter (fun x => !ps.contains x)
  { k with lmem := mem, lpoison := if bad then clean ++ ps else clean }
def Core.lwrite (k : Core) (g : Group) (a : Nat) (bs : List Byte) : Core := k.lwriteP g a bs false

/-! ### Widths and words (R292) -/

/-- Bytes of width code k. -/
def widthBytes : Nat → Nat
  | 0 => 1 | 1 => 1 | 2 => 2 | 3 => 2 | 4 => 4 | 5 => 8 | _ => 16
/-- Registers of width code k. -/
def widthRegs (k : Nat) : Nat := if k = 5 then 2 else if k = 6 then 4 else 1
/-- What a load of width k writes, first register first. -/
def loadWords (k : Nat) (bs : List Byte) : List Word :=
  match k with
  | 0 => [w32 (recField bs 0 1)]
  | 1 => [(BitVec.ofNat 8 (recField bs 0 1)).signExtend 32]
  | 2 => [w32 (recField bs 0 2)]
  | 3 => [(BitVec.ofNat 16 (recField bs 0 2)).signExtend 32]
  | _ => (List.range (widthRegs k)).map (fun j => w32 (recField bs (4 * j) 4))
/-- The bytes a store of width k writes from its register words. -/
def storeBytes (k : Nat) (ws : List Word) : List Byte := bytesAt (wordBytes ws) 0 (widthBytes k)

/-- Register writes of a request: word j of each lane to register d + j, in its lanes only. -/
def laneWrites (d n : Nat) (lanes : List (Nat × List Word)) (tag : BitVec 16) (poison : Bool) : List RegWrite :=
  let mask := w32 (lanes.foldl (fun a l => a + 2 ^ l.1) 0)
  (List.range n).map (fun j =>
    .v (d + j) mask ((List.range 32).map (fun i => match lanes.find? (fun l => l.1 == i) with | some l => l.2.getD j 0 | none => 0)) tag poison)

/-! ### Plane words (R163, R174, R176) -/

/-- One magnitude quantised to d bits against a block exponent (R176). -/
def quantMag (e d x : Nat) : Nat :=
  let ex := nbits x 23 8
  let man := x % 2 ^ 23
  if ex = 255 then (if man = 0 then 2 ^ d - 1 else 0)
  else
    let m := if ex = 0 then man else 2 ^ 23 + man
    let sh := if ex = 0 then (if e = 0 then 23 else 23 + e) else 24 + e - ex
    m * 2 ^ d / 2 ^ sh

/-- The words H, S, M1 to Md that a plane store of depth d writes (R176). -/
def planeWords (d : Nat) (tag : BitVec 16) (mask : Word) (lanes : List Word) : List Word :=
  let v := (List.range 32).map (fun i => if mask.getLsbD i then (lanes.getD i 0).toNat else 0)
  let gather := fun (f : Nat → Bool) => w32 ((List.range 32).foldl (fun a i => if f (v.getD i 0) then a + 2 ^ i else a) 0)
  if tag.getLsbD 13 then
    let depth := tagDepth tag
    [w32 (tag.toNat % 256 + d * 256 + (if tag.getLsbD 14 then 8192 else 0)), gather (fun x => nbit x 31)] ++
      (List.range d).map (fun k => if k + 1 ≤ depth then gather (fun x => nbit x (23 - k)) else 0)
  else
    let finite := v.filter (fun x => nbits x 23 8 != 255)
    let top := finite.foldl (fun a x => max a (nbits x 23 8)) 0
    let e := if v.any (fun x => x % 2 ^ 31 == 0x7F800000) then 254 else top
    let isNan := fun (x : Nat) => nbits x 23 8 == 255 && x % 2 ^ 23 != 0
    [w32 (e + d * 256), gather (fun x => nbit x 31 && !isNan x)] ++
      (List.range d).map (fun k => gather (fun x => nbit (quantMag e d x) (d - 1 - k)))

/-- Lane i of a block read at depth n in planar form (R174). -/
def planarLane (word : Nat → Nat) (n i : Nat) : Word :=
  w32 ((List.range n).foldl (fun a k => if nbit (word (k + 2)) i then a + 2 ^ (23 - k) else a) (if nbit (word 1) i then 2 ^ 31 else 0))
/-- The ptag a plane load writes (R297). -/
def planarTag (h n : Nat) : BitVec 16 := BitVec.ofNat 16 (h % 256 + n * 256 + 8192 + (if nbit h 13 then 16384 else 0))

/-! ### Atomic operations (R301) -/

/-- One lane's step on a location of `old`: the new value and the events it raises, with their format. -/
def atomStep (k old : Nat) (w : List Word) : Nat × Nat × List Ev :=
  let a := w32 old
  let b := w.getD 0 0
  let n := fun (x : Word) => (x.toNat, 0, ([] : List Ev))
  let dbl := fun (j : Nat) => (w.getD j 0).toNat + (w.getD (j + 1) 0).toNat * 2 ^ 32
  match k with
  | 0 => n (a + b)
  | 1 => n (a - b)
  | 2 => n (if a.slt b then a else b)
  | 3 => n (if a.slt b then b else a)
  | 4 => n (if a.ult b then a else b)
  | 5 => n (if a.ult b then b else a)
  | 6 => n (a &&& b)
  | 7 => n (a ||| b)
  | 8 => n (a ^^^ b)
  | 9 => n b
  | 10 => n (if a = b then w.getD 1 0 else a)
  | 11 => let r := fp32.addR 0 (f32 a) (f32 b); (r.1, 0, [r.2])
  | 12 => n (w32 (fp32.minBits old b.toNat))
  | 13 => n (w32 (fp32.maxBits old b.toNat))
  | 14 =>
    let h := fun (j : Nat) => bf16.addR 0 (bf16.readPlain (laneHalf a j)) (bf16.readPlain (laneHalf b j))
    ((h 0).1 + (h 1).1 * 65536, 1, [(h 0).2, (h 1).2])
  | 15 => n (if b.ule a then 0 else a + 1)
  | 16 => ((old + dbl 0) % 2 ^ 64, 0, [])
  | _ => (if old = dbl 0 then dbl 2 else old, 0, [])

/-- Bytes of a location of operation k. -/
def atomBytes (k : Nat) : Nat := if 16 ≤ k then 8 else 4
/-- Registers an operation reads at D, and those it writes. -/
def atomReads (k : Nat) : Nat := if k = 10 then 2 else if k = 16 then 2 else if k = 17 then 4 else 1
def atomWrites (k : Nat) : Nat := if 16 ≤ k then 2 else 1

/-- All lanes that name one location, in ascending order (R162): the location's new value, each lane's old value, and the
events. -/
def atomRun (k : Nat) (ops : List (Nat × List Word)) (start : Nat) : Nat × List (Nat × List Word) × List (Nat × Ev) :=
  ops.foldl (fun acc l =>
    let (new, fmt, evs) := atomStep k acc.1 l.2
    (new, acc.2.1 ++ [(l.1, [w32 acc.1, w32 (acc.1 / 2 ^ 32)])], acc.2.2 ++ evs.map (fun e => (fmt, e)))) (start, [], [])

/-! ### What orders a group's accesses (R193, R197, R200, R294) -/

def OpKind.reads : OpKind → Bool
  | .ldl | .atoml | .ldg | .ldt | .ldp | .ldpr | .atom | .rld | .ratom => true
  | _ => false
def OpKind.writes : OpKind → Bool
  | .stl | .atoml | .stg | .stt | .stp | .atom | .rst | .ratom => true
  | _ => false
/-- Remote lane instructions (R302). -/
def OpKind.isRemote : OpKind → Bool
  | .rld | .rst | .ratom => true
  | _ => false
/-- Kinds performed at home slices or in local memory on paths 0 to 2. -/
def OpKind.isMem : OpKind → Bool
  | .ldl | .stl | .atoml | .ldg | .ldt | .ldp | .ldpr | .stg | .stt | .stp | .atom | .fres | .freg | .fget | .tspawn | .sdec | .tqry => true
  | _ => false
/-- Kinds that resolve, register or decrement: they write their target, as a fault record says (R214). -/
def OpKind.changes (k : OpKind) : Bool := k.writes || k == .fres || k == .sdec || k == .freg
/-- Operations that are releases of themselves, at device scope (R335, R336, R338). -/
def OpKind.frees (k : OpKind) : Bool := k == .fres || k == .sdec || k == .tspawn
/-- Releases and their scope (R197, R335, R336, R338); an `sc` access is a fence first. -/
def Op.releases (o : Op) : Bool := (o.kind.writes && (o.mo == 2 || o.mo == 3)) || o.mo == 4 || o.kind.frees
def Op.relScope (o : Op) : Nat := if o.kind.frees then 3 else o.scope
/-- Acquires (R197, R339, R340, R349); after an `sc` access's fence come the access and all later ones. -/
def Op.acquires (o : Op) : Bool :=
  (o.kind.reads && (o.mo == 1 || o.mo == 3)) || o.mo == 4 || o.kind == .freg || o.kind == .fget || o.kind == .cbar

/-- Per-thread accesses of 8 B and 16 B take a word of each of consecutive lines (R161, R295). -/
def Op.pieces (o : Op) : Nat := if o.kind == .ldt || o.kind == .stt then widthRegs o.k else 1
def Op.laneIa (o : Op) (lane piece : Nat) : Nat := o.ias.getD (lane * o.pieces + piece) 0
/-- Bytes of one of an operation's locations. -/
def Op.spanBytes (o : Op) : Nat :=
  match o.kind with
  | .ldg | .stg => widthBytes o.k
  | .ldt | .stt => if 1 < o.pieces then 4 else widthBytes o.k
  | .atom => atomBytes o.k
  | .fres | .freg | .fget => 16
  | .sdec | .mpost | .mprobe => 64
  | _ => 4
/-- The IAs that a request of an operation accesses beyond its core. -/
def Op.reqIas (o : Op) (r : Nat × List Nat) : List Nat :=
  match o.kind with
  | .ldg | .stg | .ldt | .stt | .atom => r.2.map (fun i => o.laneIa i r.1)
  | .ldp | .ldpr | .stp | .fres | .freg | .fget | .sdec | .mpost | .mprobe => o.ias
  | _ => []
/-- The IAs that an operation accesses beyond its core, as far as its requests are not performed. -/
def Op.touched (o : Op) : List Nat :=
  match o.kind with
  | .ldp | .ldpr | .stp | .fres | .freg | .fget | .sdec | .mpost | .mprobe => o.ias
  | _ => o.reqs.flatMap o.reqIas
/-- Whether two operations access one location. -/
def sharesByte (a b : Op) : Bool :=
  a.touched.any (fun x => b.touched.any (fun y => decide (x < y + b.spanBytes) && decide (y < x + a.spanBytes)))

/-- Whether an earlier access a is performed before b of the same group: accesses through registers with SOR = 1 (R210), local
ones (R294), acquires and releases (R197, R198), and accesses to one location (R200). -/
def mustPrecede (a b : Op) : Bool :=
  (a.so && b.so) || (if a.path == 3 then a.acquires || (b.releases && decide (4 ≤ b.relScope))
  else a.kind.isMem && (a.acquires || b.releases ||
    (b.path != 3 && b.kind.isMem && ((a.path == 0 && b.path == 0) || sharesByte a b))))

/-- The accesses that an operation needs performed first, oldest first, itself last. -/
def neededFor (before : List Op) (o : Op) : List Op :=
  before.reverse.foldl (fun acc p => if p.status != .performed && acc.any (mustPrecede p) then p :: acc else acc) [o]

/-! ### Requests -/

/-- How a request of an operation ends. -/
inductive ReqRes where
  | done (out : List RegWrite) (reports : List Report)
  | page (ia : Nat)
  | held
  deriving DecidableEq, Repr

/-- The access that the request of an operation at place i of its accesses makes at a tick, with the SOR of each access (R209). -/
def Op.acc (o : Op) (c sl : Nat) (g : Group) (write : Bool) (tick : Nat) (i : Nat := 0) : Acc :=
  { part := g.part, die := dieOf c, core := some c, pol := o.pol, cls := o.cls, stamp := stampFor tick o.deadline, requester := c, write := write,
    sor := o.sors.getD i o.so, sors := o.sors, user := !o.priv, who := { core := c, slot := sl, iaddr := o.pc.toNat } }
/-- How a step that follows from an operation of a group is taken (R100, R244). -/
def Op.agent (o : Op) (c sl : Nat) : Agent :=
  { die := dieOf c, who := { core := c, slot := sl, iaddr := o.pc.toNat }, pol := o.pol, cls := o.cls, rel := o.deadline, requester := c }
/-- How a store that a task buffers will ask memory (R27, R209). -/
def Op.ask (o : Op) : BufAsk := { pol := o.pol, cls := o.cls, deadline := o.deadline, priv := o.priv, iaddr := o.pc.toNat }

def Op.laneVa (o : Op) (lane piece : Nat) : Nat := vaMod (o.addrs.getD lane 0 + 128 * piece)
def Op.report (o : Op) (cause trx : Nat) : Report := { path := o.path, seq := o.seq, cause := cause, trx := d64 trx }

/-- What a task has buffered over memory bytes (R202). -/
def bufByte (bufs : List BufStore) (ia : Nat) (b : Byte) : Byte :=
  bufs.foldl (fun b s => match s with
    | .bytes x bs _ _ => if decide (x ≤ ia) && decide (ia < x + bs.length) then bs.getD (ia - x) b else b
    | .plane ias _ ws _ _ => match (ias.zip ws).find? (fun e => decide (e.1 ≤ ia) && decide (ia < e.1 + 4)) with
      | some (x, w) => (leBytes 4 w.toNat).getD (ia - x) b
      | none => b) b
def overlay (bufs : List BufStore) (ia : Nat) (bs : List Byte) : List Byte :=
  if bufs.isEmpty then bs else (List.range bs.length).map (fun i => bufByte bufs (ia + i) (bs.getD i 0))

/-- The writes that some buffered stores make of memory. -/
def BufStore.writes : BufStore → List (Nat × List Byte)
  | .bytes ia bs _ _ => [(ia, bs)]
  | .plane ias _ ws _ _ => (ias.zip ws).map (fun e => (e.1, leBytes 4 e.2.toNat))
/-- Whether a task has buffered all of n bytes (R202). -/
def bufCovers (bufs : List BufStore) (ia n : Nat) : Bool :=
  !bufs.isEmpty && (List.range n).all (fun i => (bufs.flatMap BufStore.writes).any (fun w => decide (w.1 ≤ ia + i) && decide (ia + i < w.1 + w.2.length)))
/-- The destination registers of a request: all of the operation's, or the one of a per-thread access's word. -/
def Op.regsOf (o : Op) (piece : Nat) : Nat × Nat := if 1 < o.pieces then (o.d + piece, 1) else (o.d, o.dn)

/-- A failed request's destination lanes read 0, and MEM_FATAL waits (R217). -/
def Op.fatal (o : Op) (lanes : List Nat) (va : Nat) (piece : Nat := 0) : ReqRes :=
  let r := o.regsOf piece
  .done (if o.dvec then laneWrites r.1 r.2 (lanes.map (fun i => (i, []))) 0 false else (List.range o.dn).map (fun j => .s (o.d + j) 0))
    [o.report 0x10 va]

/-- Destination lanes of poisoned data: free values, marked poisoned, and MEM_POISON waits (R34, log 5). -/
def Op.poisoned (o : Op) (s : State) (lanes : List Nat) (va : Nat) (piece : Nat := 0) : State × ReqRes :=
  let (s, v) := s.draw
  let r := o.regsOf piece
  (s, .done (if o.dvec then laneWrites r.1 r.2 (lanes.map (fun i => (i, (List.range r.2).map (fun j => w32 (v / 2 ^ (32 * (i + 32 * j))))))) 0 true
    else (List.range o.dn).map (fun j => .s (o.d + j) 0)) [o.report 0x11 va])

/-- A global or per-thread load of one line (R293, R295): one request, poisoned for all its lanes where one of them reads poison
that its task has not buffered over (R34, R202, R217). -/
def loadReq (s : State) (c sl : Nat) (g : Group) (o : Op) (piece : Nat) (lanes : List Nat) : State × ReqRes :=
  let i0 := lanes.headD 0
  let owner := if o.kind == .ldt then some sl else none
  let (s, r) := s.loadLine (o.acc c sl g false s.pkg.tick (i0 * o.pieces + piece)) c owner (o.laneIa i0 piece)
  match r with
  | .page => (s, .page (o.laneIa i0 piece))
  | .held => (s, .held)
  | .fatal =>
    let s := (s.fault g.part (o.laneIa i0 piece) false true { core := c, slot := sl, iaddr := o.pc.toNat }).1
    (s, o.fatal lanes (o.laneVa i0 piece) piece)
  | .ok l =>
    if lanes.any (fun i => l.bad.contains (o.laneIa i piece % 128 / 64) && !bufCovers g.tbuf (o.laneIa i piece) o.spanBytes) then o.poisoned s lanes (o.laneVa i0 piece) piece
    else
      let got := lanes.map (fun i => (i, overlay g.tbuf (o.laneIa i piece) (bytesAt l.data (o.laneIa i piece % 128) o.spanBytes)))
      let r := o.regsOf piece
      (s, .done (laneWrites r.1 r.2 (got.map (fun e => (e.1, if 1 < o.pieces then [w32 (leNat e.2)] else loadWords o.k e.2))) 0 false) [])

/-- The bytes lane i of a store writes at a piece. -/
def Op.laneBytes (o : Op) (i piece : Nat) : List Byte :=
  if 1 < o.pieces then leBytes 4 ((o.data.getD piece []).getD i 0).toNat
  else storeBytes o.k (o.data.map (fun r => r.getD i 0))

/-- The bytes that some writes give a granule, if they cover all of it; the last write of a byte stands. -/
def fullGranule (ws : List (Nat × List Byte)) (lo : Nat) : Option (List Byte) :=
  (List.range 64).mapM (fun i => (ws.reverse.find? (fun w => decide (w.1 ≤ lo + i) && decide (lo + i < w.1 + w.2.length))).map
    (fun w => w.2.getD (lo + i - w.1) 0))

/-- A global store of one line, the highest lane's bytes standing (R193, R293). A task's bytes are buffered (R202). -/
def storeReq (s : State) (c sl : Nat) (g : Group) (o : Op) (piece : Nat) (lanes : List Nat) : State × ReqRes :=
  if g.isTask then
    (s.setGroup c sl { g with tbuf := g.tbuf ++ lanes.map (fun i => .bytes (o.laneIa i piece) (o.laneBytes i piece) (o.sors.getD (i * o.pieces + piece) o.so) o.ask) }, .done [] [])
  else
    let i0 := lanes.headD 0
    let a := o.acc c sl g true s.pkg.tick (i0 * o.pieces + piece)
    -- the request is one write: a granule that all lanes together cover is written full (R34)
    let ws := lanes.map (fun i => (o.laneIa i piece, o.laneBytes i piece))
    let base := o.laneIa i0 piece / 128 * 128
    -- an earlier per-thread store of the line comes first (R200)
    let s := s.l1Clean c g.part base
    let full := [base, base + 64].filterMap (fun lo => (fullGranule ws lo).map (fun bs => (lo, bs)))
    let (s, r) := (full ++ ws).foldl (fun (acc : State × MemRes Unit) w =>
      match acc.2 with
      | .ok _ => acc.1.homeWrite a w.1 w.2 []
      | e => (acc.1, e)) (s, .ok ())
    match r with
    | .page => (s, .page (o.laneIa i0 piece))
    | .held => (s, .held)
    | .fatal =>
      let s := (s.fault g.part (o.laneIa i0 piece) true true { core := c, slot := sl, iaddr := o.pc.toNat }).1
      (s, o.fatal lanes (o.laneVa i0 piece) piece)
    | .ok _ =>
      let s := (full ++ ws).foldl (fun s w => s.l1Update c g.part w.1 w.2 o.pol) s
      (if o.so then s.landFar else s, .done [] [])

/-- A per-thread store: write-back in L1 (R161); a line L1 cannot hold is written at its home slice. -/
def threadStoreReq (s : State) (c sl : Nat) (g : Group) (o : Op) (piece : Nat) (lanes : List Nat) : State × ReqRes :=
  if g.isTask then storeReq s c sl g o piece lanes
  else
    let ia := o.laneIa (lanes.headD 0) piece
    let base := ia / 128 * 128
    match s.walk g.part base true with
    | (s, .page) => (s, .page ia)
    | (s, .ok x) =>
      if x.wp then (s, .held)
      else
        match s.loadLine (o.acc c sl g false s.pkg.tick (lanes.headD 0 * o.pieces + piece)) c (some sl) ia with
        | (s, .ok l) =>
          match (s.core c).l1Find g.part base false (some sl) with
          | some m =>
            -- one write of the line: a granule that the lanes cover is written full (R34)
            let ws := lanes.map (fun i => (o.laneIa i piece % 128, o.laneBytes i piece))
            let full := [0, 64].filterMap (fun lo => (fullGranule ws lo).map (fun bs => (lo, bs)))
            let (data, bad) := (full ++ ws).foldl (fun (d : List Byte × List Nat) w => mergeSector d.1 d.2 w.1 w.2 []) (m.data, l.bad)
            let kept := ws.filter (fun w => !bad.contains (w.1 / 64))
            let dirty := kept.foldl (fun (b : BitVec 8) w => b ||| BitVec.ofNat 8 (2 ^ (w.1 / 16))) m.dirty
            let stored := kept.foldl (fun (b : BitVec 128) w => b ||| BitVec.ofNat 128 ((2 ^ w.2.length - 1) * 2 ^ w.1)) m.stored
            (s.setCore c ((s.core c).l1Put { m with data := data, dirty := dirty, stored := stored, bad := bad }), .done [] [])
          | none => storeReq s c sl g o piece lanes
        | (s, .page) => (s, .page ia)
        | (s, .held) => (s, .held)
        | (s, .fatal) => ((s.fault g.part ia true true { core := c, slot := sl, iaddr := o.pc.toNat }).1, o.fatal lanes (o.laneVa (lanes.headD 0) piece) piece)
    | (s, _) => ((s.fault g.part ia true true { core := c, slot := sl, iaddr := o.pc.toNat }).1, o.fatal lanes (o.laneVa (lanes.headD 0) piece) piece)

/-- Counts the events of an atomic's lanes by their formats (R223). -/
def Group.countFmts (g : Group) (evs : List (Nat × Ev)) : Group :=
  (List.range 2).foldl (fun g f => g.countEvents f ((evs.filter (fun e => e.1 == f)).map (·.2))) g

/-- An atomic location (R162, R301). What the issuing core's L1 holds of the line goes, stores to it written back, so that its later loads
follow (R193). -/
def atomReq (s : State) (c sl : Nat) (g : Group) (o : Op) (lanes : List Nat) : State × ReqRes :=
  let i0 := lanes.headD 0
  let ia := o.laneIa i0 0
  let a := o.acc c sl g true s.pkg.tick i0
  let s := s.l1Evict c g.part ia
  match s.atomLine a ia with
  | (s, .page) => (s, .page ia)
  | (s, .held) => (s, .held)
  | (s, .fatal) =>
    ((s.fault g.part ia true true { core := c, slot := sl, iaddr := o.pc.toNat }).1, o.fatal lanes (o.laneVa i0 0))
  | (s, .ok l) =>
    if l.bad.contains (ia % 128 / 64) then o.poisoned s lanes (o.laneVa i0 0)
    else
      let old := recField (bytesAt l.data (ia % 128) 8) 0 (atomBytes o.k)
      let (new, olds, evs) := atomRun o.k (lanes.map (fun i => (i, o.data.map (fun r => r.getD i 0)))) old
      let s := (s.homeWrite a ia (leBytes (atomBytes o.k) new) []).1
      let s := s.setGroup c sl ((s.group c sl).countFmts evs)
      (if o.so then s.landFar else s, .done (laneWrites o.d (atomWrites o.k) olds 0 false) [])

/-- A local request: loads, stores and atomics of path 0 (R294, R301); a load's is poisoned for all its lanes where one of them reads
poison. -/
def localReq (s : State) (c sl : Nat) (g : Group) (o : Op) (lanes : List Nat) : State × ReqRes :=
  let k := s.core c
  let addr := fun (i : Nat) => o.addrs.getD i 0
  match o.kind with
  | .stl => (s.setCore c (lanes.foldl (fun k i => k.lwrite g (addr i) (o.laneBytes i 0)) k), .done [] [])
  | .ldl =>
    let n := widthBytes o.k
    if lanes.any (fun i => k.lbad g (addr i) n) then o.poisoned s lanes (addr (lanes.headD 0))
    else (s, .done (laneWrites o.d o.dn (lanes.map (fun i => (i, loadWords o.k (k.lread g (addr i) n)))) 0 false) [])
  | _ =>
    let x := addr (lanes.headD 0)
    if k.lbad g x 4 then o.poisoned s lanes x
    else
      let (new, olds, evs) := atomRun o.k (lanes.map (fun i => (i, o.data.map (fun r => r.getD i 0)))) (leNat (k.lread g x 4))
      let s := s.setCore c (k.lwrite g x (leBytes 4 new))
      let s := s.setGroup c sl ((s.group c sl).countFmts evs)
      (s, .done (laneWrites o.d 1 olds 0 false) [])

/-- The words a plane line gives a loader, a task's buffered bytes over them. -/
def planeWord (bufs : List BufStore) (ias : List Nat) (l : Line) (w : Nat) : Nat :=
  leNat (overlay bufs (ias.getD w 0) (bytesAt l.data (4 * w) 4))

/-- A plane load, refine or store (R297 to R299). -/
def planeReq (s : State) (c sl : Nat) (g : Group) (o : Op) (lanes : List Nat) : State × ReqRes :=
  let pstr := (o.vals.getD 0 0).toNat
  let va := o.addrs.getD 0 0
  let h0 := o.ias.getD 0 0
  let who : Faulter := { core := c, slot := sl, iaddr := o.pc.toNat }
  match o.kind with
  | .stp =>
    let ws := planeWords o.k o.ptag o.mask (o.data.getD 0 [])
    if g.isTask then (s.setGroup c sl { g with tbuf := g.tbuf ++ [.plane o.ias pstr ws o.sors o.ask] }, .done [] [])
    else match s.planeStore (o.acc c sl g true s.pkg.tick) o.ias pstr o.k ws [] with
      | (s, .page) => (s, .page (s.missIa g.part o.ias true))
      | (s, .held) => (s, .held)
      | (s, .fatal) => ((s.fault g.part (s.deadIa g.part o.ias true) true true who).1, o.fatal lanes va)
      | (s, .ok _) => (let s := s.l1PlaneStore c g.part h0 pstr o.k ws o.pol; if o.so then s.landFar else s, .done [] [])
  | kind =>
    let load := fun (s : State) (d : Nat) => s.loadPlane (o.acc c sl g false s.pkg.tick) c (o.ias.take (d + 2)) pstr d
    -- `ldpr` reads H first
    let first := if kind == .ldpr then load s 1 else load s o.k
    match first with
    | (s, .page) => (s, .page (s.missIa g.part o.ias false))
    | (s, .held) => (s, .held)
    | (s, .fatal) => ((s.fault g.part (s.deadIa g.part o.ias false) false true who).1, o.fatal lanes va)
    | (s, .ok l0) =>
      let word := planeWord g.tbuf o.ias
      let h := word l0 0
      let old := o.ptag
      let full := kind == .ldp || !old.getLsbD 13 || h % 256 != old.toNat % 256 || nbit h 13 != old.getLsbD 14 || decide (hV h < tagDepth old)
      if l0.bad.contains 0 && !bufCovers g.tbuf h0 4 then o.poisoned s lanes va
      else if !full && decide (o.k ≤ tagDepth old) then (s, .done [] [])
      else
        match (if kind == .ldpr then load s o.k else (s, .ok l0)) with
        | (s, .page) => (s, .page (s.missIa g.part o.ias false))
        | (s, .held) => (s, .held)
        | (s, .fatal) => ((s.fault g.part (s.deadIa g.part o.ias false) false true who).1, o.fatal lanes va)
        | (s, .ok l) =>
          let h := word l 0
          let n := min o.k (hV h)
          -- a refine reads H and the planes that D lacks, and no other word
          let reads := fun (w : Nat) => w == 0 || (decide (w < n + 2) && (full || decide (tagDepth old + 2 ≤ w)))
          if l.bad.any (fun w => reads w && !bufCovers g.tbuf (o.ias.getD w 0) 4) then o.poisoned s lanes va
          else if full then
            (s, .done (laneWrites o.d 1 (lanes.map (fun i => (i, [planarLane (word l) n i]))) (planarTag h n) false) [])
          else
            let lo := tagDepth old
            let val := fun (i : Nat) => (List.range n).foldl (fun (a : Word) k =>
              if decide (lo ≤ k) && nbit (word l (k + 2)) i then a ||| w32 (2 ^ (23 - k)) else a) ((o.data.getD 0 []).getD i 0)
            let tag := BitVec.ofNat 16 (old.toNat % 256 + max lo n * 256 + 8192 + (if old.getLsbD 14 then 16384 else 0))
            (s, .done (laneWrites o.d 1 (lanes.map (fun i => (i, [val i]))) tag false) [])

/-- Task, join and future operations (R334 to R340). `vals` hold the captured sources. -/
def futureReq (s : State) (c sl : Nat) (g : Group) (o : Op) : State × ReqRes :=
  let va := o.addrs.getD 0 0
  let ag := o.agent c sl
  let who := ag.who
  let ia := o.ias.getD 0 0
  -- its earlier stores are seen, and no later read of the group finds an older copy of what it has changed (R193)
  let s := if o.ias.isEmpty then s else s.l1Evict c g.part ia
  let wr := fun (v : Dword) => [RegWrite.s o.d v]
  let inh := g.passes
  match o.kind with
  | .tspawn =>
    let tr := bytesAt (o.vals.flatMap (fun v => leBytes 8 v.toNat)) 0 64
    let b := (o.vals.getD 8 0).toNat % 512
    let target := if b = 0x1FE then some c else if b = 0x1FF then s.fewest g.part else some b
    if TaskRecord.bad tr then (s.acts g.part ag inh (submitActs tr), .done (wr 3) [])
    else match target with
      | none => (s, .done (wr 1) [])
      | some t =>
        if !(s.part g.part).cores.contains t then (s, .done (wr 2) [])
        else if 256 ≤ (s.core t).queued then (s, .done (wr 1) [])
        else (s.capture g.part t tr inh none, .done (wr 0) [])
  | .tqry =>
    let b := (o.vals.getD 0 0).toNat % 512
    let t := if b = 0x1FE then c else b
    if !(s.part g.part).cores.contains t then (s, .done (wr (d64 (2 ^ 63))) [])
    else
      let k := s.core t
      let shadow := ((List.range 8).filter (fun i => (k.group (64 + i)).holder == .task || k.tasks.any (fun q => q.slot == some (64 + i)))).length
      (s, .done (wr (d64 (k.queued + 512 * shadow))) [])
  | .sdec =>
    match s.decrementIa (o.acc c sl g true s.pkg.tick) va ia false with
    | (s, .ok (count, r)) =>
      let s := if count.toInt ≤ 0 then s.pjErr g.part else s
      let s := match r with
        | none => s
        | some (core, rec, bad) =>
          let outside := core != 0x1FF && !(s.part g.part).cores.contains core
          let s := if outside || bad then s.pjErr g.part else s
          s.acts g.part ag inh [.submit (if outside || bad then 0x1FF else core) rec]
      (s, .done (wr count) [])
    | (s, .page ia) => (s, .page ia)
    | (s, .held) => (s, .held)
    | (s, .poison) => (s, .done (wr 0) [o.report 0x11 va])
    | (s, .fatal ia) => ((s.fault g.part ia true true who).1, .done (wr 0) [o.report 0x10 va])
    | (s, .range) => (s, .done (wr 0) [o.report 0x10 va])
  | .fres =>
    match s.resolveIa (o.acc c sl g true s.pkg.tick) ia (futureWord ((o.vals.getD 0 0).toNat % 16)) (o.vals.getD 1 0) false with
    | (s, .ok old) =>
      if old.toNat % 4 < 2 then
        (if old.toNat % 4 = 1 then s.acts g.part ag inh [.dec (headerOf old)] else s, .done (wr old) [])
      else (s, .done (wr old) [o.report 0x16 va])
    | (s, .page ia) => (s, .page ia)
    | (s, .held) => (s, .held)
    | (s, .poison) => (s, .done (wr 0) [o.report 0x11 va])
    | (s, .fatal ia) => ((s.fault g.part ia true true who).1, .done (wr 0) [o.report 0x10 va])
    | (s, .range) => (s, .done (wr 0) [o.report 0x10 va])
  | kind =>
    -- `freg` and `fget` read state and value in one step at the home slice; a read of an RR page takes its own die's copy (R207)
    let a := o.acc c sl g (kind == .freg) s.pkg.tick
    match (if kind == .freg then s.atomLine a ia else s.l2Line a ia) with
    | (s, .page) => (s, .page ia)
    | (s, .held) => (s, .held)
    | (s, .fatal) => ((s.fault g.part ia (kind == .freg) true who).1, .done ((List.range o.dn).map (fun j => .s (o.d + j) 0)) [o.report 0x10 va])
    | (s, .ok l) =>
      if l.bad.contains (ia % 128 / 64) then (s, .done ((List.range o.dn).map (fun j => .s (o.d + j) 0)) [o.report 0x11 va])
      else
        let st := recField (bytesAt l.data (ia % 128) 16) 0 8
        let v := recField (bytesAt l.data (ia % 128) 16) 8 8
        -- no later read of the group sees an older copy (R193); DONE, and a state no longer open, are acquires (R204)
        let s := s.farSeen a ia
        let s := if 2 ≤ st % 4 then s.l1Acquire c else s
        if kind == .freg then
          if st % 4 = 0 then
            let word := (o.vals.getD 0 0).toNat / 64 * 64 + 1
            ((s.homeWrite a ia (leBytes 8 word) []).1, .done (wr 0) [])
          else (s, .done (wr (if st % 4 = 1 then 1 else 2)) [])
        else
          (s, .done [.s o.d (d64 st), .s (o.d + 1) (d64 v)]
            (if st % 4 = 3 && !(o.vals.getD 0 0).getLsbD 0 then [o.report 0x17 va] else []))

/-- One request of an operation. -/
def performReq (s : State) (c sl : Nat) (o : Op) (r : Nat × List Nat) : State × ReqRes :=
  let g := s.group c sl
  match o.kind with
  | .ldg | .ldt => loadReq s c sl g o r.1 r.2
  | .stg => storeReq s c sl g o r.1 r.2
  | .stt => threadStoreReq s c sl g o r.1 r.2
  | .atom => atomReq s c sl g o r.2
  | .ldl | .stl | .atoml => localReq s c sl g o r.2
  | .ldp | .ldpr | .stp => planeReq s c sl g o r.2
  | _ => futureReq s c sl g o

/-- The requests in which a request goes: where its page is SO, the accesses through registers with SOR = 0 go by themselves, and fail
(R209); else all go as one (R162). -/
def State.splitReq (s : State) (p : Nat) (o : Op) (r : Nat × List Nat) : List (Nat × List Nat) :=
  let so := fun (i : Nat) => o.sors.getD (i * o.pieces + r.1) o.so
  let ia := o.laneIa (r.2.headD 0) r.1
  let strong := match s.l2Find p (ia / 128 * 128) false with
    | some l => l.ord == 1
    | none => match (s.walk p ia false).2 with | .ok x => x.ord == 1 | _ => false
  if r.2.any so && r.2.any (fun i => !so i) && strong then [(r.1, r.2.filter so), (r.1, r.2.filter (fun i => !so i))] else [r]

/-- A task is aborted (R218): it stops issuing, and what it has outstanding is discarded once complete. -/
def State.abortTask (s : State) (c sl : Nat) (rec : Option Nat) : State :=
  let g := s.group c sl
  if g.aborted then s
  else s.setGroup c sl { g with aborted := true, abortRec := rec, tbuf := [], iunits := g.iunits.map (fun u => { u with wait := .exited }) }

/-- What request i of an operation waits for. -/
def Op.waitOf (o : Op) (i : Nat) : Option Nat := o.waits[i]?
/-- Whether an operation waits for a number. -/
def Op.waitsFor (o : Op) (n : Nat) : Bool := if o.waits.isEmpty then o.status == (if n = wpHold then .held else .parked n) else o.waits.contains n
/-- Where an operation stands whose requests that are left wait for these. -/
def waitStatus (waits : List Nat) : OpStatus :=
  match waits.find? (fun n => n != wpHold) with
  | some n => .parked n
  | none => if waits.isEmpty then .performed else .held
/-- Performs the requests of an operation that are left and wait for what is named (R291), at first those that wait for nothing: those
that fault on a page park (R214), those a write-protected page holds wait (R216); a task's page fault aborts it (R218). A release
finds earlier writes performed at its scope (R198), an `sc` access is a fence first (R197, R203), and an acquire leaves no clean
line in L1. -/
def performOne (s : State) (c sl seq : Nat) (on : Option Nat := none) : State :=
  match (s.group c sl).op seq with
  | none => s
  | some o =>
    let s := if o.releases then s.landFrom c o.relScope else s
    let s := if o.mo == 4 && decide (2 ≤ o.scope) then s.l1Acquire c else s
    let (s, o', left) := (o.reqs.zipIdx.flatMap (fun e => (s.splitReq (s.group c sl).part o e.1).map (fun r => (r, e.2)))).foldl (fun (acc : State × Op × List ((Nat × List Nat) × Nat)) e =>
      let (s, o', left) := acc
      let (r, i) := e
      if o.waitOf i != on then (s, o', left ++ [(r, (o.waitOf i).getD wpHold)]) else
      match performReq s c sl o r with
      | (s, .done out reps) => (s, { o' with out := o'.out ++ out, reports := o'.reports ++ reps.map (fun p => { p with lane := r.2.headD 0 }) }, left)
      | (s, .held) => (s, o', left ++ [(r, wpHold)])
      | (s, .page ia) =>
        let (s, n) := s.fault (s.group c sl).part ia o.kind.changes false { core := c, slot := sl, iaddr := o.pc.toNat }
        (s, o', left ++ [(r, n)])) (s, o, [])
    let st := waitStatus (left.map (·.2))
    let s := if o.acquires && decide (2 ≤ o.scope) && st == .performed then s.l1Acquire c else s
    let g := s.group c sl
    match g.isTask, st with
    | true, .parked n => (s.setGroup c sl (g.setOp { o' with reqs := [], waits := [], status := .performed })).abortTask c sl (some n)
    | _, _ => s.setGroup c sl (g.setOp { o' with reqs := left.map (·.1), waits := left.map (·.2), status := st })
/-- The record for whose page an operation is parked, if it is the page of one of some IAs (R214). -/
def Part.parkedFor (p : Part) (q : Op) (ias : List Nat) : Option Nat :=
  let ns : List Nat := match q.status with | .parked n => n :: q.waits | _ => q.waits
  ns.find? (fun n => match p.records.find? (fun r => r.seq == n) with
    | some r => ias.any (fun ia => ia / 65536 == r.page)
    | none => false)
/-- An operation whose requests that are left wait, in their order, for these. -/
def Op.waiting (o : Op) (waits : List Nat) : Op := { o with waits := waits, status := waitStatus waits }
/-- Performs an operation after those it needs (R197): of its requests, one to a page for which an earlier operation is parked parks behind
it (R214); the others are performed, or where what must precede them waits for a held access, wait with it (R216). -/
def State.performSeq (s : State) (c sl seq : Nat) : State :=
  let g := s.group c sl
  match g.op seq with
  | none => s
  | some o =>
    let need := neededFor (g.ops.takeWhile (fun p => p.seq != seq)) o
    need.foldl (fun s p =>
      let g := s.group c sl
      match g.op p.seq with
      | none => s
      | some p' =>
        if p'.status != .issued || !p'.kind.isMem then s
        else
          let before := g.ops.takeWhile (fun q => q.seq != p.seq)
          let parks := p'.reqs.map (fun r => (r, before.findSome? (fun q => (s.part g.part).parkedFor q (p'.reqIas r))))
          let stuck := parks.filterMap (fun e => e.2.map (fun n => (e.1, n)))
          let free := (parks.filter (fun e => e.2.isNone)).map (·.1)
          if free.isEmpty && !stuck.isEmpty then s.setGroup c sl (g.setOp (p'.waiting (stuck.map (·.2))))
          else
            let split := if stuck.isEmpty then p' else { p' with reqs := stuck.map (·.1) ++ free, waits := stuck.map (·.2) }
            match before.filter (fun q => q.status != .performed && mustPrecede q { p' with reqs := free }) with
            | [] => performOne (if stuck.isEmpty then s else s.setGroup c sl (g.setOp split)) c sl p.seq
            | qs => if qs.all (fun q => q.status == .held) then s.setGroup c sl (g.setOp (split.waiting (stuck.map (·.2) ++ free.map (fun _ => wpHold)))) else s) s

/-- The requests of an operation that waited for a number are performed, unless an earlier access comes first that still waits (R197,
R214, R216). Those whose page has just been given up end in any case (R215). -/
def State.performAgain (s : State) (c sl seq n : Nat) : State :=
  let g := s.group c sl
  match g.op seq with
  | none => s
  | some o =>
    let pt := s.part g.part
    let before := g.ops.takeWhile (fun q => q.seq != seq)
    let mine := fun (r : (Nat × List Nat) × Nat) => r.2 == n && !(o.reqIas r.1).any (s.dead g.part)
    let rs := o.reqs.zip o.waits
    let first := before.find? (fun q => q.status != .performed && mustPrecede q { o with reqs := (rs.filter mine).map (·.1) })
    -- one that comes after an access which waits for nothing yet goes on with the operation, as it issued
    let later := n + 2 ^ 40
    let waits := rs.map (fun r =>
      if !mine r then r.2
      else match before.findSome? (fun q => pt.parkedFor q (o.reqIas r.1)) with
        | some m => m
        | none => match first with
          | some q => q.waits.headD later
          | none => n)
    let s := s.setGroup c sl (g.setOp (o.waiting waits))
    let s := if waits.contains n then performOne s c sl seq (some n) else s
    match (s.group c sl).op seq with
    | some o => if o.waits.contains later then s.setGroup c sl ((s.group c sl).setOp { o with waits := [], status := .issued }) else s
    | none => s
/-- The oldest operation of a path completes if it is or can be performed (R122). -/
def State.completeOldest (s : State) (c sl path : Nat) : State :=
  match (s.group c sl).ops.find? (fun o => o.path == path) with
  | none => s
  | some o =>
    let s := if o.status == .issued && o.kind.isMem then s.performSeq c sl o.seq else s
    match (s.group c sl).op o.seq with
    | some o => if o.status == .performed then s.setGroup c sl ((s.group c sl).retireOp o) else s
    | none => s

/-- An access of n bytes that an instruction makes as it issues waits for this operation of its group (R200, R210, R349). -/
def State.comesFirst (s : State) (c sl ia n : Nat) (sor : Bool) : Option Op :=
  let o : Op := { seq := 0, path := 1, pc := 0, kind := .fget, ias := (List.range (ceilDiv n 16)).map (fun i => ia + 16 * i), so := sor }
  (s.group c sl).ops.find? (fun q => q.status != .performed && mustPrecede q o)
/-- Performs every memory operation of a group that is outstanding, oldest first. -/
def State.performAll (s : State) (c sl : Nat) : State :=
  ((s.group c sl).ops.filter (fun o => o.kind.isMem && o.status == .issued)).foldl (fun s o => s.performSeq c sl o.seq) s

/-! ### Exception counters (R223, R224) -/

/-- How an add to a counter in memory ends: made, with the value before and after; dropped, as its address cannot be written; or
waiting for a fault record or a write-protected page. -/
inductive AddRes where
  | made (old new : Nat)
  | dropped
  | waits
  deriving DecidableEq, Repr

/-- Adds to a 64-bit counter in memory for a group, in one step at its home slice (R155, R223). `stop` counters stay at their
greatest value, others wrap. A task's page fault aborts it (R218). A record names no instruction, for the add is of all that counted (log 134). -/
def State.counterAdd (s : State) (c sl va n : Nat) (stop : Bool) : State × AddRes :=
  let p := (s.group c sl).part
  match (s.part p).xlate va 8 { rd := true, wr := true } with
  | .error _ => (s, .dropped)
  | .ok (ia, sor) =>
    let a : Acc := { part := p, die := dieOf c, requester := c, write := true, sor := sor }
    -- through a register with SOR = 1 it waits for the group's earlier such accesses (R210)
    if sor && (s.group c sl).ops.any (fun o => o.so && o.status != .performed) then (s, .waits) else
    match s.atomLine a ia with
    | (s, .ok l) =>
      if l.bad.contains (ia % 128 / 64) then (s, .dropped)
      else
        let old := recField (bytesAt l.data (ia % 128) 8) 0 8
        let new := if stop then min (old + n) (2 ^ 64 - 1) else (old + n) % 2 ^ 64
        ((s.homeWrite a ia (leBytes 8 new) []).1, .made old new)
    | (s, .page) =>
      let (s, r) := s.fault p ia true false { core := c, slot := sl }
      if (s.group c sl).isTask then (s.abortTask c sl (some r), .dropped) else (s, .waits)
    | (s, .held) => (s, .waits)
    | (s, .fatal) => ((s.fault p ia true true { core := c, slot := sl }).1, .dropped)

/-- Makes adds in order; answers those that wait. -/
def State.counterAdds (s : State) (c sl base : Nat) (stop : Bool) (l : List (Nat × Nat)) (made : State → Nat → Nat → Nat → State) : State × List (Nat × Nat) :=
  l.foldl (fun (acc : State × List (Nat × Nat)) e =>
    match acc.1.counterAdd c sl (vaMod (base + 8 * e.1)) e.2 stop with
    | (s, .made old new) => (made s e.1 old new, acc.2)
    | (s, .dropped) => (s, acc.2)
    | (s, .waits) => (s, acc.2 ++ [e])) (s, [])

/-- Makes the exception adds that a group has waiting; a threshold crossed raises an interrupt and a record (R224). -/
def State.flushFx (s : State) (c sl : Nat) : State :=
  let g := s.group c sl
  if g.fxAdds.isEmpty then s
  else
    let (s, left) := s.counterAdds c sl g.fxb.toNat true g.fxAdds (fun s n old new =>
      let t := nbits g.fxt.toNat (8 * (n % 4)) 8
      if decide (t < 64) && decide (old < 2 ^ t) && decide (2 ^ t ≤ new) then
        { s with msix := s.msix ++ [(g.part, 0)], hostEvents := s.hostEvents ++ [[g.lnch.toNat, n, new]] }
      else s)
    s.setGroup c sl { s.group c sl with fxAdds := left }

/-- Makes the adds that a group has waiting at its statistics block (R155). -/
def State.flushRw (s : State) (c sl : Nat) : State :=
  let g := s.group c sl
  if g.rwAdds.isEmpty then s
  else
    let (s, left) := s.counterAdds c sl (nbits g.rws.toNat 6 51 * 64) false g.rwAdds (fun s _ _ _ => s)
    s.setGroup c sl { s.group c sl with rwAdds := left }

end Sys2Proof.Machine
end

