-- ==== Sys2Proof/Machine/MemInst.lean ====
section
/-! DEFINITION. Lane memory instructions (R290 to R299, R301): their checks at issue and the operation they enter. -/

namespace Sys2Proof.Machine

/-! ### What an access captures -/

/-- Lanes grouped by a key, groups and lanes in ascending order (R291). -/
def groupLanes (key : Nat → Nat) (lanes : List Nat) : List (List Nat) :=
  lanes.foldl (fun acc i => if acc.any (fun g => key (g.headD 0) == key i)
    then acc.map (fun g => if key (g.headD 0) == key i then g ++ [i] else g) else acc ++ [[i]]) []

/-- An order that an access cannot carry (R197). -/
def badOrder (u : IUnit) (kind : OpKind) : Bool :=
  match u.hints.mo with
  | some (1, _) => !kind.reads
  | some (2, _) => !kind.writes
  | _ => false

/-- The sum that each lane forms (R290). -/
def Ictx.sums (x : Ictx) (w : Nat) (a : BitVec 7) (s : BitVec 6) : List Nat :=
  (x.readV a).map (fun off => addOff w (x.g.sreg s.toNat).toNat off)

/-- Translates an access of n bytes at each VA: the IAs and the SOR of each one's register, or the VA of the first failing byte of the
lowest failing access (R209, R290). -/
def State.xlateAll (s : State) (g : Group) (need : Need) (n : Nat) (vas : List (Nat × Nat)) : Except Nat (List (Nat × Nat) × List Bool) :=
  vas.foldl (fun acc v =>
    match acc with
    | .error e => .error e
    | .ok (l, so) =>
      match (s.part g.part).xlate v.2 n { need with user := !g.privileged } with
      | .error e => .error e
      | .ok (ia, r) => .ok (l ++ [(v.1, ia)], so ++ [r])) (.ok ([], []))

/-- Spreads keyed values over a list of a length, 0 elsewhere. -/
def spread (len : Nat) (l : List (Nat × Nat)) : List Nat := (List.range len).map (fun i => ((l.find? (fun e => e.1 == i)).getD (i, 0)).2)
/-- As `spread`, of the SOR that belongs to each key. -/
def spreadSor (len : Nat) (l : List (Nat × Nat)) (so : List Bool) : List Bool :=
  (List.range len).map (fun i => (((l.zip so).find? (fun e => e.1.1 == i)).map (·.2)).getD false)
/-- Accesses that go into one request (R162, R291): those to one aligned line, or location. -/
def requestKey (n : Nat) (ia : List Nat) (i : Nat) : Nat := ia.getD i 0 / n

/-- A release of a group finds an earlier access held by a write-protected page, which stalls it (R216): the state in which that is
known. -/
def State.heldBack (s : State) (c sl : Nat) (o : Op) : Option State :=
  if o.releases && (s.group c sl).ops.any (fun p => p.kind.isMem && p.status != .performed) then
    let s := s.performAll c sl
    if (s.group c sl).ops.any (fun p => p.kind.isMem && p.status != .performed && p.waitsFor wpHold) then some s else none
  else none

/-- Enters a memory operation with the pending hints, performing it at once where R202, R210 or R333 asks for it. -/
def enterMem (x : Ictx) (s : State) (now : Bool) (o : Op) : Done :=
  let o := o.withHints x.u.hints
  match s.heldBack x.c x.sl o with
  | some s => .stall s
  | none =>
  match enterOp x s (fun s => s.completeOldest x.c x.sl o.path) o with
  | .fin s' l w n a => .fin (if now || o.so then s'.performSeq x.c x.sl s.seq else s') l w n a
  | d => d

/-! ### A task's pinned lines (R219) -/

/-- What a task's store that needs lines of IA / 128 meets: nothing, its own limit at a line, or a wait on a set. -/
inductive PinRes where
  | free
  | own (line : Nat)
  | wait (set : Nat)
  deriving DecidableEq, Repr

def pinCheck (k : Core) (sl : Nat) (g : Group) (lines : List Nat) : PinRes :=
  (lines.foldl (fun (acc : PinRes × List Nat) n =>
    match acc.1 with
    | .free =>
      let own := ((bufLines g).map (·.2) ++ acc.2).filter (fun m => m % 128 == n % 128)
      if own.contains n then acc
      else
        let others := k.groups.foldl (fun t e => if e.2.holder == .task && e.1 != sl then t + ((bufLines e.2).filter (fun b => b.1 == n % 128)).length else t) 0
        if own.length + others < 4 then (.free, acc.2 ++ [n])
        else if others = 0 then (.own n, acc.2) else (.wait (n % 128), acc.2)
    | _ => acc) (.free, [])).1

/-- A store of a task stalls for a set; with every holder of the set stalled, the one that started last is aborted and
queued again (R219). -/
def State.pinWait (s : State) (c sl set : Nat) : State :=
  let s := s.setGroup c sl { s.group c sl with pinStall := true }
  let holders := (s.core c).groups.filter (fun e => e.2.holder == .task && (bufLines e.2).any (fun b => b.1 == set))
  if holders.all (fun e => e.2.pinStall) then
    match holders.find? (fun e => holders.all (fun f => decide (f.2.born ≤ e.2.born))) with
    | some e => s.abortTask c e.1 none
    | none => s
  else s

/-- A task's store passes R219 before it enters. `first` gives the VA of the store's first byte in a line. -/
def pinGuard (x : Ictx) (s : State) (lines : List Nat) (first : Nat → Nat) (go : State → Done) : Done :=
  if !x.g.isTask then go s
  else match pinCheck (s.core x.c) x.sl x.g lines with
    | .own n => .trap 0x08 (d64 (first n))
    | .wait set => .stall ((s.pinWait x.c x.sl set).onUnit x (fun u => { u with awaits := lines }))
    | .free => go (if x.g.pinStall then s.onGroup x (fun g => { g with pinStall := false }) else s)

/-! ### Global loads, stores and atomics (R293, R301) -/

/-- A global lane access: checks over all active lanes, then the operation. `data` are its operand registers. -/
def globalLanes (x : Ictx) (s : State) (kind : OpKind) (path k n d dn : Nat) (a : BitVec 7) (b : BitVec 6) (data : List (List Word)) : Done :=
  let act := x.active
  if act == 0 then finPlain s
  else
    let lanes := laneList act
    let vas := x.sums 57 a b
    let at_ := lanes.map (fun i => (i, vas.getD i 0))
    match s.xlateAll x.g { rd := kind.reads, wr := kind.writes } n at_ with
    | .error v => .trap 0x08 (d64 v)
    | .ok (ias, so) =>
      match at_.find? (fun v => v.2 % n != 0) with
      | some v => .trap 0x09 (d64 v.2)
      | none =>
        let ia := spread 32 ias
        let sors := spreadSor 32 ias so
        let key := requestKey (if kind == .atom then 1 else 128) ia
        let o : Op := { seq := 0, path := path, pc := 0, kind := kind, k := k, d := d, dn := dn, mask := act, addrs := vas, ias := ia,
                        reqs := (groupLanes key lanes).map (fun l => (0, l)), data := data, so := so.contains true, sors := sors }
        let go := fun (s : State) => enterMem x s (x.g.isTask && kind != .ldg) o
        if kind == .stg then
          pinGuard x s ((groupLanes (fun i => ia.getD i 0 / 128) lanes).map (fun l => ia.getD (l.headD 0) 0 / 128))
            (fun n => (((lanes.filter (fun i => ia.getD i 0 / 128 == n)).map (fun i => vas.getD i 0)).foldl min (2 ^ 57))) go
        else go s

/-- The operand registers that follow D, as they are at issue. -/
def Ictx.dataRegs (x : Ictx) (d n : Nat) : List (List Word) := (List.range n).map (fun j => x.g.readV x.u (d + j))

/-- LDG (R293). -/
def execLdg (e : Bool) (d a : BitVec 7) (b : BitVec 6) (k : BitVec 5) (s : State) : Host.Outcome State Fault Refusal :=
  let n := widthRegs k.toNat
  issue { i := .ldg e d a b k, e := e, fields := [(vDstF d).many n, vSrcF a, sRegF b], illegal := badOrder s.ictx.u .ldg } s (fun x s =>
    globalLanes x s .ldg 1 k.toNat (widthBytes k.toNat) d.toNat n a b [])
/-- STG (R293). -/
def execStg (e : Bool) (d a : BitVec 7) (b : BitVec 6) (k : BitVec 5) (s : State) : Host.Outcome State Fault Refusal :=
  let n := widthRegs k.toNat
  issue { i := .stg e d a b k, e := e, fields := [(vSrcF d).many n, vSrcF a, sRegF b], illegal := badOrder s.ictx.u .stg } s (fun x s =>
    globalLanes x s .stg 2 k.toNat (widthBytes k.toNat) 0 0 a b (x.dataRegs d.toNat n))
/-- ATOM (R301). -/
def execAtom (e : Bool) (d a : BitVec 7) (b : BitVec 6) (k : BitVec 5) (s : State) : Host.Outcome State Fault Refusal :=
  let n := atomReads k.toNat
  issue { i := .atom e d a b k, e := e, fields := [(vDstF d).many (max n (atomWrites k.toNat)), vSrcF a, sRegF b], illegal := badOrder s.ictx.u .atom } s (fun x s =>
    globalLanes x s .atom 2 k.toNat (atomBytes k.toNat) d.toNat (atomWrites k.toNat) a b (x.dataRegs d.toNat n))

/-! ### Local memory (R87, R294) -/

/-- Whether a local access of lanes overlaps a range of an entry of the Reckoner window (R142). -/
def Group.windowMeets (g : Group) (las lanes : List Nat) (n : Nat) : Bool :=
  g.windowOps.any (fun o => match o.cmd with
    | some m => (m.wr ++ m.rd).any (fun r => decide (0 < r.2) && lanes.any (fun i => decide (las.getD i 0 < r.1 + r.2) && decide (r.1 < las.getD i 0 + n)))
    | none => false)

/-- A local lane access: LOCAL_RANGE, then MISALIGN; where it is a flush point, a TILE_FAULT that waits (R142, R153). -/
def localLanes (x : Ictx) (s : State) (kind : OpKind) (k n d dn : Nat) (a : BitVec 7) (b : BitVec 6) (data : List (List Word)) : Done :=
  let act := x.active
  if act == 0 then finPlain s
  else
    let lanes := laneList act
    let las := x.sums 32 a b
    match lanes.find? (fun i => decide (x.g.localSize < las.getD i 0 + n)) with
    | some i => .trap 0x0A (d64 (las.getD i 0))
    | none =>
      match lanes.find? (fun i => las.getD i 0 % n != 0) with
      | some i => .trap 0x09 (d64 (las.getD i 0))
      | none =>
        let meets := x.g.windowMeets las lanes n
        match (if meets then x.g.tileFault else none) with
        | some r => .report (s.setGroup x.c x.sl (x.g.dropReport r)) r.cause r.trx (r.tra.getD x.u.pc) r.inst
        | none =>
        let s := if meets then s.flush x.c x.sl else s
        if meets && s.windowLeft x.c x.sl then .stall s else
        let reqs := (groupLanes (fun i => if kind == .atoml then las.getD i 0 else las.getD i 0 / 128) lanes).map (fun l => (0, l))
        enterMem x s false { seq := 0, path := 0, pc := 0, kind := kind, k := k, d := d, dn := dn, mask := act, addrs := las, reqs := reqs, data := data }

/-- LDL (R294). -/
def execLdl (e : Bool) (d a : BitVec 7) (b : BitVec 6) (k : BitVec 5) (s : State) : Host.Outcome State Fault Refusal :=
  let n := widthRegs k.toNat
  issue { i := .ldl e d a b k, e := e, fields := [(vDstF d).many n, vSrcF a, sRegF b], illegal := badOrder s.ictx.u .ldl } s (fun x s =>
    localLanes x s .ldl k.toNat (widthBytes k.toNat) d.toNat n a b [])
/-- STL (R294). -/
def execStl (e : Bool) (d a : BitVec 7) (b : BitVec 6) (k : BitVec 5) (s : State) : Host.Outcome State Fault Refusal :=
  let n := widthRegs k.toNat
  issue { i := .stl e d a b k, e := e, fields := [(vSrcF d).many n, vSrcF a, sRegF b], illegal := badOrder s.ictx.u .stl } s (fun x s =>
    localLanes x s .stl k.toNat (widthBytes k.toNat) 0 0 a b (x.dataRegs d.toNat n))
/-- ATOML (R301). -/
def execAtoml (e : Bool) (d a : BitVec 7) (b : BitVec 6) (k : BitVec 5) (s : State) : Host.Outcome State Fault Refusal :=
  let n := atomReads k.toNat
  issue { i := .atoml e d a b k, e := e, fields := [(vDstF d).many n, vSrcF a, sRegF b], illegal := badOrder s.ictx.u .atoml } s (fun x s =>
    localLanes x s .atoml k.toNat 4 d.toNat 1 a b (x.dataRegs d.toNat n))

/-! ### Per-thread memory (R161, R295) -/

/-- The VA of byte o of a lane's array (R161). -/
def threadVa (p : Part) (c sl lane off : Nat) : Nat :=
  let words := min p.ptms 16384
  vaMod (nbits p.ptmb.toNat 7 50 * 128 + (72 * c + sl) * 128 * words + 128 * (off / 4) + 4 * lane + off % 4)

/-- Whether bytes of one access lie in an RR page and in a page of another kind (R200), as far as their pages translate. -/
def State.mixesRR (s : State) (p : Nat) (ias : List Nat) : Bool :=
  let kinds := ias.filterMap (fun ia => match (s.walk p ia false).2 with | .ok x => some x.ord | _ => none)
  kinds.contains 3 && kinds.any (fun k => k != 3)

/-- The range failure of a lane of a per-thread access, if it has one: the offset that leaves the array, or the VA that no register grants
(R161, R209). -/
def State.threadFails (s : State) (x : Ictx) (need : Need) (n pieces off va : Nat) : Option Nat :=
  if 4 * min (s.part x.g.part).ptms 16384 < off + n then some off
  else match s.xlateAll x.g need (if 1 < pieces then 4 else n) ((List.range pieces).map (fun q => (q, vaMod (va + 128 * q)))) with
    | .error v => some v
    | .ok _ => none
/-- A per-thread lane access: the range checks of all lanes, then the alignment of all, which names a lane's first word (R290, R295). -/
def threadLanes (x : Ictx) (s : State) (kind : OpKind) (k d dn : Nat) (a : BitVec 7) (b : BitVec 6) (data : List (List Word)) : Done :=
  let act := x.active
  if act == 0 then finPlain s
  else
    let lanes := laneList act
    let n := widthBytes k
    let p := s.part x.g.part
    let offs := x.sums 32 a b
    let pieces := widthRegs k
    let need : Need := { rd := kind == .ldt, wr := kind == .stt }
    let va := fun (i : Nat) => threadVa p x.c x.sl i (offs.getD i 0)
    match lanes.findSome? (fun i => s.threadFails x need n pieces (offs.getD i 0) (va i)) with
    | some v => .trap 0x08 (d64 v)
    | none =>
      let at_ := lanes.flatMap (fun i => (List.range pieces).map (fun q => (i * pieces + q, vaMod (va i + 128 * q))))
      match s.xlateAll x.g need (if 1 < pieces then 4 else n) at_ with
      | .error v => .trap 0x08 (d64 v)
      | .ok (ias, so) =>
        let ia := spread (32 * pieces) ias
        let sors := spreadSor (32 * pieces) ias so
        match lanes.find? (fun i => offs.getD i 0 % n != 0 || s.mixesRR x.g.part ((List.range pieces).map (fun q => ia.getD (i * pieces + q) 0))) with
        | some i => .trap 0x09 (d64 (threadVa p x.c x.sl i (offs.getD i 0 / 4 * 4)))
        | none =>
          let reqs := (List.range pieces).flatMap (fun q => (groupLanes (fun i => requestKey 128 ia (i * pieces + q)) lanes).map (fun l => (q, l)))
          let o : Op := { seq := 0, path := if kind == .ldt then 1 else 2, pc := 0, kind := kind, k := k, d := d, dn := dn, mask := act,
                          addrs := (List.range 32).map va, ias := ia, reqs := reqs, data := data, so := so.contains true, sors := sors }
          let go := fun (s : State) => enterMem x s (x.g.isTask && kind == .stt) o
          if kind == .stt then
            pinGuard x s (reqs.map (fun r => ia.getD (r.2.headD 0 * pieces + r.1) 0 / 128)) (fun n =>
              ((at_.filter (fun v => ia.getD v.1 0 / 128 == n)).map (·.2)).foldl min (2 ^ 57)) go
          else go s
/-- LDT (R295). -/
def execLdt (e : Bool) (d a : BitVec 7) (b : BitVec 6) (k : BitVec 4) (s : State) : Host.Outcome State Fault Refusal :=
  let n := widthRegs k.toNat
  issue { i := .ldt e d a b k, e := e, fields := [(vDstF d).many n, vSrcF a, sRegF b], illegal := badOrder s.ictx.u .ldt } s (fun x s =>
    threadLanes x s .ldt k.toNat d.toNat n a b [])
/-- STT (R295). -/
def execStt (e : Bool) (d a : BitVec 7) (b : BitVec 6) (k : BitVec 4) (s : State) : Host.Outcome State Fault Refusal :=
  let n := widthRegs k.toNat
  issue { i := .stt e d a b k, e := e, fields := [(vSrcF d).many n, vSrcF a, sRegF b], illegal := badOrder s.ictx.u .stt } s (fun x s =>
    threadLanes x s .stt k.toNat 0 0 a b (x.dataRegs d.toNat n))

/-! ### Plane accesses (R296 to R299) -/

/-- A plane access of depth n at the block that the lowest active lane names. -/
def planeAccess (x : Ictx) (s : State) (kind : OpKind) (n d dn : Nat) (a : BitVec 7) (b : BitVec 6) (data : List (List Word)) (tag : BitVec 16) : Done :=
  let act := x.active
  if act == 0 then finPlain s
  else
    let h := (x.sums 57 a b).getD (lowLane act) 0
    let pstr := (x.g.sreg (b.toNat + 1)).toNat
    let at_ := (List.range (n + 2)).map (fun w => (w, vaMod (h + w * pstr)))
    match s.xlateAll x.g { rd := kind.reads, wr := kind.writes } 4 at_ with
    | .error v => .trap 0x08 (d64 v)
    | .ok (ias, so) =>
      if h % 4 != 0 || pstr = 0 || pstr % 4 != 0 || s.mixesRR x.g.part (ias.map (·.2)) then .trap 0x09 (d64 h)
      else
        let ia := ias.map (·.2)
        let o : Op := { seq := 0, path := if kind == .stp then 2 else 1, pc := 0, kind := kind, k := n, d := d, dn := dn, mask := act,
                        addrs := [h], ias := ia, reqs := [(0, laneList act)], data := data, ptag := tag, vals := [d64 pstr], so := so.contains true, sors := so }
        let go := fun (s : State) => enterMem x s (x.g.isTask && kind == .stp) o
        if kind == .stp then
          pinGuard x s ((ia.map (· / 128)).eraseDups) (fun l =>
            ((at_.filter (fun v => ia.getD v.1 0 / 128 == l)).map (·.2)).foldl min (2 ^ 57)) go
        else go s

/-- LDP (R297). -/
def execLdp (e : Bool) (d a : BitVec 7) (b : BitVec 6) (k : BitVec 5) (s : State) : Host.Outcome State Fault Refusal :=
  issue { i := .ldp e d a b k, e := e, fields := [vDstF d, vSrcF a, (sRegF b).many 2], illegal := badOrder s.ictx.u .ldp } s (fun x s =>
    planeAccess x s .ldp k.toNat d.toNat 1 a b [] 0)
/-- LDPR (R298). -/
def execLdpr (e : Bool) (d a : BitVec 7) (b : BitVec 6) (k : BitVec 5) (s : State) : Host.Outcome State Fault Refusal :=
  issue { i := .ldpr e d a b k, e := e, fields := [vDstF d, vSrcF a, (sRegF b).many 2], illegal := badOrder s.ictx.u .ldpr } s (fun x s =>
    planeAccess x s .ldpr k.toNat d.toNat 1 a b [(x.g.vreg d.toNat).lanes] (x.g.vreg d.toNat).ptag)
/-- STP (R299). -/
def execStp (e : Bool) (d a : BitVec 7) (b : BitVec 6) (k : BitVec 5) (s : State) : Host.Outcome State Fault Refusal :=
  issue { i := .stp e d a b k, e := e, fields := [vSrcF d, vSrcF a, (sRegF b).many 2], illegal := badOrder s.ictx.u .stp } s (fun x s =>
    planeAccess x s .stp k.toNat 0 0 a b [x.readV d] (x.g.readTag x.u d.toNat))

/-! ### Tasks and futures (R333 to R340) -/

/-- An instruction of majors 0x38 and 0x39: the address checks of R333, then its operation; a task performs it as it
issues. `hint.mo` is dropped. -/
def futureOp (x : Ictx) (s : State) (kind : OpKind) (d : BitVec 7) (dn : Nat) (va : Option (Nat × Nat × Need)) (extraBad : Bool) (vals : List Dword) : Done :=
  let enter := fun (addr : Nat) (ia : Nat) (so : Bool) =>
    let o : Op := { seq := 0, path := 2, pc := 0, kind := kind, d := d.toNat, dn := dn, dvec := false, addrs := [addr], ias := [ia],
                    reqs := [(0, [])], vals := vals, so := so }
    enterMem { x with u := { x.u with hints := { x.u.hints with mo := none } } } s x.g.isTask o
  match va with
  | none => enter 0 0 false
  | some (a, n, need) =>
    match (s.part x.g.part).xlate a n { need with user := !x.g.privileged } with
    | .error v => .trap 0x08 (d64 v)
    | .ok (ia, so) => if a % n != 0 || extraBad then .trap 0x09 (d64 a) else enter a ia so

/-- TSPAWN (R334). -/
def execTspawn (e : Bool) (d a b : BitVec 7) (s : State) : Host.Outcome State Fault Refusal :=
  issue { i := .tspawn e d a b, e := e, fields := [sDstF d, (sSrcF a).many 8, sSrcF b] } s (fun x s =>
    futureOp x s .tspawn d 1 none false ((List.range 8).map (fun j => x.g.sreg (a.toNat + j)) ++ [x.readS b]))
/-- SDEC (R336). -/
def execSdec (e : Bool) (d a : BitVec 7) (s : State) : Host.Outcome State Fault Refusal :=
  issue { i := .sdec e d a, e := e, fields := [sDstF d, sSrcF a] } s (fun x s =>
    futureOp x s .sdec d 1 (some (vaMod (x.readS a).toNat, 64, { rd := true })) false [])
/-- TQRY (R337). -/
def execTqry (e : Bool) (d a : BitVec 7) (s : State) : Host.Outcome State Fault Refusal :=
  issue { i := .tqry e d a, e := e, fields := [sDstF d, sSrcF a] } s (fun x s => futureOp x s .tqry d 1 none false [x.readS a])
/-- FRES (R338): the address is a[56:4] × 16, the low bits are the status. -/
def execFres (e : Bool) (d a b : BitVec 7) (s : State) : Host.Outcome State Fault Refusal :=
  issue { i := .fres e d a b, e := e, fields := [sDstF d, sSrcF a, sSrcF b] } s (fun x s =>
    futureOp x s .fres d 1 (some (vaMod (x.readS a).toNat / 16 * 16, 16, { rd := true, wr := true })) false [x.readS a, x.readS b])
/-- FREG (R339). -/
def execFreg (e : Bool) (d a b : BitVec 7) (s : State) : Host.Outcome State Fault Refusal :=
  issue { i := .freg e d a b, e := e, fields := [sDstF d, sSrcF a, sSrcF b] } s (fun x s =>
    let va := vaMod (x.readS a).toNat
    let rec_ := (x.readS b).toNat
    if rec_ % 64 != 0 || rec_ < 64 then
      -- the future's own checks come first
      match (s.part x.g.part).xlate va 16 { rd := true, wr := true, user := !x.g.privileged } with
      | .error v => .trap 0x08 (d64 v)
      | .ok _ => .trap 0x09 (d64 (if va % 16 != 0 then va else vaMod rec_))
    else futureOp x s .freg d 1 (some (va, 16, { rd := true, wr := true })) false [d64 rec_])
/-- FGET (R340). -/
def execFget (e : Bool) (d a b : BitVec 7) (s : State) : Host.Outcome State Fault Refusal :=
  issue { i := .fget e d a b, e := e, fields := [(sDstF d).many 2, sSrcF a, sSrcF b] } s (fun x s =>
    futureOp x s .fget d 2 (some (vaMod (x.readS a).toNat, 16, { rd := true })) false [x.readS b])

/-! ### SFU (R126, R283, R284) -/

/-- An SFU instruction: its entry goes to the quarter's queue, its results are computed from what is captured. -/
def sfuOp (i : Instr) (e : Bool) (d a : BitVec 7) (f : Nat → Nat → FpR) (s : State) : Host.Outcome State Fault Refusal :=
  issue { i := i, e := e, fields := [vDstF d, vSrcF a] } s (fun x s =>
    let act := x.active
    if act == 0 then finPlain s
    else
      let q := (s.core x.c).quarter (quarterOf x.sl)
      -- the oldest entry of the queue completes while this unit stalls
      let complete := fun (s : State) => match q.sfu with
        | [] => s
        | (sl, n) :: _ => match (s.group x.c sl).op n with
          | none => s
          | some o =>
            let s := s.setGroup x.c sl ((s.group x.c sl).retireOp o)
            s.setCore x.c ((s.core x.c).setQuarter (quarterOf x.sl) { q with sfu := q.sfu.drop 1 })
      if 16 ≤ q.sfu.length then .stall (complete s)
      else
        let rs := (x.readV a).map (fun v => f x.mode v.toNat)
        let evs := activeEvents act rs
        let o : Op := { seq := 0, path := 6, pc := 0, kind := .sfu, d := d.toNat, dn := 1, mask := act, status := .performed,
                        out := [.v d.toNat act (rs.map (fun r => w32 r.1)) 0 false] }
        match enterOp x s complete o with
        | .fin s' l w n aft =>
          let k := s'.core x.c
          let s' := s'.setCore x.c (k.setQuarter (quarterOf x.sl) { k.quarter (quarterOf x.sl) with sfu := q.sfu ++ [(x.sl, s.seq)] })
          .fin (s'.onGroup x (fun g => g.countEvents 0 evs)) l w n aft
        | r => r)

/-- RCP (R284). -/
def execRcp (e : Bool) (d a b : BitVec 7) (s : State) : Host.Outcome State Fault Refusal := sfuOp (.rcp e d a b) e d a sfuRcp s
/-- RSQRT (R284). -/
def execRsqrt (e : Bool) (d a b : BitVec 7) (s : State) : Host.Outcome State Fault Refusal := sfuOp (.rsqrt e d a b) e d a sfuRsqrt s
/-- SQRT (R284). -/
def execSqrt (e : Bool) (d a b : BitVec 7) (s : State) : Host.Outcome State Fault Refusal := sfuOp (.sqrt e d a b) e d a sfuSqrt s
/-- EXP2 (R284). -/
def execExp2 (e : Bool) (d a b : BitVec 7) (s : State) : Host.Outcome State Fault Refusal := sfuOp (.exp2 e d a b) e d a sfuExp2 s
/-- LOG2 (R284). -/
def execLog2 (e : Bool) (d a b : BitVec 7) (s : State) : Host.Outcome State Fault Refusal := sfuOp (.log2 e d a b) e d a sfuLog2 s
/-- SIN (R284). -/
def execSin (e : Bool) (d a b : BitVec 7) (s : State) : Host.Outcome State Fault Refusal := sfuOp (.sin e d a b) e d a sfuSin s
/-- COS (R284). -/
def execCos (e : Bool) (d a b : BitVec 7) (s : State) : Host.Outcome State Fault Refusal := sfuOp (.cos e d a b) e d a sfuCos s
/-- TANH (R284). -/
def execTanh (e : Bool) (d a b : BitVec 7) (s : State) : Host.Outcome State Fault Refusal := sfuOp (.tanh e d a b) e d a sfuTanh s

/-- The oldest entry of a quarter's SFU completes (R126). -/
def State.sfuDone (s : State) (c qn : Nat) : State :=
  let q := (s.core c).quarter qn
  match q.sfu with
  | [] => s
  | (sl, n) :: rest =>
    let g := s.group c sl
    let g := match g.op n with
      | some o => g.retireOp o
      | none => g
    s.setCore c (((s.core c).setGroup sl g).setQuarter qn { q with sfu := rest })

/-- SFU_ENTRY_COMPLETE (R126). -/
def execSfuEntryComplete (s : State) : Host.Outcome State Fault Refusal := .next (s.sfuDone s.args.core s.args.quarter)

/-! ### Cache control (R305) -/

/-- A cache control instruction that never faults: each active lane names a line. -/
def cacheHint (i : Instr) (e : Bool) (a : BitVec 7) (b : BitVec 6) (f : State → Ictx → Nat → Bool → State) (s : State) : Host.Outcome State Fault Refusal :=
  issue { i := i, e := e, fields := [vSrcF a, sRegF b] } s (fun x s =>
    let vas := x.sums 57 a b
    finPlain ((laneList x.active).foldl (fun s i =>
      match (s.part x.g.part).xlate (vas.getD i 0) 1 { rd := true, user := !x.g.privileged } with
      | .error _ => s
      | .ok (ia, so) => f s x ia so) s))

/-- How a cache control instruction asks memory: as its pending `hint.cp` says (R243, R244). -/
def Ictx.asks (x : Ictx) (s : State) : Acc :=
  let cp := x.u.hints.cp.getD (0, 1, 0)
  { part := x.g.part, die := dieOf x.c, core := some x.c, pol := cp.1, cls := cp.2.1, stamp := stampFor s.pkg.tick cp.2.2, requester := x.c, user := !x.g.privileged }
/-- A prefetch of the line an IA names: an ordinary line, and a plane line that is already held stays. -/
def prefetchLine (one : Bool) (s : State) (x : Ictx) (ia : Nat) (so : Bool) : State :=
  let a : Acc := { x.asks s with sor := so }
  if one then (s.loadLine a x.c none ia).1 else (s.l2Line a ia).1

/-- Sets the priority of the lines an IA names as an access of a policy does, at the home slice and in L1 (R171). -/
def setPrio (pol : Nat) (s : State) (x : Ictx) (ia : Nat) (_ : Bool) : State :=
  let mine := fun (l : Line) => l.namedBy x.g.part ia
  let s := s.reachSlice (x.asks s) ia
  let k := s.core x.c
  { s.setCore x.c { k with l1 := updWhere mine (fun l => { l with prio := prioAfter pol l.prio }) k.l1 } with l2 := updWhere mine (fun l => { l with prio := prioAfter pol l.prio }) s.l2 }

/-- CPF2. -/
def execCpf2 (e : Bool) (a : BitVec 7) (b : BitVec 6) (s : State) : Host.Outcome State Fault Refusal := cacheHint (.cpf2 e a b) e a b (prefetchLine false) s
/-- CPF1. -/
def execCpf1 (e : Bool) (a : BitVec 7) (b : BitVec 6) (s : State) : Host.Outcome State Fault Refusal := cacheHint (.cpf1 e a b) e a b (prefetchLine true) s
/-- CEF. -/
def execCef (e : Bool) (a : BitVec 7) (b : BitVec 6) (s : State) : Host.Outcome State Fault Refusal := cacheHint (.cef e a b) e a b (setPrio 1) s
/-- CEL. -/
def execCel (e : Bool) (a : BitVec 7) (b : BitVec 6) (s : State) : Host.Outcome State Fault Refusal := cacheHint (.cel e a b) e a b (setPrio 2) s
/-- CNM. -/
def execCnm (e : Bool) (a : BitVec 7) (b : BitVec 6) (s : State) : Host.Outcome State Fault Refusal := cacheHint (.cnm e a b) e a b (setPrio 3) s

/-- A cache control instruction that checks ranges (R305): it has no width, so each address names one byte and none is misaligned
(log 104). The earlier accesses of the group to the lines are performed first; it waits for one that waits (R311). -/
def cacheLines (i : Instr) (e : Bool) (a : BitVec 7) (b : BitVec 6) (f : State → Ictx → Nat → State) (s : State) : Host.Outcome State Fault Refusal :=
  issue { i := i, e := e, fields := [vSrcF a, sRegF b] } s (fun x s =>
    let vas := x.sums 57 a b
    let at_ := (laneList x.active).map (fun i => (i, vas.getD i 0))
    match s.xlateAll x.g { rd := true } 1 at_ with
    | .error v => .trap 0x08 (d64 v)
    | .ok (ias, _) =>
      let s := if ias.isEmpty then s else s.performAll x.c x.sl
      let ahead := fun (o : Op) => o.kind.isMem && o.status != .performed && o.touched.any (fun t => ias.any (fun v => v.2 / 128 == t / 128))
      if (s.group x.c x.sl).ops.any ahead then .stall (s.onUnit x (fun u => { u with awaits := ias.map (fun v => v.2 / 128) }))
      else finPlain (ias.foldl (fun s v => f s x v.2) s))

/-- CTRIM. -/
def execCtrim (e : Bool) (t a : BitVec 7) (b : BitVec 6) (s : State) : Host.Outcome State Fault Refusal :=
  cacheLines (.ctrim e t a b) e a b (fun s x ia =>
    let ask := x.asks s
    let s := s.l2Trim ask ia t.toNat
    let s := match (s.core x.c).l1Find x.g.part ia true none with
      | some l => if t == 0 then s.l1Drop x.c x.g.part ia true
                  else if t.toNat < l.depth then s.setCore x.c ((s.core x.c).l1Put { l with depth := t.toNat }) else s
      | none => s
    if t == 0 then
      (s.l1Evict x.c x.g.part ia).flushWhere (fun l => l.holdsIa x.g.part ia) ask.forBack
    else s) s
/-- CINV. -/
def execCinv (e : Bool) (a : BitVec 7) (b : BitVec 6) (s : State) : Host.Outcome State Fault Refusal :=
  cacheLines (.cinv e a b) e a b (fun s x ia =>
    (s.l1Evict x.c x.g.part ia).invalidate (x.asks s) x.c ia) s
/-- CWB. -/
def execCwb (e : Bool) (a : BitVec 7) (b : BitVec 6) (s : State) : Host.Outcome State Fault Refusal :=
  cacheLines (.cwb e a b) e a b (fun s x ia =>
    let ask := x.asks s
    ((s.l1Clean x.c x.g.part ia).reachSlice ask ia).cleanWhere (fun l => l.namedBy x.g.part ia) ask.forBack) s

/-! ### Code fetch (R129, R269) -/

/-- CFETCH: loads a 4 KiB segment on path 5; RANGE_FAULT when no range register grants its read. -/
def execCfetch (e : Bool) (r : BitVec 7) (p : BitVec 15) (s : State) : Host.Outcome State Fault Refusal :=
  issue { i := .cfetch e r p, e := e, fields := [sSrcF r] } s (fun x s =>
    let t := ((x.readS r).setWidth 57 + ((p.signExtend 57 : Va) <<< 12)).toNat / 4096 * 4096
    match (s.part x.g.part).xlate t 4096 { rd := true, user := !x.g.privileged } with
    | .error _ => .trap 0x08 (d64 t)
    | .ok (ia, so) =>
      enterMem x s false { seq := 0, path := 5, pc := 0, kind := .cfetch, dvec := false, addrs := [t], ias := [ia], reqs := [(0, [])], so := so })

/-- The frame that a load takes (R129): a free one, or the least recently issued with no issue unit's program counter inside it. -/
def frameFor (k : Core) : Option (List Frame) :=
  if k.frames.length < 24 then some k.frames
  else
    let used := fun (f : Frame) => k.groups.any (fun e => e.2.part == f.part && e.2.iunits.any (fun u => u.wait != .exited && segOf u.pc == f.seg))
    let free := k.frames.filter (fun f => !used f)
    match free.find? (fun f => free.all (fun h => decide (f.issued ≤ h.issued))) with
    | none => none
    | some f => some (k.frames.filter (fun h => !(h.seg == f.seg && h.part == f.part)))

/-- The code of a 4 KiB segment as listed bytes. -/
def codeCells (bs : List Byte) : List Host.Cell := memWrite [] 0 bs

/-- Performs a code fetch: nothing if the segment is resident, else the segment is read once into a frame (R129),
which a poisoned segment leaves free (R269). It waits for a prefetch or placement that is loading the segment (R356). -/
def State.performFetch (s : State) (c sl : Nat) (o : Op) : State :=
  let g := s.group c sl
  let seg := o.addrs.getD 0 0 / 4096
  let fin := fun (s : State) (reps : List Report) => s.setGroup c sl ((s.group c sl).setOp { o with status := .performed, reqs := [], reports := reps })
  -- earlier accesses through registers with SOR = 1 come first (R210)
  let s := s.performSeq c sl o.seq
  if ((s.group c sl).ops.takeWhile (fun q => q.seq != o.seq)).any (fun q => q.status != .performed && mustPrecede q o) then s
  else if ((s.core c).resident g.part seg).isSome then fin s []
  else if s.prefetching c g.part seg o.seq then s
  else match frameFor (s.core c) with
    | none => s
    | some fs =>
      let ia := o.ias.getD 0 0
      match s.homeReads { part := g.part, die := dieOf c, pol := o.pol, cls := o.cls, stamp := stampFor s.pkg.tick o.deadline, requester := c, sor := o.so, user := !o.priv } 40 ia 4096 [] false with
      | (s, .ok (bs, bad)) =>
        if bad then fin (s.setCore c { s.core c with frames := fs }) [o.report 0x11 (seg * 4096)]
        else
          let k := s.core c
          fin { s.setCore c { k with frames := fs ++ [{ seg := seg, part := g.part, code := codeCells bs, issued := s.lru }] } with lru := s.lru + 1 } []
      | (s, .page) =>
        let (s, n) := s.fault g.part ia false false { core := c, slot := sl, iaddr := o.pc.toNat }
        if g.isTask then (fin s []).abortTask c sl (some n) else s.setGroup c sl ((s.group c sl).setOp { o with status := .parked n })
      | (s, .held) => s
      | (s, .fatal) => fin (s.fault g.part ia false true { core := c, slot := sl, iaddr := o.pc.toNat }).1 [o.report 0x10 (seg * 4096)]

end Sys2Proof.Machine
end

