-- ==== Sys2Proof/Machine/Barrier.lean ====
section
/-! DEFINITION. Transaction barriers in local memory (R182 to R184): their fields, their atomic steps and their checks; team and
cluster barriers (R303, R304). -/

namespace Sys2Proof.Machine

/-! ### Transaction barriers -/

/-- A barrier's fields (R182). -/
structure TBar where
  goal : Word := 0
  done : Word := 0
  err : Bool := false
  pois : Bool := false
  flt : Bool := false
  deriving DecidableEq, Repr

/-- The barrier at a local address. -/
def Core.tbar (k : Core) (g : Group) (a : Nat) : TBar :=
  let b := k.lread g a 16
  { goal := w32 (recField b 0 4), done := w32 (recField b 4 4), err := nbit (recField b 8 1) 0, pois := nbit (recField b 8 1) 1,
    flt := nbit (recField b 8 1) 2 }
/-- Writes a barrier whole; ERR is set when DONE is ahead of GOAL or GOAL 2^31 or more ahead (R183). -/
def Core.setTbar (k : Core) (g : Group) (a : Nat) (b : TBar) : Core :=
  let err := b.err || decide (2 ^ 31 ≤ (b.goal - b.done).toNat)
  k.lwrite g a (leBytes 4 b.goal.toNat ++ leBytes 4 b.done.toNat ++
    leBytes 8 ((if err then 1 else 0) + (if b.pois then 2 else 0) + (if b.flt then 4 else 0)))
/-- One atomic step at a barrier. -/
def State.tbStep (s : State) (c : Nat) (g : Group) (a : Nat) (f : TBar → TBar) : State :=
  let k := s.core c
  s.setCore c (k.setTbar g a (f (k.tbar g a)))

/-- The condition of `tbwait` with an operand (R182, R310): the target reached, or the barrier drained. -/
def TBar.holds (b : TBar) (arg : Dword) : Bool :=
  if arg.getLsbD 32 then b.goal == b.done else decide ((b.done - w32 arg.toNat).toNat < 2 ^ 31)

/-! ### Team and cluster barriers -/

/-- Whether a group has accesses that are not performed. -/
def Group.busyMem (g : Group) : Bool := g.ops.any (fun o => o.kind.isMem && o.status != .performed)
/-- A group has arrived when every live unit of it waits at the barrier, and its earlier accesses, which the arrival releases, are performed
(R303, R204). -/
def Group.atBar (g : Group) (w : Wait) : Bool := !g.live.isEmpty && g.live.all (fun u => u.wait == w) && !g.busyMem
/-- A group that has retired or ended counts as arrived at every later barrier. -/
def Group.gone (g : Group) : Bool := g.holder == .free || g.live.isEmpty

/-- Lets every waiting unit of a group go on. -/
def Group.passBar (g : Group) (w : Wait) : Group :=
  { g with iunits := g.iunits.map (fun u => if u.wait == w then { u with wait := .ready, passed := true } else u),
           bars := if w == .bar then g.bars + 1 else g.bars, barcs := if w == .barc then g.barcs + 1 else g.barcs }

/-- The groups that meet at a barrier of a group: its team, or the teams of its cluster instance, as (core, slot). A group
of another launch or cluster that has since taken a slot is not one of them. -/
def State.partners (s : State) (c sl : Nat) (w : Wait) : List (Nat × Nat) :=
  let g := s.group c sl
  if w == .bar then (g.team.filter (fun t => (s.group c t).team == g.team && (s.group c t).holder == .group)).map (fun t => (c, t))
  else s.cores.flatMap (fun e => (e.2.groups.filter (fun h => h.2.holder == .group && h.2.part == g.part && h.2.cluster == g.cluster && h.2.launch == g.launch)).map
    (fun h => (e.1, h.1)))

/-- A barrier completes when every partner has arrived or retired (R303). -/
def State.releaseBar (s : State) (c sl : Nat) (w : Wait) : State :=
  let ps := s.partners c sl w
  if ps.any (fun p => (s.group p.1 p.2).atBar w) && ps.all (fun p => (s.group p.1 p.2).atBar w || (s.group p.1 p.2).gone) then
    ps.foldl (fun s p => let g := s.group p.1 p.2; if g.atBar w then s.setGroup p.1 p.2 (g.passBar w) else s) s
  else s

/-- What a group with a unit at a barrier has outstanding goes on, and what it has written is performed at the barrier's scope (R116, R198). -/
def State.drainBar (s : State) (c sl : Nat) (w : Wait) : State :=
  if (s.group c sl).live.any (fun u => u.wait == w) then (s.performAll c sl).landFrom c (if w == .barc then 2 else 1) else s
/-- The groups that meet at a barrier bring their accesses to an end; the barrier completes when all have arrived (R303). -/
def State.meetBar (s : State) (c sl : Nat) (w : Wait) : State :=
  ((s.partners c sl w).foldl (fun s p => s.drainBar p.1 p.2 w) s).releaseBar c sl w

end Sys2Proof.Machine
end

