-- ==== Sys2Proof/Machine/Pick.lean ====
section
/-! DEFINITION. Which unit a quarter issues (R102, R104, R111, R116), what settles between instructions (barriers, stops, retiring
groups), and the instruction word that a unit fetches. -/

namespace Sys2Proof.Machine

/-! ### Retirement (R89, R96, R132, R161) -/

/-- A group of a launch has retired: the launch counts one group fewer, and a trap that was not resumed fails it (R80, R89). -/
def State.launchGroupGone (s : State) (g : Group) : State :=
  let pt := s.part g.part
  let one := fun (l : Launch) => { l with live := l.live - 1, failed := (if l.failed.isSome then l.failed else g.ended) }
  s.setPart g.part { pt with launches := updWhere (fun l => l.id == g.launch) one pt.launches }

/-- How the stores of a task's exit end: performed, a page fault with its record, or a page that takes no writes now. -/
inductive ExitRes where
  | done
  | page (rec : Nat)
  | waits
  deriving DecidableEq, Repr

/-- The buffered stores of a task are performed at its exit (R96): all of them, unless one meets a page fault, which aborts
the task before any is made (R218), or a write-protected page, for which they wait (R216). One that ends unresolvable performs
nothing and posts its record (R214). Each asks memory as its instruction did, with a deadline counted from the exit (R27, R244,
log 105). -/
def State.exitStores (s : State) (c sl : Nat) : State × ExitRes :=
  let g := s.group c sl
  let who := fun (k : BufAsk) => ({ core := c, slot := sl, iaddr := k.iaddr } : Faulter)
  let acc := fun (k : BufAsk) (so : Bool) (sors : List Bool) => ({ part := g.part, die := dieOf c, core := some c, pol := k.pol, cls := k.cls, stamp := stampFor s.pkg.tick k.deadline, requester := c, write := true, sor := so, sors := sors, user := !k.priv, who := who k } : Acc)
  let ends : List (Nat × BufAsk × MemRes Unit) := g.tbuf.flatMap (fun b => match b with
    | .bytes ia _ so k => [(ia, k, match (s.l2Line (acc k so []) ia).2 with | .page => .page | .held => .held | _ => .ok ())]
    | .plane l _ _ _ k => l.map (fun ia => (ia, k, match (s.walk g.part ia true).2 with | .page => .page | .ok x => if x.wp then .held else .ok () | _ => .ok ())))
  match ends.find? (fun e => match e.2.2 with | .page => true | _ => false) with
  | some (ia, k, _) => let (s, n) := s.fault g.part ia true false (who k); (s, .page n)
  | none =>
    if ends.any (fun e => match e.2.2 with | .held => true | _ => false) then (s, .waits)
    else
      -- a granule that they cover throughout is written full, which clears its poison (R34)
      let ws := g.tbuf.flatMap BufStore.writes
      let full := fun (s : State) (a : Acc) (ia n : Nat) => ((List.range (n + 1)).map (fun i => ia / 64 * 64 + 64 * i)).foldl (fun s lo => match fullGranule ws lo with
        | some bs => (s.homeWrite a lo bs []).1
        | none => s) s
      (g.tbuf.foldl (fun s b => match b with
        | .bytes ia bs so k => match (full s (acc k so []) ia ((ia % 64 + bs.length - 1) / 64)).homeWrite (acc k so []) ia bs [] with
          | (s, .ok _) => s.l1Update c g.part ia bs k.pol
          | (s, _) => (s.fault g.part ia true true (who k)).1
        | .plane l pstr ws sors k => match (l.zip sors).foldl (fun s e => full s (acc k e.2 []) e.1 0) s |>.planeStore (acc k false sors) l pstr (ws.length - 2) ws [] with
          | (s, .ok _) => s.l1PlaneStore c g.part (l.headD 0) pstr (ws.length - 2) ws k.pol
          | (s, _) => (s.fault g.part (s.deadIa g.part l true) true true (who k)).1) s, .done)
/-- Whether a core holds a group of a cluster instance of a launch. -/
def State.teamOn (s : State) (c launch cluster : Nat) : Bool :=
  (s.core c).groups.any (fun e => e.2.holder == .group && e.2.launch == launch && e.2.cluster == cluster)
/-- A role has ended on a core: of the teams still placed on it, the one placed first gives its own, unless that is a follower's whose
leader's team has retired (R90, R316, log 137). -/
def State.roleEnds (s : State) (c : Nat) : State :=
  let k := s.core c
  let teams := sortBy (fun (a b : Group) => decide (a.cluster < b.cluster)) ((k.groups.map (·.2)).filter (fun g => g.holder == .group))
  let live := fun (g : Group) => match g.pairRole with | .follower l _ _ => s.teamOn l g.launch g.cluster | _ => true
  s.setCore c { k with pair := ((teams.find? live).map (·.pairRole)).getD .single }
/-- The matrix roles that a team gave end with it: a leader's, and that of the core that follows it, whether or not the team's own core
could take the leader's; a follower stays one until the leader's team retires (R316, R357). -/
def State.releasePair (s : State) (c : Nat) (g : Group) : State :=
  if s.teamOn c g.launch g.cluster then s
  else
    let s := match (s.core c).pair with
      | .follower .. => s
      | .leader _ l cl => if l = g.launch && cl = g.cluster then s.roleEnds c else s
      | .single => s.roleEnds c
    if (s.core (c + 1)).pair == .follower c g.launch g.cluster then s.roleEnds (c + 1) else s

/-- Puts a task back at the head of its queue (R99, R218, R219). -/
def Core.requeue (k : Core) (t : QTask) : Core := { k with tasks := t :: k.tasks }

/-- A task that has exited completes (R96): its future, its successor, its graph node, and its slot, each after the one before;
one that was aborted is queued again (R218); one that ended as a trap resolves its future POISONED with status 5. -/
def State.finishTask (s : State) (c sl : Nat) : State :=
  let g := s.group c sl
  let fut := TaskRecord.fut g.task
  let succ := TaskRecord.succ g.task
  let tail := fun (s : State) (w v : Dword) =>
    (s.setGroup c sl { s.group c sl with finishing := true, tbuf := [] }).acts g.part { die := dieOf c, who := { core := c, slot := sl }, requester := c } g.passes
      ((if fut = 0 then [] else [.tres fut w v]) ++ (if succ = 0 then [] else [.tdec succ]) ++
        (match g.node with | some (gr, n) => [.node gr n] | none => []) ++ [.free c sl])
  let again := fun (s : State) (recd : Option Nat) =>
    let s := (s.freeSlot c sl)
    let recd := match recd with | some n => if (s.part g.part).records.any (fun r => r.seq == n) then some n else none | none => none
    let t : QTask := { id := s.seq, part := g.part, record := g.task, inherit := g.inherit, blocked := recd, node := g.node }
    { s.setCore c ((s.core c).requeue t) with seq := s.seq + 1 }
  if g.aborted then again s g.abortRec
  else match g.ended with
    | some _ => tail s (futureWord 5) 0
    | none =>
      match s.exitStores c sl with
      | (s, .page n) => again s (some n)
      | (s, .waits) => s
      | (s, .done) => tail s (futureWord 0) (g.sreg 0)

/-- Whether every slice of a slot's unit has exited (R89). -/
def Group.exitedAll (g : Group) : Bool := g.holder != .free && g.live.isEmpty

/-- A group or task whose slices have all exited and whose counters are 0 retires (R89): its counter adds are performed first
(R155, R223), and its slot is freed. A launch's completion is a release of each of its groups at system scope (R204). -/
def State.retire (s : State) (c sl : Nat) : State :=
  let g := s.group c sl
  if g.exitedAll && g.ops.isEmpty && !g.finishing then
    -- a fault that no unit is left to take ends it as a trap that is not resumed (R267)
    let s := if g.reports.isEmpty || g.ended.isSome || g.aborted then s else s.endGroup c sl 5
    let g := s.group c sl
    let s := (s.flushFx c sl).flushRw c sl
    if !(s.group c sl).fxAdds.isEmpty || !(s.group c sl).rwAdds.isEmpty then s
    else if g.isTask then s.finishTask c sl else (((s.landAt 5).launchGroupGone g).freeSlot c sl).releasePair c g
  else s

/-! ### Pre-emption stops (R104, R105) -/

/-- Registers that the `safe` masks do not name as live, or of units that the group does not hold, read 0, with ptag 0 (R104, R246). -/
def Group.dropDead (g : Group) (units : BitVec 12) (octets : BitVec 8) : Group :=
  { g with sregs := g.sregs.filter (fun e => nbit octets.toNat (e.1 / 8)), vregs := g.vregs.filter (fun e => nbit units.toNat (e.1 / 8) && decide (e.1 / 8 < g.units)) }
/-- A unit waits at a barrier (R116, R304). -/
def IUnit.atWait (u : IUnit) : Bool := u.wait == .bar || u.wait == .barc || (match u.wait with | .tbwait _ _ => true | _ => false)

/-- A unit stands inside a run that it goes on with: not at a barrier, whether or not that has completed (R304). -/
def IUnit.midRun (u : IUnit) : Bool := u.pos != 0 && u.wait == .ready && !u.passed

/-- Every unit of the group is at a run boundary or waits. -/
def Group.atBoundary (g : Group) : Bool := g.iunits.all (fun u => !u.midRun)

/-- Every unit of the group waits at a barrier: it stops as if at a `safe` with every register live (R304). -/
def Group.allWait (g : Group) : Bool :=
  !g.live.isEmpty && g.live.all IUnit.atWait

/-- A group that is to stop and stands where it may (R104, R105, R304). -/
def Group.atStop (g : Group) : Bool :=
  match g.preempt with
  | .stopping _ _ | .forced => g.atBoundary
  | .requested => g.allWait
  | _ => false

/-- Nothing of a group waits: no operation, no reference of a stalled instruction, no add to a counter (R75, R215). -/
def Group.quiet (g : Group) : Bool :=
  g.ops.isEmpty && g.fxAdds.isEmpty && g.rwAdds.isEmpty && (match g.waitRec with | some (_, false) => false | _ => true)
/-- A stopping group has stopped once its units stand at run boundaries and its requests are complete. While one of them stands at a
barrier every register is live (R304). -/
def Group.settleStop (g : Group) : Group :=
  if g.atStop && g.quiet then
    match g.preempt with
    | .stopping u o => { (if g.live.any (fun u => u.atWait || u.passed) then g else g.dropDead u o) with preempt := .stopped }
    | .forced => { g with trc := 0x21, tra := d64 ((g.live.head?.map (fun (u : IUnit) => u.pc)).getD 0).toNat, trx := 0, preempt := .stopped }
    | _ => { g with preempt := .stopped }
  else g

/-- Code fetches of a group proceed on their own (R129): a `jmpf` or `callf` that waits for its segment needs no other event. -/
def State.startFetches (s : State) (c sl : Nat) : State :=
  ((s.group c sl).ops.filter (fun o => o.kind == .cfetch && o.status == .issued)).foldl (fun s o => s.performFetch c sl o) s

/-- What settles on a core without an instruction: code segments load, barriers complete, stops are reached, streaks that have ended
renew their stamps, groups retire. -/
def State.settle (s : State) (c : Nat) : State :=
  (s.core c).groups.foldl (fun s e =>
    let s := if (s.group c e.1).ops.isEmpty then s else s.startFetches c e.1
    let g := s.group c e.1
    let s := if g.live.any (fun u => u.wait == .bar) then s.meetBar c e.1 .bar else s
    let s := if g.live.any (fun u => u.wait == .barc) then s.meetBar c e.1 .barc else s
    let s := if g.atStop then let t := ((s.flush c e.1).flushFx c e.1).flushRw c e.1; t.setGroup c e.1 (t.group c e.1).settleStop else s
    let s := if g.iunits.any (fun u => decide (16 ≤ u.streak) || u.yielded) then s.setGroup c e.1 ((s.group c e.1).renew (s.core c).clk.toNat) else s
    if g.exitedAll then s.retire c e.1 else s) s

/-! ### Choosing a unit (R102) -/

/-- The path of an asynchronous word's major (R121). -/
def pathOf (w : Word) : Option Nat :=
  let m := nbits w.toNat 25 6
  if m = 0x22 || m = 0x23 || m = 0x29 then some 0
  else if m = 0x20 || m = 0x25 || m = 0x26 || (m = 0x24 && !w.getLsbD 4) then some 1
  else if m = 0x21 || m = 0x24 || m = 0x27 || m = 0x28 || m = 0x38 || m = 0x39 then some 2
  else if decide (0x2A ≤ m) && decide (m ≤ 0x2C) || m = 0x3A || m = 0x3B then some 3
  else if decide (0x30 ≤ m) && decide (m ≤ 0x37) then some 4
  else none

/-- Instructions of the SFU (R126). -/
def isSfu : Instr → Bool
  | .rcp _ _ _ _ | .rsqrt _ _ _ _ | .sqrt _ _ _ _ | .exp2 _ _ _ _ | .log2 _ _ _ _ | .sin _ _ _ _ | .cos _ _ _ _ | .tanh _ _ _ _ => true
  | _ => false
/-- The target of a `jmpf` or `callf` waits for its segment (R130). -/
def Core.codeWaits (k : Core) (g : Group) (r : BitVec 7) (p : BitVec 15) : Bool :=
  let t : Va := (g.sreg r.toNat).setWidth 57 + (p.signExtend 57 <<< 2)
  decide (r.toNat < 64) && (k.resident g.part (segOf t)).isNone && (k.segLoading g.part (segOf t) || k.prefetches g.part (segOf t))
/-- What the first instruction of a unit's next run would stall on (R102, log 89): a `waitc` on its path, an instruction whose path, or
whose quarter's SFU, is full on that path, a fence, a barrier of a task, a release or a `tinv` on accesses of its group (answered as path 8,
or 3 where they are remote), a cache-control command on one that is parked (8), a full scoreboard (9), a code segment that is loading (5), a
fault record (10), a set of L1 that other tasks have pinned (11). -/
def Core.stallsOn (k : Core) (sl : Nat) (g : Group) (u : IUnit) : Option Nat :=
  let qn := quarterOf sl
  if u.pos != 0 || u.wait != .ready || g.tileFault.isSome then none
  else match k.fetch g.part u.pc with
    | none => none
    | some w =>
      let open_ := g.ops.any (fun o => o.kind.isMem && o.status != .performed)
      let remote := g.ops.any (fun o => o.path == 3 && o.status != .performed)
      let room := fun (w : Word) => (pathOf w).bind (fun p => if 63 ≤ g.inFlight p then some p
        else if p = 4 && decide (64 ≤ k.onBoard) && !(g.windowOps.length < 8 && decide (nbits w.toNat 25 6 < 0x36)) && nbits w.toNat 25 6 != 0x31 then some 9 else none)
      match decodeWord w with
      | .ok (.waitc _ n p) => if n.toNat < g.inFlight p.toNat then some p.toNat else none
      | .ok (.fence _ sc o) => if o = 0 then none
        else if (if o = 1 then g.ops.any (fun o => o.kind.isMem && o.kind.reads && o.status != .performed) else open_) then some 8
        else if decide (4 ≤ sc.toNat) && remote then some 3 else none
      | .ok (.bar _) | .ok (.barc _) => if open_ && g.isTask then some 8 else none
      | .ok (.tinv ..) => if open_ then some 8 else if remote then some 3 else none
      | .ok (.tbarr ..) => if open_ then some 8 else room w
      | .ok (.cinv ..) | .ok (.cwb ..) | .ok (.ctrim ..) =>
        if g.ops.any (fun o => o.kind.isMem && o.status != .performed && o.touched.any (fun t => u.awaits.contains (t / 128))) then some 8 else none
      | .ok (.stg ..) | .ok (.stt ..) | .ok (.stp ..) => if g.isTask && (match pinCheck k sl g u.awaits with | .wait _ => true | _ => false) then some 11 else room w
      | .ok (.sret _) => if k.returnStalls g then some 9 else none
      | .ok (.fres ..) | .ok (.sdec ..) | .ok (.tspawn ..) => if g.ops.any (fun o => o.kind.isMem && o.status != .performed && o.waitsFor wpHold) then some 8 else room w
      | .ok (.jmpf _ r p) | .ok (.callf _ r p) => if k.codeWaits g r p then some 5 else none
      | .ok (.rwld ..) | .ok (.kvapp ..) => if (match g.waitRec with | some (_, false) => true | _ => false) then some 10
        else if g.ops.any (fun o => o.path == 3 && o.acquires && o.status != .performed) then some 3 else none
      | .ok i => if isSfu i && decide (16 ≤ (k.quarter qn).sfu.length) then some 6 else if isSfu i && decide (63 ≤ g.inFlight 6) then some 6 else room w
      | .error _ => none

/-- A unit's next run's first instruction, or the next instruction of its run, can issue. While a handler runs, the group's other
units go on to their run boundaries and then wait, those at a barrier where they are; the handler issues once they have (R111, R304). -/
def unitReady (k : Core) (sl : Nat) (g : Group) (u : IUnit) : Bool :=
  g.holder != .free && g.ended.isNone && !g.aborted &&
  (match g.save with
    | some v => if v.uid == u.uid then g.iunits.all (fun w => w.uid == u.uid || !w.midRun) else u.midRun
    | none => true) &&
  (match g.preempt with | .stopped => false | .stopping _ _ => u.midRun | .forced => u.midRun | _ => true) &&
  (match u.wait with | .ready => true | .tbwait a arg => (k.tbar g a).holds arg | _ => false) && (k.stallsOn sl g u).isNone

/-- The ready units of a quarter, in slot order. -/
def readyUnits (k : Core) (q : Nat) : List (Nat × IUnit) :=
  (k.groups.filter (fun e => quarterOf e.1 == q)).flatMap (fun e => (e.2.iunits.filter (unitReady k e.1 e.2)).map (fun u => (e.1, u)))

/-- The oldest stamp among units, the first of equals. -/
def oldest : List (Nat × IUnit) → Option (Nat × IUnit)
  | [] => none
  | x :: xs => match oldest xs with
    | none => some x
    | some y => if x.2.stamp ≤ y.2.stamp then some x else some y

/-- The unit that a quarter issues next, and whether it begins a streak (R102): the current unit until its streak has ended or it is not
ready, else the ready unit with the oldest stamp. -/
def pickUnit (k : Core) (q : Nat) : Option (Nat × Nat × Bool) :=
  let rs := readyUnits k q
  let cur : Option (Nat × IUnit) := match (k.quarter q).cur with
    | none => none
    | some (sl, uid) => rs.find? (fun (r : Nat × IUnit) => r.1 == sl && r.2.uid == uid)
  match cur with
  | none => (oldest rs).map (fun r => (r.1, r.2.uid, true))
  | some r =>
    if r.2.pos != 0 || !r.2.ended then some (r.1, r.2.uid, false)
    else match oldest (rs.filter (fun t => !(t.1 == r.1 && t.2.uid == r.2.uid))) with
      | some t => some (t.1, t.2.uid, true)
      | none => some (r.1, r.2.uid, true)

/-- The choice takes effect: a unit that is taken anew begins a streak if its last one has ended by the cap or `yield`. One that was only
not ready goes on with its streak, so that its old stamp holds others back for no more than 16 runs (R103). -/
def Core.choose (k : Core) (q sl uid : Nat) (anew : Bool) : Core :=
  if anew then
    let g := k.group sl
    let u := g.iunit uid
    (k.setGroup sl (if u.ended then g.setUnit { u with streak := 0, yielded := false, ended := false } else g)).setQuarter q { k.quarter q with cur := some (sl, uid) }
  else k

/-- The frame that issues is the most recently issued one (R129). -/
def Core.touchFrame (k : Core) (p seg n : Nat) : Core :=
  { k with frames := updWhere (fun (f : Frame) => f.part == p && f.seg == seg) (fun f => { f with issued := n }) k.frames }

/-- A unit is chosen and issues: the state in which it does, and the word it fetches, if its segment is resident. -/
def State.select (s : State) (c q : Nat) : Option (State × Option Word) :=
  match pickUnit (s.core c) q with
  | none => none
  | some (sl, uid, anew) =>
    let k := (s.core c).choose q sl uid anew
    let g := k.group sl
    let pc := (g.iunit uid).pc
    some ({ s.setCore c (k.touchFrame g.part (segOf pc) s.lru) with cur := (c, sl, uid), lru := s.lru + 1 }, k.fetch g.part pc)

/-! ### Words that are illegal by themselves (R251) -/

/-- A value that is illegal in its context, a destination that is not writable, or a register group that is misaligned (R239, R240, R242):
illegal by the word alone. -/
def Field.bad (f : Field) : Bool :=
  if f.vec then decide ((if f.wr || decide (1 < f.regs) then 95 else 122) < f.code) || (decide (1 < f.regs) && f.code % min f.regs 8 != 0)
  else decide ((if f.wr then 63 else 80) < f.code)

/-- The operand fields of an instruction that names vector registers, in the order D, A, Bs, S (R251); none of any other, whose
fields only the word makes illegal. -/
def vectorFields : Instr → List Field
  | .vadd _ _ d a b
  | .vsub _ _ d a b
  | .vmul _ _ d a b
  | .vmulh _ _ d a b
  | .vabsd _ _ d a b
  | .vmin _ _ d a b
  | .vmax _ _ d a b
  | .vminu _ _ d a b
  | .vmaxu _ _ d a b
  | .vand _ _ d a b
  | .vor _ _ d a b
  | .vxor _ _ d a b
  | .vandn _ _ d a b
  | .vshl _ _ d a b
  | .vshr _ _ d a b
  | .vsra _ _ d a b
  | .vmulhu _ _ d a b
  | .vbfe _ _ d a b
  | .vmad _ _ d a b
  | .vsel _ _ d a b
  | .fadd _ _ d a b
  | .fsub _ _ d a b
  | .fmul _ _ d a b
  | .ffma _ _ d a b
  | .fmin _ _ d a b
  | .fmax _ _ d a b
  | .fceq _ _ d a b
  | .fclt _ _ d a b
  | .fcle _ _ d a b
  | .fcun _ _ d a b
  | .fcpysgn _ _ d a b
  | .fscale _ _ d a b
  | .pk2 _ _ d a b
  | .pk4 _ _ d a b
  | .pk8 _ _ d a b
  | .lbcast _ _ d a b
  | .badd2 _ _ d a b
  | .bmul2 _ _ d a b
  | .bfma2 _ _ d a b
  | .hadd2 _ _ d a b
  | .hmul2 _ _ d a b
  | .hfma2 _ _ d a b
  | .bmax2 _ _ d a b
  | .bmin2 _ _ d a b => [vDstF d, vSrcF a, vSrcF b]
  | .vcmp _ _ d a b _ => [vDstF d, vSrcF a, vSrcF b]
  | .vclz _ _ d a _
  | .vpopc _ _ d a _
  | .vbrev _ _ d a _
  | .vmov _ _ d a _
  | .fabs _ _ d a _
  | .fneg _ _ d a _
  | .fclass _ _ d a _
  | .frnd _ _ d a _
  | .lshfl _ _ d a _
  | .lbfly _ _ d a _
  | .lsum _ _ d a _
  | .lmin _ _ d a _
  | .lmax _ _ d a _
  | .lscan _ _ d a _ => [vDstF d, vSrcF a]
  | .rcp _ d a _
  | .rsqrt _ d a _
  | .sqrt _ d a _
  | .exp2 _ d a _
  | .log2 _ d a _
  | .sin _ d a _
  | .cos _ d a _
  | .tanh _ d a _ => [vDstF d, vSrcF a]
  | .vaddi _ _ d a _
  | .vandi _ _ d a _
  | .vori _ _ d a _
  | .vxori _ _ d a _
  | .vshli _ _ d a _
  | .vshri _ _ d a _
  | .vsrai _ _ d a _
  | .vroti _ _ d a _ => [vDstF d, vSrcF a]
  | .vmovi _ _ d _ => [vDstF d]
  | .cvt _ _ d a t _ _ => [(vDstF d).many (if t.toNat = 13 then 2 else 1), vSrcF a]
  | .upk2 _ _ d a _
  | .upk4 _ _ d a _
  | .upk8 _ _ d a _ => [(vDstF d).many 2, vSrcF a]
  | .lvote _ _ d a
  | .cvpF32 _ _ d a
  | .cvpF32m _ _ d a
  | .cvpBf _ _ d a
  | .cvpBfm _ _ d a => [vDstF d, vSrcF a]
  | .sfromv _ _ d a b => [sDstF d, vSrcF a, sSrcF b]
  | .ptrd _ _ d a => [sDstF d, vSrcF a]
  | .ptwr _ d a => [vDstF d, sSrcF a]
  | .ldg _ d a s k | .ldl _ d a s k => [(vDstF d).many (widthRegs k.toNat), vSrcF a, sRegF s]
  | .stg _ d a s k | .stl _ d a s k => [(vSrcF d).many (widthRegs k.toNat), vSrcF a, sRegF s]
  | .ldt _ d a s k => [(vDstF d).many (widthRegs k.toNat), vSrcF a, sRegF s]
  | .stt _ d a s k => [(vSrcF d).many (widthRegs k.toNat), vSrcF a, sRegF s]
  | .atom _ d a s k | .atoml _ d a s k => [(vDstF d).many (max (atomReads k.toNat) (atomWrites k.toNat)), vSrcF a, sRegF s]
  | .ldp _ d a s _ | .ldpr _ d a s _ => [vDstF d, vSrcF a, (sRegF s).many 2]
  | .stp _ d a s _ => [vSrcF d, vSrcF a, (sRegF s).many 2]
  | .rld _ d a s k => [vDstF d, vSrcF a, sRegF s, { vec := true, code := k.toNat }]
  | .rst _ d a s k => [vSrcF d, vSrcF a, sRegF s, { vec := true, code := k.toNat }]
  | .ratom _ d a s k => [vDstF d, vSrcF a, sRegF s, { vec := true, code := k.toNat }]
  | .kvapp _ a v d => [{ sRegF d with wr := true }, sSrcF a, (vSrcF v).many 16]
  | .brvAny _ _ r _ | .brvAll _ _ r _ => [vSrcF r]
  | .cpf2 _ a s | .cpf1 _ a s | .cef _ a s | .cel _ a s | .cnm _ a s | .cinv _ a s | .cwb _ a s => [vSrcF a, sRegF s]
  | .ctrim _ t a s => [{ vec := false, code := if t.toNat ≤ 24 then 0 else 127 }, vSrcF a, sRegF s]
  | _ => []

/-- TRX of a word that is illegal by itself (R251): among its fields the first illegal one is reported, a vector register at or above 8n by
its value (R131) and everything else by the word. A one-source word with an illegal Bs has the fields of the instruction it would be with
Bs = 0, or with the one code that it allows there (log 122). -/
def illegalTrx (g : Group) (w : Word) : Dword :=
  let word := d64 w.toNat
  match (decodeRaw w).orElse (fun _ => (decodeRaw (w &&& ~~~ 0x3F8)).orElse (fun _ => decodeRaw (w &&& ~~~ 0x3F8 ||| 0x380))) with
  | none => word
  | some i => ((vectorFields i).findSome? (fun f =>
      if f.bad then some word
      else if f.isVReg && decide (8 * g.units < f.code + f.regs) then some (d64 f.code)
      else none)).getD word

/-- A word that decodes to nothing traps ILLEGAL_ENCODING (R251). -/
def State.illegal (s : State) (w : Word) : State :=
  let x := s.ictx
  s.trapNow x.c x.sl s.cur.2.2 0x01 (illegalTrx x.g w) x.u.pc x.u.pc
/-- A unit whose segment is no longer resident traps SEG_ABSENT (R130). -/
def State.segAbsent (s : State) : State :=
  let x := s.ictx
  s.trapNow x.c x.sl s.cur.2.2 0x06 (d64 x.u.pc.toNat) x.u.pc x.u.pc

end Sys2Proof.Machine
end

