-- ==== Sys2Proof/Machine/Kv.lean ====
section
/-! DEFINITION. Key-value pages (chapter 10): the two stages of a reference, the logical image, the words of a page, and the
append of a token. -/

namespace Sys2Proof.Machine

/-- How a table read or a reference ends (R189): a value, a page fault that parks it, or an unresolvable fault, poisoned or not. -/
inductive KvRes (α : Type) where
  | ok (v : α)
  | page (ia : Nat)
  | fault (poison : Bool)
  /-- a write meets a write-protected page (R216) -/
  | held
  deriving DecidableEq, Repr

/-- The end of a reference that has no value. -/
def KvRes.cast {α β : Type} : KvRes α → KvRes β
  | .ok _ => .fault false
  | .page ia => .page ia
  | .fault p => .fault p
  | .held => .held

/-- An access of a reference at an IA meets an unresolvable fault: its record is posted (R189, R214). -/
def State.kvFatal (s : State) (a : Acc) (ia : Nat) : State := (s.fault a.part ia a.write true a.who).1

/-- Reads table bytes at an IA. An unresolvable fault posts its record (R214). -/
def State.tableIa (s : State) (a : Acc) (ia n : Nat) : State × KvRes (List Byte) :=
  match s.homeReads a 4 ia n [] false with
  | (s, .ok (bs, false)) => (s, .ok bs)
  | (s, .ok (_, true)) => (s, .fault true)
  | (s, .page) => (s, .page (s.pageAt a ia n))
  | (s, .held) => (s, .held)
  | (s, .fatal) => (s.kvFatal a (s.fatalAt a ia n), .fault false)

/-- Reads table bytes at a VA through the partition's range registers, at the level of the group that refers (R189, R209). Answers
the IA and SOR too. -/
def State.tableVa (s : State) (a : Acc) (va n : Nat) : State × KvRes (Nat × Bool × List Byte) :=
  match (s.part a.part).xlate va n { rd := true, user := a.user } with
  | .error _ => (s, .fault false)
  | .ok (ia, sor) =>
    match s.tableIa { a with sor := sor } ia n with
    | (s, .ok bs) => (s, .ok (ia, sor, bs))
    | (s, r) => (s, r.cast)

/-- A sequence's entry (R187): its IA, whether SOR serves it, list, number of pages and fill. -/
structure KvSeq where
  ia : Nat
  sor : Bool
  list : Nat
  npg : Nat
  fill : Nat
  deriving DecidableEq, Repr

/-- A page-list entry (R187). -/
structure KvRef where
  ia : Nat
  sor : Bool
  dev : Nat
  tier : Nat
  sealed : Bool
  gbn : Nat
  valid : Bool
  deriving DecidableEq, Repr

/-- A stage-two entry (R188). -/
structure KvPage where
  kia : Nat
  pstr : Nat
  via : Nat
  c : Nat
  d : Nat
  deriving DecidableEq, Repr

def State.kvSeq (s : State) (a : Acc) (seq : Nat) : State × KvRes KvSeq :=
  let pt := s.part a.part
  if nbits pt.kvtn.toNat 0 16 ≤ seq then (s, .fault false)
  else match s.tableVa a (vaMod (nbits pt.kvtb.toNat 12 45 * 4096 + 16 * seq)) 16 with
    | (s, .ok (ia, so, b)) => (s, .ok { ia := ia, sor := so, list := nbits (recField b 0 8) 0 57, npg := recField b 8 4, fill := nbits (recField b 12 4) 0 6 })
    | (s, r) => (s, r.cast)

def State.kvRef (s : State) (a : Acc) (q : KvSeq) (page : Nat) : State × KvRes KvRef :=
  match s.tableVa a (vaMod (q.list + 8 * page)) 8 with
  | (s, .ok (ia, so, b)) =>
    let e := leNat b
    (s, .ok { ia := ia, sor := so, dev := nbits e 0 12, tier := nbits e 12 2, sealed := nbit e 14, gbn := nbits e 16 32,
              valid := nbit e 15 && nbits e 12 2 != 3 && nbits e 48 16 == 0 })
  | (s, r) => (s, r.cast)

/-- Stage one (R187, R189). -/
def State.kvStage1 (s : State) (a : Acc) (seq page : Nat) : State × KvRes KvRef :=
  match s.kvSeq a seq with
  | (s, .ok q) =>
    if q.npg ≤ page then (s, .fault false)
    else match s.kvRef a q page with
      | (s, .ok r) => (s, if r.valid then .ok r else .fault false)
      | x => x
  | (s, r) => (s, r.cast)

/-- Stage two, at the owning partition (R188, R189). -/
def State.kvStage2 (s : State) (a : Acc) (gbn : Nat) : State × KvRes KvPage :=
  let pt := s.part a.part
  if 2 ^ min (nbits pt.kvtn.toNat 16 5) 26 ≤ gbn then (s, .fault false)
  else match s.tableIa { a with sor := true } ((nbits pt.kvgb.toNat 12 40 * 4096 + 32 * gbn) % 2 ^ 52) 32 with
    | (s, .ok b) =>
      let geom := recField b 0x18 4
      let c := nbits geom 0 9 + 1
      let d := nbits geom 9 5
      if recField b 0 8 / 2 ^ 52 != 0 || recField b 0x10 8 / 2 ^ 52 != 0 || geom / 2 ^ 15 != 0 || recField b 0x1C 4 != 0 || !nbit geom 14 ||
          d == 0 || decide (24 < d) || decide (256 < c) then (s, .fault false)
      else (s, .ok { kia := recField b 0 8, pstr := recField b 8 8, via := recField b 0x10 8, c := c, d := d })
    | (s, r) => (s, r.cast)

def KvPage.vOff (p : KvPage) : Nat := 4 * (p.d + 2) * p.c
def KvPage.size (p : KvPage) : Nat := p.vOff + 64 * p.c
/-- The IAs of the words of a channel's block to a depth (R185). -/
def KvPage.block (p : KvPage) (ch d : Nat) : List Nat := (List.range (d + 2)).map (fun k => (p.kia + 4 * ch + k * p.pstr) % 2 ^ 52)
/-- The IA of a byte of the V part. -/
def KvPage.vIa (p : KvPage) (off : Nat) : Nat := (p.via + off) % 2 ^ 52

/-- Word j of a block as a plane access sees it (R165, R167): the word and whether it is poisoned. H comes first; a word of a plane above
its V is not read, and is 0. -/
def State.planeWordAt (s : State) (a : Acc) (ias : List Nat) (pstr j : Nat) : State × MemRes (Nat × Bool) :=
  let alone := fun (s : State) => match s.homeRead a (ias.getD j 0) 4 with
    | (s, .ok (b, p)) => (s, MemRes.ok (leNat b, p))
    | (s, .page) => (s, .page)
    | (s, .held) => (s, .held)
    | (s, .fatal) => (s, .fatal)
  match s.l2Plane a (ias.take 3) pstr 1 with
  | (s, .ok l) =>
    if j ≤ 2 then (s, .ok (l.word j, l.bad.contains j))
    else if hV (l.word 0) + 1 < j then (s, .ok (0, false))
    else match s.l2Plane { a with sors := a.sors } (ias.take (j + 1)) pstr (j - 1) with
      | (s, .ok l) => (s, .ok (l.word j, l.bad.contains j))
      | (s, _) => alone s
  | (s, _) => alone s
/-- A byte range of a page's image (R185, R188), as the owner serves it: bytes and poison. -/
def State.kvImage (s : State) (a : Acc) (p : KvPage) : Nat → Nat → List Byte → Bool → State × KvRes (List Byte × Bool)
  | _, 0, acc, bad => (s, .ok (acc, bad))
  | off, n + 1, acc, bad =>
    if p.size ≤ off then (s, .fault false)
    else if off < p.vOff then
      let w := off / 4
      match s.planeWordAt a (p.block (w % p.c) p.d) p.pstr (w / p.c) with
      | (s, .ok (v, q)) => State.kvImage s a p (off + 1) n (acc ++ [BitVec.ofNat 8 (v / 256 ^ (off % 4))]) (bad || q)
      | (s, .page) => (s, .page (s.missIa a.part [(p.block (w % p.c) p.d).getD 0 0, (p.block (w % p.c) p.d).getD (w / p.c) 0] false))
      | (s, _) => (s.kvFatal a ((p.block (w % p.c) p.d).getD (w / p.c) 0), .fault false)
    else
      match s.homeRead a (p.vIa (off - p.vOff)) 1 with
      | (s, .ok (b, q)) => State.kvImage s a p (off + 1) n (acc ++ b) (bad || q)
      | (s, .page) => (s, .page (p.vIa (off - p.vOff)))
      | (s, _) => (s.kvFatal a (p.vIa (off - p.vOff)), .fault false)

/-- Whether every byte of some IAs can be written now: the first that misses its page, cannot be written, or is held by a
write-protected page (R216). -/
def State.writable (s : State) (a : Acc) : List Nat → State × KvRes Unit
  | [] => (s, .ok ())
  | ia :: ias => match (s.walk a.part ia true).2 with
    | .page => (s, .page ia)
    | .ok x =>
      if (x.ord = 3 && a.user) || (x.ord = 1 && !a.sor) then (s.kvFatal a ia, .fault false)
      else if x.wp then (s, .held) else State.writable s a ias
    | _ => (s.kvFatal a ia, .fault false)

/-- The IA of a byte of a page's image (R185): of a K word, or of the V part. -/
def KvPage.byteIa (p : KvPage) (off : Nat) : Nat :=
  if off < p.vOff then (p.block (off / 4 % p.c) p.d).getD (off / 4 / p.c) 0 + off % 4 else p.vIa (off - p.vOff)

/-- Bytes written into a page's image by another device's WR (R188): a byte of a K word is an ordinary write there. A write that
cannot be made whole changes nothing (R42). -/
def State.kvImageWrite (s : State) (a : Acc) (p : KvPage) (off : Nat) (bs : List (Byte × Bool)) : State × KvRes Unit :=
  if p.size < off + bs.length then (s, .fault false)
  else
    let at_ := fun (i : Nat) => p.byteIa (off + i)
    match s.writable a ((List.range bs.length).map at_) with
    | (s, .ok _) =>
      -- bytes at consecutive IAs inside a granule go as one write (R34)
      let runs := (List.range bs.length).foldr (fun i (acc : List (Nat × List Byte)) =>
        let b := (bs.getD i (0, false)).1
        match acc with
        | (x, xs) :: rest => if x = at_ i + 1 && x % 64 != 0 then (at_ i, b :: xs) :: rest else (at_ i, [b]) :: acc
        | [] => [(at_ i, [b])]) []
      runs.foldl (fun (acc : State × KvRes Unit) w =>
        match acc.2 with
        | .ok _ => (match acc.1.homeWrite a w.1 w.2 [] with
          | (s, .ok _) => (s, .ok ())
          | (s, .page) => (s, .page w.1)
          | (s, .held) => (s, .held)
          | (s, .fatal) => (s, .fault false))
        | _ => acc) (s, .ok ())
    | r => r

/-! ### Appending (R191, R192) -/

/-- A channel's block after a token is appended: H, S, M1 to MD, and whether it was rescaled (R192). -/
def appendBlock (d n x : Nat) (old : List Nat) : List Nat × Bool :=
  let ex := nbits x 23 8
  let x := if ex = 255 && x % 2 ^ 23 != 0 then 0 else x
  let e := nbits x 23 8
  let ex := if e = 255 then 254 else e
  let e0 := old.getD 0 0 % 256
  let fresh := n = 0
  let rescale := !fresh && (decide (e0 < ex) || (e == 255 && decide (e0 < 254)))
  let eNew := if fresh || rescale then ex else e0
  let delta := ex - e0
  let resc := if fresh then false else rescale || nbit (old.getD 0 0) 13
  let q := quantMag eNew d x
  let plane := fun (k : Nat) =>
    let was := if fresh then 0 else if rescale then (if delta < k then old.getD (k - delta + 1) 0 else 0) else old.getD (k + 1) 0
    let keep := was % 2 ^ n + was / 2 ^ (n + 1) * 2 ^ (n + 1)
    keep + (if nbit q (d - k) then 2 ^ n else 0)
  let s := if fresh then 0 else old.getD 1 0
  let s := s % 2 ^ n + s / 2 ^ (n + 1) * 2 ^ (n + 1) + (if nbit x 31 then 2 ^ n else 0)
  ([eNew + d * 256 + (if resc then 8192 else 0), s] ++ (List.range d).map (fun i => plane (i + 1)), rescale)

/-- How an append ends: a status with the H words of its blocks, a page fault of a read or a write, or a wait for a write-protected page. -/
inductive KvApp where
  | status (n : Nat) (heads : List Nat)
  | page (ia : Nat) (write : Bool)
  | held
  /-- a block straddles an RR page and a page of another kind (R200): the IA of its H word -/
  | straddles (ia : Nat)
  deriving DecidableEq, Repr
/-- An append whose reference ends without a value. -/
def KvRes.app {α : Type} (write : Bool) : KvRes α → KvApp
  | .page ia => .page ia write
  | .held => .held
  | _ => .status 4 []

/-- A write of an append: at its home slice, and in the issuing core's L1 (R293). -/
def State.kvPut (s : State) (c : Nat) (a : Acc) (ia : Nat) (bs : List Byte) : State := ((s.homeWrite a ia bs []).1).l1Update c a.part ia bs a.pol

/-- The token of a channel is written: its K block and its V value. Answers the block's new H word. -/
def State.kvChannel (s : State) (c sl : Nat) (a : Acc) (p : KvPage) (n ch key val : Nat) : State × Nat :=
  let w := { a with write := true, sor := true }
  let ias := p.block ch p.d
  let (s, old, bad) := match s.l2Plane { a with sor := true } ias p.pstr p.d with
    | (s, .ok l) => (s, (List.range (p.d + 2)).map l.word, if l.bad.any (fun w => decide (w < p.d + 2)) then List.range (p.d + 2) else [])
    | (s, _) => (s, List.replicate (p.d + 2) 0, [])
  let (new, resc) := appendBlock p.d n key old
  let s := (s.planeStore w ias p.pstr p.d (new.map w32) (if n = 0 then [] else bad)).1
  let s := s.l1PlaneStore c a.part (ias.getD 0 0) p.pstr p.d (new.map w32) a.pol
  let v := bf16.round 0 (fp32.readPlain val)
  let s := s.kvPut c w (p.vIa (2 * (n * p.c + ch))) (leBytes 2 v.1)
  let s := s.setGroup c sl ((s.group c sl).countEvents 1 [v.2])
  let pt := s.part a.part
  (if resc then s.setPart a.part { pt with kvrs := satAdd pt.kvrs 1 } else s, new.getD 0 0)

/-- The append of one token (R191). A block that straddles pages of different kinds takes a trap (R200), with the IA of its H word (log 106). Nothing is written unless everything can be: a write that a write-protected page would hold
makes the append wait. -/
def State.kvAppend (s : State) (c sl : Nat) (a : Acc) (seq : Dword) (key val : Nat → Nat) : State × KvApp :=
  if seq.toNat / 2 ^ 32 != 0 then (s, .status 2 [])
  else match s.kvSeq a seq.toNat with
    | (s, .ok q) =>
      if q.npg = 0 || decide (32 ≤ q.fill) then (s, .status 2 [])
      else match s.kvRef a q (q.npg - 1) with
        | (s, .ok r) =>
          if r.sealed then (s, .status 2 [])
          else if r.dev != s.fab.drank || r.tier != 0 then (s, .status 3 [])
          else if !r.valid then (s, .status 4 [])
          else match s.kvStage2 a r.gbn with
            | (s, .ok p) =>
              let n := q.fill
              let chans := List.range p.c
              let targets := chans.flatMap (fun ch => p.block ch p.d) ++ chans.map (fun ch => p.vIa (2 * (n * p.c + ch))) ++ [q.ia] ++ (if n = 31 then [r.ia] else [])
              match s.writable { a with sor := true, write := true } targets with
              | (s, .ok _) =>
                match chans.find? (fun ch => s.mixesRR a.part (p.block ch p.d)) with
                | some ch => (s, .straddles ((p.block ch p.d).getD 0 0))
                | none =>
                let (s, heads) := chans.foldl (fun (acc : State × List Nat) ch =>
                  let (s, h) := acc.1.kvChannel c sl a p n ch (key ch) (val ch)
                  (s, acc.2 ++ [h])) (s, [])
                let s := s.kvPut c { a with write := true, sor := q.sor } (q.ia + 12) (leBytes 4 (n + 1))
                if n = 31 then
                  match s.homeRead { a with sor := r.sor } r.ia 8 with
                  | (s, .ok (b, _)) => (s.kvPut c { a with write := true, sor := r.sor } r.ia (leBytes 8 (Nat.lor (leNat b) 16384)), .status 1 heads)
                  | (s, _) => (s, .status 1 heads)
                else (s, .status 0 heads)
              | (s, e) => (s, e.app true)
            | (s, e) => (s, e.app false)
        | (s, e) => (s, e.app false)
    | (s, e) => (s, e.app false)

end Sys2Proof.Machine
end

