-- ==== Sys2Proof/Machine/Fabric.lean ====
section
/-! DEFINITION. The fabric (chapter 03): capability rows, planes and ports, outgoing requests with their tags, what a target
performs for a request, and the remote lane instructions with their responses (R302). -/

namespace Sys2Proof.Machine

/-! ### Rows, planes and ports -/

/-- The capability row of a peer (R52). -/
def Fabric.row (f : Fabric) (rank : Nat) : Nat := mget 0 f.capRows rank
def rowPeer (r : Nat) : Bool := nbits r 0 2 == 1 || nbits r 0 2 == 2
def rowAop (r k : Nat) : Bool := nbit r (2 + k)
def rowPwr (r : Nat) : Bool := nbit r 20
def rowMsg (r : Nat) : Bool := nbit r 21

def Fabric.port (f : Fabric) (p : Nat) : Port := mget {} f.ports p
def Fabric.setPort (f : Fabric) (p : Nat) (x : Port) : Fabric := { f with ports := mput f.ports p x }
def Port.live (p : Port) : Bool := p.trained && p.up

/-- The plane of a packet (R43). For MCW, DST is the group. -/
def packetPlane (p : Packet) : Nat :=
  if p.kind.toNat = 6 || p.kind.toNat = 7 || p.kind.toNat = 8 then (p.src.toNat + 5 * p.dst.toNat) % 72
  else (p.ia.toNat / 256 + 7 * p.dst.toNat) % 72

/-- The port a request of a plane takes now (R45): its own, or the next live one, once no request is outstanding on a failed port that it
passes over, and none of its plane on another port. -/
def Fabric.portFor (f : Fabric) (plane : Nat) : Option Nat :=
  let order := (List.range 72).map (fun i => (plane + i) % 72)
  match order.find? (fun p => (f.port p).live) with
  | none => none
  | some p =>
    let passed := order.takeWhile (fun q => q != p)
    if f.out.any (fun o => o.port != 72 && o.port != p && (packetPlane o.pkt == plane || passed.contains o.port)) then none else some p

/-- The key slot a port transmits a job's packets under: the newest present one (R49, R51). -/
def Port.txSlot (p : Port) (job : Nat) : Option (Nat × KeySlot) :=
  let c := p.slots.filter (fun e => e.2.present && e.2.job == job)
  c.find? (fun e => c.all (fun x => decide (x.2.gen ≤ e.2.gen)))

/-- The slot a response goes under: that of its job, or, where the port has none (a request answered DENIED), the newest present
one (log 92). -/
def Port.rspSlot (p : Port) (job : Nat) : Option (Nat × KeySlot) :=
  match p.txSlot job with
  | some e => some e
  | none => let c := p.slots.filter (fun e => e.2.present); c.find? (fun e => c.all (fun x => decide (x.2.gen ≤ e.2.gen)))

def Port.slotFor (p : Port) (pkt : Packet) : Option (Nat × KeySlot) := if pkt.kind = 9 then p.rspSlot pkt.job.toNat else p.txSlot pkt.job.toNat

/-- Whether a port can transmit a packet: its slot has a key and its counter is not exhausted (R49). -/
def Port.canSend (p : Port) (pkt : Packet) : Bool :=
  match p.slotFor pkt with
  | some e => decide (e.2.txCount < 2 ^ 64 - 1)
  | none => false

/-- Whether a lane of a port is out of service for a self-test (R10): nothing passes it. -/
def State.laneOut (s : State) (port : Nat) : Bool := s.pkg.windows.contains (.butusLane port)

/-- A packet leaves on a port, under the job's key slot. -/
def Fabric.transmit (f : Fabric) (port : Nat) (pkt : Packet) : Fabric :=
  let p := f.port port
  let p := match p.slotFor pkt with
    | some e => { p with slots := mput p.slots e.1 { e.2 with txCount := e.2.txCount + 1 } }
    | none => p
  { f.setPort port p with tx := f.tx ++ [(port, pkt)] }

/-- The group among whose requests a held packet is (R44): the request of a lane operation, a message of a send, a collective's write. -/
def State.senderOf (s : State) (pkt : Packet) : Option (Nat × Nat) :=
  match (s.fab.out.find? (fun (o : Outstanding) => o.tag == pkt.tag.toNat && o.port == 72)).map (fun (o : Outstanding) => o.who) with
  | some (.lane c sl _ _) => some (c, sl)
  | some (.coll g _) => (mget {} s.fab.colls g).busy.map (fun b => (b.1, b.2.1))
  | some (.cairn p sid) =>
    if pkt.kind = 6 || pkt.kind = 7 then ((s.part p).cairn.sends.find? (fun m => m.sid == sid && m.dst == pkt.dst.toNat)).map (fun m => (m.core, m.slot)) else none
  | _ => none
/-- Held responses leave where they can, those of one port in order; then held requests, those of one plane and those of one group in
order (R44, R45, R49). -/
def State.pump (s : State) : State :=
  let f := s.fab
  let f := (f.heldRsp.foldl (fun (acc : Fabric × List Nat) e =>
    let (f, blocked) := acc
    if !blocked.contains e.1 && (f.port e.1).live && !s.laneOut e.1 && (f.port e.1).canSend e.2 then (f.transmit e.1 e.2, blocked)
    else ({ f with heldRsp := f.heldRsp ++ [e] }, e.1 :: blocked)) ({ f with heldRsp := [] }, [])).1
  let r := f.heldTx.foldl (fun (acc : Fabric × List Nat × List (Nat × Nat)) pkt =>
    let (f, blocked, groups) := acc
    let pl := (packetPlane pkt)
    let mine := s.senderOf pkt
    let hold := ({ f with heldTx := f.heldTx ++ [pkt] }, pl :: blocked, mine.toList ++ groups)
    if blocked.contains pl || mine.any groups.contains then hold
    else match f.portFor pl with
      | none => hold
      | some port =>
        if (f.port port).canSend pkt && !s.laneOut port then
          let f := f.transmit port pkt
          ({ f with out := updWhere (fun o => o.tag == pkt.tag.toNat && o.port == 72) (fun o => { o with port := port, born := s.pkg.tick }) f.out }, blocked, groups)
        else hold) ({ f with heldTx := [] }, [], [])
  { s with fab := r.1 }

/-- Whether an operation has requests still to inject: what a send injects, the send side knows (R44, R358). -/
def Op.unsent (o : Op) : Bool :=
  match o.kind with
  | .rld | .rst | .ratom => o.status == .issued
  | .car | .cbar => o.rnd == 0 && o.status != .performed
  | .cbc => o.k == 1 && o.rnd == 0 && o.status != .performed
  | _ => false
/-- Whether a group has requests still to inject that come before those of an operation: of earlier operations, and messages that the
Cairn has accepted and not sent (R44, R58). -/
def State.uninjected (s : State) (c sl seq : Nat) : Bool :=
  (s.group c sl).ops.any (fun x => decide (x.seq < seq) && x.unsent) ||
  (s.part (s.group c sl).part).cairn.sends.any (fun m => m.core == c && m.slot == sl && decide (m.seq < seq) && !m.sent)

/-- A free tag, counting on from the last one given. -/
def Fabric.freeTag (f : Fabric) : Nat :=
  ((List.range 16384).map (fun i => (f.nextTag + i) % 16384)).find? (fun t => !f.out.any (fun o => o.tag == t)) |>.getD 0
def Fabric.full (f : Fabric) (n : Nat) : Bool := decide (16384 < f.out.length + n)

def blankMsg : MsgFields := { ctx := 0, sep := 0, mtag := 0, mlen := 0, pds := 0, frag := 0, sid := 0, wia := 0, rsnd := false }
def blankPkt : Packet := { kind := 0, src := 0, dst := 0, tag := 0, cls := 1, dline := 0, len := 0, aop := 0, stat := 0, job := 0, ia := 0,
                           pdep := 0, pstr := 0, msg := blankMsg, rsvSet := false, payload := [] }

/-- The job id a partition's requests carry (R39): with VALID = 0 the JOB field as it stands (log 119). -/
def State.jobOf (s : State) (p : Nat) : Nat := (mget (0, false) s.fab.pjob p).1
/-- The partition that holds a job (R39): of two entries that name it, the first (log 127). -/
def State.partOfJob (s : State) (job : Nat) : Option Nat := (s.fab.pjob.find? (fun e => e.2.2 && e.2.1 == job)).map (·.1)

/-- A request enters the fabric with a tag of its own (R41); it leaves at once or is held (R45). A device without a rank sends none
(R38). -/
def State.sendReq (s : State) (who : Requester) (va : Nat) (pkt : Packet) : State :=
  if s.fab.drank = 4095 then s else
  let f := s.fab
  let t := f.freeTag
  let pkt := { pkt with src := BitVec.ofNat 12 f.drank, tag := BitVec.ofNat 14 t }
  let o : Outstanding := { tag := t, who := who, pkt := pkt, va := va, born := s.pkg.tick, port := 72 }
  { s with fab := { f with out := f.out ++ [o], nextTag := (t + 1) % 16384, heldTx := f.heldTx ++ [pkt] } }.pump

/-! ### Serving requests (R41, R42, R54, R188) -/

/-- How a target serves a request: a response with a status and data, or parked on a fault record, or held by a write-protected
page. -/
inductive Served where
  | rsp (stat : Nat) (data : List Byte)
  | park (rec : Nat)
  deriving DecidableEq, Repr

/-- A remote peer's access. -/
def remoteAcc (p : Nat) (pkt : Packet) (write : Bool) : Acc :=
  { part := p, cls := pkt.cls.toNat, stamp := pkt.dline.toNat, requester := noCounter, sor := true, write := write, who := { req := 3 } }

/-- The enabled bytes of a write request. -/
def packetWrites (p : Packet) : List (Byte × Bool) :=
  let n := p.len.toNat + 1
  if p.kind = 2 then
    let mask := leNat (p.payload.take 32)
    (List.range n).map (fun i => ((p.payload.drop 32).getD i 0, nbit mask i))
  else (List.range n).map (fun i => (p.payload.getD i 0, true))

/-- The runs of consecutive enabled bytes inside one 64 B granule, from an address on: a granule that is written whole is one
write (R34). -/
def writeRuns : Nat → List (Byte × Bool) → List (Nat × List Byte)
  | _, [] => []
  | ia, (b, on) :: rest =>
    if !on then writeRuns (ia + 1) rest
    else match writeRuns (ia + 1) rest with
      | (x, bs) :: rs => if x = ia + 1 && x % 64 != 0 then (ia, b :: bs) :: rs else (ia, [b]) :: (x, bs) :: rs
      | [] => [(ia, [b])]

/-- Writes runs of bytes, each inside a granule. -/
def State.runsWrite (s : State) (a : Acc) : List (Nat × List Byte) → State × MemRes Unit
  | [] => (s, .ok ())
  | (ia, bs) :: rest =>
    match s.homeWrite a ia bs [] with
    | (s, .ok _) => State.runsWrite s a rest
    | x => x

/-- Writes enabled bytes from an IA on, as one access of one page. -/
def State.maskedWrite (s : State) (a : Acc) (ia : Nat) (bs : List (Byte × Bool)) : State × MemRes Unit := s.runsWrite a (writeRuns ia bs)

/-- An atomic at its home slice for a requester elsewhere: the old value, or how it ends. -/
def State.remoteAtomic (s : State) (a : Acc) (k ia : Nat) (payload : List Byte) : State × MemRes (Option Nat) :=
  match s.l2Line a ia with
  | (s, .ok l) =>
    if l.bad.contains (ia % 128 / 64) then (s, .ok none)
    else
      let old := recField (bytesAt l.data (ia % 128) 8) 0 (atomBytes k)
      let ws := (List.range 4).map (fun i => w32 (recField payload (4 * i) 4))
      let (new, _, _) := atomRun k [(0, ws)] old
      ((s.homeWrite a ia (leBytes (atomBytes k) new) []).1, .ok (some old))
  | (s, .page) => (s, .page)
  | (s, .held) => (s, .held)
  | (s, .fatal) => (s, .fatal)

/-- A request is performed in a partition (R41). -/
def State.serveIn (s : State) (p : Nat) (pkt : Packet) : State × Served :=
  let ia := pkt.ia.toNat
  let kind := pkt.kind.toNat
  let write := kind != 0
  let park := fun (s : State) (ia : Nat) =>
    let (s, n) := s.fault p ia write false { req := 3 }
    (s, Served.park n)
  let fatal := fun (s : State) (ia : Nat) => ((s.fault p ia write true { req := 3 }).1, Served.rsp 4 [])
  let a := remoteAcc p pkt write
  if ia / 2 ^ 48 = 15 then
    -- a key-value page reference: only RD and WR carry one (R211)
    if kind ≤ 1 then
      match s.kvStage2 { a with write := false } (nbits ia 16 32) with
      | (s, .page i) => let (s, n) := s.fault p i false false { req := 3 }; (s, .park n)
      | (s, .held) => (s, .park wpHold)
      | (s, .fault q) => (s, .rsp (if q then 2 else 4) [])
      | (s, .ok pg) =>
        if kind = 0 then
          match s.kvImage a pg (nbits ia 0 16) (pkt.len.toNat + 1) [] false with
          | (s, .ok (bs, bad)) => (s, if bad then .rsp 2 [] else .rsp 0 bs)
          | (s, .page i) => park s i
          | (s, .held) => (s, .park wpHold)
          | (s, .fault _) => (s, .rsp 4 [])
        else
          match s.kvImageWrite a pg (nbits ia 0 16) (packetWrites pkt) with
          | (s, .ok _) => (s.landFar, .rsp 0 [])
          | (s, .page i) => park s i
          | (s, .held) => (s, .park wpHold)
          | (s, .fault _) => (s, .rsp 4 [])
    else fatal s ia
  else match kind with
    | 0 =>
      match s.homeReads a 4 ia (pkt.len.toNat + 1) [] false with
      | (s, .ok (bs, bad)) => (s, if bad then .rsp 2 [] else .rsp 0 bs)
      | (s, .page) => park s ia
      | (s, .held) => (s, .park wpHold)
      | (s, .fatal) => fatal s ia
    | 1 | 2 | 4 =>
      match s.maskedWrite a ia (packetWrites pkt) with
      | (s, .ok _) => (s.landFar, .rsp 0 [])
      | (s, .page) => park s ia
      | (s, .held) => (s, .park wpHold)
      | (s, .fatal) => fatal s ia
    | 3 =>
      if 17 < pkt.aop.toNat then (s, .rsp 3 [])
      else match s.remoteAtomic a pkt.aop.toNat ia pkt.payload with
        | (s, .ok none) => (s, .rsp 2 [])
        | (s, .ok (some old)) => (s.landFar, .rsp 0 (leBytes (atomBytes pkt.aop.toNat) old))
        | (s, .page) => park s ia
        | (s, .held) => (s, .park wpHold)
        | (s, .fatal) => fatal s ia
    | _ =>
      let d := pkt.pdep.toNat
      if d = 0 || 24 < d then (s, .rsp 3 [])
      else
        let ias := (List.range (d + 2)).map (fun k => (ia + k * pkt.pstr.toNat) % 2 ^ 52)
        let ws := (List.range (d + 2)).map (fun k => w32 (recField pkt.payload (4 * k) 4))
        let h := (ws.getD 0 0).toNat
        let ws := w32 (h % 256 + d * 256 + (if nbit h 13 then 8192 else 0)) :: ws.drop 1
        match s.planeStore a ias pkt.pstr.toNat d ws [] with
        | (s, .ok _) => (s.landFar, .rsp 0 [])
        | (s, .page) => park s (s.missIa p ias true)
        | (s, .held) => (s, .park wpHold)
        | (s, .fatal) => fatal s (s.deadIa p ias true)

/-- The response to a request, on its port (R42, R43): it leaves once the port can transmit it (R49). -/
def State.respond (s : State) (port : Nat) (req : Packet) (stat : Nat) (data : List Byte) : State :=
  let r : Packet := { blankPkt with kind := 9, src := BitVec.ofNat 12 s.fab.drank, dst := req.src, tag := req.tag, cls := req.cls,
                                    dline := req.dline, len := BitVec.ofNat 8 (data.length - 1), stat := BitVec.ofNat 3 stat,
                                    job := req.job, payload := data }
  { s with fab := { s.fab with heldRsp := s.fab.heldRsp ++ [(port, r)] } }.pump

/-- A packet dropped under R40: BADPKT counts it. -/
def State.badPacket (s : State) (port : Nat) : State :=
  let p := s.fab.port port
  { s with fab := s.fab.setPort port { p with badpkt := satAdd p.badpkt 1 } }

/-- The number under which an earlier request of the same sender for the same aligned 256 B block waits at the target, if one does: the
later one waits behind it (R44). -/
def Part.behind (p : Part) (pkt : Packet) : Option Nat :=
  (p.parked.find? (fun e => match e.2 with
    | .remote _ q => q.src == pkt.src && q.ia.toNat / 256 == pkt.ia.toNat / 256 && (q.kind == 4) == (pkt.kind == 4) && (pkt.kind != 4 || q.dst == pkt.dst)
    | _ => false)).map (·.1)
/-- A request waits in a partition under a number. -/
def State.parkRemote (s : State) (p n port : Nat) (pkt : Packet) : State :=
  let pt := s.part p
  s.setPart p { pt with parked := pt.parked ++ [(n, .remote port pkt)] }
/-- A request arrives (R40 to R42): it is dropped, denied, performed and answered, or parked (R41), behind an earlier one to its block
(R44). -/
def State.serve (s : State) (port : Nat) (pkt : Packet) : State :=
  if pkt.rsvSet then s.badPacket port
  else match s.partOfJob pkt.job.toNat with
    | none => s.respond port pkt 5 []
    | some p =>
      match (s.part p).behind pkt with
      | some n => s.parkRemote p n port pkt
      | none =>
        match s.serveIn p pkt with
        | (s, .rsp stat data) => s.respond port pkt stat data
        | (s, .park n) => s.parkRemote p n port pkt

/-- A port carries traffic: the device has started, and the port has trained, is up and holds a key (R17, R49). -/
def State.carries (s : State) (port : Nat) : Bool := s.pkg.ready && (s.fab.port port).live && (s.fab.port port).slots.any (fun e => e.2.present)
/-- A packet of a kind arrives on a port that carries traffic; one whose KIND is reserved is dropped and counted, whatever event brings it
(R40). -/
def State.packet (s : State) (kind : BitVec 4) (go : State → Packet → State) : Host.Outcome State Fault Refusal :=
  .next (if !s.carries s.args.port then s else if 10 ≤ s.args.pkt.kind.toNat then s.badPacket s.args.port else go s { s.args.pkt with kind := kind })

/-- What the error code finds when an L2 miss of an atomic reads its granule (R54). -/
def State.atomEcc (s : State) (pkt : Packet) : State :=
  if pkt.rsvSet then s
  else match s.partOfJob pkt.job.toNat with
  | none => s
  | some p =>
    if (s.l2Find p (pkt.ia.toNat / 128 * 128) false).isSome then s
    else match s.walk p pkt.ia.toNat true with
      | (s, .ok x) => if x.host then s else s.eccOutcome (s.hbm.chanOf x.pa).1 (s.hbm.chanOf x.pa).2 s.args.ecc
      | (s, _) => s

/-- RD (R41). -/
def execRd (s : State) : Host.Outcome State Fault Refusal := s.packet 0 (fun s p => s.serve s.args.port p)
/-- WR (R41). -/
def execWr (s : State) : Host.Outcome State Fault Refusal := s.packet 1 (fun s p => s.serve s.args.port p)
/-- WRM (R41). -/
def execWrm (s : State) : Host.Outcome State Fault Refusal := s.packet 2 (fun s p => s.serve s.args.port p)
/-- ATOM (R41, R54). -/
def execAtomRequest (s : State) : Host.Outcome State Fault Refusal :=
  s.packet 3 (fun s p => (if s.args.ecc == .clean then s else s.atomEcc p).serve s.args.port p)
/-- PWR (R41). -/
def execPwr (s : State) : Host.Outcome State Fault Refusal := s.packet 5 (fun s p => s.serve s.args.port p)

/-! ### Remote lane instructions (R302) -/

/-- The requests of a remote operation: an index, its lanes, and its packet with the VA of its first byte. -/
structure RemoteReq where
  lanes : List Nat
  va : Nat
  pkt : Packet
  deriving DecidableEq, Repr

/-- Lanes of one rank and one aligned 256 B block go together; each lane of an atomic goes alone. A relative deadline counts from
the tick of the request (R27, R243). -/
def Op.remoteReqs (o : Op) (job tick : Nat) : List RemoteReq :=
  let lanes := laneList o.mask
  let ia := fun (i : Nat) => o.ias.getD i 0
  let rank := fun (i : Nat) => o.ranks.getD i 0
  let groups := if o.kind == .ratom then lanes.map (fun i => [i]) else groupLanes (fun i => rank i * 2 ^ 52 + ia i / 256) lanes
  groups.map (fun ls =>
    let i0 := ls.headD 0
    let lo := ls.foldl (fun a i => min a (ia i)) (ia i0)
    let hi := ls.foldl (fun a i => max a (ia i + 4)) 0
    let word := fun (j i : Nat) => leBytes 4 ((o.data.getD j []).getD i 0).toNat
    let base : Packet := { blankPkt with dst := BitVec.ofNat 12 (rank i0), cls := BitVec.ofNat 2 o.cls, dline := BitVec.ofNat 16 (stampFor tick o.deadline),
                                         job := BitVec.ofNat 12 job, ia := BitVec.ofNat 52 lo, len := BitVec.ofNat 8 (hi - lo - 1) }
    let low := ls.foldl (fun a i => if ia i < ia a then i else a) i0
    let pkt := match o.kind with
      | .rld => { base with kind := 0 }
      | .ratom => { base with kind := 3, aop := BitVec.ofNat 5 o.k, len := BitVec.ofNat 8 (4 * atomReads o.k - 1),
                              payload := (List.range (atomReads o.k)).flatMap (fun j => word j i0) }
      | _ =>
        let byte := fun (a : Nat) => (ls.filter (fun i => decide (ia i ≤ a) && decide (a < ia i + 4))).getLast?.map (fun i => (word 0 i).getD (a - ia i) 0)
        let bs := (List.range (hi - lo)).map (fun n => byte (lo + n))
        let data := bs.map (·.getD 0)
        if bs.all Option.isSome then { base with kind := 1, payload := data }
        else
          let mask := (List.range bs.length).foldl (fun m n => if (bs.getD n none).isSome then m + 2 ^ n else m) 0
          { base with kind := 2, payload := leBytes 32 mask ++ data }
    { lanes := ls, va := o.addrs.getD low 0, pkt := pkt })

/-- Injects the requests of a remote operation, in ascending lane order, once what must be performed before it is and every earlier
operation of the group that injects requests has done so (R44). -/
def State.sendOne (s : State) (c sl seq : Nat) : State :=
  match (s.group c sl).op seq with
  | none => s
  | some o =>
    if !o.kind.isRemote || o.status != .issued then s
    else
      let s := s.performSeq c sl seq
      let g := s.group c sl
      let before := g.ops.takeWhile (fun p => p.seq != seq)
      if before.any (fun p => p.status != .performed && mustPrecede p o) || s.uninjected c sl seq then s
      else
        let rs := o.remoteReqs (s.jobOf g.part) s.pkg.tick
        if s.fab.full rs.length then s
        else
          let s := if o.releases then s.landFrom c o.relScope else s
          -- an `sc` access is a fence first (R197)
          let s := if o.mo == 4 && decide (2 ≤ o.scope) then s.l1Acquire c else s
          let s := s.setGroup c sl (g.setOp { o with status := .sent, reqs := (List.range rs.length).map (fun i => (i, (rs.getD i { lanes := [], va := 0, pkt := blankPkt }).lanes)) })
          (List.range rs.length).foldl (fun s i =>
            match rs[i]? with
            | some r => s.sendReq (.lane c sl seq i) r.va r.pkt
            | none => s) s

/-- Earlier remote operations of the group that are not injected yet, then the operation itself (R44). -/
def State.sendOp (s : State) (c sl seq : Nat) : State :=
  let before := ((s.group c sl).ops.takeWhile (fun p => p.seq != seq)).filter (fun p => p.kind.isRemote && p.status == .issued)
  (before.foldl (fun s p => s.sendOne c sl p.seq) s).sendOne c sl seq

/-- A remote lane instruction: the address checks, the rows (R53), and its requests. -/
def remoteLanes (x : Ictx) (s : State) (kind : OpKind) (k n d dn : Nat) (a : BitVec 7) (b : BitVec 6) (rk : Nat) (data : List (List Word)) : Done :=
  let act := x.active
  if act == 0 then finPlain s
  else
    let lanes := laneList act
    let vas := x.sums 57 a b
    let ranks := (x.g.readV x.u rk).map (fun w => w.toNat % 4096)
    let at_ := lanes.map (fun i => (i, vas.getD i 0))
    match s.xlateAll x.g { rd := kind.reads, wr := kind.writes } n at_ with
    | .error v => .trap 0x08 (d64 v)
    | .ok (ias, so) =>
      match at_.find? (fun v => v.2 % n != 0) with
      | some v => .trap 0x09 (d64 v.2)
      | none =>
        let refused := fun (i : Nat) =>
          let row := s.fab.row (ranks.getD i 0)
          s.fab.drank == 4095 || !rowPeer row || (kind == .ratom && !rowAop row k)
        match lanes.find? refused with
        | some i => .trap 0x12 (d64 (vas.getD i 0 + 3 * 2 ^ 57))
        | none =>
          let o : Op := { seq := 0, path := 3, pc := 0, kind := kind, k := k, d := d, dn := dn, mask := act, addrs := vas, ias := spread 32 ias,
                          ranks := ranks, data := data, so := so.contains true, sors := spreadSor 32 ias so }
          let o := o.withHints x.u.hints
          match s.heldBack x.c x.sl o with
          | some s => .stall s
          | none =>
          if s.fab.full 1 then .stall s
          else match enterOp x s (fun s => s.completeOldest x.c x.sl 3) o with
            | .fin s' l w nx af => .fin (s'.sendOp x.c x.sl s.seq) l w nx af
            | y => y

/-- RLD (R302). -/
def execRld (e : Bool) (d a : BitVec 7) (b : BitVec 6) (k : BitVec 5) (s : State) : Host.Outcome State Fault Refusal :=
  issue { i := .rld e d a b k, e := e, fields := [vDstF d, vSrcF a, sRegF b, { vec := true, code := k.toNat }],
          illegal := badOrder s.ictx.u .rld } s
    (fun x s => remoteLanes x s .rld 0 4 d.toNat 1 a b k.toNat [])
/-- RST (R302). -/
def execRst (e : Bool) (d a : BitVec 7) (b : BitVec 6) (k : BitVec 5) (s : State) : Host.Outcome State Fault Refusal :=
  issue { i := .rst e d a b k, e := e, fields := [vSrcF d, vSrcF a, sRegF b, { vec := true, code := k.toNat }],
          illegal := badOrder s.ictx.u .rst } s
    (fun x s => remoteLanes x s .rst 0 4 0 0 a b k.toNat [x.readV d])
/-- RATOM (R302): the operation of the pending `hint.ao`. Its operand registers and the result's lie at D. -/
def execRatom (e : Bool) (d a : BitVec 7) (b : BitVec 6) (k : BitVec 5) (s : State) : Host.Outcome State Fault Refusal :=
  let ao := s.ictx.u.hints.ao
  let n := ao.getD 0
  let top := max (atomReads n) (atomWrites n)
  issue { i := .ratom e d a b k, e := e,
          fields := [(vDstF d).many top, vSrcF a, sRegF b, { vec := true, code := k.toNat }],
          illegal := ao.isNone || !atomGroup n d } s
    (fun x s => remoteLanes x s .ratom n (atomBytes n) d.toNat (atomWrites n) a b k.toNat (x.dataRegs d.toNat (atomReads n)))

/-! ### Responses (R42) -/

/-- What a response's status does to the lanes of a request: registers and a report at `waitc 3`. -/
def Op.replied (o : Op) (s : State) (lanes : List Nat) (va stat : Nat) (ia0 : Nat) (data : List Byte) : State × List RegWrite × List Report :=
  let dst := fun (vals : Nat → List Word) (poison : Bool) => laneWrites o.d o.dn (lanes.map (fun i => (i, vals i))) 0 poison
  let trx := va + stat * 2 ^ 57
  if stat = 0 then
    if o.dn = 0 then (s, [], [])
    else
      let val := fun (i : Nat) => if o.kind == .ratom then (List.range o.dn).map (fun j => w32 (recField data (4 * j) 4))
        else [w32 (recField data (o.ias.getD i 0 - ia0) 4)]
      (s, dst val false, [])
  else
    let cause := if stat = 2 then 0x11 else if stat = 3 then 0x12 else 0x13
    if o.dn = 0 then (s, [], [o.report cause trx])
    else
      let (s, v) := s.draw
      (s, dst (fun i => (List.range o.dn).map (fun j => w32 (v / 2 ^ (32 * (2 * i + j))))) (stat == 2), [o.report cause trx])

/-- A lane request's response arrives: its results wait in the operation, which is performed when none is outstanding. -/
def State.laneReply (s : State) (c sl seq i : Nat) (o : Outstanding) (stat : Nat) (data : List Byte) : State :=
  match (s.group c sl).op seq with
  | none => s
  | some op =>
    match op.reqs.find? (fun r => r.1 == i) with
    | none => s
    | some r =>
      let (s, out, reps) := op.replied s r.2 o.va stat o.pkt.ia.toNat data
      let left := op.reqs.filter (fun q => q.1 != i)
      let st : OpStatus := if left.isEmpty then .performed else .sent
      let s := if left.isEmpty && op.acquires && decide (2 ≤ op.scope) then s.l1Acquire c else s
      let g := s.group c sl
      -- one trap per failed request, in the order of the requests (R42)
      s.setGroup c sl (g.setOp { op with reqs := left, status := st, out := op.out ++ out, reports := op.reports ++ reps.map (fun q => { q with lane := i }) })

end Sys2Proof.Machine
end

