-- ==== Sys2Proof/Machine/Tile.lean ====
section
/-! DEFINITION. The matrix array and the tile engine (R286 to R289, R313 to R320): what each command checks, its local ranges, and its
effect. -/

namespace Sys2Proof.Machine

/-! ### Command words and values -/

def Cmd.major (m : Cmd) : Nat := nbits m.word.toNat 25 6
/-- The fn field: [24:20] in TL words, [2:0] in major 0x1F, k in [4:0] for copies. -/
def Cmd.fn (m : Cmd) : Nat := if m.major = 0x1F then nbits m.word.toNat 0 3 else if m.major = 0x30 then nbits m.word.toNat 0 5 else nbits m.word.toNat 20 5
def Cmd.zf (m : Cmd) : Nat := nbits m.word.toNat 0 6
def Cmd.xn (m : Cmd) : Nat := (m.x.getD 0).toNat
def Cmd.yn (m : Cmd) : Nat := (m.y.getD 0).toNat
def Cmd.zn (m : Cmd) : Nat := (m.z.getD 0).toNat

/-- Whether every bit of a value outside a mask is 0. -/
def onlyBits (v mask : Nat) : Bool := Nat.land v (2 ^ 64 - 1 - mask) == 0
def fieldMask (lo len : Nat) : Nat := (2 ^ len - 1) * 2 ^ lo

/-- A range of local bytes: its start and length. -/
abbrev Span := Nat × Nat
def Span.overlaps (a b : Span) : Bool := decide (0 < a.2) && decide (0 < b.2) && decide (a.1 < b.1 + b.2) && decide (b.1 < a.1 + a.2)
/-- The lowest local address, over some ranges, outside a window (R313). -/
def outside (size : Nat) (rs : List Span) : Option Nat :=
  (rs.filter (fun r => decide (0 < r.2) && decide (size < r.1 + r.2))).foldl (fun a r =>
    let x := max r.1 size
    match a with | none => some x | some y => some (min x y)) none

/-- How a command's execution ends: done, faulted at an address, parked on a record, held by a write-protected page, or waiting
for responses. -/
inductive CmdRes where
  | done
  | fault (addr : Nat)
  | park (rec : Nat)
  | held
  | sent
  deriving DecidableEq, Repr

/-- Bytes of n elements of a format. -/
def fmtBytes (fmt n : Nat) : Nat := n * fmtBits fmt / 8

/-- Element i of packed bytes in a format (R226). -/
def elemAt (fmt : Nat) (bs : List Byte) (i : Nat) : Nat :=
  let w := fmtBits fmt
  if w = 4 then nbits (recField bs (i / 2) 1) (4 * (i % 2)) 4 else recField bs (i * (w / 8)) (w / 8)
/-- Packs element codes of a format (R226). -/
def packElems (fmt : Nat) : List Nat → List Byte
  | [] => []
  | [a] => if fmtBits fmt = 4 then [BitVec.ofNat 8 (a % 16)] else leBytes (fmtBits fmt / 8) a
  | a :: b :: t => if fmtBits fmt = 4 then BitVec.ofNat 8 (a % 16 + b % 16 * 16) :: packElems fmt t
      else leBytes (fmtBits fmt / 8) a ++ leBytes (fmtBits fmt / 8) b ++ packElems fmt t

/-- The swizzle of a local offset (R179). -/
def swizzle (swc sws sww a : Nat) : Nat := Nat.xor a (a / 2 ^ sws % 2 ^ sww * 2 ^ (swc + 4))
/-- R179's bounds on swizzle fields. -/
def swizzleOk (swc sws sww : Nat) : Bool := sww == 0 || (decide (swc + 4 + sww ≤ sws) && decide (sws + sww ≤ 19))

/-- Rounded results in a format: their codes, and their events counted (R223, R234). -/
def countR (fmt : Nat) (rs : List FpR) (g : Group) : Group :=
  match floatFmt fmt with
  | some f => g.countEvents f.code (rs.map (·.2))
  | none => g

/-! ### Weight loads (R317) -/

/-- Rows, source bytes by area, and whether the source needs a partner flag. -/
def wblRows (fn p : Nat) : Nat :=
  match fn with
  | 0 => 128 | 1 => 256 | 2 => 256 | 3 => 256 | 4 => 512 | 5 => 512 | _ => if p = 1 then 256 else 128
def wblReads (m : Cmd) : List Span :=
  let k := wblRows m.fn (m.zf % 2)
  let a := nbits m.xn 0 19
  if m.fn < 6 then [(a, 16384)]
  else if m.fn = 6 then [(a, 32 * k), (nbits m.xn 32 19, k)]
  else [(a, (nbits m.yn 5 5 + 2) * 8 * k)]
/-- The fields of `wbl`; `slots` is how many weight slots the core has. -/
def wblFields (m : Cmd) (slots : Nat) : Bool :=
  let pd := nbits m.yn 5 5
  onlyBits m.xn (fieldMask 0 19 + (if m.fn = 6 then fieldMask 32 19 else 0)) && nbits m.xn 0 19 % 16 == 0 &&
  onlyBits m.yn (fieldMask 0 5 + (if m.fn = 7 then fieldMask 5 5 else 0) + (if m.fn = 6 then fieldMask 32 32 else 0)) &&
  decide (nbits m.yn 0 5 < slots) && (m.fn != 7 || (decide (1 ≤ pd) && decide (pd ≤ 24)))

/-- The exact value of an element of a planed block read at depth n (R164). -/
def planeValue (h s : Nat) (plane : Nat → Nat) (n i : Nat) : Num :=
  let f := (List.range n).foldl (fun a k => if nbit (plane (k + 1)) i then a + 2 ^ (23 - k) else a) 0
  .fin (nbit s i) f (((h % 256 : Nat) : Int) - 126 - 24)

/-- The tag of a slot after a load. -/
def wblTag (fn p : Nat) : WTag :=
  match fn with
  | 0 => .b16 | 1 => .f8e4 | 2 => .f8e5 | 3 => .i8 | 4 => .i4 | 5 => .fp4 | _ => if p = 1 then .cf8 else .cbf

/-- The format code of a raw source. -/
def wblFmt (fn : Nat) : Nat := match fn with | 0 => 1 | 1 => 3 | 2 => 4 | 3 => 8 | 4 => 9 | _ => 5

/-- The K × 64 codes of a weight load, row by row, with the events of their roundings in the partner format. -/
def wblCodes (k : Core) (g : Group) (m : Cmd) : List Nat × List FpR × Nat :=
  let p := m.zf % 2
  let rows := wblRows m.fn p
  let a := nbits m.xn 0 19
  let partner := if p = 1 then f8e4 else bf16
  if m.fn < 6 then
    let bs := k.lread g a 16384
    ((List.range (64 * rows)).map (elemAt (wblFmt m.fn) bs), [], 0)
  else if m.fn = 6 then
    let codes := k.lread g a (32 * rows)
    let scales := k.lread g (nbits m.xn 32 19) rows
    let s := fp32.readPlain (nbits m.yn 32 32)
    let rs := (List.range (64 * rows)).map (fun i => q4nElement partner (elemAt 11 codes i) (recField scales (i / 64) 1) s)
    (rs.map (·.1), rs, partner.code)
  else
    let pd := nbits m.yn 5 5
    let word := fun (area b : Nat) => leNat (k.lread g (a + area * 8 * rows + 4 * b) 4)
    let rs := (List.range (64 * rows)).map (fun i =>
      let b := 2 * (i / 64) + i % 64 / 32
      let h := word 0 b
      partner.round 0 (planeValue h (word 1 b) (fun j => word (j + 1) b) (min pd (hV h)) (i % 32)))
    (rs.map (·.1), rs, partner.code)

/-! ### Matrix multiply (R235, R318) -/

/-- The format of A, of the elements of B as codes, K, chunk and accumulator kind of a fn. -/
def mmaFmt (fn : Nat) : Nat × Nat × Nat × Nat × AccKind :=
  match fn with
  | 0 => (1, 1, 128, 16, .fp32)
  | 1 => (2, 2, 128, 16, .fp32)
  | 2 => (3, 3, 256, 32, .fp32)
  | 3 => (4, 4, 256, 32, .fp32)
  | 4 => (3, 4, 256, 32, .fp32)
  | 5 => (8, 8, 256, 32, .i32)
  | 6 => (9, 9, 512, 64, .i32)
  | 7 => (5, 5, 512, 64, .fp32)
  | 8 => (1, 1, 128, 16, .fp32)
  | _ => (3, 3, 256, 32, .fp32)

/-- The slot tags a fn accepts. -/
def mmaAccepts (fn : Nat) (t : WTag) : Bool :=
  match fn with
  | 0 => t == .b16 || t == .cbf
  | 1 => t == .b16
  | 2 => t == .f8e4 || t == .cf8
  | 3 => t == .f8e5
  | 4 => t == .f8e5
  | 5 => t == .i8
  | 6 => t == .i4
  | 7 => t == .fp4
  | 8 => t == .cbf
  | _ => t == .cf8

def mmaFields (m : Cmd) (slots : Nat) : Bool :=
  onlyBits m.xn (fieldMask 0 19 + fieldMask 32 11) && nbits m.xn 0 19 % 256 == 0 && onlyBits m.yn (fieldMask 0 5) &&
  decide (nbits m.yn 0 5 < slots) && swizzleOk (nbits m.xn 32 2) (nbits m.xn 34 6) (nbits m.xn 40 3)
def mmaReads (m : Cmd) : List Span := if nbit m.zf 3 || nbit m.zf 4 then [] else [(nbits m.xn 0 19, 16384)]

/-- The 64 rows of element codes of the A tile in local memory. -/
def mmaTile (k : Core) (g : Group) (m : Cmd) (fmt kk : Nat) : List (List Nat) :=
  let a := nbits m.xn 0 19
  let sw := swizzle (nbits m.xn 32 2) (nbits m.xn 34 6) (nbits m.xn 40 3)
  (List.range 64).map (fun i =>
    let row := (List.range 256).map (fun b => (k.lread g (a + sw (256 * i + b)) 1).headD 0)
    (List.range kk).map (elemAt fmt row))

/-- One element of a floating-point product: the chunks in increasing order, each rounded once, and their events. -/
def mmaElem (fa fb xv chunk : Nat) (start : Nat) (arow bcol : List Nat) : FpR × List Ev :=
  let n := arow.length / chunk
  (List.range n).foldl (fun (acc : FpR × List Ev) c =>
    let ps := (List.range chunk).map (fun j =>
      (readFmt fa xv (arow.getD (c * chunk + j) 0)).mul (readFmt fb xv (bcol.getD (c * chunk + j) 0)))
    let a := fp32.readPlain acc.1.1
    let r := chunkSum (a :: ps.map (·.1)) (a.isNan || ps.any (fun p => p.1.isNan && !p.2))
    (r, acc.2 ++ [r.2])) ((start, 0), [])

/-- One element of an integer product, modulo 2^32 (R231). -/
def mmaInt (fa start : Nat) (arow bcol : List Nat) : Nat :=
  let t := (arow.zip bcol).foldl (fun (a : Int) p => a + readInt fa p.1 * readInt fa p.2) (start : Int)
  (t % (2 ^ 32 : Nat)).toNat

/-- `mma`: checks of its operands, and the new matrix state (R318). -/
def runMma (k : Core) (g : Group) (m : Cmd) : Option (Matrix × List Ev) :=
  let mx := k.matrix
  let (fa, fb, kk, chunk, kind) := mmaFmt m.fn
  let acc := m.zf % 4
  let (tag, codes) := mget (.empty, []) mx.slots (nbits m.yn 0 5)
  let z := nbit m.zf
  let (akind, avals) := mget (.zero, []) mx.acc acc
  let a : Option Latched :=
    if z 4 then (match mx.latA with | some l => if l.fmt = fa then some l else none | none => none)
    else if z 3 then some { fmt := fa, rows := (List.range 64).map (fun i => (List.range 128).map (fun j => mget 0 mx.bypass (128 * i + j))) }
    else some { fmt := fa, rows := mmaTile k g m fa kk }
  let b : Option Latched :=
    if z 5 then (match mx.latB with | some l => if l.fmt = fb then some l else none | none => none)
    else if mmaAccepts m.fn tag then
      some { fmt := fb, rows := (List.range 64).map (fun j => (List.range kk).map (fun r => codes.getD (64 * r + j) 0)) }
    else none
  let bad := (z 3 && (z 4 || !(m.fn == 0 || m.fn == 8))) || (!z 2 && akind != .zero && akind != kind) || !mmaAccepts m.fn tag
  if bad then none
  else match a, b with
    | some a, some b =>
      let start := fun (i : Nat) => if z 2 || akind == .zero then 0 else (avals.getD i 0).toNat
      let cells := (List.range 4096).map (fun i =>
        let ar := a.rows.getD (i / 64) []
        let bc := b.rows.getD (i % 64) []
        if kind == .i32 then ((mmaInt fa (start i) ar bc, (0 : Ev)), ([] : List Ev)) else mmaElem fa fb m.xv chunk (start i) ar bc)
      some ({ mx with acc := mput mx.acc acc (kind, cells.map (fun c => w32 c.1.1)), latA := some a, latB := some b }, cells.flatMap (·.2))
    | _, _ => none

/-! ### Drains (R319) -/

/-- Bytes of a drained area. -/
def mdrSize (fn pd : Nat) : Nat :=
  match fn with
  | 0 => 16384 | 1 => 8192 | 2 => 8192 | 3 => 8192 | 4 => 4096 | 5 => 16384 | 6 => 4096 | 7 => 0 | _ => 512 * (pd + 2)
def mdrFmt (fn : Nat) : Nat := match fn with | 0 => 0 | 1 => 1 | 2 => 1 | 3 => 2 | 4 => 3 | 5 => 6 | 6 => 8 | 7 => 1 | _ => 0
def mdrPd (m : Cmd) : Nat := nbits m.yn 0 5
def mdrWrites (m : Cmd) : List Span := [(nbits m.xn 0 19, mdrSize m.fn (mdrPd m))]
/-- The named fields of `mdr`; the other bits of X and Y are ignored (R361). -/
def mdrFields (m : Cmd) : Bool :=
  (if m.fn = 7 then m.xn == 0 else nbits m.xn 0 19 % 16 == 0) &&
  (nbit m.zf 2 || nbits m.yn 32 32 == 0) &&
  (if m.fn = 8 then decide (1 ≤ mdrPd m) && decide (mdrPd m ≤ 24) else mdrPd m == 0)

/-- The exact elements a drain takes, scaled where asked; whether the scaling made a NaN. -/
def drainValues (mx : Matrix) (m : Cmd) : List (Num × Bool) :=
  let (kind, vs) := mget (.zero, []) mx.acc (m.zf % 4)
  let s := fp32.readPlain (nbits m.yn 32 32)
  (List.range 4096).map (fun i =>
    let x : Num := match kind with
      | .zero => .fin false 0 0
      | .fp32 => fp32.readPlain (vs.getD i 0).toNat
      | .i32 => .ofInt (vs.getD i 0).toInt
    -- a ZERO accumulator drains as +0, whatever the scale
    if nbit m.zf 2 && kind != .zero then x.mul s else (x, false))

/-- A value that some operands give, rounded into a format, an invalid operation counted (R223). -/
def toFmt (fmt mode : Nat) (v : Num × Bool) (ops : List Num) : FpR :=
  match floatFmt fmt with
  | some f => f.finish mode v ops
  | none => convertTo fmt mode 0 false v.1

/-- What a drain writes: bytes at its destination, or the bypass buffer; the roundings whose events count. -/
def runMdr (k : Core) (m : Cmd) : Matrix × Option (List Byte) × List FpR :=
  let vs := drainValues k.matrix m
  let mx := k.matrix
  let cleared : Matrix := if nbit m.zf 3 then { mx with acc := mput mx.acc (m.zf % 4) (.zero, []) } else mx
  let rs := List.zipWith (fun v (i : Nat) => toFmt (mdrFmt m.fn) (if m.fn = 2 then 1 else 0) v [.ofInt i]) vs (List.range 4096)
  if m.fn = 7 then
    let h := if nbit m.zf 4 then 1 else 0
    ({ cleared with bypass := (List.range 4096).foldl (fun b i => mput b (128 * (i / 64) + 64 * h + i % 64) ((rs.getD i (0, 0)).1)) cleared.bypass }, none, rs)
  else if m.fn = 8 then
    let pd := mdrPd m
    let blocks := (List.range 128).map (fun b => planeWords pd 0 0xFFFFFFFF ((List.range 32).map (fun i =>
      w32 (rs.getD (64 * (b / 2) + 32 * (b % 2) + i) (0, 0)).1)))
    (cleared, some ((List.range (pd + 2)).flatMap (fun w => blocks.flatMap (fun bl => leBytes 4 (bl.getD w 0).toNat))), rs)
  else (cleared, some (packElems (mdrFmt m.fn) (rs.map (·.1))), rs)

/-! ### Tile operations (R320) -/

def tileD (m : Cmd) : Nat := nbits m.xn 0 19
def tileDf (m : Cmd) : Nat := nbits m.xn 20 4
def tileMode (m : Cmd) : Nat := nbits m.xn 24 3
def tileA (m : Cmd) : Nat := nbits m.yn 0 19
def tileSf (m : Cmd) : Nat := nbits m.yn 20 4
def tileB (m : Cmd) : Nat := nbits m.yn 32 19
/-- The accumulator form of `tzero` (R320). -/
def Cmd.accZero (m : Cmd) : Bool := m.major == 0x35 && m.fn == 2 && nbit m.zf 2

/-- The fields of a tile command (R320): one that the operation does not use is 0; bits of X and Y that are in no field are not looked at. -/
def tileFields (m : Cmd) : Bool :=
  let unused := fun (v : Nat) (lo w : Nat) => nbits v lo w == 0
  let floatOk := fun (f : Nat) => decide (f ≤ 4)
  let cvtOk := fun (f : Nat) => decide (f ≤ 4) || f == 6 || f == 7 || f == 8
  if m.accZero then m.xn == 0 && m.yn == 0
  else if m.fn = 2 then unused m.xn 24 3 && unused m.xn 32 32 && m.yn == 0 && tileD m % 16 == 0 && decide (tileDf m ≤ 11)
  else
    let raw := m.fn == 0 || m.fn == 5
    (!raw || unused m.xn 24 3) && (m.fn == 1 || unused m.xn 32 32) && (m.fn == 4 || unused m.yn 32 19) &&
    tileD m % 16 == 0 && tileA m % 16 == 0 && tileB m % 16 == 0 && decide (tileMode m ≤ 4) &&
    (match m.fn with
     | 0 => tileSf m == tileDf m && decide (tileDf m ≤ 11)
     | 5 => tileSf m == tileDf m && decide (tileDf m ≤ 11)
     | 3 => cvtOk (tileSf m) && cvtOk (tileDf m)
     | _ => floatOk (tileSf m) && floatOk (tileDf m))

def tileWrites (m : Cmd) : List Span := if m.accZero then [] else [(tileD m, fmtBytes (tileDf m) 4096)]
def tileReads (m : Cmd) : List Span :=
  if m.fn = 2 then [] else (tileA m, fmtBytes (tileSf m) 4096) :: (if m.fn = 4 then [(tileB m, fmtBytes (tileSf m) 4096)] else [])

/-- The destination tile's bytes, and the roundings whose events count. -/
def runTile (k : Core) (g : Group) (m : Cmd) : List Byte × List FpR :=
  let sf := tileSf m
  let df := tileDf m
  let a := k.lread g (tileA m) (fmtBytes sf 4096)
  let el := elemAt sf a
  match m.fn with
  | 0 => (packElems df ((List.range 4096).map (fun i => el (64 * (i % 64) + i / 64))), [])
  | 1 =>
    let s := fp32.readPlain (nbits m.xn 32 32)
    let rs := (List.range 4096).map (fun i => toFmt df (tileMode m) ((readFmt sf 0 (el i)).mul s) [readFmt sf 0 (el i), s])
    (packElems df (rs.map (·.1)), rs)
  | 2 => (List.replicate (fmtBytes df 4096) 0, [])
  | 3 =>
    let rs := (List.range 4096).map (fun i => convertTo df (tileMode m) 0 false (readFmt sf 0 (el i)))
    (packElems df (rs.map (·.1)), rs)
  | 4 =>
    let b := k.lread g (tileB m) (fmtBytes sf 4096)
    let rs := (List.range 4096).map (fun i =>
      let x := readFmt sf 0 (el i)
      let y := readFmt sf 0 (elemAt sf b i)
      toFmt df (tileMode m) (x.add (tileMode m) y) [x, y])
    (packElems df (rs.map (·.1)), rs)
  | _ => (a, [])

/-! ### Sweeps (R286 to R289) -/

/-- An iterator's fields. -/
def itWord (m : Cmd) (n : Nat) : Nat := (m.iter.getD n 0).toNat
def itExt (m : Cmd) (d : Nat) : Nat := nbits (itWord m 0) (16 * d) 16
/-- The signed byte stride of dimension d (1 to 3) of operand word w (1 D, 2 A, 3 B, 4 C). -/
def itStride (m : Cmd) (w d : Nat) : Int := (BitVec.ofNat 16 (nbits (itWord m w) (16 * (d - 1)) 16)).toInt
def itPos (m : Cmd) : Nat := nbits (itWord m 5) 0 32
def itTotal (m : Cmd) : Nat := itExt m 0 * itExt m 1 * itExt m 2 * itExt m 3
def sweepDf (m : Cmd) : Nat := nbits m.zn 4 4
def sweepSf (m : Cmd) : Nat := nbits m.zn 8 4
def sweepBsc (m : Cmd) : Bool := nbit m.zn 15
/-- Operands of a sweep: iterator word, base, element bytes. -/
def sweepOperand (m : Cmd) (w : Nat) : Nat × Nat :=
  match w with
  | 1 => (nbits m.xn 0 19, fmtBits (sweepDf m) / 8)
  | 2 => (nbits m.yn 0 19, fmtBits (sweepSf m) / 8)
  | 3 => (nbits m.yn 32 19, fmtBits (sweepSf m) / 8)
  | _ => (nbits m.xn 32 19, fmtBits (sweepSf m) / 8)
/-- The source operands a sweep reads. -/
def sweepSources (m : Cmd) : List Nat :=
  2 :: ((if m.fn = 4 || m.fn = 5 || sweepBsc m then [] else [3]) ++ (if m.fn = 2 then [4] else []))

def sweepFields (m : Cmd) : Bool :=
  let ok := fun (f : Nat) => if m.fn < 4 then decide (f ≤ 4) else decide (f ≤ 4) || f == 6 || f == 7 || f == 8
  let oneSource := m.fn == 4 || m.fn == 5
  onlyBits m.xn (fieldMask 0 19 + (if m.fn = 2 then fieldMask 32 19 else 0)) &&
  onlyBits m.yn (fieldMask 0 19 + (if oneSource || sweepBsc m then 0 else fieldMask 32 19)) &&
  onlyBits m.zn (fieldMask 0 2 + fieldMask 4 11 + fieldMask 15 1 + (if sweepBsc m then fieldMask 32 32 else 0)) &&
  decide (nbits m.zn 12 3 ≤ 4) && ok (sweepDf m) && ok (sweepSf m) && (m.fn != 5 || sweepDf m == sweepSf m) &&
  (List.range 4).all (fun d => decide (1 ≤ itExt m d)) && (List.range 4).all (fun w => nbits (itWord m (w + 1)) 48 16 == 0) &&
  nbits (itWord m 5) 32 32 == 0 && itWord m 6 == 0 && itWord m 7 == 0 && decide (itTotal m ≤ 2 ^ 32)

/-- The address of element n of an operand. -/
def sweepAddr (m : Cmd) (w n : Nat) : Int :=
  let (base, size) := sweepOperand m w
  let i0 := n % itExt m 0
  let r1 := n / itExt m 0
  let r2 := r1 / itExt m 1
  (base : Int) + (i0 * size : Nat) + (r1 % itExt m 1 : Nat) * itStride m w 1 + (r2 % itExt m 2 : Nat) * itStride m w 2 +
    (r2 / itExt m 2 : Nat) * itStride m w 3

/-- The interval that bounds an operand's elements from POS to T − 1 (R289): elements with the leading digits of POS fixed. -/
def sweepSpan (m : Cmd) (w : Nat) : Span :=
  let (base, size) := sweepOperand m w
  let pos := itPos m
  let e := itExt m
  if itTotal m ≤ pos then (0, 0)
  else
    let d0 := pos % e 0
    let d1 := pos / e 0 % e 1
    let d2 := pos / (e 0 * e 1) % e 2
    let d3 := pos / (e 0 * e 1 * e 2)
    let st := fun (d : Nat) => if d = 0 then (size : Int) else itStride m w d
    -- boxes of (low, high) per dimension
    let boxes : List (List (Nat × Nat)) := [
      [(0, e 0 - 1), (0, e 1 - 1), (0, e 2 - 1), (d3 + 1, e 3 - 1)],
      [(0, e 0 - 1), (0, e 1 - 1), (d2 + 1, e 2 - 1), (d3, d3)],
      [(0, e 0 - 1), (d1 + 1, e 1 - 1), (d2, d2), (d3, d3)],
      [(d0, e 0 - 1), (d1, d1), (d2, d2), (d3, d3)]].filter (fun b => b.all (fun r => decide (r.1 ≤ r.2)))
    let ends := boxes.map (fun b => (List.range 4).foldl (fun (acc : Int × Int) d =>
      let r := b.getD d (0, 0)
      let x := (r.1 : Int) * st d
      let y := (r.2 : Int) * st d
      (acc.1 + min x y, acc.2 + max x y)) ((base : Int), (base : Int)))
    let lo := ends.foldl (fun a x => min a x.1) ((ends.headD (0, 0)).1)
    let hi := ends.foldl (fun a x => max a x.2) ((ends.headD (0, 0)).2)
    if hi < 0 then (0, 0) else ((max lo 0).toNat, (hi - max lo 0).toNat + size)
def sweepWrites (m : Cmd) : List Span := [sweepSpan m 1]
def sweepReads (m : Cmd) : List Span := (sweepSources m).map (sweepSpan m)

/-- One element of a sweep. -/
def sweepElem (m : Cmd) (src : Nat → Nat) : FpR :=
  let df := sweepDf m
  let sf := sweepSf m
  let mode := nbits m.zn 12 3
  let a := readFmt sf 0 (src 2)
  let b := if sweepBsc m then fp32.readPlain (nbits m.zn 32 32) else readFmt sf 0 (src 3)
  match m.fn with
  | 0 => toFmt df mode (a.add mode b) [a, b]
  | 1 => toFmt df mode (a.mul b) [a, b]
  | 2 => let c := readFmt sf 0 (src 4); toFmt df mode (a.fma mode b c) [a, b, c]
  | 3 =>
    let r : Num := if a.isNan then b else if b.isNan then a
      else if a.cmp b == .eq then (if a.isNeg then b else a) else if a.lt b then b else a
    toFmt df mode (r, false) [a, b]
  | 4 => convertTo df mode 0 false a
  | _ => (src 2, 0)

/-- A sweep from an index on: it stops at the first element that faults, with its index and address. -/
def sweepFrom (g : Group) (m : Cmd) : Nat → Nat → Core → List FpR → Core × List FpR × Option (Nat × Nat)
  | 0, _, k, rs => (k, rs, none)
  | fuel + 1, n, k, rs =>
    let ops := 1 :: sweepSources m
    let bad := ops.findSome? (fun w =>
      let a := sweepAddr m w n
      let size := (sweepOperand m w).2
      if a < 0 then some (a % (2 ^ 57 : Nat)).toNat
      else if a.toNat % size != 0 || decide (g.localSize < a.toNat + size) then some a.toNat else none)
    match bad with
    | some a => (k, rs, some (n, a))
    | none =>
      let r := sweepElem m (fun w => leNat (k.lread g (sweepAddr m w n).toNat (sweepOperand m w).2))
      let k := k.lwrite g (sweepAddr m 1 n).toNat (leBytes (sweepOperand m 1).2 r.1)
      sweepFrom g m fuel (n + 1) k (if m.fn = 5 then rs else rs ++ [r])

end Sys2Proof.Machine
end

