-- ==== Sys2Proof/Machine/Select.lean ====
section
/-! DEFINITION. The plane-dot unit and the selection unit (R236, R237, R321 to R329): checks, local ranges and effects. -/

namespace Sys2Proof.Machine

/-! ### Plane-dot (R236, R321 to R323) -/

def pqryFields (m : Cmd) : Bool := onlyBits m.xn (fieldMask 0 19) && onlyBits m.yn (fieldMask 0 8 + fieldMask 32 32)
def pqryReads (m : Cmd) : List Span := [(nbits m.xn 0 19, nbits m.yn 0 8 + 1)]

def pdN (m : Cmd) : Nat := nbits m.yn 19 13
def pdStride (m : Cmd) : Nat := nbits m.yn 32 19
def pdDepth (m : Cmd) : Nat := nbits m.yn 51 5
def pdotFields (m : Cmd) : Bool :=
  (m.fn != 3 || nbits m.xn 32 19 == 0) && onlyBits m.yn (fieldMask 0 56) &&
  nbits m.xn 0 19 % 4 == 0 && nbits m.xn 32 19 % 4 == 0 && nbits m.yn 0 19 % 4 == 0 && pdStride m % 4 == 0 &&
  decide (1 ≤ pdDepth m) && decide (pdDepth m ≤ 24)
def pdotWrites (m : Cmd) : List Span :=
  if pdN m = 0 then [] else (nbits m.xn 0 19, 128 * pdN m) :: (if m.fn = 1 then [(nbits m.xn 32 19, 128 * pdN m)] else [])
/-- The areas read, for a slot of c channels. -/
def pdotReads (m : Cmd) (c : Nat) : List Span :=
  if pdN m = 0 then [] else
    (nbits m.yn 0 19, (pdN m - 1) * pdStride m + 4 * (pdDepth m + 2) * c) :: (if m.fn = 2 then [(nbits m.xn 32 19, 4 * pdN m)] else [])

/-- A channel as the unit reads it: weight, E, V, sign bits and planes. -/
structure Chan where
  w : Int
  e : Nat
  v : Nat
  s : Nat
  planes : List Nat
  deriving DecidableEq, Repr

/-- The score and bound of token t (R236). -/
def dotToken (q : Num) (d : Nat) (cs : List Chan) (t : Nat) : FpR × FpR :=
  let emax := cs.foldl (fun a c => max a c.e) 0
  let per := cs.map (fun c =>
    let h := min d c.v
    let f := (List.range h).foldl (fun a k => if nbit (c.planes.getD k 0) t then a + 2 ^ (23 - k) else a) 0
    let sh : Nat := 2 ^ (1 + emax - c.e)
    let mag : Nat := c.w.natAbs * f
    let tr : Nat := mag / sh
    let neg := nbit c.s t != decide (c.w < 0)
    let beta := c.w.natAbs * (2 ^ (24 - h) - 2 ^ (24 - c.v))
    ((if neg then -(tr : Int) else (tr : Int)), (if mag % sh = 0 then 0 else 1), ceilDiv beta sh))
  let a := per.foldl (fun s p => s + p.1) (0 : Int)
  let b := per.foldl (fun s p => s + p.2.2 + p.2.1) 0
  let ex : Int := ((emax : Nat) : Int) - 126 - 23
  (fp32.finish 0 (q.mul (.fin (decide (a < 0)) a.natAbs ex)), fp32.finish 2 ((match q with | .fin _ m e => Num.fin false m e | .inf _ => .inf false | .nan => .nan).mul (.fin false b ex)))

/-- The bound that `pbnd` forms from the H words alone (R323). -/
def bndToken (q : Num) (d : Nat) (cs : List Chan) : FpR :=
  let emax := cs.foldl (fun a c => max a c.e) 0
  let b := cs.foldl (fun s c =>
    let h := min d c.v
    let sh : Nat := 2 ^ (1 + emax - c.e)
    s + ceilDiv (c.w.natAbs * (2 ^ (24 - h) - 2 ^ (24 - c.v))) sh + (if c.w != 0 && decide (23 < h + emax - c.e) then 1 else 0)) 0
  fp32.finish 2 ((match q with | .fin _ m e => Num.fin false m e | .inf _ => .inf false | .nan => .nan).mul (.fin false b (((emax : Nat) : Int) - 126 - 23)))

/-- The channels of a page at a local address. -/
def pageChans (k : Core) (g : Group) (q : Query) (d p : Nat) : List Chan :=
  let c := q.weights.length
  (List.range c).map (fun i =>
    let word := fun (j : Nat) => leNat (k.lread g (p + 4 * (j * c + i)) 4)
    let h := word 0
    { w := q.weights.getD i 0, e := h % 256, v := hV h, s := word 1, planes := (List.range (min d (hV h))).map (fun j => word (j + 2)) })

/-- `pdot`, `pdotr` and `pbnd` over their pages: writes to make, and roundings whose events count. -/
def runPdot (k : Core) (g : Group) (m : Cmd) (qy : Query) : Core × List FpR :=
  let q := fp32.readPlain qy.q
  let d := pdDepth m
  (List.range (pdN m)).foldl (fun (acc : Core × List FpR) p =>
    let bits := if m.fn = 2 then leNat (acc.1.lread g (nbits m.xn 32 19 + 4 * p) 4) else 2 ^ 32 - 1
    if bits = 0 then acc
    else
      let cs := pageChans acc.1 g qy d (nbits m.yn 0 19 + p * pdStride m)
      (List.range 32).foldl (fun (acc : Core × List FpR) t =>
        let r := 4 * (32 * p + t)
        if m.fn = 3 then
          let b := bndToken q d cs
          (acc.1.lwrite g (nbits m.xn 0 19 + r) (leBytes 4 b.1), acc.2 ++ [b])
        else if !nbit bits t then acc
        else
          let (sc, bd) := dotToken q d cs t
          let k := acc.1.lwrite g (nbits m.xn 0 19 + r) (leBytes 4 sc.1)
          if m.fn = 1 then (k.lwrite g (nbits m.xn 32 19 + r) (leBytes 4 bd.1), acc.2 ++ [sc, bd]) else (k, acc.2 ++ [sc])) acc) (k, [])

/-! ### Selection (R237, R324 to R329) -/

/-- An entry of a list (R324). -/
structure SEntry where
  value : Nat
  index : Nat
  bound : Nat
  depth : Nat
  deriving DecidableEq, Repr
/-- A list with its header. -/
structure SList where
  kind : Nat
  sel : Nat
  out : Nat
  maxv : Nat
  entries : List SEntry
  deriving DecidableEq, Repr

/-- Whether an entry ranks before another (R324). -/
def SEntry.before (a b : SEntry) : Bool :=
  let x := fp32.readPlain a.value
  let y := fp32.readPlain b.value
  if x.isNan then y.isNan && decide (a.index < b.index)
  else if y.isNan then true
  else if x.cmp y == .eq then decide (a.index < b.index) else y.lt x

/-- A sum in index order from a start: each value added with RNE, events kept. -/
def sumFrom (start : Nat) (vs : List Nat) : FpR × List FpR :=
  vs.foldl (fun (acc : FpR × List FpR) v =>
    let r := fp32.addR 0 (fp32.readPlain acc.1.1) (fp32.readPlain v)
    (r, acc.2 ++ [r])) ((start, 0), [])

/-- e_m(x) (R324): `exp2` in RNE of RNE(RNE(x − m) × log2 e). -/
def expTerm (m x : Nat) : Nat :=
  let d := fp32.addR 0 (fp32.readPlain x) (fp32.readPlain m).neg
  (sfuExp2 0 (fp32.mulR 0 (fp32.readPlain d.1) (fp32.readPlain 0x3FB8AA3B)).1).1

/-- The largest non-NaN value of a row, or the canonical NaN (R325). -/
def rowMax (vs : List Nat) : Nat :=
  vs.foldl (fun a v =>
    let x := fp32.readPlain v
    if x.isNan then a else if (fp32.readPlain a).isNan || (fp32.readPlain a).lt x then v else a) fp32.nan

/-- A list as it stands in local memory. -/
def readList (k : Core) (g : Group) (a : Nat) : SList :=
  let h := k.lread g a 16
  let m := nbits (recField h 0 4) 0 17
  { kind := nbits (recField h 0 4) 17 1, sel := recField h 4 4, out := recField h 8 4, maxv := recField h 12 4,
    entries := (List.range m).map (fun j =>
      let e := k.lread g (a + 16 + 16 * j) 16
      { value := recField e 0 4, index := recField e 4 4, bound := recField e 8 4, depth := recField e 12 4 % 32 }) }
/-- A list's bytes. -/
def SList.bytes (l : SList) : List Byte :=
  leBytes 4 (l.entries.length + l.kind * 2 ^ 17) ++ leBytes 4 l.sel ++ leBytes 4 l.out ++ leBytes 4 l.maxv ++
  l.entries.flatMap (fun e => leBytes 4 e.value ++ leBytes 4 e.index ++ leBytes 4 e.bound ++ leBytes 4 e.depth)
def listCount (k : Core) (g : Group) (a : Nat) : Nat := if a + 16 ≤ g.localSize then nbits (leNat (k.lread g a 4)) 0 17 else 0

/-- KIND of a list, 0 where its header lies outside the window. -/
def listKind (k : Core) (g : Group) (a : Nat) : Nat := if a + 16 ≤ g.localSize then nbits (leNat (k.lread g a 4)) 17 1 else 0
def selN (m : Cmd) : Nat := nbits m.yn 19 16 + 1
def selK (m : Cmd) : Nat := nbits m.yn 35 16 + 1

/-- Field checks of major 0x37. -/
def selFields (k : Core) (g : Group) (m : Cmd) : Bool :=
  match m.fn with
  | 0 => onlyBits m.xn (fieldMask 0 19 + fieldMask 32 32) && onlyBits m.yn (fieldMask 0 51) && nbits m.xn 0 19 % 16 == 0 && nbits m.yn 0 19 % 4 == 0
  | 1 => onlyBits m.xn (fieldMask 0 19 + fieldMask 32 32) && onlyBits m.yn (fieldMask 0 51) && nbits m.xn 0 19 % 16 == 0 && nbits m.yn 0 19 % 4 == 0
  | 2 => nbits m.xn 51 13 == 0 && onlyBits m.yn (fieldMask 0 51) && nbits m.xn 0 19 % 4 == 0 && nbits m.yn 0 19 % 4 == 0
  | 3 => onlyBits m.xn (fieldMask 0 19 + fieldMask 32 16) && onlyBits m.yn (fieldMask 0 19 + fieldMask 32 19) && nbits m.xn 0 19 % 16 == 0 &&
      nbits m.yn 0 19 % 16 == 0 && nbits m.yn 32 19 % 16 == 0 && decide (listCount k g (nbits m.yn 0 19) ≤ 65536) &&
      decide (listCount k g (nbits m.yn 32 19) ≤ 65536) && listKind k g (nbits m.yn 0 19) == listKind k g (nbits m.yn 32 19)
  | 4 => nbits m.xn 0 19 % 16 == 0 && nbits m.yn 0 19 % 16 == 0 &&
      decide (listCount k g (nbits m.yn 0 19) ≤ 65536)
  | _ => true

def selWrites (k : Core) (g : Group) (m : Cmd) : List Span :=
  let x := nbits m.xn 0 19
  match m.fn with
  | 0 => [(x, 16 + 16 * min (selK m) (selN m))]
  | 1 => [(x, 16 + 16 * min (selK m) (selN m))]
  | 2 => [(x, 4 * ceilDiv (selN m) 32 + 4)]
  | 3 => [(x, 16 + 16 * min (nbits m.xn 32 16 + 1) (listCount k g (nbits m.yn 0 19) + listCount k g (nbits m.yn 32 19)))]
  | 4 => [(x, 16 + 16 * listCount k g (nbits m.yn 0 19))]
  | _ => [(x, 4 * selK m)]
def selReads (k : Core) (g : Group) (m : Cmd) : List Span :=
  let y := nbits m.yn 0 19
  match m.fn with
  | 0 => [(y, 4 * selN m)]
  | 1 => [(y, 4 * selN m)]
  | 2 => [(y, 4 * selN m), (nbits m.xn 32 19, 4 * selN m)]
  | 3 => [(y, 16 + 16 * listCount k g y), (nbits m.yn 32 19, 16 + 16 * listCount k g (nbits m.yn 32 19))]
  | 4 => [(y, 16 + 16 * listCount k g y)]
  | _ => [(nbits m.xn 32 19, 4 * selK m), (y, 4 * selN m)]

/-- The intervals that bound what a merge or a sort that has not started may write and read (R133): how long its lists are shows only once
all that is written to them is complete. -/
def listBounds (g : Group) (m : Cmd) : List Span × List Span :=
  let room := fun (a : Nat) => g.localSize - a
  let x := nbits m.xn 0 19
  let y := nbits m.yn 0 19
  if m.fn = 3 then ([(x, min (room x) (16 + 16 * (nbits m.xn 32 16 + 1)))], [(y, room y), (nbits m.yn 32 19, room (nbits m.yn 32 19))])
  else ([(x, room x)], [(y, room y)])
def rowWords (k : Core) (g : Group) (a n : Nat) : List Nat :=
  let bs := k.lread g a (4 * n)
  (List.range n).map (fun i => recField bs (4 * i) 4)

/-- `selk` and `selkx` (R325). -/
def runSelk (m : Cmd) (row : List Nat) : SList × List FpR :=
  let base := nbits m.xn 32 32
  let all := (List.range row.length).map (fun i => ({ value := row.getD i 0, index := (base + i) % 2 ^ 32, bound := 0, depth := 31 } : SEntry))
  let ranked := sortBy (fun (a b : Nat × SEntry) => SEntry.before a.2 b.2) ((List.range all.length).zip all)
  let chosen := ranked.take (selK m)
  let mx := rowMax row
  let term := fun (v : Nat) => if m.fn = 1 then expTerm mx v else v
  -- sums go in index order, which begins anew where the index wraps
  let order := sortBy (fun (a b : Nat) => decide ((base + a) % 2 ^ 32 < (base + b) % 2 ^ 32)) (List.range row.length)
  let mark := order.map (fun i => (term (row.getD i 0), chosen.any (fun c => c.1 == i)))
  let sel := sumFrom 0 ((mark.filter (·.2)).map (·.1))
  let out := sumFrom 0 ((mark.filter (fun x => !x.2)).map (·.1))
  ({ kind := m.fn, sel := sel.1.1, out := out.1.1, maxv := mx, entries := chosen.map (·.2) }, sel.2 ++ out.2)

/-- Certified survivors (R237). -/
def survivors (k : Nat) (s b : List Nat) : List Bool :=
  let n := s.length
  let num := fun (x : Nat) => fp32.readPlain x
  let u := (List.range n).map (fun j => (fp32.addR 2 (num (s.getD j 0)) (num (b.getD j 0))).1)
  let l := (List.range n).map (fun j => (fp32.addR 3 (num (s.getD j 0)) (num (b.getD j 0)).neg).1)
  let top := s.foldl (fun a x => if nbits x 23 8 = 255 then a else max a (x % 2 ^ 31)) 0
  let e := nbits top 23 8
  let mu : Num := .fin false 1 (if e = 0 then -149 else (e : Int) - 127 - 23)
  (List.range n).map (fun j =>
    let open_ := (num (s.getD j 0)).isNan || (num (b.getD j 0)).isNan || b.getD j 0 == 0x7F800000
    if open_ || n < k + 1 then true
    else decide (((List.range n).filter (fun i => i != j &&
      mu.lt (num (fp32.addR 3 (num (l.getD i 0)) (num (u.getD j 0)).neg).1))).length < k))

/-- `lmerge` (R327); none when the kinds differ. -/
def runMerge (k : Nat) (a b : SList) : Option (SList × List FpR) :=
  if a.kind != b.kind then none
  else
    let u := (a.entries ++ b.entries).foldl (fun (acc : List SEntry) e =>
      match acc.find? (fun x => x.index == e.index) with
      | none => acc ++ [e]
      | some x =>
        let better := decide (x.depth < e.depth) || (x.depth == e.depth && (fp32.readPlain e.bound).lt (fp32.readPlain x.bound))
        if better then acc.map (fun y => if y.index == e.index then e else y) else acc) []
    let ranked := sortBy SEntry.before u
    let chosen := ranked.take k
    let rest := ranked.drop k
    let byIndex := sortBy (fun (p q : SEntry) => decide (p.index < q.index))
    let m := rowMax [a.maxv, b.maxv]
    let term := fun (v : Nat) => if a.kind = 1 then expTerm m v else v
    let scale := fun (o mv : Nat) => if a.kind = 1 then fp32.mulR 0 (fp32.readPlain o) (fp32.readPlain (expTerm m mv)) else (o, 0)
    let oa := scale a.out a.maxv
    let ob := scale b.out b.maxv
    let o0 := fp32.addR 0 (fp32.readPlain oa.1) (fp32.readPlain ob.1)
    let sel := sumFrom 0 ((byIndex chosen).map (fun e => term e.value))
    let out := sumFrom o0.1 ((byIndex rest).map (fun e => term e.value))
    some ({ kind := a.kind, sel := sel.1.1, out := out.1.1, maxv := m, entries := chosen }, sel.2 ++ [oa, ob, o0] ++ out.2)

/-- One search of `ssrch` (R329). -/
def searchRow (below : Nat → Bool) : Nat → Nat → Nat → Nat
  | 0, lo, _ => lo
  | fuel + 1, lo, hi =>
    if lo < hi then
      let mid := (lo + hi) / 2
      if below mid then searchRow below fuel (mid + 1) hi else searchRow below fuel lo mid
    else lo

/-- The order of `ssrch`: kinds u32, i32, f32; strict or not. -/
def searchLess (kind : Nat) (le : Bool) (a b : Nat) : Bool :=
  match kind with
  | 0 => if le then decide (a ≤ b) else decide (a < b)
  | 1 => if le then decide ((w32 a).toInt ≤ (w32 b).toInt) else decide ((w32 a).toInt < (w32 b).toInt)
  | _ => if le then (fp32.readPlain a).le (fp32.readPlain b) else (fp32.readPlain a).lt (fp32.readPlain b)

/-- A selection command: the bytes it writes at X[18:0], and roundings whose events count; none where it faults. -/
def runSel (k : Core) (g : Group) (m : Cmd) : Option (List Byte × List FpR) :=
  let y := nbits m.yn 0 19
  match m.fn with
  | 0 => let (l, r) := runSelk m (rowWords k g y (selN m)); some (l.bytes, r)
  | 1 => let (l, r) := runSelk m (rowWords k g y (selN m)); some (l.bytes, r)
  | 2 =>
    let sv := survivors (selK m) (rowWords k g y (selN m)) (rowWords k g (nbits m.xn 32 19) (selN m))
    let words := (List.range (ceilDiv (selN m) 32)).map (fun w => (List.range 32).foldl (fun a t => if sv.getD (32 * w + t) false then a + 2 ^ t else a) 0)
    some (words.flatMap (leBytes 4) ++ leBytes 4 (sv.filter id).length, [])
  | 3 => (runMerge (nbits m.xn 32 16 + 1) (readList k g y) (readList k g (nbits m.yn 32 19))).map (fun r => (r.1.bytes, r.2))
  | 4 =>
    let l := readList k g y
    let lt := if nbit m.zf 0 then (fun (a b : SEntry) => decide (a.index < b.index) || (a.index == b.index && SEntry.before a b)) else SEntry.before
    let head := k.lread g y 16
    some (head ++ ({ l with entries := sortBy lt l.entries }.bytes).drop 16, [])
  | _ =>
    let keys := rowWords k g y (selN m)
    let qs := rowWords k g (nbits m.xn 32 19) (selK m)
    let kind := m.zf % 4
    some (qs.flatMap (fun q => leBytes 4 (searchRow (fun i => searchLess kind (nbit m.zf 2) (keys.getD i 0) q) 18 0 keys.length)), [])

end Sys2Proof.Machine
end

