-- ==== Sys2Proof/Machine/Copy.lean ====
section
/-! DEFINITION. Copy engine commands (R177 to R184, R306 to R309): the layout record and its checks, the ranges and sectors of a
command, and the transfer, element by element. -/

namespace Sys2Proof.Machine

/-! ### The layout record (R177 to R181) -/

/-- A layout record as the engine uses it: FMT 12 has its plane areas as the fourth dimension, 4-bit formats move in pairs. -/
structure Layout where
  base : Nat
  dims : List Nat
  strides : List Int
  box : List Nat
  fmt : Nat
  pdep : Nat
  swc : Nat
  sws : Nat
  sww : Nat
  size : Nat
  deriving DecidableEq, Repr

def Cmd.rec8 (m : Cmd) (i : Nat) : Nat := (m.record.getD i 0).toNat
def Cmd.fmt12 (m : Cmd) : Bool := nbits (m.rec8 6) 0 4 == 12

def Cmd.layout (m : Cmd) : Layout :=
  let f := m.rec8 6
  let fmt := nbits f 0 4
  let pdep := nbits f 4 5
  let half := fun (v : Nat) => if fmtBits fmt = 4 then v / 2 else v
  let size := if fmtBits fmt = 4 then 1 else fmtBits fmt / 8
  let d3 := if fmt = 12 then pdep + 2 else nbits (m.rec8 2) 32 32
  let b3 := if fmt = 12 then pdep + 2 else nbits (m.rec8 7) 48 16
  { base := nbits (m.rec8 0) 0 57,
    dims := [half (nbits (m.rec8 1) 0 32), nbits (m.rec8 1) 32 32, nbits (m.rec8 2) 0 32, d3],
    strides := [(size : Int), (m.record.getD 3 0).toInt, (m.record.getD 4 0).toInt, (m.record.getD 5 0).toInt],
    box := [half (nbits (m.rec8 7) 0 16), nbits (m.rec8 7) 16 16, nbits (m.rec8 7) 32 16, b3],
    fmt := fmt, pdep := pdep, swc := nbits f 9 2, sws := nbits f 11 6, sww := nbits f 17 3, size := size }

/-- Units of a box: elements, or pairs of 4-bit elements. -/
def Layout.count (l : Layout) : Nat := l.box.foldl (· * ·) 1
def Layout.bytes (l : Layout) : Nat := l.count * l.size
def Layout.swz (l : Layout) (a : Nat) : Nat := swizzle l.swc l.sws l.sww a
/-- The box index of unit n: j0 fastest (R178). -/
def Layout.index (l : Layout) (n : Nat) : List Nat :=
  let b := fun i => max (l.box.getD i 1) 1
  [n % b 0, n / b 0 % b 1, n / (b 0 * b 1) % b 2, n / (b 0 * b 1 * b 2)]
def addLists (a b : List Nat) : List Nat := (List.range 4).map (fun i => a.getD i 0 + b.getD i 0)
/-- Whether an index lies inside the tensor. -/
def Layout.live (l : Layout) (ix : List Nat) : Bool := (List.range 4).all (fun i => decide (ix.getD i 0 < l.dims.getD i 0))
/-- The global address of an index. -/
def Layout.va (l : Layout) (ix : List Nat) : Nat :=
  (((List.range 4).foldl (fun (a : Int) i => a + (ix.getD i 0 : Int) * l.strides.getD i 0) (l.base : Int)) % (2 ^ 57 : Nat)).toNat
/-- Bytes of a key-value entry (R308). -/
def Layout.kvBytes (l : Layout) : Nat := if l.fmt = 12 then (4 * (l.pdep + 2) + 64) * l.dims.getD 0 0 else 0

/-! ### Fields of a copy command (R306) -/

def Cmd.region (m : Cmd) : Nat := nbits m.xn 0 19
def Cmd.peer (m : Cmd) : Nat := nbits m.xn 20 12
def Cmd.barAddr (m : Cmd) : Nat := nbits m.xn 32 19
def Cmd.bv (m : Cmd) : Bool := nbit m.xn 63
def Cmd.isCopy (m : Cmd) : Bool := m.major == 0x30
def Cmd.isList (m : Cmd) : Bool := m.fn == 3 || m.fn == 4
def Cmd.isBox (m : Cmd) : Bool := m.fn == 0 || m.fn == 1 || m.fn == 2 || m.fn == 6
/-- Commands that write global memory. -/
def Cmd.outward (m : Cmd) : Bool := m.fn == 1 || m.fn == 4 || m.fn == 6
def Cmd.listAddr (m : Cmd) : Nat := nbits m.yn 0 19
def Cmd.listLen (m : Cmd) : Nat := nbits m.yn 32 16
def Cmd.origin (m : Cmd) : List Nat :=
  let o := (List.range 4).map (fun i => nbits m.yn (16 * i) 16)
  if fmtBits (nbits (m.rec8 6) 0 4) = 4 then o.set 0 (o.getD 0 0 / 2) else if m.fmt12 then o.set 3 0 else o

/-- A record that breaks R177 to R181. The odd BASE offset of a 4-bit format is an odd BASE (log 94). -/
def Cmd.badRecord (m : Cmd) : Bool :=
  let f := m.rec8 6
  let fmt := nbits f 0 4
  let lin := m.fn == 5
  let dims := [nbits (m.rec8 1) 0 32, nbits (m.rec8 1) 32 32, nbits (m.rec8 2) 0 32, nbits (m.rec8 2) 32 32]
  let box := (List.range 4).map (fun i => nbits (m.rec8 7) (16 * i) 16)
  let o0 := if m.isBox then nbits m.yn 0 16 else 0
  let pdep := nbits f 4 5
  let bits := fmtBits fmt
  (!lin && m.rec8 0 / 2 ^ 57 != 0) || f / 2 ^ 20 != 0 || decide (14 ≤ fmt) || dims.any (· == 0) || box.any (· == 0) ||
  (if fmt = 12 then pdep == 0 || decide (24 < pdep) else pdep != 0) || !swizzleOk (nbits f 9 2) (nbits f 11 6) (nbits f 17 3) ||
  (fmt == 12 && (dims.getD 3 0 != 1 || box.getD 3 0 != 1)) ||
  (bits == 4 && ((!lin && m.rec8 0 % 2 != 0) || dims.getD 0 0 % 2 != 0 || box.getD 0 0 % 2 != 0 || o0 % 2 != 0)) ||
  (decide (8 ≤ bits) && !lin && m.rec8 0 % (bits / 8) != 0) ||
  (m.fn == 2 && fmt != 12)

/-- Slot values that break R306, or a barrier where none may be named: a fault with ADDR 0 (R309). -/
def Cmd.badSlots (m : Cmd) : Bool :=
  let xm := fieldMask 0 19 + fieldMask 32 19 + fieldMask 63 1 + (if m.fn = 6 then fieldMask 20 12 else 0)
  let ym := if m.isList then fieldMask 0 19 + fieldMask 32 16 else if m.fn = 5 then fieldMask 0 19 else fieldMask 0 64
  !onlyBits m.xn xm || !onlyBits m.yn ym || (m.bv && (m.outward || m.barAddr % 16 != 0)) || (m.isList && m.yn % 8 != 0) ||
  (m.fmt12 && m.isBox && nbits m.yn 48 16 != 0)

/-- Local ranges: written, read (R307, R308). -/
def copyWrites (m : Cmd) : List Span :=
  let l := m.layout
  if m.outward then [] else if m.fn = 3 then [(m.region, m.listLen * max l.bytes l.kvBytes)] else [(m.region, l.bytes)]
def copyReads (m : Cmd) : List Span :=
  let l := m.layout
  let list : List Span := if m.isList then [(m.listAddr, 8 * m.listLen)] else []
  let src : List Span := if m.fn = 5 then [(m.listAddr, l.bytes)] else []
  let reg : List Span := if m.fn = 4 then [(m.region, m.listLen * l.bytes)] else if m.outward then [(m.region, l.bytes)] else []
  list ++ src ++ reg
/-- The global byte interval of a command, for R146: from the lowest to the highest element address. The entries of a list, which lie in
memory, can name any row of DIM1 (log 107). -/
def copyGlobal (m : Cmd) : List (Int × Int) :=
  if m.fn = 5 || (m.isList && m.listLen == 0) then []
  else
    let l := m.layout
    let org := if m.isList then [0, 0, 0, 0] else m.origin
    let ext := if m.isList then l.box.set 1 (l.dims.getD 1 0) else l.box
    let r := (List.range 4).foldl (fun (a : Int × Int) i =>
      let p : Int := (org.getD i 0 : Int) * l.strides.getD i 0
      let q : Int := (org.getD i 0 + ext.getD i 0 - 1 : Int) * l.strides.getD i 0
      (a.1 + min p q, a.2 + max p q)) ((l.base : Int), (l.base : Int) + l.size)
    [r]

/-! ### Barriers (R183, R184) -/

/-- The barriers a command names, as far as they lie in the window, with its sectors as posted at issue. -/
def copyPosts (m : Cmd) (size : Nat) : List (Nat × Nat) :=
  let l := m.layout
  if !m.isCopy || !m.bv || m.outward then []
  else
    let posts := if m.fn = 2 then
        let s := ceilDiv (l.box.getD 0 0 * l.box.getD 1 0 * l.box.getD 2 0 * 4) 32
        (m.barAddr, 2 * s) :: (List.range l.pdep).map (fun k => (m.barAddr + 16 * (k + 1), s))
      else [(m.barAddr, ceilDiv (if m.fn = 3 then m.listLen * l.bytes else l.bytes) 32)]
    posts.filter (fun p => p.1 % 16 == 0 && decide (p.1 + 16 ≤ size))

/-- The barrier, by its place among the command's, that counts unit n. -/
def copyBar (m : Cmd) (n : Nat) : Nat :=
  if m.fn = 2 then (m.layout.index n).getD 3 0 - 1 else 0

/-- Sectors written once n units of a command have been moved, by barrier: whole sectors only (R183). -/
def copySectors (m : Cmd) (n : Nat) : List Nat :=
  let l := m.layout
  if m.fn = 2 then
    let area := l.box.getD 0 0 * l.box.getD 1 0 * l.box.getD 2 0
    let of := fun (j : Nat) => if area * (j + 1) ≤ n then ceilDiv (area * 4) 32 else (n - area * j) * 4 / 32
    (of 0 + of 1) :: (List.range l.pdep).map (fun k => of (k + 2))
  else [n * (if m.kv then 4 else l.size) / 32]

/-- GOAL of each barrier grows as a command is posted. -/
def State.postSectors (s : State) (c : Nat) (g : Group) (posts : List (Nat × Nat)) : State :=
  posts.foldl (fun s p => s.tbStep c g p.1 (fun b => { b with goal := b.goal + w32 p.2 })) s

/-- DONE of each barrier grows, with FLT where the command faulted or was discarded. -/
def State.settleSectors (s : State) (c : Nat) (g : Group) (posts : List (Nat × Nat)) (flt : Bool) : State :=
  posts.foldl (fun s p => s.tbStep c g p.1 (fun b => { b with done := b.done + w32 p.2, flt := b.flt || flt })) s

/-! ### Moving (R178, R308, R309) -/

/-- How the access of one unit ends. -/
inductive UnitRes (α : Type) where
  | ok (v : α)
  | page (ia : Nat)
  | held
  | fault (addr : Nat)
  deriving DecidableEq, Repr

/-- The engine's access for a command: relaxed, in the class of the command, with its relative deadline counted from the tick of the
request and its policy, through range registers with these SOR, word by word (R30, R201, R209, R244, R307). -/
def State.engAcc (s : State) (c sl : Nat) (g : Group) (o : Op) (write : Bool) (sors : List Bool) : Acc :=
  { part := g.part, die := dieOf c, pol := o.pol, cls := o.cls, sor := sors.headD false, sors := sors, stamp := stampFor s.pkg.tick o.deadline, requester := 192 + c, write := write,
    user := !o.priv, who := { core := c, slot := sl, req := 1 } }

/-- How an access of a command ends for its unit: an unresolvable fault posts its record too (R214). -/
def State.engEnd {α β : Type} (s : State) (a : Acc) (ia va : Nat) (r : MemRes α) (f : α → β) : State × UnitRes β :=
  match r with
  | .ok v => (s, .ok (f v))
  | .page => (s, .page ia)
  | .held => (s, .held)
  | .fatal => ((s.fault a.part ia a.write true a.who).1, .fault va)

/-- The same of an access of n bytes, where one line of it can end otherwise than another: the IA, and VA, of the one that does. -/
def State.engEnds {α β : Type} (s : State) (a : Acc) (ia va n : Nat) (r : MemRes α) (f : α → β) : State × UnitRes β :=
  match r with
  | .ok v => (s, .ok (f v))
  | .page => (s, .page (s.pageAt a ia n))
  | .held => (s, .held)
  | .fatal => let i := s.fatalAt a ia n; ((s.fault a.part i a.write true a.who).1, .fault (vaMod (va + (i - ia))))

/-- Reads bytes of global memory at a VA. -/
def State.engRead (s : State) (c sl : Nat) (g : Group) (o : Op) (va n : Nat) : State × UnitRes (List Byte × Bool) :=
  match (s.part g.part).xlate va n { rd := true, user := !o.priv } with
  | .error v => (s, .fault v)
  | .ok (ia, so) =>
    let a := s.engAcc c sl g o false [so]
    let (s, r) := s.homeReads a 4 ia n [] false
    s.engEnds a ia va n r id

/-- Reads a word of a planed tensor as a plane access (R167, R180): word j of its block, of whose V the H word tells as the cache holds it. No
request is made for a plane above V (R165, R312). -/
def State.engReadPlane (s : State) (c sl : Nat) (g : Group) (o : Op) (h : Nat) (pstr : Int) (j : Nat) : State × UnitRes (List Byte × Bool) :=
  let vaOf := fun (k : Nat) => (((h : Int) + (k : Int) * pstr) % (2 ^ 57 : Nat)).toNat
  let ix := fun (k : Nat) => (s.part g.part).xlate (vaOf k) 4 { rd := true, user := !o.priv }
  let word := fun (s : State) (j : Nat) =>
    match ix j with
    | .error v => (s, UnitRes.fault v)
    | .ok (ia, so) =>
      let xs := (List.range (max 2 j + 1)).map ix
      let a := s.engAcc c sl g o false (xs.map (fun x => match x with | .ok (_, r) => r | .error _ => false))
      let (s, r) := if xs.all (fun x => match x with | .ok _ => true | .error _ => false) then
          s.planeWordAt a (xs.map (fun x => match x with | .ok (i, _) => i | .error _ => 0)) (pstr % (2 ^ 52 : Nat)).toNat j
        else
          let (s, r) := s.homeRead { a with sor := so, sors := [so] } ia 4
          (s, match r with | .ok (b, p) => .ok (leNat b, p) | .page => .page | .held => .held | .fatal => .fatal)
      s.engEnd a ia (vaOf j) r (fun v => (leBytes 4 v.1, v.2))
  if j ≤ 2 then word s j
  else match word s 0 with
    | (s, .ok (b, _)) => if hV (leNat b) + 1 < j then (s, .ok (leBytes 4 0, false)) else word s j
    | x => x

/-- The first of some bytes, at IAs with their VAs, that cannot be written now (R309). -/
def State.blocked (s : State) (a : Acc) : List (Nat × Nat) → State × UnitRes Unit
  | [] => (s, .ok ())
  | (ia, va) :: rest => match s.writable a [ia] with
    | (s, .ok _) => State.blocked s a rest
    | (s, .page i) => (s, .page i)
    | (s, .held) => (s, .held)
    | (s, .fault _) => (s, .fault va)
/-- Writes bytes of global memory at a VA, all or none (R309); a poisoned source leaves its granule poisoned (R34). -/
def State.engWrite (s : State) (c sl : Nat) (g : Group) (o : Op) (va : Nat) (bs : List Byte) (bad : Bool) : State × UnitRes Unit :=
  match (s.part g.part).xlate va bs.length { wr := true, user := !o.priv } with
  | .error v => (s, .fault v)
  | .ok (ia, so) =>
    let a := s.engAcc c sl g o true [so]
    if ia % 128 + bs.length ≤ 128 then
      let (s, r) := s.homeWrite a ia bs (if bad then [ia % 128 / 64] else [])
      s.engEnd a ia va r id
    else
      let edge := 128 - ia % 128
      match s.blocked a [(ia, va), (ia + edge, vaMod (va + edge))] with
      | (s, .ok _) =>
        let (s, r) := s.maskedWrite a ia (bs.map (fun b => (b, true)))
        s.engEnds a ia va bs.length r id
      | x => x

/-- A local write of the command, poison and all; POIS of the counting barrier (R183, R294). -/
def State.engLocal (s : State) (c : Nat) (g : Group) (m : Cmd) (n a : Nat) (bs : List Byte) (bad : Bool) : State :=
  let s := s.setCore c ((s.core c).lwriteP g a bs bad)
  if bad && m.bv && !m.posted.isEmpty then s.tbStep c g (m.barAddr + 16 * copyBar m n) (fun b => { b with pois := true }) else s

/-- Units from unit n on that fill a 64 B granule of global memory, which are written together, or one (R34). -/
def Layout.together (l : Layout) (p : Part) (o : Op) (org : List Nat) (n : Nat) : Nat :=
  let k := 64 / l.size
  let ix := l.index n
  let at_ := addLists org ix
  if l.va at_ % 64 = 0 && decide (ix.getD 0 0 + k ≤ l.box.getD 0 0) && decide (at_.getD 0 0 + k ≤ l.dims.getD 0 0) &&
      (match p.xlate (l.va at_) 64 { wr := true, user := !o.priv } with | .ok _ => true | .error _ => false) then k else 1

/-- A local access of a command lies outside the window: swizzling can take an element past its range (R179), which is then an element
that cannot be moved (R309, log 31). -/
def Group.beyond (g : Group) (a n : Nat) : Bool := decide (g.localSize < a + n)

/-- Units of a box from unit n on, at a local offset before swizzle and an origin: how many are moved together. -/
def State.boxUnit (s : State) (c sl : Nat) (g : Group) (o : Op) (m : Cmd) (off : Nat) (org : List Nat) (count n : Nat) : State × UnitRes Nat :=
  let l := m.layout
  let ix := addLists org (l.index n)
  let at_ := fun (i : Nat) => m.region + l.swz (off + (n + i) * l.size)
  let a := at_ 0
  if (l.live ix || !m.outward) && g.beyond a l.size then (s, .fault a)
  else if m.outward then
    if !l.live ix then (s, .ok 1)
    else
      let k := l.together (s.part g.part) o org n
      let k := if (List.range k).any (fun i => g.beyond (at_ i) l.size) then 1 else k
      let las := (List.range k).map at_
      match s.engWrite c sl g o (l.va ix) (las.flatMap (fun la => (s.core c).lread g la l.size)) (las.any (fun la => (s.core c).lbad g la l.size)) with
      | (s, .ok _) => (s, .ok k)
      | (s, .page i) => (s, .page i)
      | (s, .held) => (s, .held)
      | (s, .fault v) => (s, .fault v)
  else if !l.live ix then (s.engLocal c g m count a (List.replicate l.size 0) false, .ok 1)
  else
    let (s, r) := if l.fmt = 12 then s.engReadPlane c sl g o (l.va (ix.set 3 0)) (l.strides.getD 3 0) (ix.getD 3 0)
      else s.engRead c sl g o (l.va ix) l.size
    match r with
    | .ok (bs, bad) => (s.engLocal c g m count a bs bad, .ok 1)
    | .page i => (s, .page i)
    | .held => (s, .held)
    | .fault v => (s, .fault v)

/-- Blocks of a plane box. -/
def Layout.area (l : Layout) : Nat := l.box.getD 0 0 * l.box.getD 1 0 * l.box.getD 2 0

/-- The local address of word j of block n of a plane box, at an offset before swizzle. -/
def Cmd.blockAt (m : Cmd) (off n j : Nat) : Nat := m.region + m.layout.swz (off + (j * m.layout.area + n) * 4)
/-- The first word of a block of a plane box outside the window. -/
def Cmd.blockOut (m : Cmd) (g : Group) (off n : Nat) : Option Nat :=
  ((List.range (m.layout.pdep + 2)).map (m.blockAt off n)).find? (fun a => g.beyond a 4)

/-- The words of block n of a box in local memory at an offset before swizzle, V limited to PDEP (R180), and which are
poisoned. -/
def boxBlock (k : Core) (g : Group) (m : Cmd) (off n : Nat) : List Word × List Nat :=
  let l := m.layout
  let at_ := m.blockAt off n
  let ws := (List.range (l.pdep + 2)).map (fun j => w32 (leNat (k.lread g (at_ j) 4)))
  let h := (ws.getD 0 0).toNat
  (w32 (h % 256 + min (nbits h 8 5) l.pdep * 256 + (if nbit h 13 then 8192 else 0)) :: ws.drop 1,
   (List.range (l.pdep + 2)).filter (fun j => k.lbad g (at_ j) 4))

/-- One block of a plane copy outward, as a plane store (R168, R180). -/
def State.blockUnit (s : State) (c sl : Nat) (g : Group) (o : Op) (m : Cmd) (off : Nat) (org : List Nat) (n : Nat) : State × UnitRes Nat :=
  let l := m.layout
  let ix := addLists org ((l.index n).set 3 0)
  if !l.live ix then (s, .ok 1)
  else
    let vaOf := fun (k : Nat) => l.va (ix.set 3 k)
    let xs := (List.range (l.pdep + 2)).map (fun k => (s.part g.part).xlate (vaOf k) 4 { wr := true, user := !o.priv })
    match m.blockOut g off n, xs.findSome? (fun x => match x with | .error v => some v | .ok _ => none) with
    | some a, _ => (s, .fault a)
    | none, some v => (s, .fault v)
    | none, none =>
      let ias := xs.map (fun x => match x with | .ok (i, _) => i | .error _ => 0)
      let a := s.engAcc c sl g o true (xs.map (fun x => match x with | .ok (_, so) => so | .error _ => false))
      let (ws, bad) := boxBlock (s.core c) g m off n
      let (s, r) := s.planeStore a ias ((l.strides.getD 3 0) % (2 ^ 52 : Nat)).toNat l.pdep ws bad
      match r with
      | .ok _ => (s, .ok 1)
      | .page => (s, .page (s.missIa g.part ias true))
      | .held => (s, .held)
      | .fatal =>
        let ia := s.deadIa g.part ias true
        ((s.fault g.part ia true true a.who).1, .fault (vaOf (ias.idxOf ia)))

/-- The class of a reference: that of the tier unless `hint.cp` gives one (R187). -/
def kvClass (o : Op) (m : Cmd) (tier : Nat) : Op := if m.cp.isSome then o else { o with cls := if tier = 0 then 1 else 2 }

/-- One 4-byte unit of a key-value entry of this device (R308): its image word, written at its local offset. `ent` is the
entry, `at_` its local address. -/
def State.kvUnit (s : State) (c sl : Nat) (g : Group) (o : Op) (m : Cmd) (ent at_ off u count : Nat) : State × UnitRes Nat × Bool × Option KvRef :=
  let l := m.layout
  let cs := l.dims.getD 0 0
  let a0 := s.engAcc c sl g o false [true]
  match s.kvStage1 a0 (nbits ent 32 31) (nbits ent 0 32) with
  | (s, .page i) => (s, .page i, false, none)
  | (s, .held) => (s, .held, false, none)
  | (s, .fault p) => (s, .fault 0, p, none)
  | (s, .ok r) =>
    -- a device without a rank sends no request (R38, log 93)
    if r.dev != s.fab.drank then (if s.fab.drank = 4095 then (s, .fault 0, false, none) else (s, .ok 0, false, some r))
    else
      let o := kvClass o m r.tier
      match s.kvStage2 { a0 with cls := o.cls } r.gbn with
      | (s, .page i) => (s, .page i, false, none)
      | (s, .held) => (s, .held, false, none)
      | (s, .fault p) => (s, .fault 0, p, none)
      | (s, .ok p) =>
        if p.c != cs || decide (p.d < l.pdep) then (s, .fault at_, false, none)
        else
          let nk := (l.pdep + 2) * cs
          let a := m.region + l.swz (off + 4 * u)
          if g.beyond a 4 then (s, .fault a, false, none)
          else if u < nk then
            let ias := p.block (u % cs) p.d
            let b := { s.engAcc c sl g o false [] with sor := true }
            let (s, w) := s.planeWordAt b ias p.pstr (u / cs)
            match s.engEnd b (ias.getD (u / cs) 0) (4 * u) w id with
            | (s, .ok (v, bad)) => (s.engLocal c g m count a (leBytes 4 v) bad, .ok 1, false, none)
            | (s, .page i) => (s, .page i, false, none)
            | (s, .held) => (s, .held, false, none)
            | (s, .fault x) => (s, .fault x, false, none)
          else
            let ia := p.vIa (4 * (u - nk))
            let b := { s.engAcc c sl g o false [] with sor := true }
            let (s, w) := s.homeReads b 4 ia 4 [] false
            match s.engEnd b ia (p.vOff + 4 * (u - nk)) w id with
            | (s, .ok (bs, bad)) => (s.engLocal c g m count a bs bad, .ok 1, false, none)
            | (s, .page i) => (s, .page i, false, none)
            | (s, .held) => (s, .held, false, none)
            | (s, .fault x) => (s, .fault x, false, none)

/-- A command that writes blocks as plane stores (R180): `cpyout` or `scat` of FMT 12. -/
def Cmd.planesOut (m : Cmd) : Bool := (m.fn == 1 || m.fn == 4) && m.fmt12

/-- Units of a list's entry; a key-value entry of a record that has none is one unit, which faults (R308). -/
def Cmd.perEntry (m : Cmd) : Nat :=
  let l := m.layout
  if m.kv then max 1 (l.kvBytes / 4) else if m.planesOut then l.area else l.count
/-- Units a command has in all. -/
def copyTotal (m : Cmd) : Nat :=
  let l := m.layout
  if m.isList then m.listLen * m.perEntry
  else if m.planesOut then l.area
  else l.count

/-- What a unit leads to: the next one, past those moved with it, an end, or requests to another device's page. -/
inductive UnitStep where
  | next (moved : Nat)
  | stop (r : CmdRes)
  | remote (r : KvRef)
  deriving DecidableEq, Repr

/-- Moves unit n of a command. -/
def State.copyUnit (s : State) (c sl : Nat) (o : Op) (m : Cmd) (n : Nat) : State × UnitStep :=
  let g := s.group c sl
  let l := m.layout
  let who : Faulter := { core := c, slot := sl, req := 1 }
  let finish := fun (s : State) (r : UnitRes Nat) =>
    match r with
    | .ok k => (s, UnitStep.next k)
    | .held => (s, .stop .held)
    | .fault v => (s, .stop (.fault v))
    | .page ia => let (s, k) := s.fault g.part ia m.outward false who; (s, .stop (.park k))
  if m.isList then
    let per := m.perEntry
    let i := n / per
    let at_ := m.listAddr + 8 * i
    let ent := leNat ((s.core c).lread g at_ 8)
    if nbit ent 63 != m.kv || (m.kv && (m.fn == 4 || l.fmt != 12)) || (!m.kv && nbits ent 32 31 != 0) then (s, .stop (.fault at_))
    else if m.kv then
      match s.kvUnit c sl g o m ent at_ (i * l.kvBytes) (n % per) n with
      | (s, _, _, some r) => (s, .remote r)
      | (s, r, pois, none) =>
        let s := if pois && m.bv && !m.posted.isEmpty then s.tbStep c g m.barAddr (fun b => { b with pois := true }) else s
        finish s r
    else
      let org := [0, nbits ent 0 32, 0, 0]
      let (s, r) := if m.planesOut then s.blockUnit c sl g o m (i * l.bytes) org (n % per) else s.boxUnit c sl g o m (i * l.bytes) org n (n % per)
      finish s r
  else if m.planesOut then
    let (s, r) := s.blockUnit c sl g o m 0 m.origin n
    finish s r
  else
    let (s, r) := s.boxUnit c sl g o m 0 m.origin n n
    finish s r

/-- Moves units from n on: where it stopped, and why, `none` at the end. -/
def copyFrom (c sl : Nat) (o : Op) (m : Cmd) : Nat → Nat → State → State × Nat × Option UnitStep
  | 0, n, s => (s, n, none)
  | fuel + 1, n, s =>
    match s.copyUnit c sl o m n with
    | (s, .next k) => copyFrom c sl o m fuel (n + max k 1) s
    | (s, x) => (s, n, some x)

/-! ### Requests to other devices (R188, R307) -/

/-- A remote request of a command: packet, VA or image offset of its first byte, and the units it moves. A command has one outstanding:
no element after one that fails is written (R309). -/
structure CopyReq where
  va : Nat
  pkt : Packet
  units : Nat
  /-- of the element that its bytes end in, and do not end with, the bytes moved -/
  part : Nat := 0
  deriving DecidableEq, Repr

/-- A packet of a command before its kind, with its class, its deadline and its job. -/
def State.copyPkt (s : State) (p : Nat) (o : Op) (dst : Nat) : Packet :=
  { blankPkt with dst := BitVec.ofNat 12 dst, cls := BitVec.ofNat 2 o.cls, dline := BitVec.ofNat 16 (stampFor s.pkg.tick o.deadline), job := BitVec.ofNat 12 (s.jobOf p) }

/-- The read that fetches the image of another device's page from unit u of an entry on, inside one aligned 256 B block, and the image
offset of the V part; none where the page does not fit the record (R308). The page's channels and depth are not known here: free values
between their bounds, drawn at its first unit (log 14). -/
def State.kvRemote (s : State) (p : Nat) (o : Op) (m : Cmd) (r : KvRef) (u : Nat) : State × Option (Nat × CopyReq) :=
  let l := m.layout
  let cs := l.dims.getD 0 0
  let nk := (l.pdep + 2) * cs
  let (s, v) := if u = 0 then s.draw else (s, 0)
  let d := 1 + v % 24
  if u = 0 && (1 + v / 24 % 256 != cs || decide (d < l.pdep)) then (s, none)
  else
    let vAt := if u = 0 then 4 * (d + 2) * cs else m.vAt
    let off := if u < nk then 4 * u else vAt + 4 * (u - nk)
    let last := if u < nk then 4 * nk else vAt + 64 * cs
    let n := min (last - off) (256 - off % 256)
    let pkt : Packet := { s.copyPkt p (kvClass o m r.tier) r.dev with ia := BitVec.ofNat 52 (15 * 2 ^ 48 + r.gbn * 65536 + off), len := BitVec.ofNat 8 (n - 1) }
    (s, some (vAt, { va := off, pkt := pkt, units := n / 4 }))

/-- What a `cpyr` does from a unit on (R307): nothing more, a request, or a fault at an address. -/
inductive CpyrNext where
  | done
  | send (skipped : Nat) (r : CopyReq)
  | fault (addr : Nat)
  deriving DecidableEq, Repr

/-- The bytes of the WR that moves the unit at ix and those after it whose bytes follow it inside one 256 B block: units, bytes. -/
def wrRun (k : Core) (g : Group) (m : Cmd) (p : Part) (o : Op) (ia : Nat) : Nat → Nat → List Byte → Nat × List Byte
  | 0, n, acc => (n, acc)
  | fuel + 1, n, acc =>
    let l := m.layout
    let ix := addLists m.origin (l.index n)
    let la := m.region + l.swz (n * l.size)
    match p.xlate (l.va ix) l.size { wr := true, user := !o.priv } with
    | .ok (i, _) =>
      if decide (n < l.count) && l.live ix && !g.beyond la l.size && i == ia + acc.length && (ia + acc.length + l.size - 1) / 256 == ia / 256 then
        wrRun k g m p o ia fuel (n + 1) (acc ++ k.lread g la l.size)
      else (n, acc)
    | .error _ => (n, acc)

/-- The next write of a `cpyr` from unit n on (R307): units beyond DIM are skipped; a WR of consecutive bytes of one 256 B block, of
which an element may lie in two, or one PWR a block. -/
def State.cpyrNext (s : State) (c : Nat) (g : Group) (o : Op) (m : Cmd) : Nat → Nat → CpyrNext
  | 0, _ => .done
  | fuel + 1, n =>
    let l := m.layout
    let k := s.core c
    let planes := l.fmt = 12
    let ix := addLists m.origin (if planes then (l.index n).set 3 0 else l.index n)
    let la := m.region + l.swz (n * l.size)
    if (if planes then l.area else l.count) ≤ n then .done
    else if !l.live ix then State.cpyrNext s c g o m fuel (n + 1)
    else
      match (if planes then m.blockOut g 0 n else if g.beyond la l.size then some la else none),
        (s.part g.part).xlate (l.va ix) (if planes then 4 else l.size) { wr := true, user := !o.priv } with
      | some a, _ => .fault a
      | none, .error v => .fault v
      | none, .ok (ia, _) =>
        if planes then
          let ws := (boxBlock k g m 0 n).1
          let pkt : Packet := { s.copyPkt g.part o m.peer with kind := 5, ia := BitVec.ofNat 52 ia, len := BitVec.ofNat 8 (4 * ws.length - 1), pdep := BitVec.ofNat 5 l.pdep }
          let pkt : Packet := { pkt with pstr := BitVec.ofInt 40 (l.strides.getD 3 0), payload := wordBytes ws }
          .send n { va := l.va ix, pkt := pkt, units := 1 }
        else
          -- an element that two 256 B blocks share goes as two requests (R41)
          let sent := if n = m.moved then m.part else 0
          let edge := 256 - ia % 256
          let (n', bs, rest) := if sent = 0 && l.size ≤ edge then (let r := wrRun k g m (s.part g.part) o ia 256 n []; (r.1, r.2, 0))
            else if sent = 0 then (n, (k.lread g la l.size).take edge, edge)
            else (n + 1, (k.lread g la l.size).drop sent, 0)
          let pkt : Packet := { s.copyPkt g.part o m.peer with kind := 1, ia := BitVec.ofNat 52 (ia + sent), len := BitVec.ofNat 8 (bs.length - 1), payload := bs }
          .send n { va := vaMod (l.va ix + sent), pkt := pkt, units := n' - n, part := rest }

/-- The checks of a copy command before any transfer (R309): the address of a fault, if one fails. -/
def Cmd.copyCheck (m : Cmd) (k : Core) (g : Group) : Option Nat :=
  if m.badRecord then some (nbits (m.rec8 0) 0 57)
  else if m.badSlots then some 0
  else
    let l := m.layout
    let bars : List Span := if m.bv then [(m.barAddr, if m.fn = 2 then 16 * (l.pdep + 1) else 16)] else []
    let kv := m.fn == 3 && decide (0 < m.listLen) && decide (m.listAddr + 8 ≤ g.localSize) && nbit (leNat (k.lread g m.listAddr 8)) 63
    let reg : List Span := if m.isList then [(m.region, m.listLen * (if kv then l.kvBytes else l.bytes)), (m.listAddr, 8 * m.listLen)]
      else copyWrites m ++ copyReads m
    outside g.localSize (bars ++ reg)

end Sys2Proof.Machine
end

