-- ==== Sys2Proof/Machine/Reckoner.lean ====
section
/-! DEFINITION. The Reckoner (chapter 08): operand slots and ranges of commands, the rule image and its checks, match steps,
instances and their barriers, and the statistics block. -/

namespace Sys2Proof.Machine

/-! ### Ranges of a command (R133, R146, R314) -/

def Cmd.writes (m : Cmd) (k : Core) (g : Group) : List Span :=
  match m.major with
  | 0x30 => copyWrites m
  | 0x1F => sweepWrites m
  | 0x33 => if m.fn = 7 then [] else mdrWrites m
  | 0x35 => tileWrites m
  | 0x36 => if m.fn = 0 then [] else pdotWrites m
  | 0x37 => selWrites k g m
  | _ => []

def Cmd.reads (m : Cmd) (k : Core) (g : Group) : List Span :=
  match m.major with
  | 0x30 => copyReads m
  | 0x1F => sweepReads m
  | 0x32 => mmaReads m
  | 0x34 => wblReads m
  | 0x35 => tileReads m
  | 0x36 => if m.fn = 0 then pqryReads m else pdotReads m (mget {} k.queries (m.zf % 4)).weights.length
  | 0x37 => selReads k g m
  | _ => []

/-- A range for R147 and R150: whether it is global, and the interval. -/
structure RwRange where
  glob : Bool
  lo : Int
  hi : Int
  deriving DecidableEq, Repr

/-- Two ranges share a byte; an empty range shares none. -/
def RwRange.meets (a b : RwRange) : Bool :=
  a.glob == b.glob && decide (a.lo < a.hi) && decide (b.lo < b.hi) && decide (a.lo < b.hi) && decide (b.lo < a.hi)
def spanRange (r : Span) : RwRange := { glob := false, lo := r.1, hi := (r.1 + r.2 : Nat) }
def Cmd.globals (m : Cmd) : List RwRange := if m.isCopy then (copyGlobal m).map (fun r => { glob := true, lo := r.1, hi := r.2 }) else []
def Cmd.rwWrites (m : Cmd) : List RwRange := m.wr.map spanRange ++ (if m.isCopy && m.outward then m.globals else [])
def Cmd.rwReads (m : Cmd) : List RwRange := m.rd.map spanRange ++ (if m.isCopy && !m.outward then m.globals else [])
def anyMeet (a b : List RwRange) : Bool := a.any (fun x => b.any x.meets)

/-! ### Operand slots (R145, R146) -/

/-- Where slot 0 X, 1 Y or 2 Z lies in a word of a major: low bit and width. -/
def slotAt (major slot : Nat) : Nat × Nat :=
  match major, slot with
  | 0x1F, 0 => (17, 7) | 0x1F, 1 => (10, 7) | 0x1F, _ => (3, 7)
  | 0x30, 0 => (18, 7) | 0x30, 1 => (11, 7) | 0x30, _ => (5, 6)
  | _, 0 => (13, 7) | _, 1 => (6, 7) | _, _ => (0, 6)
def slotField (w slot : Nat) : Nat := let p := slotAt (nbits w 25 6) slot; nbits w p.1 p.2
def Cmd.slotValue (m : Cmd) (slot : Nat) : Option Dword := if slot = 0 then m.x else if slot = 1 then m.y else m.z

/-- Write slot and read slots of an eligible word. `fixed` are the bits of the word that are fixed: all but in a pattern. -/
def writeSlot (w : Nat) : Nat :=
  let major := nbits w 25 6
  if major = 0x32 then 2
  else if major = 0x34 then 1
  else if major = 0x35 && nbits w 20 5 = 2 then (if nbit w 2 then 2 else 0)
  else if major = 0x30 then (if nbits w 0 5 = 1 || nbits w 0 5 = 4 || nbits w 0 5 = 6 then 2 else 0)
  else 0
def readSlots (w fixed : Nat) : List Nat :=
  let major := nbits w 25 6
  if major = 0x32 then (if nbit w 2 && nbit fixed 2 then [0, 1] else [0, 1, 2])
  else if major = 0x33 then [1, 2]
  else if major = 0x34 then [0]
  else if major = 0x35 then (if nbits w 20 5 = 2 then [] else [1])
  else if major = 0x1F then (if nbits w 0 3 = 2 then [0, 1, 2] else [1, 2])
  else if nbits w 0 5 = 1 || nbits w 0 5 = 4 || nbits w 0 5 = 6 then [0, 1]
  else [1, 2]

/-- Whether a word names an eligible instruction with a legal encoding (R137, R149). -/
def eligible (w : Nat) : Bool :=
  let major := nbits w 25 6
  (match decodeWord (BitVec.ofNat 32 w) with | .ok _ => true | .error _ => false) &&
  ((decide (0x32 ≤ major) && decide (major ≤ 0x35)) || major == 0x30 || (major == 0x1F && nbits w 0 3 != 6))

/-- Bits of a word that name the instruction of its major: [30:25] and the fn field. -/
def fnBits (w : Nat) : Nat :=
  fieldMask 25 6 + (match nbits w 25 6 with | 0x1F => fieldMask 0 3 | 0x30 => fieldMask 0 5 | _ => fieldMask 20 5)

/-! ### The rule image (R144, R147 to R149) -/

def ruleCtrl (b : List Byte) : Nat := recField b 0 4
def ruleValid (b : List Byte) : Bool := nbit (ruleCtrl b) 0
def ruleNpat (b : List Byte) : Nat := nbits (ruleCtrl b) 1 2
def ruleNrep (b : List Byte) : Nat := nbits (ruleCtrl b) 3 2
def ruleClass (b : List Byte) : Nat := nbits (ruleCtrl b) 5 2
def rulePrio (b : List Byte) : Nat := nbits (ruleCtrl b) 7 4
def ruleDrop (b : List Byte) (j : Nat) : Bool := nbit (ruleCtrl b) (11 + j)
def ruleNcond (b : List Byte) : Nat := nbits (ruleCtrl b) 14 3
def rulePt (b : List Byte) (j : Nat) : Nat := recField b (8 + 8 * j) 8
def ruleValue (b : List Byte) (j : Nat) : Nat := nbits (rulePt b j) 0 31
def ruleMask (b : List Byte) (j : Nat) : Nat := nbits (rulePt b j) 32 31
def ruleCond (b : List Byte) (j : Nat) : Nat := recField b (0x20 + 4 * j) 4
def ruleRt (b : List Byte) (j : Nat) : Nat := recField b (0x30 + 8 * j) 8
/-- A selector: MODE, T, S, reserved bits. -/
def selector (rt slot : Nat) : Nat × Nat × Nat × Nat :=
  let v := nbits rt (32 + 8 * slot) 8
  (v % 4, nbits v 2 2, nbits v 4 2, nbits v 6 2)

def condOk (c npat : Nat) : Bool :=
  let kind := nbits c 0 3
  let ta := nbits c 3 2
  let sa := nbits c 5 2
  let tb := nbits c 7 2
  let sb := nbits c 9 2
  let lo := nbits c 11 6
  let wm := nbits c 17 6
  let kk := nbits c 23 9
  let ranged := lo + wm + 1 ≤ 64
  decide (kind ≤ 5) && decide (ta < npat) && sa != 3 && sb != 3 && decide (tb < npat) && ranged &&
  (match kind with
    | 0 => lo == 0 && wm == 0 && kk == 0
    | 1 => lo == 0 && wm == 0 && kk == 0
    | 2 => sa == 0 && sb == 0 && lo == 0 && wm == 0 && kk == 0
    | 4 => kk == 0
    | _ => tb == 0 && sb == 0)

def patternOk (b : List Byte) (j : Nat) : Bool :=
  let w := ruleValue b j
  !nbit (rulePt b j) 31 && !nbit (rulePt b j) 63 && eligible w && Nat.land (ruleMask b j) (fnBits w) == fnBits w

def replacementOk (b : List Byte) (j : Nat) : Bool :=
  let rt := ruleRt b j
  let w := nbits rt 0 31
  let sel := fun (s : Nat) => selector rt s
  let ws := sel (writeSlot w)
  !nbit rt 31 && nbits rt 56 8 == 0 && eligible w &&
  (List.range 3).all (fun s =>
    let (mode, t, sl, rsv) := sel s
    rsv == 0 && ((mode == 0 && t == 0 && sl == 0) || (mode == 1 && decide (t < ruleNpat b) && sl != 3))) &&
  ws.1 == 1 && ws.2.2.1 == writeSlot (ruleValue b ws.2.1) && !(readSlots (ruleValue b ws.2.1) (ruleMask b ws.2.1)).contains ws.2.2.1

/-- A VALID image that `rwld` accepts (R149). -/
def ruleOk (b : List Byte) : Bool :=
  let np := ruleNpat b
  let nr := ruleNrep b
  let nc := ruleNcond b
  let copied := fun (j : Nat) => (List.range nr).any (fun r =>
    let w := nbits (ruleRt b r) 0 31
    (selector (ruleRt b r) (writeSlot w)).2.1 == j)
  nbits (ruleCtrl b) 17 15 == 0 && recField b 4 4 == 0 && np != 0 && nr != 3 && ruleClass b != 3 && decide (nc ≤ 4) &&
  (List.range 3).all (fun j => decide (j < np) || (rulePt b j == 0 && !ruleDrop b j)) &&
  (List.range 4).all (fun j => decide (j < nc) || ruleCond b j == 0) &&
  (List.range 2).all (fun j => decide (j < nr) || ruleRt b j == 0) &&
  (List.range np).all (patternOk b) && (List.range nc).all (fun j => condOk (ruleCond b j) np) &&
  (List.range nr).all (replacementOk b) && (List.range np).all (fun j => ruleDrop b j || copied j)

/-! ### Match steps (R138 to R141, R145, R147, R148, R150) -/

/-- A condition on the matched entries, oldest first. -/
def condMet (c : Nat) (ents : List Cmd) : Bool :=
  let a := ents.getD (nbits c 3 2) {}
  let d := ents.getD (nbits c 7 2) {}
  let sa := nbits c 5 2
  let sb := nbits c 9 2
  let fa := slotField a.word.toNat sa
  let fb := slotField d.word.toNat sb
  let cut := fun (v : Option Dword) => nbits (v.getD 0).toNat (nbits c 11 6) (nbits c 17 6 + 1)
  let va := cut (a.slotValue sa)
  match nbits c 0 3 with
  | 0 => fa == fb
  | 1 => fa != fb
  | 2 => !anyMeet (a.rwReads ++ a.rwWrites) (d.rwReads ++ d.rwWrites)
  | 3 => decide (fa < 64) && va == nbits c 23 9
  | 4 => decide (fa < 64) && decide (fb < 64) && va == cut (d.slotValue sb)
  | _ => decide (fa < 64) && decide (va ≤ nbits c 23 9)

/-- Every template, count and condition of a rule holds for the newest entries (R138, R139, R140, R145). -/
def ruleMatches (b : List Byte) (ents : List Cmd) (inFlight : Nat) : Bool :=
  let np := ruleNpat b
  ents.length == np &&
  (List.range np).all (fun j => let e := ents.getD j {}
    decide (e.count < 3) && Nat.land (Nat.xor (e.word.toNat % 2 ^ 31) (ruleValue b j)) (ruleMask b j) == 0) &&
  (List.range (ruleNcond b)).all (fun j => condMet (ruleCond b j) ents) && decide (inFlight + ruleNrep b ≤ 63 + np)

/-- The iterator a command's Z value names (R288). -/
def Group.iterOf (g : Group) (z : Nat) : List Dword × Nat := (mget (List.replicate 8 0) g.iters (z % 4), mget 0 g.itGens (z % 4))

/-- The operand fields of a command's word, as issue checks them. -/
def cmdFields (w : Nat) : List Field :=
  let f := fun (s : Nat) => slotField w s
  let src := fun (c : Nat) => ({ vec := false, code := c } : Field)
  match nbits w 25 6 with
  | 0x30 => [src (f 0), src (f 1), (src (f 2)).many 8]
  | 0x1F => [src (f 0), src (f 1), src (f 2)]
  | _ => [src (f 0), src (f 1)]

/-- One replacement (R148), or none where R150 refuses it. -/
def formOne (x : Ictx) (g : Group) (b : List Byte) (ents : List Op) (j : Nat) : Option Op :=
  let rt := ruleRt b j
  let base := nbits rt 0 31
  let major := nbits base 25 6
  let cmds := ents.map (fun o => o.cmd.getD {})
  let sel := fun (s : Nat) => selector rt s
  let src := fun (s : Nat) => cmds.getD (sel s).2.1 {}
  let word := (List.range 3).foldl (fun w s =>
    if (sel s).1 = 1 then
      let p := slotAt major s
      let f := slotField (src s).word.toNat (sel s).2.2.1 % 2 ^ p.2
      w - nbits w p.1 p.2 * 2 ^ p.1 + f * 2 ^ p.1
    else w) base
  let regOf := fun (s : Nat) => slotField word s
  let value := fun (s : Nat) => if (sel s).1 = 1 then (src s).slotValue (sel s).2.2.1 else some (g.readS x.u x.clk (regOf s))
  let reads := fun (s : Nat) => if (sel s).1 = 1 then [] else if major = 0x30 && s = 2 then (List.range 8).map (fun i => (regOf 2 + i) % 64)
    else if regOf s < 64 then [regOf s] else []
  let legal := eligible word && (illegalField g x.u 0 (cmdFields word)).isNone
  if !legal || (List.range 3).any (fun s => (reads s).any g.sPending) then none
  else
    -- a Z slot that copies any slot of a copy entry carries that entry's whole record; an iterator is what slot Z captured
    let from_ := if (sel 2).1 = 1 && (src 2).major = major then some (src 2) else none
    let zFrom := if (sel 2).2.2.1 = 2 then from_ else none
    let z := value 2
    let record := if major = 0x30 then (match from_ with
      | some e => e.record
      | none => (z.getD 0) :: (List.range 7).map (fun i => g.sreg ((regOf 2 + i + 1) % 64))) else []
    let it := if major = 0x1F then (match zFrom with
      | some e => (e.iter, e.itGen)
      | none => g.iterOf (z.getD 0).toNat) else ([], 0)
    let like := ents.getD (sel (writeSlot base)).2.1 (ents.headD { seq := 0, path := 4, pc := 0, kind := .engine })
    let lc := like.cmd.getD {}
    let first := cmds.getD 0 {}
    let m : Cmd := { word := BitVec.ofNat 32 word, addr := first.addr, x := value 0, y := value 1, z := z, record := record, iter := it.1, itGen := it.2,
                     xv := lc.xv, xvq := lc.xvq, cp := lc.cp, count := 1 + cmds.foldl (fun a e => max a e.count) 0, rep := j }
    let m := { m with wr := m.writes {} g, rd := m.reads {} g }
    some { like with cmd := some m, out := [], reports := [], status := .issued }

/-- How a rule meets the newest entries. -/
inductive RuleRes where
  | no
  | refused
  | apply (reps : List Op)
  deriving DecidableEq, Repr

def tryRule (x : Ictx) (g : Group) (b : List Byte) : RuleRes :=
  let win := g.windowOps
  let np := ruleNpat b
  let ents := win.drop (win.length - np)
  let cmds := ents.map (fun o => o.cmd.getD {})
  if !ruleMatches b cmds (g.inFlight 4) || (decide (0 < ruleNrep b) && cmds.any (fun e => decide (3 ≤ e.count))) then .no
  else
    let reps := (List.range (ruleNrep b)).map (formOne x g b ents)
    if reps.any Option.isNone then .refused
    else
      let rs := reps.filterMap id
      if rs.any (fun o => anyMeet (o.cmd.getD {}).rwWrites (cmds.flatMap Cmd.rwReads)) then .refused else .apply rs

/-- A count for the statistics block (R155): entries 0 to 63, 64 replayed, 65 refused. -/
def Group.countRw (g : Group) (n : Nat) : Group := if g.rws == 0 then g else { g with rwAdds := g.rwAdds ++ [(n, 1)] }

/-- One replacement of an instance is done with: when it was the last, the owed sectors are settled and the instances it took
entries from count one fewer (R369). -/
def State.instanceLess (c sl : Nat) (flt : Bool) : Nat → Nat → State → State
  | 0, _, s => s
  | fuel + 1, id, s =>
    let g := s.group c sl
    match g.instances.find? (fun i => i.id == id) with
    | none => s
    | some i =>
      let i := { i with left := i.left - 1, flt := i.flt || flt }
      if i.left = 0 then
        let keep := i.fault.isSome
        let insts := if keep then updWhere (fun (y : Instance) => y.id == id) (fun _ => { i with owed := [] }) g.instances
          else g.instances.filter (fun y => y.id != id)
        let s := s.setGroup c sl { g with instances := insts }
        let s := s.settleSectors c g i.owed i.flt
        i.ups.foldl (fun s u => State.instanceLess c sl i.flt fuel u s) s
      else s.setGroup c sl { g with instances := updWhere (fun (y : Instance) => y.id == id) (fun _ => i) g.instances }

/-- Originals of several instances as one list, each once, in the order of their issue (R154). -/
def mergeOriginals (ms : List Cmd) : List Cmd :=
  sortBy (fun (a b : Cmd) => decide (a.num.getD 0 < b.num.getD 0))
    (ms.foldl (fun acc m => if acc.any (fun (a : Cmd) => a.num == m.num) then acc else acc ++ [m]) [])

/-- A rule is applied: its replacements take the place of the matched entries, and an instance keeps the originals (R138, R154,
R369). -/
def State.applyRule (s : State) (c sl n : Nat) (b : List Byte) (reps : List Op) : State :=
  let g := s.group c sl
  let win := g.windowOps
  let ents := win.drop (win.length - ruleNpat b)
  let cmds := ents.map (fun o => o.cmd.getD {})
  let id := s.seq
  let posts := fun (o : Op) => copyPosts (o.cmd.getD {}) g.localSize
  let reps := (List.range reps.length).filterMap (fun j => (reps[j]?).map (fun o =>
    { o with seq := id + 1 + j, cmd := some { (o.cmd.getD {}) with inst := some id, posted := posts o } }))
  let ups := cmds.filterMap (·.inst)
  let origs := mergeOriginals (ents.flatMap (fun o =>
    let e := o.cmd.getD {}
    let own : Cmd := { e with num := some o.seq }
    match e.inst with
    | none => [own]
    | some u => match g.instances.find? (fun i => i.id == u) with
      | some i => i.originals
      | none => [own]))
  let order := (ups.filterMap (fun u => (g.instances.find? (fun i => i.id == u)).map (·.order))).foldl min ((ents.map (·.seq)).foldl min id)
  let inst : Instance := { id := id, rule := n, addr := (cmds.headD {}).addr, originals := origs, left := max 1 reps.length,
                           owed := cmds.flatMap (·.posted), ups := ups, order := order }
  let last := (ents.getLast?.map (·.seq)).getD 0
  let ops := g.ops.flatMap (fun (o : Op) => if o.seq == last then reps else if ents.any (fun e => e.seq == o.seq) then [] else [o])
  let g := { g with ops := ops, instances := g.instances ++ [inst] }
  let s := { s.setGroup c sl (g.countRw n) with seq := id + 1 + reps.length }
  let s := reps.foldl (fun s o => s.postSectors c g (o.cmd.getD {}).posted) s
  if reps.isEmpty then State.instanceLess c sl false 8 id s else s

/-- Match steps from the entry that has just entered the window (R138); each replacement that is not empty enters anew. -/
def matchSteps (x : Ictx) : Nat → State → State
  | 0, s => s
  | fuel + 1, s =>
    let g := s.group x.c x.sl
    let rules := (s.part g.part).rules.filter (fun e => g.rwp.getLsbD (ruleClass e.2))
    let tried := rules.map (fun e => (e.1, e.2, tryRule x g e.2))
    let refused := (tried.filter (fun t => t.2.2 == .refused)).length
    let s := if refused = 0 then s else s.setGroup x.c x.sl ((List.range refused).foldl (fun g _ => g.countRw 65) g)
    let hits := tried.filterMap (fun t => match t.2.2 with | .apply r => some (t.1, t.2.1, r) | _ => none)
    let better := fun (a b : Nat × List Byte × List Op) =>
      decide (rulePrio a.2.1 < rulePrio b.2.1) || (rulePrio a.2.1 == rulePrio b.2.1 && decide (a.1 ≤ b.1))
    match hits.find? (fun h => hits.all (better h)) with
    | none => s
    | some (n, b, reps) =>
      let s := s.applyRule x.c x.sl n b reps
      if reps.isEmpty then s else matchSteps x fuel s

/-- The oldest entry of the window enters the scoreboard (R142). -/
def State.releaseOldest (s : State) (c sl : Nat) : State :=
  let k := s.core c
  let g := k.group sl
  match g.windowOps.head? with
  | none => s
  | some o =>
    let o' := { o with cmd := o.cmd.map (fun m => { m with stage := .entered, entry := k.entries }) }
    s.setCore c ({ k with entries := k.entries + 1 }.setGroup sl (g.setOp o'))

/-- An entry enters the window: its match steps, then a ninth releases the oldest (R138, R142). -/
def State.windowEntered (s : State) (x : Ictx) : State :=
  let s := matchSteps x 8 s
  if 8 < (s.group x.c x.sl).windowOps.length then s.releaseOldest x.c x.sl else s

/-- WINDOW_TIMEOUT (R142): every entry of a group's window enters the scoreboard. -/
def execWindowTimeout (s : State) : Host.Outcome State Fault Refusal := .next (s.flush s.args.core s.args.slot)

end Sys2Proof.Machine
end

