-- ==== Sys2Proof/Machine/Engine.lean ====
section
/-! DEFINITION. The engine scoreboard (R133, R313, R331), how a command starts, runs, faults and completes (R153, R154, R183,
R289, R309), matrix pairs (R135, R136, R316), and the instructions that make commands. -/

namespace Sys2Proof.Machine

/-! ### Units and order -/

/-- The unit a command runs on: 0 copy, 1 tile, 2 matrix, 3 plane-dot, 4 selection (R313, R320). -/
def Cmd.unit (m : Cmd) : Nat :=
  match m.major with
  | 0x30 => 0
  | 0x1F => 1
  | 0x35 => if m.accZero then 2 else 1
  | 0x36 => 3
  | 0x37 => 4
  | _ => 2

/-- A command of the scoreboard: its slot, its operation. -/
structure Live where
  sl : Nat
  op : Op
  m : Cmd
  deriving DecidableEq, Repr

/-- Commands that have entered and not retired, by entry number. -/
def Core.entered (k : Core) : List Live :=
  let all := k.groups.flatMap (fun e => e.2.ops.filterMap (fun o => match o.cmd with
    | some m => if m.stage == .entered || m.stage == .started then some { sl := e.1, op := o, m := m } else none
    | none => none))
  sortBy (fun a b => decide (a.m.entry < b.m.entry)) all

/-- Local ranges in physical local memory, so that teams and tasks are told apart. -/
def physSpans (g : Group) (rs : List Span) : List Span :=
  if g.isTask then rs.flatMap (fun r => (List.range (r.2 / 4096 + 2)).filterMap (fun i =>
    let lo := max r.1 ((r.1 / 4096 + i) * 4096)
    let hi := min (r.1 + r.2) ((r.1 / 4096 + i + 1) * 4096)
    if lo < hi then some (g.localPhys lo, hi - lo) else none))
  else rs.map (fun r => (g.localPhys r.1, r.2))
def spansMeet (a b : List Span) : Bool := a.any (fun x => b.any x.overlaps)

/-- The query slots as a command will find them: older `pqry` commands that have not retired fill theirs first (R322, R331). -/
def Core.queriesFor (k : Core) (x : Live) : Core :=
  let older := k.entered.filter (fun a => decide (a.m.entry < x.m.entry) && a.m.major == 0x36 && a.m.fn == 0)
  { k with queries := older.foldl (fun q a => mput q (a.m.zf % 4) { weights := List.replicate (nbits a.m.yn 0 8 + 1) 0, q := nbits a.m.yn 32 32 }) k.queries }
/-- The local ranges of a command in physical local memory: written, read. -/
def Core.footprint (k : Core) (x : Live) : List Span × List Span :=
  let g := k.group x.sl
  let k := if x.m.major == 0x36 && x.m.fn != 0 then k.queriesFor x else k
  (physSpans g (x.m.writes k g), physSpans g (x.m.reads k g))

/-- The local ranges of an older command as a newer one meets them: of a merge or a sort that has not started, what bounds them. -/
def Core.bounds (k : Core) (x : Live) : List Span × List Span :=
  if x.m.major = 0x37 && (x.m.fn = 3 || x.m.fn = 4) && x.m.stage != .started then
    let g := k.group x.sl
    (physSpans g (listBounds g x.m).1, physSpans g (listBounds g x.m).2)
  else k.footprint x
/-- Whether an older command holds a newer one back: RAW, WAR or WAW (R133). -/
def clash (k : Core) (a b : Live) : Bool :=
  let (wa, ra) := k.bounds a
  let (wb, rb) := k.footprint b
  spansMeet wa (wb ++ rb) || spansMeet ra wb

/-- Two commands of one engine that runs its commands one at a time (R313). -/
def Live.oneUnit (a b : Live) : Bool := a.m.unit != 0 && a.m.unit == b.m.unit

/-- What a command waits for: an older one that it overlaps (R133) or that runs before it on its unit (R313), where no replay holds that
one behind it, and an original that a replay holds it behind (R154). -/
def Core.waitsFor (k : Core) (x a : Live) : Bool :=
  a.op.seq != x.op.seq && !x.m.holds.contains a.op.seq &&
  ((decide (a.m.entry < x.m.entry) && (clash k a x || a.oneUnit x)) || a.m.holds.contains x.op.seq)
/-- The commands that wait for a command, each directly or for another that does. -/
def Core.waiters (k : Core) (x : Live) : List Live :=
  k.entered.foldl (fun acc _ => acc ++ k.entered.filter (fun y => !acc.contains y && (k.waitsFor y x || acc.any (k.waitsFor y)))) []
/-- Whether a replayed original passes an older command: that one, not another original of its group, itself waits for the original,
through one that R154 holds behind it (log 135). -/
def Core.passes (k : Core) (x a : Live) : Bool :=
  x.m.num.isSome && (a.sl != x.sl || a.m.num.isNone) && (k.waiters x).contains a
/-- A command may start: no command that it waits for is left (R133, R154, R313). -/
def Core.mayStart (k : Core) (x : Live) : Bool := k.entered.all (fun a => !k.waitsFor x a || k.passes x a)

/-! ### Faults and completion -/

/-- TRX of a TILE_FAULT (R153). -/
def tileTrx (kind rep rule addr : Nat) : Dword := d64 (kind + rep % 2 * 16 + rule % 64 * 32 + addr / 16 % 2 ^ 53 * 2 ^ 11)

/-- A command has ended: it leaves the scoreboard, and its operation is performed. -/
def endCmd (o : Op) (m : Cmd) : Op := { o with status := .performed, cmd := some { m with stage := .retired, posted := [], holds := [] } }

/-- Commands discarded: their sectors settle with FLT, their counts fall in order (R154, R183). -/
def State.discard (s : State) (c sl : Nat) (os : List Op) : State :=
  os.foldl (fun s o =>
    match o.cmd with
    | none => s
    | some m =>
      let g := s.group c sl
      let s := s.setGroup c sl (g.setOp (endCmd o m))
      let s := s.settleSectors c g m.posted true
      match m.inst with
      | some id => State.instanceLess c sl true 8 id s
      | none => s) s

/-- An instance, those it took entries from, and those that took entries from one of them: what one fault ends (R154). -/
def family (is : List Instance) (id : Nat) : List Instance :=
  is.foldl (fun acc _ => is.filter (fun i => i.id == id || acc.any (fun (j : Instance) => j.id == i.id || j.ups.contains i.id || i.ups.contains j.id))) []

/-- A command faults at an address: its report, and, for a replacement, the end of its instance and of all that share entries with it: what
has not completed of them is discarded, and the originals of them all are kept for the replay (R153, R154, log 135). -/
def State.cmdFault (s : State) (c sl : Nat) (o : Op) (m : Cmd) (addr : Nat) (iter : Option (Nat × Nat × Nat)) : State :=
  let g := s.group c sl
  let report := fun (seq : Nat) (trx : Dword) (tra : Va) (inst : Option Nat) (it : Option (Nat × Nat × Nat)) =>
    ({ path := 4, seq := seq, cause := 0x14, trx := trx, tra := some tra, inst := inst, iter := it } : Report)
  match (match m.inst with | some id => g.instances.find? (fun (i : Instance) => i.id == id) | none => none) with
  | none => s.setGroup c sl { g with reports := g.reports ++ [report o.seq (tileTrx 2 0 0 addr) m.addr none iter] }
  | some i =>
    if i.fault.isSome then s
    else
      let r := report i.order (tileTrx 3 m.rep i.rule addr) i.addr (some i.id) none
      let kin := family g.instances i.id
      let kept := mergeOriginals (kin.flatMap (·.originals))
      let g := { g with reports := g.reports ++ [r], instances := updWhere (fun (y : Instance) => y.id == i.id) (fun (y : Instance) => { y with fault := some m.entry, originals := kept }) g.instances }
      let rest := g.ops.filter (fun p => p.seq != o.seq && (match p.cmd with
        | some q => q.stage != .retired && kin.any (fun (j : Instance) => q.inst == some j.id)
        | none => false))
      (s.setGroup c sl g).discard c sl rest

/-- A command ends, with a fault or without: its sectors settle, its report is made, its instance counts one fewer. -/
def State.finishCmd (s : State) (c sl : Nat) (o : Op) (m : Cmd) (fault : Option Nat) (iter : Option (Nat × Nat × Nat) := none) : State :=
  let g := s.group c sl
  let s := s.setGroup c sl (g.setOp (endCmd o m))
  let s := s.settleSectors c g m.posted fault.isSome
  let s := match fault with
    | some a => s.cmdFault c sl o m a iter
    | none => s
  match m.inst with
  | some id => State.instanceLess c sl fault.isSome 8 id s
  | none => s

/-! ### Checks at start (R309, R313) -/

/-- The role a core's matrix commands take: without a team on it, it acts as an unpaired core (R316, R357). -/
def Core.role (k : Core) : PairRole := if k.groups.any (fun e => e.2.holder == .group) then k.pair else .single
/-- Weight slots a core has: 32 in a pair, 16 alone (R315). -/
def Core.slotCount (k : Core) : Nat := match k.role with | .single => 16 | _ => 32

def Cmd.fieldsOk (m : Cmd) (k : Core) (g : Group) : Bool :=
  match m.major with
  | 0x1F => sweepFields m
  | 0x32 => mmaFields m k.slotCount
  | 0x33 => mdrFields m
  | 0x34 => wblFields m k.slotCount
  | 0x35 => tileFields m
  | 0x36 => if m.fn = 0 then pqryFields m else pdotFields m
  | _ => selFields k g m

/-- The address of the fault a command starts with, if it does. -/
def Cmd.startFault (m : Cmd) (k : Core) (g : Group) : Option Nat :=
  if m.isCopy then m.copyCheck k g
  -- a matrix command of a follower core, as a replacement can be (R135)
  else if m.unit = 2 && (match k.role with | .follower _ _ _ => true | _ => false) then some 0
  else if !m.fieldsOk k g then some 0
  else if m.major = 0x1F then none
  else if m.major = 0x36 && m.fn != 0 && pdN m = 0 then none
  else if m.major = 0x36 && m.fn != 0 && (mget {} k.queries (m.zf % 4)).weights.isEmpty then some 0
  else match outside g.localSize (m.writes k g ++ m.reads k g) with
    | some a => some a
    | none => if m.major = 0x32 && (runMma k g m).isNone then some 0 else none

/-! ### Running -/

/-- A command that does not reach global memory, whole: the core and the group after it, and the fault of a sweep with the index
it stopped at. -/
def runLocal (k : Core) (sl : Nat) (m : Cmd) : Core × Option (Nat × Nat) :=
  let g := k.group sl
  let count := fun (k : Core) (f : Nat) (rs : List FpR) => k.setGroup sl (countR f rs (k.group sl))
  match m.major with
  | 0x1F =>
    let (k, rs, stop) := sweepFrom g m (itTotal m - itPos m) (itPos m) k []
    (count k (sweepDf m) rs, stop)
  | 0x32 =>
    match runMma k g m with
    | none => (k, none)
    | some (mx, evs) => ({ k with matrix := mx }.setGroup sl ((k.group sl).countEvents 0 evs), none)
  | 0x33 =>
    let (mx, out, rs) := runMdr k m
    let k := { k with matrix := mx }
    let k := match out with
      | some bs => k.lwrite g (nbits m.xn 0 19) bs
      | none => k
    (count k (mdrFmt m.fn) rs, none)
  | 0x34 =>
    let (codes, rs, f) := wblCodes k g m
    let mx := k.matrix
    let k := { k with matrix := { mx with slots := mput mx.slots (nbits m.yn 0 5) (wblTag m.fn (m.zf % 2), codes) } }
    (count k f rs, none)
  | 0x35 =>
    if m.accZero then
      let mx := k.matrix
      ({ k with matrix := { mx with acc := mput mx.acc (m.zf % 4) (.zero, []) } }, none)
    else
      let (bs, rs) := runTile k g m
      (count (k.lwrite g (tileD m) bs) (tileDf m) rs, none)
  | 0x36 =>
    if m.fn = 0 then
      let bs := k.lread g (nbits m.xn 0 19) (nbits m.yn 0 8 + 1)
      ({ k with queries := mput k.queries (m.zf % 4) { weights := bs.map (fun b => b.toInt), q := nbits m.yn 32 32 } }, none)
    else
      let (k, rs) := runPdot k g m (mget {} k.queries (m.zf % 4))
      (count k 0 rs, none)
  | _ =>
    match runSel k g m with
    | some (bs, rs) => (count (k.lwrite g (nbits m.xn 0 19) bs) 0 rs, none)
    | none => (k, none)

/-- Sectors newly written between two points of a transfer are counted, and leave those still to settle. -/
def State.countSectors (s : State) (c : Nat) (g : Group) (m : Cmd) (n : Nat) : State × Cmd :=
  let now := copySectors m n
  let before := copySectors m m.moved
  let steps := (List.range m.posted.length).map (fun i =>
    let p := m.posted.getD i (0, 0)
    (p.1, min p.2 (now.getD i 0 - before.getD i 0)))
  let left := (List.range m.posted.length).map (fun i => ((m.posted.getD i (0, 0)).1, (m.posted.getD i (0, 0)).2 - (steps.getD i (0, 0)).2))
  (s.settleSectors c g steps false, { m with moved := n, posted := left })

/-- At entry 0 of a list of key-value entries, GOAL changes to what they take (R308). -/
def State.kvGoal (s : State) (c : Nat) (g : Group) (m : Cmd) : State × Cmd :=
  if m.fn = 3 && !m.kv && m.moved == 0 && decide (0 < m.listLen) && nbit (leNat ((s.core c).lread g m.listAddr 8)) 63 then
    let l := m.layout
    let m := { m with kv := true }
    match m.posted with
    | [(q, n0)] =>
      let n1 := ceilDiv (m.listLen * l.kvBytes) 32
      (s.tbStep c g q (fun b => { b with goal := b.goal + w32 n1 - w32 n0 }), { m with posted := [(q, n1)] })
    | _ => (s, m)
  else (s, m)

/-- A request leaves for a command, which waits for its response; with no tag free the command waits for one. -/
def State.sendCmd (s : State) (c sl : Nat) (o : Op) (m : Cmd) (r : CopyReq) : State :=
  let full := s.fab.full 1
  let put := s.setGroup c sl ((s.group c sl).setOp { o with status := if full then .issued else .sent, cmd := some (if full then m else { m with waiting := r.units, partNext := r.part }) })
  if full then put else put.sendReq (.engine c sl o.seq) r.va r.pkt

/-- A page fault of a task's command aborts the task; what the command still had to do is discarded (R218). -/
def State.taskCmd (s : State) (c sl : Nat) (o : Op) (m : Cmd) (rec : Nat) : State :=
  (s.discard c sl [{ o with cmd := some m }]).abortTask c sl (some rec)

/-- A copy command runs on, from the unit it has come to (R307 to R309). -/
def State.runCopy (s : State) (c sl : Nat) (o : Op) (m : Cmd) : State :=
  let g := s.group c sl
  if m.fn = 6 then
    match s.cpyrNext c g o m (m.layout.count + 1) m.moved with
    | .done => s.finishCmd c sl o m none
    | .fault a => s.finishCmd c sl o m (some a)
    | .send n r => s.sendCmd c sl o { m with moved := n } r
  else if m.fn = 5 then
    let l := m.layout
    let k0 := s.core c
    let at_ := fun (n : Nat) => m.region + l.swz (n * l.size)
    -- an element that swizzling takes past the window stops the command (R309, log 31)
    let last := ((List.range l.count).find? (fun n => g.beyond (at_ n) l.size)).getD l.count
    let s := (List.range last).foldl (fun s n =>
      s.engLocal c g m n (at_ n) (k0.lread g (m.listAddr + n * l.size) l.size) (k0.lbad g (m.listAddr + n * l.size) l.size)) s
    let (s, m) := s.countSectors c g m last
    s.finishCmd c sl o m (if last < l.count then some (at_ last) else none)
  else
    let (s, m) := s.kvGoal c g m
    let (s, n, stop) := copyFrom c sl o m (copyTotal m - m.moved) m.moved s
    let (s, m) := s.countSectors c g m n
    let keep := fun (s : State) (st : OpStatus) => s.setGroup c sl ((s.group c sl).setOp { o with status := st, cmd := some m })
    match stop with
    | none => s.finishCmd c sl o m none
    | some (.next _) => keep s .issued
    | some (.stop (.fault a)) => s.finishCmd c sl o m (some a)
    | some (.stop (.park r)) => if g.isTask then s.taskCmd c sl o m r else keep s (.parked r)
    | some (.stop .held) => keep s .held
    | some (.stop _) => keep s .issued
    | some (.remote r) =>
      match s.kvRemote g.part o m r (n % m.perEntry) with
      | (s, none) => s.finishCmd c sl o m (some (m.listAddr + 8 * (n / m.perEntry)))
      | (s, some (v, r)) => s.sendCmd c sl o { m with vAt := v } r

/-- A response to a command's request (R188, R307): data lands at the units it moves, and the command goes on from there. One other than
OK faults the command, on path 4, as R307 says of every response: R53's trap on path 3 is that of a request of path 3 (log 108). -/
def State.cmdReply (s : State) (c sl seq : Nat) (out : Outstanding) (stat : Nat) (data : List Byte) : State :=
  match (s.group c sl).op seq with
  | none => s
  | some o =>
    match o.cmd with
    | none => s
    | some m =>
      let g := s.group c sl
      let l := m.layout
      let entry := m.moved / m.perEntry * l.kvBytes + 4 * (m.moved % m.perEntry)
      let at_ := fun (i : Nat) => m.region + l.swz (entry + i)
      let n := m.moved + m.waiting
      let part := m.partNext
      let m := { m with waiting := 0, partNext := 0 }
      let counting := m.kv && m.bv && !m.posted.isEmpty
      if (n = m.moved && part = 0) || m.stage != .started then s
      else if stat != 0 then
        let s := if stat = 2 && counting then s.tbStep c g m.barAddr (fun b => { b with pois := true }) else s
        s.finishCmd c sl o m (some out.va)
      else if !m.kv then s.setGroup c sl (g.setOp { o with status := .issued, cmd := some { m with moved := n, part := part } })
      else
        -- an element that swizzling takes past the window stops the command (R309, log 31)
        let last := ((List.range data.length).find? (fun i => g.beyond (at_ i) 1)).getD data.length
        let s := (List.range last).foldl (fun s i => s.engLocal c g m m.moved (at_ i) [data.getD i 0] false) s
        let (s, m) := s.countSectors c g m (if last < data.length then m.moved + last / 4 else n)
        if last < data.length then s.finishCmd c sl o m (some (at_ last))
        else if copyTotal m ≤ n then s.finishCmd c sl o m none
        else s.setGroup c sl ((s.group c sl).setOp { o with status := .issued, cmd := some m })

/-- Whether a self-test holds the segment of a matrix command's array out of service (R10): nothing reaches it. -/
def State.segmentOut (s : State) (c : Nat) (m : Cmd) : Bool :=
  m.unit == 2 && s.pkg.windows.any (fun r => match r with
    | .matrixSegment d _ => d == c || (match (s.core c).pair with | .leader f _ _ => d == f | _ => false)
    | _ => false)

/-- A command starts if it may: its checks are made (R313). -/
def State.startCmd (s : State) (c sl seq : Nat) : State :=
  match (s.group c sl).op seq with
  | none => s
  | some o =>
    match o.cmd with
    | none => s
    | some m =>
      let k := s.core c
      if m.stage != .entered || o.status != .issued || s.segmentOut c m || !k.mayStart { sl := sl, op := o, m := m } then s
      else
        let m := { m with stage := .started, began := k.clk.toNat }
        let o := { o with cmd := some m }
        let s := s.setGroup c sl ((s.group c sl).setOp o)
        match m.startFault k (k.group sl) with
        | some a => s.finishCmd c sl o m (some a)
        | none => s

/-- A started command runs to its end, or as far as it can. -/
def State.runCmd (s : State) (c sl seq : Nat) : State :=
  match (s.group c sl).op seq with
  | none => s
  | some o =>
    match o.cmd with
    | none => s
    | some m =>
      if m.stage != .started || o.status != .issued || s.segmentOut c m then s
      else if m.isCopy then s.runCopy c sl o m
      else
        let (k, stop) := runLocal (s.core c) sl m
        let s := s.setCore c k
        match stop with
        | none => s.finishCmd c sl o m none
        | some (n, a) => s.finishCmd c sl o m (some a) (if m.inst.isNone then some (m.zn % 4, n, m.itGen) else none)

/-- Commands of a core up to an entry number, and up to the last original that a replay has entered, run, in entry order, as far as they
can. -/
def State.runUpTo (s : State) (c last : Nat) : State :=
  let es := (s.core c).entered
  let last := (es.filter (fun x => x.m.num.isSome)).foldl (fun n x => max n x.m.entry) last
  (es.filter (fun x => decide (x.m.entry ≤ last))).foldl (fun s x => (s.startCmd c x.sl x.op.seq).runCmd c x.sl x.op.seq) s

/-- The commands of a full scoreboard run, so that one retires (R133). -/
def State.boardMoves (s : State) (c : Nat) : State := s.runUpTo c (s.core c).entries

/-- The oldest path 4 operation of a group completes, if it can (R122). -/
def State.engineOldest (s : State) (c sl : Nat) : State :=
  let head := fun (s : State) => (s.group c sl).ops.find? (fun o => o.path == 4)
  match head s with
  | none => s
  | some o =>
    let s := match o.cmd with
      | some m =>
        if m.stage == .window then
          let s := s.flush c sl
          match head s with
          | some o' => s.runUpTo c ((o'.cmd.map (·.entry)).getD 0)
          | none => s
        else if o.status == .issued then s.runUpTo c m.entry else s
      | none => s
    match head s with
    | some o => if o.status == .performed then s.setGroup c sl ((s.group c sl).retireOp o) else s
    | none => s

/-- The command of a core with an entry number. -/
def Core.entryOf (k : Core) (n : Nat) : Option Live := k.entered.find? (fun x => x.m.entry == n)

/-- ENGINE_COMMAND_START (R133). -/
def execEngineCommandStart (s : State) : Host.Outcome State Fault Refusal :=
  match (s.core s.args.core).entryOf s.args.id with
  | none => .next s
  | some x => .next (s.startCmd s.args.core x.sl x.op.seq)
/-- ENGINE_COMMAND_COMPLETE (R313): the command runs to its end, having started. -/
def execEngineCommandComplete (s : State) : Host.Outcome State Fault Refusal :=
  match (s.core s.args.core).entryOf s.args.id with
  | none => .next s
  | some x => .next ((s.startCmd s.args.core x.sl x.op.seq).runCmd s.args.core x.sl x.op.seq)

/-! ### Matrix pairs (R135, R136, R316) -/

/-- The core that keeps the matrix state of a core's pair. -/
def Core.leaderOf (k : Core) (c : Nat) : Nat := match k.role with | .follower l _ _ => l | _ => c

/-- The segment that a pair's reset puts to the self-test: the one the event names, of either core of the pair (log 95). -/
def State.resetSegment (s : State) (c : Nat) : Resource :=
  match s.args.res with
  | .matrixSegment d n => if d == c || (match (s.core c).pair with | .leader f _ _ => d == f | _ => false) then .matrixSegment d n else .matrixSegment c 0
  | _ => .matrixSegment c 0

/-- A core loses its matrix commands and its matrix state to a pair's reset: its groups trap at their next `waitc` on path 4, whose count has
fallen for them (R136). -/
def State.loseMatrix (s : State) (c : Nat) : State :=
  let lost := (s.core c).entered.filter (fun x => x.m.unit == 2)
  let s := lost.foldl (fun s x => s.discard c x.sl [x.op]) s
  let s := (lost.map (·.sl)).eraseDups.foldl (fun s sl =>
    let g := s.group c sl
    let gone := (lost.filter (fun x => x.sl == sl)).map (·.op.seq)
    let r : Report := { path := 4, seq := gone.headD 0, cause := 0x15, trx := 0 }
    s.setGroup c sl { g with ops := g.ops.filter (fun o => !gone.contains o.seq), reports := g.reports ++ [r] }) s
  s.setCore c { s.core c with matrix := {} }

/-- PAIR_RESET (R136): a matrix command that has not retired 2^24 cycles after it started. -/
def execPairReset (s : State) : Host.Outcome State Fault Refusal :=
  let c := (s.core s.args.core).leaderOf s.args.core
  let k := s.core c
  let late := k.entered.any (fun x => x.m.unit == 2 && x.m.stage == .started && decide (x.m.began + 2 ^ 24 ≤ k.clk.toNat))
  if !late then .next s
  else
    let s := match k.pair with
      | .leader f _ _ => (s.loseMatrix c).loseMatrix f
      | _ => s.loseMatrix c
    let seg := s.resetSegment c
    .next ((s.postMgmt (.matrixReset c)).errorOn seg)

/-! ### Issue of a command (R306, R313, R288) -/

/-- The hint fields a command captures (R137). -/
def Ictx.cmd (x : Ictx) (w : Word) (a b z : Option Dword) (record iter : List Dword) (gen : Nat) : Cmd :=
  { word := w &&& 0x7FFFFFFF, addr := x.u.pc, x := a, y := b, z := z, record := record, iter := iter, itGen := gen, xv := x.xv, xvq := x.u.hints.xvq,
    cp := x.u.hints.cp, count := if x.u.hints.rw then 3 else 0, priv := x.g.privileged }

/-- A command is entered: into the window (R137), or straight into the scoreboard (R133, R313). -/
def enterCmd (x : Ictx) (s : State) (direct : Bool) (m : Cmd) : Done :=
  let k := s.core x.c
  let g := k.group x.sl
  let full := decide (64 ≤ k.entered.length)
  if full && (direct || decide (8 ≤ g.windowOps.length)) then .stall (s.boardMoves x.c)
  else
    let m := if direct then { m with stage := .entered, entry := k.entries } else { m with stage := .window }
    let m := { m with posted := copyPosts m g.localSize, wr := if direct then [] else m.writes k g, rd := if direct then [] else m.reads k g }
    let o : Op := { seq := 0, path := 4, pc := 0, kind := .engine, dvec := false, cmd := some m }
    match enterOp x s (fun s => s.engineOldest x.c x.sl) (o.withHints x.u.hints) with
    | .fin s l w n a =>
      let s := s.postSectors x.c (s.group x.c x.sl) m.posted
      let s := if direct then s.setCore x.c { s.core x.c with entries := k.entries + 1 } else s.windowEntered x
      .fin s l w n a
    | d => d

/-- A command of major 0x32 to 0x37. Matrix commands trap on a follower (R135). -/
def tlCmd (i : Instr) (e : Bool) (a b : BitVec 7) (s : State) : Host.Outcome State Fault Refusal :=
  let w := (encode i).getD 0
  issue { i := i, e := e, fields := [sSrcF a, sSrcF b] } s (fun x s =>
    let major := nbits w.toNat 25 6
    let m := x.cmd w (some (x.readS a)) (some (x.readS b)) (some (x.g.sreg (nbits w.toNat 0 6))) [] [] 0
    let follower := match (s.core x.c).role with | .follower _ _ _ => true | _ => false
    if m.unit = 2 && follower then .trap 0x14 1
    else enterCmd x s (decide (0x36 ≤ major)) m)

/-- A sweep (R288, R289): the iterator that Z names is captured. -/
def sweepCmd (i : Instr) (e : Bool) (a b z : BitVec 7) (s : State) : Host.Outcome State Fault Refusal :=
  issue { i := i, e := e, fields := [sSrcF a, sSrcF b, sSrcF z] } s (fun x s =>
    let zv := x.readS z
    let it := x.g.iterOf zv.toNat
    enterCmd x s false (x.cmd ((encode i).getD 0) (some (x.readS a)) (some (x.readS b)) (some zv) [] it.1 it.2))

/-- A copy command (R306): the layout record of eight registers is captured; `cpyr` is checked against its peer's row (R53);
no request is formed then, and TRX takes BASE for its address (log 120). -/
def copyCmd (i : Instr) (e : Bool) (a b : BitVec 7) (z : BitVec 6) (s : State) : Host.Outcome State Fault Refusal :=
  issue { i := i, e := e, fields := [sSrcF a, sSrcF b, (sRegF z).many 8] } s (fun x s =>
    let record := (List.range 8).map (fun j => x.g.sreg (z.toNat + j))
    let m := x.cmd ((encode i).getD 0) (some (x.readS a)) (some (x.readS b)) (record[0]?) record [] 0
    let row := s.fab.row m.peer
    if m.fn = 6 && (s.fab.drank == 4095 || !rowPeer row || (m.fmt12 && !rowPwr row)) then .trap 0x12 (d64 (nbits (m.rec8 0) 0 57 + 3 * 2 ^ 57))
    else enterCmd x s false m)

/-! ### Replay at `sret` (R154) -/

/-- A replayed original as its operation (R154): it enters unrewritten, with its captured values, and its deadline still to count. -/
def replayOp (g : Group) (seq entry : Nat) (m : Cmd) : Op :=
  let cp := m.cp.getD (0, 1, 0)
  let m := { m with stage := .entered, entry := entry, began := 0, moved := 0, waiting := 0, kv := false, inst := none,
                    posted := copyPosts m g.localSize }
  { seq := seq, path := 4, pc := m.addr, kind := .engine, dvec := false, priv := m.priv, pol := cp.1, cls := cp.2.1, deadline := cp.2.2, cmd := some m }

/-- The commands that a replayed original holds (R154), oldest first: those that overlap it, and those behind a held one. -/
def Core.heldFor (k : Core) (o : Live) (between : List Live) : List Live :=
  between.foldl (fun acc y => if clash k o y || acc.any (fun z => clash k z y || z.oneUnit y) then acc ++ [y] else acc) []

/-- The originals of a faulted instance enter the scoreboard again, unrewritten and counted; commands that entered after the
instance and before trap entry, overlap an original and have not started are held, each behind the originals that it overlaps. -/
def State.replay (s : State) (c sl id cut : Nat) : State :=
  let g := s.group c sl
  match g.instances.find? (fun (i : Instance) => i.id == id) with
  | none => s
  | some i =>
    let s := s.setGroup c sl ({ g with instances := g.instances.filter (fun (y : Instance) => y.id != id) }.countRw 64)
    let k := s.core c
    let ops := (List.range i.originals.length).filterMap (fun j => (i.originals[j]?).map (replayOp g (s.seq + j) (k.entries + j)))
    let between := k.entered.filter (fun y => y.sl == sl && y.m.stage == .entered && decide (i.fault.getD 0 < y.m.entry) && decide (y.m.entry < cut))
    let ops := ops.map (fun o => { o with cmd := o.cmd.map (fun m => { m with holds := (k.heldFor { sl := sl, op := o, m := m } between).map (·.op.seq) }) })
    let g := k.group sl
    let s := { s.setCore c ({ k with entries := k.entries + ops.length }.setGroup sl { g with ops := g.ops ++ ops }) with seq := s.seq + ops.length }
    ops.foldl (fun s o => s.postSectors c (s.group c sl) ((o.cmd.map (·.posted)).getD [])) s

/-! ### Transaction barrier instructions (R310) -/

/-- One that acts as it issues: its checks, its step, and its count on path 4, which falls in order behind older ones. -/
def tbInst (i : Instr) (e flush : Bool) (fields : List Field) (b : BitVec 6) (s : State) (act : Ictx → State → Nat → State × Op → Done) : Host.Outcome State Fault Refusal :=
  issue { i := i, e := e, fields := fields ++ [sRegF b], flush := flush } s (fun x s =>
    -- a unit that waits has captured its barrier (R304)
    let addr := match x.u.wait with | .tbwait q _ => q | _ => nbits (x.g.sreg b.toNat).toNat 0 19
    if x.g.localSize < addr + 16 then .trap 0x0A (d64 addr)
    else if addr % 16 != 0 then .trap 0x09 (d64 addr)
    else act x s addr (s, { seq := 0, path := 4, pc := 0, kind := .engine, dvec := false, status := .performed }))

/-- Its count falls as it issues where no older operation of path 4 is outstanding (R122, R310). -/
def State.tbFall (s : State) (c sl : Nat) : State :=
  match (s.group c sl).ops.filter (fun o => o.path == 4) with
  | [o] => if o.status == .performed then s.setGroup c sl ((s.group c sl).retireOp o) else s
  | _ => s
def tbEnter (x : Ictx) (s : State) (o : Op) : Done :=
  match enterOp x s (fun s => s.engineOldest x.c x.sl) o with
  | .fin s l w n a => .fin (s.tbFall x.c x.sl) l w n a
  | d => d

/-- TBINIT: GOAL, DONE and flags become 0. -/
def execTbinit (e : Bool) (b : BitVec 6) (s : State) : Host.Outcome State Fault Refusal :=
  tbInst (.tbinit e b) e false [] b s (fun x s addr p =>
    match tbEnter x s p.2 with
    | .fin s l w n a => .fin (s.tbStep x.c x.g addr (fun _ => {})) l w n a
    | d => d)

/-- TBARR: DONE grows; a release at cluster scope, so earlier accesses are performed first. -/
def execTbarr (e : Bool) (a : BitVec 7) (b : BitVec 6) (s : State) : Host.Outcome State Fault Refusal :=
  tbInst (.tbarr e a b) e false [sSrcF a] b s (fun x s addr p =>
    let s := (s.performAll x.c x.sl).landFrom x.c 2
    if (s.group x.c x.sl).ops.any (fun o => o.kind.isMem && o.status != .performed) then .stall s
    else match tbEnter x s p.2 with
      | .fin s l w n q => .fin (s.tbStep x.c x.g addr (fun t => { t with done := t.done + w32 (x.readS a).toNat })) l w n q
      | d => d)

/-- TBEXP: GOAL grows. -/
def execTbexp (e : Bool) (a : BitVec 7) (b : BitVec 6) (s : State) : Host.Outcome State Fault Refusal :=
  tbInst (.tbexp e a b) e false [sSrcF a] b s (fun x s addr p =>
    match tbEnter x s p.2 with
    | .fin s l w n q => .fin (s.tbStep x.c x.g addr (fun t => { t with goal := t.goal + w32 (x.readS a).toNat })) l w n q
    | d => d)

/-- TBWAIT: the unit waits until the condition of its captured operand holds; the check that ends the wait is an acquire at cluster
scope. -/
def execTbwait (e : Bool) (a : BitVec 7) (b : BitVec 6) (s : State) : Host.Outcome State Fault Refusal :=
  tbInst (.tbwait e a b) e true [sSrcF a] b s (fun x s addr p =>
    let arg := match x.u.wait with | .tbwait _ v => v | _ => x.readS a
    if ((s.core x.c).tbar x.g addr).holds arg then
      match tbEnter x s p.2 with
      | .fin s l w n q => .fin (s.l1Acquire x.c) l w n q
      | d => d
    else .wait s (.tbwait addr arg))

/-- TBTEST: the counts, and what a wait would see; the registers are written when the count falls. -/
def execTbtest (e : Bool) (d a : BitVec 7) (b : BitVec 6) (s : State) : Host.Outcome State Fault Refusal :=
  tbInst (.tbtest e d a b) e true [(sDstF d).many 2, sSrcF a] b s (fun x s addr p =>
    let t := (s.core x.c).tbar x.g addr
    let ok := t.holds (x.readS a)
    let flags := (if ok then 1 else 0) + (if t.err then 2 else 0) + (if t.pois then 4 else 0) + (if t.flt then 8 else 0)
    let out : List RegWrite := [.s d.toNat (d64 (t.goal.toNat + t.done.toNat * 2 ^ 32)), .s (d.toNat + 1) (d64 flags)]
    match tbEnter x s { p.2 with d := d.toNat, dn := 2, out := out } with
    | .fin s l w n q => .fin (if ok then s.l1Acquire x.c else s) l w n q
    | r => r)

end Sys2Proof.Machine
end

