-- ==== Sys2Proof/Machine/EngineInst.lean ====
section
/-! DEFINITION. The engine instructions: sweeps (R288), copies (R306, R307), matrix, tile, plane-dot and selection commands (R313 to
R329). Each captures its operands and enters the window or the scoreboard; `Engine.lean` runs it. -/

namespace Sys2Proof.Machine

/-- TMAP_ADD (R288). -/
def execTmapAdd (e : Bool) (x : BitVec 7) (y : BitVec 7) (z : BitVec 7) (s : State) : Host.Outcome State Fault Refusal :=
  sweepCmd (.tmapAdd e x y z) e x y z s
/-- TMAP_MUL (R288). -/
def execTmapMul (e : Bool) (x : BitVec 7) (y : BitVec 7) (z : BitVec 7) (s : State) : Host.Outcome State Fault Refusal :=
  sweepCmd (.tmapMul e x y z) e x y z s
/-- TMAP_FMA (R288). -/
def execTmapFma (e : Bool) (x : BitVec 7) (y : BitVec 7) (z : BitVec 7) (s : State) : Host.Outcome State Fault Refusal :=
  sweepCmd (.tmapFma e x y z) e x y z s
/-- TMAP_MAX (R288). -/
def execTmapMax (e : Bool) (x : BitVec 7) (y : BitVec 7) (z : BitVec 7) (s : State) : Host.Outcome State Fault Refusal :=
  sweepCmd (.tmapMax e x y z) e x y z s
/-- TMAP_CVT (R288). -/
def execTmapCvt (e : Bool) (x : BitVec 7) (y : BitVec 7) (z : BitVec 7) (s : State) : Host.Outcome State Fault Refusal :=
  sweepCmd (.tmapCvt e x y z) e x y z s
/-- TMAP_CPY (R288). -/
def execTmapCpy (e : Bool) (x : BitVec 7) (y : BitVec 7) (z : BitVec 7) (s : State) : Host.Outcome State Fault Refusal :=
  sweepCmd (.tmapCpy e x y z) e x y z s
/-- CPYIN (R307). -/
def execCpyin (e : Bool) (x : BitVec 7) (y : BitVec 7) (z : BitVec 6) (s : State) : Host.Outcome State Fault Refusal :=
  copyCmd (.cpyin e x y z) e x y z s
/-- CPYOUT (R307). -/
def execCpyout (e : Bool) (x : BitVec 7) (y : BitVec 7) (z : BitVec 6) (s : State) : Host.Outcome State Fault Refusal :=
  copyCmd (.cpyout e x y z) e x y z s
/-- CPYP (R307). -/
def execCpyp (e : Bool) (x : BitVec 7) (y : BitVec 7) (z : BitVec 6) (s : State) : Host.Outcome State Fault Refusal :=
  copyCmd (.cpyp e x y z) e x y z s
/-- GATH (R308). -/
def execGath (e : Bool) (x : BitVec 7) (y : BitVec 7) (z : BitVec 6) (s : State) : Host.Outcome State Fault Refusal :=
  copyCmd (.gath e x y z) e x y z s
/-- SCAT (R307). -/
def execScat (e : Bool) (x : BitVec 7) (y : BitVec 7) (z : BitVec 6) (s : State) : Host.Outcome State Fault Refusal :=
  copyCmd (.scat e x y z) e x y z s
/-- CPYC (R307). -/
def execCpyc (e : Bool) (x : BitVec 7) (y : BitVec 7) (z : BitVec 6) (s : State) : Host.Outcome State Fault Refusal :=
  copyCmd (.cpyc e x y z) e x y z s
/-- CPYR (R307). -/
def execCpyr (e : Bool) (x : BitVec 7) (y : BitVec 7) (z : BitVec 6) (s : State) : Host.Outcome State Fault Refusal :=
  copyCmd (.cpyr e x y z) e x y z s
/-- MMA (R318). -/
def execMma (e : Bool) (f : BitVec 5) (x : BitVec 7) (y : BitVec 7) (z : BitVec 6) (s : State) : Host.Outcome State Fault Refusal :=
  tlCmd (.mma e f x y z) e x y s
/-- MDR (R319). -/
def execMdr (e : Bool) (f : BitVec 5) (x : BitVec 7) (y : BitVec 7) (z : BitVec 5) (s : State) : Host.Outcome State Fault Refusal :=
  tlCmd (.mdr e f x y z) e x y s
/-- WBL (R317). -/
def execWbl (e : Bool) (f : BitVec 5) (x : BitVec 7) (y : BitVec 7) (p : Bool) (s : State) : Host.Outcome State Fault Refusal :=
  tlCmd (.wbl e f x y p) e x y s
/-- TTR (R320). -/
def execTtr (e : Bool) (x : BitVec 7) (y : BitVec 7) (s : State) : Host.Outcome State Fault Refusal :=
  tlCmd (.ttr e x y) e x y s
/-- TSCALE (R320). -/
def execTscale (e : Bool) (x : BitVec 7) (y : BitVec 7) (s : State) : Host.Outcome State Fault Refusal :=
  tlCmd (.tscale e x y) e x y s
/-- TZERO (R320). -/
def execTzero (e : Bool) (x : BitVec 7) (y : BitVec 7) (s : State) : Host.Outcome State Fault Refusal :=
  tlCmd (.tzero e x y) e x y s
/-- TZERO_ACC (R320). -/
def execTzeroAcc (e : Bool) (x : BitVec 7) (y : BitVec 7) (n : BitVec 2) (s : State) : Host.Outcome State Fault Refusal :=
  tlCmd (.tzeroAcc e x y n) e x y s
/-- TCVT (R320). -/
def execTcvt (e : Bool) (x : BitVec 7) (y : BitVec 7) (s : State) : Host.Outcome State Fault Refusal :=
  tlCmd (.tcvt e x y) e x y s
/-- TADD (R320). -/
def execTadd (e : Bool) (x : BitVec 7) (y : BitVec 7) (s : State) : Host.Outcome State Fault Refusal :=
  tlCmd (.tadd e x y) e x y s
/-- TMOV (R320). -/
def execTmov (e : Bool) (x : BitVec 7) (y : BitVec 7) (s : State) : Host.Outcome State Fault Refusal :=
  tlCmd (.tmov e x y) e x y s
/-- PQRY (R321). -/
def execPqry (e : Bool) (x : BitVec 7) (y : BitVec 7) (n : BitVec 2) (s : State) : Host.Outcome State Fault Refusal :=
  tlCmd (.pqry e x y n) e x y s
/-- PDOT (R323). -/
def execPdot (e : Bool) (x : BitVec 7) (y : BitVec 7) (n : BitVec 2) (s : State) : Host.Outcome State Fault Refusal :=
  tlCmd (.pdot e x y n) e x y s
/-- PDOTR (R323). -/
def execPdotr (e : Bool) (x : BitVec 7) (y : BitVec 7) (n : BitVec 2) (s : State) : Host.Outcome State Fault Refusal :=
  tlCmd (.pdotr e x y n) e x y s
/-- PBND (R323). -/
def execPbnd (e : Bool) (x : BitVec 7) (y : BitVec 7) (n : BitVec 2) (s : State) : Host.Outcome State Fault Refusal :=
  tlCmd (.pbnd e x y n) e x y s
/-- SELK (R325). -/
def execSelk (e : Bool) (x : BitVec 7) (y : BitVec 7) (s : State) : Host.Outcome State Fault Refusal :=
  tlCmd (.selk e x y) e x y s
/-- SELKX (R325). -/
def execSelkx (e : Bool) (x : BitVec 7) (y : BitVec 7) (s : State) : Host.Outcome State Fault Refusal :=
  tlCmd (.selkx e x y) e x y s
/-- PSEL (R326). -/
def execPsel (e : Bool) (x : BitVec 7) (y : BitVec 7) (s : State) : Host.Outcome State Fault Refusal :=
  tlCmd (.psel e x y) e x y s
/-- LMERGE (R327). -/
def execLmerge (e : Bool) (x : BitVec 7) (y : BitVec 7) (s : State) : Host.Outcome State Fault Refusal :=
  tlCmd (.lmerge e x y) e x y s
/-- LSORT (R328). -/
def execLsort (e : Bool) (x : BitVec 7) (y : BitVec 7) (q : Bool) (s : State) : Host.Outcome State Fault Refusal :=
  tlCmd (.lsort e x y q) e x y s
/-- SSRCH (R329). -/
def execSsrch (e : Bool) (x : BitVec 7) (y : BitVec 7) (l : Bool) (k : BitVec 2) (s : State) : Host.Outcome State Fault Refusal :=
  tlCmd (.ssrch e x y l k) e x y s

end Sys2Proof.Machine
end

