-- ==== Sys2Proof/Machine/Cairn.lean ====
section
/-! DEFINITION. The Cairn (chapter 04): matching, landing and completion of messages, the send side, and the message
instructions (R341 to R345, R358 to R360). -/

namespace Sys2Proof.Machine

/-! ### Descriptors and headers -/

def descDest (d : List Byte) : Nat := nbits (recField d 0 8) 0 57
def descMax (d : List Byte) : Nat := recField d 8 4
def descPersist (d : List Byte) : Bool := nbit (recField d 12 4) 0
def descPlaned (d : List Byte) : Bool := nbit (recField d 12 4) 1
def descDepth (d : List Byte) : Nat := nbits (recField d 12 4) 2 5
def descCtx (d : List Byte) : Nat := recField d 16 2
def descSrc (d : List Byte) : Nat := recField d 0x14 4
def descSmask (d : List Byte) : Nat := recField d 0x18 4
def descTag (d : List Byte) : Nat := recField d 0x1C 4
def descTmask (d : List Byte) : Nat := recField d 0x20 4
def descFut (d : List Byte) : Nat := nbits (recField d 0x28 8) 0 57
def descPstr (d : List Byte) : Nat := recField d 0x30 8

/-- A descriptor that breaks a rule of its table (R59, R341). -/
def descBad (d : List Byte) : Bool :=
  nbits (recField d 0 8) 57 7 != 0 || nbits (recField d 12 4) 7 25 != 0 || recField d 0x12 2 != 0 || nbits (descSrc d) 24 8 != 0 ||
  nbits (descSmask d) 24 8 != 0 || recField d 0x24 4 != 0 || recField d 0x38 8 != 0 || recField d 0x28 8 % 16 != 0 ||
  (if descPlaned d then descDepth d == 0 || decide (24 < descDepth d) || descPstr d % 4 != 0
   else descDepth d != 0 || descPstr d != 0)

/-- Whether a message matches a descriptor (R60); the partition is the one that holds both. -/
def descMatches (d : List Byte) (p : Packet) : Bool :=
  p.msg.ctx.toNat == descCtx d &&
  Nat.land (Nat.xor (p.src.toNat * 4096 + p.msg.sep.toNat) (nbits (descSrc d) 0 24)) (nbits (descSmask d) 0 24) == 0 &&
  Nat.land (Nat.xor p.msg.mtag.toNat (descTag d)) (descTmask d) == 0

def pktLen (p : Packet) : Nat := p.msg.mlen.toNat
def pktPds (p : Packet) : Nat := p.msg.pds.toNat
/-- A rendezvous header. -/
def isHeader (p : Packet) : Bool := p.kind.toNat == 7
/-- Bytes of one block of a planed payload (R68). -/
def blockBytes (p : Packet) : Nat := 4 * (pktPds p + 2)

/-! ### Registers (R71) -/

def Cairn.setReg (k : Cairn) (off : Nat) (v : Dword) : Cairn := { k with regs := mput k.regs off v }
/-- Adds to CREF, CHLD or CDBL, which stop at their greatest value. -/
def Cairn.count (k : Cairn) (off n : Nat) : Cairn := k.setReg off (d64 (min (k.reg off + n) 0xFFFFFFFF))
def Cairn.entries (k : Cairn) : Nat := min (nbits (k.reg 0x18) 0 21) 1048576
def Cairn.slots (k : Cairn) : Nat := 8 * min (nbits (k.reg 0x08) 0 15) 16384
def Cairn.quota (k : Cairn) : Nat := min (nbits (k.reg 0x1C) 0 17) 65536
def Cairn.staging (k : Cairn) (sid : Nat) : Nat := nbits (k.reg 0x38) 23 29 * 8388608 + 8192 * (sid % 1024)
/-- Slots of the eager data region that queued messages hold (R63), the first free one, and the first free entry. -/
def Cairn.slotsUsed (k : Cairn) : Nat := ((k.unexpected ++ k.landings).filter (fun m => m.slot.isSome)).length
def Cairn.nextSlot (k : Cairn) : Nat :=
  let ms := k.unexpected ++ k.landings
  ((List.range (ms.length + 1)).find? (fun i => !ms.any (fun m => m.slot == some i))).getD 0
def Cairn.nextEntry (k : Cairn) : Nat := ((List.range (k.unexpected.length + 1)).find? (fun i => !k.unexpected.any (fun m => m.entry == i))).getD 0
/-- Its header queue is full (R65). -/
def Cairn.queueFull (k : Cairn) : Bool := k.enabled && decide (k.entries ≤ k.unexpected.length)

def State.cairn (s : State) (p : Nat) : Cairn := (s.part p).cairn
/-- A change of a partition's Cairn; whether its full queue holds the message channel follows (R65). -/
def State.onCairn (s : State) (p : Nat) (f : Cairn → Cairn) : State :=
  let pt := s.part p
  let k := f pt.cairn
  s.setPart p { pt with cairn := { k with held := k.queueFull } }
/-- Messages of all partitions that are parked. -/
def State.parkedMessages (s : State) : Nat := s.parts.foldl (fun n e => n + (e.2.cairn.landings.filter (fun m => m.parked.isSome)).length) 0
/-- The message channel is held (R65, R67): a header queue is full, or more than 256 messages have met a page fault. -/
def State.channelHeld (s : State) : Bool := s.parts.any (fun e => e.2.cairn.held) || decide (256 < s.parkedMessages)

/-! ### Completion (R69) -/

/-- What a task enqueued by a Cairn completion inherits (R96, R359). -/
def cairnInherit : Inherit := { rwp := 0, fxb := 0, lnch := 0, safeto := 65536 }

/-- The state of a future that a status gives. -/
def msgState (status : Nat) : Nat := if status = 0 || status = 1 || status = 4 then 2 else 3
/-- The state word of a message future: state, status, endpoint, rank, context. -/
def msgWord (status sep rank ctx : Nat) : Dword := d64 (msgState status + status * 4 + sep * 64 + rank * 2 ^ 18 + ctx * 2 ^ 30)
def msgValue (tag len : Nat) : Dword := d64 (tag + len * 2 ^ 32)

/-- The Cairn as it takes steps at futures: its requests name no class (R27). -/
def cairnAgent : Agent := { who := { req := 2 }, requester := 384 }
/-- Resolves a message future in one step; one that cannot be written, or is already resolved, counts in CDBL. -/
def State.msgResolve (s : State) (p : Nat) (ag : Agent) (va : Nat) (word value : Dword) : State :=
  let lost := fun (s : State) => s.onCairn p (fun k => k.count 0x30 1)
  let park := fun (s : State) (n : Nat) => let pt := s.part p; s.setPart p { pt with parked := pt.parked ++ [(n, .completion ag va word value)] }
  match s.resolveAt p ag va word value false with
  | (s, .ok old) =>
    if old.toNat % 4 = 1 then s.acts p ag cairnInherit [.dec (headerOf old)]
    else if old.toNat % 4 = 0 then s
    else lost s
  | (s, .page ia) => let (s, n) := s.fault p ia true false ag.who; park s n
  | (s, .held) => park s wpHold
  | (s, .fatal ia) => lost (s.fault p ia true true ag.who).1
  | (s, _) => lost s

/-! ### Landing (R67, R68) -/

/-- The class and stamp of a message's packets stand for its landing. -/
def landAcc (p : Nat) (pkt : Packet) (sors : List Bool) : Acc :=
  { part := p, cls := pkt.cls.toNat, stamp := pkt.dline.toNat, requester := 384, write := true, sor := sors.headD false, sors := sors, who := { req := 2 } }

/-- Units a matched message lands: bytes of a contiguous one, blocks of a planed one. -/
def InMsg.total (m : InMsg) : Nat :=
  if descPlaned m.desc then min (pktLen m.hdr / blockBytes m.hdr) (descMax m.desc) else min (pktLen m.hdr) (descMax m.desc)
/-- Payload bytes that have to arrive for the landing. -/
def InMsg.wanted (m : InMsg) : Nat := if descPlaned m.desc then m.total * blockBytes m.hdr else m.total
/-- A payload that does not fit the shape of its receive (R68). -/
def InMsg.mismatch (m : InMsg) : Bool :=
  descPlaned m.desc != (pktPds m.hdr != 0) || (pktPds m.hdr != 0 && pktLen m.hdr % blockBytes m.hdr != 0)
def InMsg.depth (m : InMsg) : Nat := min (descDepth m.desc) (pktPds m.hdr)
def InMsg.isBad (m : InMsg) (off n : Nat) : Bool := m.bad.any (fun r => decide (r.1 < off + n) && decide (off < r.1 + r.2))

/-- How a piece of a landing ends. -/
inductive LandRes where
  | ok
  | page (ia : Nat)
  | fatal (ia : Nat)
  | held
  deriving DecidableEq, Repr

/-- Lands bytes of a contiguous message inside one line. -/
def State.landBytes (s : State) (p : Nat) (m : InMsg) (off n : Nat) : State × LandRes :=
  let va := vaMod (descDest m.desc + off)
  match (s.part p).xlate va n { wr := true } with
  | .error _ => (s, .fatal va)
  | .ok (ia, sor) =>
    -- the granules that take a poisoned byte
    let bad := (List.range 2).filter (fun g =>
      let lo := max (ia % 128) (64 * g)
      let hi := min (ia % 128 + n) (64 * g + 64)
      decide (lo < hi) && m.isBad (off + lo - ia % 128) (hi - lo))
    match s.homeWrite (landAcc p m.hdr [sor]) ia (bytesAt m.data off n) bad with
    | (s, .ok _) => (s, .ok)
    | (s, .page) => (s, .page ia)
    | (s, .held) => (s, .held)
    | (s, .fatal) => (s, .fatal ia)

/-- The IAs of some words and SOR of each (R209), or none. -/
def Part.wordIas (p : Part) (need : Need) : List Nat → Option (List Nat × List Bool)
  | [] => some ([], [])
  | va :: vas => match p.xlate (vaMod va) 4 need with
    | .error _ => none
    | .ok (ia, so) => (Part.wordIas p need vas).map (fun r => (ia :: r.1, so :: r.2))

/-- Lands block b of a planed message: H with V = d and its reserved bits 0 (R163), S and M1 to Md, as a plane store. -/
def State.landBlock (s : State) (p : Nat) (m : InMsg) (b : Nat) : State × LandRes :=
  let d := m.depth
  let pstr := descPstr m.desc
  let vas := (List.range (d + 2)).map (fun k => descDest m.desc + 4 * b + k * pstr)
  match (s.part p).wordIas { wr := true } vas with
  | none => (s, .fatal (vaMod (vas.headD 0)))
  | some (ias, sors) =>
    let off := b * blockBytes m.hdr
    let w := fun (k : Nat) => w32 (recField (m.data.drop (off + 4 * k)) 0 4)
    let h := (w 0).toNat
    let h' := w32 (h % 256 + d * 256 + (if nbit h 13 then 8192 else 0))
    let bad := (List.range (d + 2)).filter (fun k => m.isBad (off + 4 * k) 4)
    match s.planeStore (landAcc p m.hdr sors) ias pstr d (h' :: (List.range (d + 1)).map (fun k => w (k + 1))) bad with
    | (s, .ok _) => (s, .ok)
    | (s, .page) => (s, .page ((ias.find? (fun i => match (s.walk p i true).2 with | .page => true | _ => false)).getD (ias.headD 0)))
    | (s, .held) => (s, .held)
    | (s, .fatal) => (s, .fatal (ias.headD 0))

/-- Lands what has arrived, in order, until something is missing or stops it: bytes as they are there (R66), a block of a planed message
once it is there whole (log 109). Poison of an eager message counts in the bytes that land (R67, log 141). -/
def landSome (p : Nat) : Nat → State → InMsg → State × InMsg
  | 0, s, m => (s, m)
  | fuel + 1, s, m =>
    let planed := descPlaned m.desc
    let addr := vaMod (descDest m.desc + m.landed)
    let n := if planed then blockBytes m.hdr else min (min (m.total - m.landed) (128 - addr % 128)) (m.data.length - m.landed)
    let off := if planed then m.landed * n else m.landed
    let used := if planed then 4 * (m.depth + 2) else n
    if m.failed.isSome || m.parked.isSome || decide (m.total ≤ m.landed) || n = 0 || decide (m.data.length < off + n) then (s, m)
    else
      match (if planed then s.landBlock p m m.landed else s.landBytes p m off n) with
      | (s, .ok) => landSome p fuel s { m with landed := m.landed + (if planed then 1 else n), poisoned := m.poisoned || m.isBad off used }
      | (s, .held) => (s, { m with parked := some wpHold })
      | (s, .page ia) =>
        let (s, r) := s.fault p ia true false { req := 2 }
        (s, { m with parked := some r })
      | (s, .fatal ia) => ((s.fault p ia true true { req := 2 }).1, { m with failed := some 2 })

/-- Whether a landing has come to its end. One whose pull fails ends at once: a piece of it that waits for a page is not landed (R66, log
109). -/
def InMsg.finished (m : InMsg) : Bool := m.failed.isSome || decide (m.total ≤ m.landed)

/-- The next pull of a rendezvous message: at most 256 B, inside one aligned 256 B block (R41, R66). Pulls go one after
the other (log 15). -/
def State.pull (s : State) (p : Nat) (m : InMsg) : State × InMsg :=
  if !isHeader m.hdr || m.pulling || m.failed.isSome || decide (m.wanted ≤ m.data.length) || s.fab.full 1 then (s, m)
  else
    let ia := m.hdr.msg.wia.toNat * 64 + m.data.length
    let n := min (m.wanted - m.data.length) (256 - ia % 256)
    let pkt : Packet := { blankPkt with kind := 0, dst := BitVec.ofNat 12 m.src, job := m.hdr.job, cls := m.hdr.cls, dline := m.hdr.dline,
                                        ia := BitVec.ofNat 52 ia, len := BitVec.ofNat 8 (n - 1) }
    (s.sendReq (.cairn p m.sid) 0 pkt, { m with pulling := true })

/-- How the Cairn reaches its own stores. -/
def cairnAcc (p : Nat) : Acc := { part := p, requester := 384, write := true, sor := true, own := true, who := { req := 2 } }

/-- A store of the Cairn into its own regions, inside one granule: a page fault parks it (R214), a write-protected page holds it (R216);
where the page cannot be reached it is lost (log 9). -/
def State.ownStore (s : State) (p ia : Nat) (bs : List Byte) : State :=
  let park := fun (s : State) (n : Nat) => let pt := s.part p; s.setPart p { pt with parked := pt.parked ++ [(n, .store ia bs)] }
  match s.homeWrite (cairnAcc p) ia bs [] with
  | (s, .ok _) => s
  | (s, .page) => let (s, n) := s.fault p ia true false { req := 2 }; park s n
  | (s, .held) => park s wpHold
  | (s, .fatal) => (s.fault p ia true true { req := 2 }).1
/-- The same of bytes from an IA on, granule by granule. -/
def State.ownStores (s : State) (p ia : Nat) (bs : List Byte) : State :=
  (List.range (bs.length / 64 + 2)).foldl (fun s i =>
    let lo := if i = 0 then ia else (ia / 64 + i) * 64
    let n := min (64 - lo % 64) (ia + bs.length - lo)
    if ia + bs.length ≤ lo then s else s.ownStore p lo (bytesAt bs (lo - ia) n)) s

/-- A queued message's fragment goes into its slot (R63). -/
def State.storeFrag (s : State) (p : Nat) (m : InMsg) (off : Nat) (bs : List Byte) : State :=
  match m.slot with
  | some i => s.ownStores p ((s.cairn p).slotIa i + off) bs
  | none => s

/-- A store into a slot that still waits. -/
def Part.slotWaits (p : Part) (ia n : Nat) : Option Nat :=
  (p.parked.find? (fun e => match e.2 with | .store x bs => decide (x < ia + n) && decide (ia < x + bs.length) | _ => false)).map (·.1)

/-- A queued message's payload as its slot holds it now, granule by granule: overwritten bytes as they are, poisoned ones poisoned
(R67, R71). While the slot cannot be read the message is parked, and keeps it (R214, log 110). -/
def State.fetchSlot (s : State) (p : Nat) (m : InMsg) : State × InMsg :=
  match m.slot with
  | none => (s, m)
  | some i =>
    let at_ := (s.cairn p).slotIa i
    match (s.part p).slotWaits at_ m.stored with
    | some n => (s, { m with parked := some n })
    | none =>
      let (s, r) := (List.range (ceilDiv m.stored 64)).foldl (fun (acc : State × InMsg) j =>
        let n := min 64 (m.stored - 64 * j)
        if acc.2.parked.isSome || acc.2.failed.isSome then acc
        else match acc.1.homeRead { cairnAcc p with write := false } (at_ + 64 * j) n with
          | (s, .ok (bs, bad)) => (s, { acc.2 with data := patch acc.2.data (64 * j) bs, bad := if bad then acc.2.bad ++ [(64 * j, n)] else acc.2.bad })
          | (s, .page) => let (s, k) := s.fault p (at_ + 64 * j) false false { req := 2 }; (s, { acc.2 with parked := some k })
          | (s, .held) => (s, { acc.2 with parked := some wpHold })
          | (s, .fatal) => ((s.fault p (at_ + 64 * j) false true { req := 2 }).1, { acc.2 with failed := some 2 })) (s, m)
      (s, if r.parked.isSome then { m with parked := r.parked } else { r with slot := none })

/-- An unmatched message takes an entry, whose contents are not defined, and a slot for its payload (R63, R71). -/
def State.queueMessage (s : State) (p : Nat) (m : InMsg) : State :=
  let k := s.cairn p
  let m := { m with entry := k.nextEntry, slot := if isHeader m.hdr || pktLen m.hdr = 0 then none else some k.nextSlot, stored := m.data.length }
  let (s, v) := s.draw
  let s := s.ownStore p (k.entryIa m.entry) (leBytes 32 v)
  (s.storeFrag p m 0 m.data).onCairn p (fun k => { k with unexpected := k.unexpected ++ [m] })

/-- A landing moves on: it lands what it can, and pulls what it needs. -/
def State.advance (s : State) (p : Nat) (m : InMsg) : State :=
  let m := if m.mismatch then { m with failed := some 6 } else m
  let (s, m) := if m.parked.isSome then (s, m) else s.fetchSlot p m
  let (s, m) := landSome p (m.total + 1) s m
  let (s, m) := s.pull p m
  s.onCairn p (fun k => { k with landings := updWhere (fun x => x.order == m.order) (fun _ => m) k.landings })

/-- A message has matched a descriptor: it starts to land. -/
def State.startLanding (s : State) (p : Nat) (m : InMsg) (desc : List Byte) (handle : Option Nat) : State :=
  let m := { m with desc := desc, handle := handle }
  (s.onCairn p (fun k => { k with landings := k.landings ++ [m] })).advance p m

/-- The status of a landing that has ended (R67 to R69). -/
def InMsg.status (m : InMsg) : Nat :=
  match m.failed with
  | some f => f
  | none =>
    if m.poisoned then 3
    else if decide (m.total < (if descPlaned m.desc then pktLen m.hdr / blockBytes m.hdr else pktLen m.hdr)) then 1 else 0

/-- A receive completes: its future is resolved, a rendezvous sender gets FIN once a tag is free for it, the landing is gone (R66,
R69). -/
def State.completeLanding (s : State) (p : Nat) (m : InMsg) : State :=
  let h := m.hdr.msg
  if isHeader m.hdr && s.fab.full 1 then s else
  let s := s.onCairn p (fun k => { k with landings := k.landings.filter (fun x => x.order != m.order) })
  let s := s.landFar.msgResolve p cairnAgent (descFut m.desc) (msgWord m.status h.sep.toNat m.src h.ctx.toNat) (msgValue h.mtag.toNat m.landed)
  if isHeader m.hdr then
    let bytes := if descPlaned m.desc then m.landed * (4 * (m.depth + 2)) else m.landed
    let fin : Packet := { blankPkt with kind := 8, dst := BitVec.ofNat 12 m.src, job := m.hdr.job, cls := m.hdr.cls, dline := m.hdr.dline,
                                        msg := { h with mlen := w32 bytes, pds := BitVec.ofNat 5 m.status, frag := 0, wia := 0, rsnd := false } }
    s.sendReq (.cairn p m.sid) 0 fin
  else s

/-- CAIRN_COMPLETION (R69): the receive of the message that a rank sent under a send number. One that has not ended goes on: a pull
that found every tag in use leaves now (R41). -/
def execCairnCompletion (s : State) : Host.Outcome State Fault Refusal :=
  let p := s.args.part
  match (s.cairn p).landings.filter (fun m => m.src == s.args.dst && m.sid == s.args.sid) with
  | [] => .next s
  | m :: ms =>
    let m := ((m :: ms).find? InMsg.finished).getD m
    .next (if m.finished then s.completeLanding p m else s.advance p m)

/-! ### Arrivals (R58, R62 to R66) -/

/-- The oldest armed entry that matches. -/
def Cairn.match (k : Cairn) (pkt : Packet) : Option Posted :=
  let c := k.posted.filter (fun e => e.armed && descMatches e.desc pkt)
  c.find? (fun e => c.all (fun x => decide (e.order ≤ x.order)))

/-- The generation of an index, and the handle of an entry (R341). -/
def Cairn.gen (k : Cairn) (i : Nat) : Nat := mget 0 k.gens i % 65536
def Cairn.handle (k : Cairn) (i : Nat) : Nat := i + 65536 * k.gen i
/-- An entry is freed: its generation rises. -/
def Cairn.free (k : Cairn) (i : Nat) : Cairn :=
  { k with posted := k.posted.filter (fun e => e.index != i), gens := mput k.gens i ((k.gen i + 1) % 65536) }

/-- A matched entry goes, or is disarmed where persistent (R61). -/
def Cairn.take (k : Cairn) (e : Posted) : Cairn :=
  if descPersist e.desc then { k with posted := updWhere (fun x => x.index == e.index) (fun x => { x with armed := false }) k.posted }
  else k.free e.index

/-- The first packet of a message is matched, or queued if it may be (R63). -/
def State.arrive (s : State) (p : Nat) (m : InMsg) : State :=
  let k := s.cairn p
  let s := s.onCairn p (fun k => { k with nextOrder := k.nextOrder + 1 })
  match k.match m.hdr with
  | some e => (s.onCairn p (fun k => k.take e)).startLanding p m e.desc (some (k.handle e.index))
  | none => s.queueMessage p m

/-- The message of a sender that is still receiving fragments. -/
def receiving (src sid : Nat) (m : InMsg) : Bool := m.src == src && m.sid == sid && !isHeader m.hdr

/-- Adds a fragment's bytes: as many as its place in the message holds. -/
def InMsg.addFrag (m : InMsg) (pkt : Packet) : InMsg :=
  let n := min 256 (pktLen m.hdr - m.data.length)
  { m with data := m.data ++ bytesAt pkt.payload 0 n }
/-- The same of a queued message, whose fragment its slot takes. -/
def InMsg.queueFrag (m : InMsg) (pkt : Packet) : InMsg :=
  let m := m.addFrag pkt
  { m with stored := m.data.length }

/-- An MSGE of a partition's Cairn (R57, R58, R63). -/
def State.msgeIn (s : State) (port : Nat) (pkt : Packet) (p : Nat) : State :=
  let k := s.cairn p
  let src := pkt.src.toNat
  let sid := pkt.msg.sid.toNat
  let ok := fun (s : State) => s.respond port pkt 0 []
  let refuse := fun (s : State) =>
    let s := s.onCairn p (fun k => { (if pkt.msg.frag.toNat = 0 then k.count 0x28 1 else k) with refusing := if k.refusing.contains src then k.refusing else k.refusing ++ [src] })
    s.respond port pkt 1 []
  if k.refusing.contains src then refuse s
  else if pkt.msg.frag.toNat = 0 then
    let m := ({ src := src, sid := sid, hdr := pkt, order := k.nextOrder } : InMsg).addFrag pkt
    let room := (pktLen pkt == 0 || decide (k.slotsUsed < k.slots)) && decide (16384 + k.unexpected.length < k.entries)
    if (k.match pkt).isSome || room then ok (s.arrive p m) else refuse s
  else match k.unexpected.find? (receiving src sid) with
  | some m =>
    let s := s.storeFrag p m m.data.length ((m.addFrag pkt).data.drop m.data.length)
    ok (s.onCairn p (fun k => { k with unexpected := updWhere (receiving src sid) (fun m => m.queueFrag pkt) k.unexpected }))
  | none => match k.landings.find? (receiving src sid) with
    | some m => ok (s.advance p (m.addFrag pkt))
    | none => ok s

/-- An MSGH of a partition's Cairn (R63, R66). -/
def State.msghIn (s : State) (port : Nat) (pkt : Packet) (p : Nat) : State :=
  let k := s.cairn p
  let src := pkt.src.toNat
  if k.refusing.contains src && !pkt.msg.rsnd then (s.onCairn p (fun k => k.count 0x28 1)).respond port pkt 1 []
  else
    let s := if pkt.msg.rsnd then s.onCairn p (fun k => { k with refusing := k.refusing.filter (fun r => r != src) }) else s
    (s.arrive p { src := src, sid := pkt.msg.sid.toNat, hdr := pkt, order := k.nextOrder }).respond port pkt 0 []

/-! ### The send side (R57, R63, R64, R342, R358) -/

def OutMsg.eager (m : OutMsg) : Bool := decide (pktLen m.hdr ≤ 8192)
/-- Packets of an eager message (R57). -/
def OutMsg.frags (m : OutMsg) : Nat := max 1 (ceilDiv (pktLen m.hdr) 256)
def Cairn.setSend (k : Cairn) (m : OutMsg) : Cairn := { k with sends := updWhere (fun x => x.sid == m.sid && x.seq == m.seq) (fun _ => m) k.sends }
def Cairn.dropSend (k : Cairn) (m : OutMsg) : Cairn := { k with sends := k.sends.filter (fun x => !(x.sid == m.sid && x.seq == m.seq)) }

/-- The count of an `msend` may fall (R358). -/
def State.sendCounted (s : State) (m : OutMsg) : State :=
  let g := s.group m.core m.slot
  match g.op m.seq with
  | some o => s.setGroup m.core m.slot (g.setOp { o with status := .performed })
  | none => s

/-- A send completes: its count has fallen, and its future, where it has one, is resolved (R57, R69). -/
def State.sendDone (s : State) (p : Nat) (m : OutMsg) (status len : Nat) : State :=
  let s := (s.onCairn p (fun k => k.dropSend m)).sendCounted m
  if m.fut = 0 then s
  else s.msgResolve p cairnAgent m.fut (msgWord status m.hdr.msg.sep.toNat s.fab.drank m.hdr.msg.ctx.toNat) (msgValue m.hdr.msg.mtag.toNat len)

/-- The packets of an eager message. -/
def OutMsg.packets (m : OutMsg) : List Packet :=
  (List.range m.frags).map (fun f =>
    let bs := (m.payload.drop (256 * f)).take 256
    { m.hdr with kind := 6, msg := { m.hdr.msg with frag := BitVec.ofNat 5 f }, payload := if bs.isEmpty then [0] else bs,
                 len := BitVec.ofNat 8 ((max 1 bs.length) - 1) })

/-- The header of a message, with the IA of its window. -/
def OutMsg.header (m : OutMsg) (ia : Nat) (resent : Bool) : Packet :=
  { m.hdr with kind := 7, msg := { m.hdr.msg with wia := BitVec.ofNat 46 (ia / 64), rsnd := resent } }

/-- A packet of a message as it leaves, with its deadline counted from then (R27, R243). -/
def OutMsg.stamped (m : OutMsg) (tick : Nat) (p : Packet) : Packet := { p with dline := BitVec.ofNat 16 (stampFor tick m.rel) }

/-- How the send side reads a message's payload: at the level and with the hints of its `msend` (R206, R333). -/
def OutMsg.acc (m : OutMsg) (p tick : Nat) (sors : List Bool) : Acc :=
  { part := p, pol := m.pol, cls := m.hdr.cls.toNat, stamp := stampFor tick m.rel, requester := 384, sor := sors.headD false, sors := sors, user := m.user, who := { core := m.core, slot := m.slot, req := 2 } }

/-- The IA of a message's window: its staging slot, or its buffer. -/
def State.windowIa (s : State) (p : Nat) (m : OutMsg) : Nat :=
  if m.eager then (s.cairn p).staging m.sid
  else match (s.part p).xlate m.buf 1 { rd := true } with
    | .ok (ia, _) => ia
    | .error _ => 0

/-- The header of a message that is sent has left its port (R45, R49). -/
def State.injected (s : State) (p : Nat) (m : OutMsg) : Bool :=
  m.sent && !s.fab.out.any (fun o => o.who == .cairn p m.sid && o.pkt.kind == 7 && o.pkt.dst.toNat == m.dst && o.port == 72)
/-- The count of an `msend` whose message goes as a header falls once it has left (R358). -/
def State.headerLeft (s : State) (p : Nat) (m : OutMsg) : State := if !m.eager && s.injected p m then s.sendCounted m else s

/-- Injects the messages to a destination that may leave, in the order of their acceptance (R58, R63), each after what its group has to
inject before it (R44): packets each take a tag (R41). -/
def State.inject (s : State) (p dst : Nat) : State :=
  let mine := (s.cairn p).sends.filter (fun m => m.dst == dst)
  (mine.foldl (fun (acc : State × Bool) m =>
    let (s, blocked) := acc
    if m.sent && !m.refused then acc
    else if blocked || m.refused || !m.staged || s.fab.full (if m.eager then m.frags else 1) || s.uninjected m.core m.slot m.seq then (s, true)
    else
      let pkts := (if m.eager then m.packets else [m.header (s.windowIa p m) false]).map (m.stamped s.pkg.tick)
      let s := s.onCairn p (fun k => k.setSend { m with sent := true })
      let s := pkts.foldl (fun s q => s.sendReq (.cairn p m.sid) 0 q) s
      (s.headerLeft p { m with sent := true }, false)) (s, false)).1

/-- Reads a block of a planed payload: H, S, and the planes up to its V, each through its own register; those above are zero, and no
request is made for them (R165, R342). -/
def State.readBlock (s : State) (p : Nat) (m : OutMsg) (b : Nat) : State × UnitRes (List Byte × Bool) :=
  let pds := pktPds m.hdr
  let va := fun (k : Nat) => vaMod (m.buf + 4 * b + k * m.pstr)
  let word := fun (s : State) (k : Nat) =>
    match (s.part p).xlate (va k) 4 { rd := true, user := m.user } with
    | .error v => (s, UnitRes.fault v)
    | .ok (ia, so) =>
      let a := m.acc p s.pkg.tick [so]
      let (s, r) := match (s.part p).wordIas { rd := true, user := m.user } ((List.range (max 2 k + 1)).map va) with
        | some (ias, sors) => s.planeWordAt { a with sors := sors } ias m.pstr k
        | none => (match s.homeRead a ia 4 with
          | (s, .ok (w, q)) => (s, .ok (leNat w, q))
          | (s, .page) => (s, .page)
          | (s, .held) => (s, .held)
          | (s, .fatal) => (s, .fatal))
      s.engEnd a ia (va k) r id
  match word s 0 with
  | (s, .ok (h, bad)) =>
    (List.range (pds + 1)).foldl (fun (acc : State × UnitRes (List Byte × Bool)) k =>
      match acc with
      | (s, .ok (bs, bad)) =>
        if hV h < k then (s, .ok (bs ++ leBytes 4 0, bad))
        else match word s (k + 1) with
          | (s, .ok (w, b2)) => (s, .ok (bs ++ leBytes 4 w, bad || b2))
          | (s, .page ia) => (s, .page ia)
          | (s, .held) => (s, .held)
          | (s, .fault v) => (s, .fault v)
      | x => x) (s, .ok (leBytes 4 h, bad))
  | (s, .page ia) => (s, .page ia)
  | (s, .held) => (s, .held)
  | (s, .fault v) => (s, .fault v)

/-- Reads the whole payload of an eager message. -/
def State.readPayload (s : State) (p : Nat) (m : OutMsg) : State × UnitRes (List Byte × Bool) :=
  if pktPds m.hdr != 0 then
    (List.range (pktLen m.hdr / blockBytes m.hdr)).foldl (fun (acc : State × UnitRes (List Byte × Bool)) b =>
      match acc with
      | (s, .ok (bs, bad)) => match s.readBlock p m b with
        | (s, .ok (b2, bad2)) => (s, .ok (bs ++ b2, bad || bad2))
        | x => x
      | x => x) (s, .ok ([], false))
  else if pktLen m.hdr = 0 then (s, .ok ([], false))
  else match (s.part p).xlate m.buf (pktLen m.hdr) { rd := true, user := m.user } with
    | .error va => (s, .fault va)
    | .ok (ia, sor) =>
      let a := m.acc p s.pkg.tick [sor]
      let (s, r) := s.homeReads a 66 ia (pktLen m.hdr) [] false
      s.engEnds a ia m.buf (pktLen m.hdr) r id

/-- Operations that a send's read of its payload comes after (R342, R349): accesses of the group at home slices, those of collectives and of
message instructions among them, and a fabric barrier. -/
def OpKind.beforeSend (k : OpKind) : Bool :=
  k.isMem || k == .mpost || k == .mprobe || k == .car || k == .cbc || k == .cbar
/-- The send side reads a message's payload, once every earlier access of its group is performed at device scope, and injects it in its
turn (R342). -/
def State.sendRead (s : State) (p : Nat) (m : OutMsg) : State :=
  if m.staged then (s.inject p m.dst).headerLeft p m
  else
    let s := ((s.group m.core m.slot).ops.filter (fun o => decide (o.seq < m.seq) && o.kind.isMem)).foldl (fun s o => s.performSeq m.core m.slot o.seq) s
    let g := s.group m.core m.slot
    if g.ops.any (fun o => decide (o.seq < m.seq) && o.kind.beforeSend && o.status != .performed) then s
    else
      let s := s.landFrom m.core 3
      if !m.eager then (s.onCairn p (fun k => k.setSend { m with staged := true })).inject p m.dst
      else
        let wait := fun (s : State) (st : OpStatus) =>
          let g := s.group m.core m.slot
          match g.op m.seq with
          | some o => s.setGroup m.core m.slot (g.setOp { o with status := st })
          | none => s
        let parked := fun (s : State) (ia : Nat) (w : Bool) =>
          let (s, n) := s.fault p ia w false { core := m.core, slot := m.slot, req := 2 }
          -- a task does not park: it is aborted, and its send with it (R218)
          if (s.group m.core m.slot).isTask then
            ((s.onCairn p (fun k => k.dropSend m)).sendCounted m).abortTask m.core m.slot (some n)
          else wait s (.parked n)
        match s.readPayload p m with
        | (s, .page ia) => parked s ia false
        | (s, .held) => wait s .held
        | (s, .fault _) => s.sendDone p m 2 0
        | (s, .ok (_, true)) => s.sendDone p m 3 0
        | (s, .ok (bs, false)) =>
          let ia := (s.cairn p).staging m.sid
          match s.homeWrites (cairnAcc p) 66 ia bs with
          | (s, .page) => parked s (s.pageAt (cairnAcc p) ia bs.length) true
          | (s, .held) => wait s .held
          | (s, .fatal) => ((s.fault p (s.fatalAt (cairnAcc p) ia bs.length) true true { core := m.core, slot := m.slot, req := 2 }).1).sendDone p m 2 0
          | (s, .ok _) => ((s.onCairn p (fun k => k.setSend { m with staged := true, payload := bs })).sendCounted m).inject p m.dst

/-- Messages of a group that the send side has accepted before a number and not sent go on (R44). -/
def State.sendsOn (s : State) (c sl seq : Nat) : State :=
  let p := (s.group c sl).part
  ((s.cairn p).sends.filter (fun m => m.core == c && m.slot == sl && decide (m.seq < seq) && !m.sent)).foldl (fun s m =>
    match (s.cairn p).sends.find? (fun x => x.seq == m.seq && x.sid == m.sid) with
    | some m => s.sendRead p m
    | none => s) s
/-- PAYLOAD_READ (R342). -/
def execPayloadRead (s : State) : Host.Outcome State Fault Refusal :=
  let p := s.args.part
  match (s.cairn p).sends.find? (fun m => m.sid == s.args.sid) with
  | some m => .next (s.sendRead p m)
  | none => .next s

/-- REFUSED_RESEND (R63): once every packet to the destination is answered, the refused messages leave as headers. -/
def execRefusedResend (s : State) : Host.Outcome State Fault Refusal :=
  let p := s.args.part
  let dst := s.args.dst
  let open_ := s.fab.out.any (fun o => o.pkt.dst.toNat == dst && (o.pkt.kind.toNat == 6 || o.pkt.kind.toNat == 7) &&
    (match o.who with | .cairn q _ => q == p | _ => false))
  let refused := (s.cairn p).sends.filter (fun m => m.dst == dst && m.refused)
  if open_ || refused.isEmpty || s.fab.full refused.length then .next s
  else
    let s := refused.foldl (fun s m =>
      let s := s.onCairn p (fun k => k.setSend { m with refused := false })
      s.sendReq (.cairn p m.sid) 0 (m.stamped s.pkg.tick (m.header (s.windowIa p m) true))) s
    .next (s.inject p dst)

/-- A FIN of a partition's Cairn (R57): the sender's future takes the status and count that it carries. It is never refused: R63's
refusal keeps messages in order, and a FIN answers one of this device's own (log 111). An FST of 8 or more, which R69 does not list, is taken
modulo 16 (log 139). -/
def State.finIn (s : State) (port : Nat) (pkt : Packet) (p : Nat) : State :=
  match (s.cairn p).sends.find? (fun m => m.sid == pkt.msg.sid.toNat && m.dst == pkt.src.toNat) with
  | some m => (s.sendDone p m (pktPds pkt % 16) (pktLen pkt)).respond port pkt 0 []
  | none => s.respond port pkt 0 []

/-- A packet reaches the Cairn of the partition that holds its job (R71). -/
def State.messageIn (s : State) (port : Nat) (pkt : Packet) : State :=
  match s.partOfJob pkt.job.toNat with
  | none => s.respond port pkt 5 []
  | some p =>
    if !(s.cairn p).enabled then s.respond port pkt 5 []
    else match pkt.kind.toNat with
      | 6 => s.msgeIn port pkt p
      | 7 => s.msghIn port pkt p
      | _ => s.finIn port pkt p

/-- The packets that a held message channel keeps go on, in order, as long as it is free (R65). -/
def takeHeld : Nat → State → State
  | 0, s => s
  | fuel + 1, s =>
    match s.fab.heldIn with
    | [] => s
    | (port, pkt) :: rest => if s.channelHeld then s else takeHeld fuel (({ s with fab := { s.fab with heldIn := rest } } : State).messageIn port pkt)
def State.takeHeld (s : State) : State := Machine.takeHeld s.fab.heldIn.length s

/-- A packet for the Cairn, checked as R40 states; while the message channel is held it stays at its port, behind those that are there
(R65). -/
def State.message (s : State) (pkt : Packet) : State :=
  if pkt.rsvSet || (pkt.kind.toNat != 8 && decide (25 ≤ pktPds pkt)) then s.badPacket s.args.port
  else
    let s := s.takeHeld
    if s.channelHeld then { s with fab := { s.fab with heldIn := s.fab.heldIn ++ [(s.args.port, pkt)] } } else s.messageIn s.args.port pkt

/-- MSGE (R57, R58, R63). -/
def execMsge (s : State) : Host.Outcome State Fault Refusal := s.packet 6 State.message
/-- MSGH (R63, R66): a queue that it may not enter is full and holds the channel (R65). -/
def execMsgh (s : State) : Host.Outcome State Fault Refusal := s.packet 7 State.message
/-- FIN (R57). -/
def execFin (s : State) : Host.Outcome State Fault Refusal := s.packet 8 State.message

/-- A response for the Cairn: of a packet it sent, or of a pull (R57, R66). A pull that fails gives its landing status 5, also one that had met
a fault (log 140). -/
def State.cairnReply (s : State) (p sid : Nat) (o : Outstanding) (stat : Nat) (data : List Byte) : State :=
  let dst := o.pkt.dst.toNat
  match o.pkt.kind.toNat with
  | 0 =>
    match (s.cairn p).landings.find? (fun m => m.src == dst && m.sid == sid && m.pulling) with
    | none => s
    | some m =>
      let n := o.pkt.len.toNat + 1
      if stat = 0 then s.advance p { m with pulling := false, data := m.data ++ bytesAt data 0 n }
      else if stat = 2 then s.advance p { m with pulling := false, poisoned := true, data := m.data ++ List.replicate n 0, bad := m.bad ++ [(m.data.length, n)] }
      else s.advance p { m with pulling := false, failed := some 5 }
  | 8 => s
  | kind =>
    match (s.cairn p).sends.find? (fun m => m.sid == sid && m.dst == dst) with
    | none => s
    | some m =>
      if stat = 0 then
        if kind = 7 then s
        else if m.acked + 1 = m.frags && !m.refused then s.sendDone p m 0 (pktLen m.hdr)
        else s.onCairn p (fun k => k.setSend { m with acked := m.acked + 1 })
      else if stat = 1 then s.onCairn p (fun k => k.setSend { m with refused := true })
      else s.sendDone p m 7 0

/-! ### CCTL (R71) -/

/-- CCTL.EN is written 1 (R64, R71): the partition's match entries and queues are emptied. -/
def State.cairnEnable (s : State) (p : Nat) : State :=
  let k := s.cairn p
  if nbits (k.reg 0x38) 23 29 = 0 || nbits (k.reg 0x18) 0 21 < 16384 then s
  else s.onCairn p (fun k => { k with enabled := true, posted := [], gens := [], unexpected := [], refusing := [], sid := 0, held := false })
/-- CCTL_EN_SET. -/
def execCctlEnSet (s : State) : Host.Outcome State Fault Refusal :=
  .next (s.bar0 (0x30020 + 0x40 * s.args.part) (fun s => if s.args.fn != .pf then s else s.cairnEnable s.args.part))

/-- What a cleared EN discards. -/
def Cairn.clear (k : Cairn) : Cairn := { k with enabled := false, posted := [], unexpected := [], held := false }
/-- CCTL_EN_CLEAR. -/
def execCctlEnClear (s : State) : Host.Outcome State Fault Refusal :=
  .next (s.bar0 (0x30020 + 0x40 * s.args.part) (fun s => if s.args.fn != .pf then s else s.onCairn s.args.part Cairn.clear))

/-! ### The message instructions (R341 to R345) -/

/-- Frees the entry and the slot of a queued message that a post takes (R65). -/
def Cairn.unqueue (k : Cairn) (m : InMsg) : Cairn := { k with unexpected := k.unexpected.filter (fun x => x.order != m.order) }

/-- A post, or a re-arm of an entry: the outcome word. -/
def State.post (s : State) (p : Nat) (desc : List Byte) (rearm : Option Nat) : State × Dword :=
  let k := s.cairn p
  match k.unexpected.find? (fun m => descMatches desc m.hdr) with
  | some m =>
    let h := rearm.map k.handle
    ((s.onCairn p (fun k => k.unqueue m)).startLanding p m desc h, d64 (1 + (h.getD 0) * 2 ^ 32))
  | none =>
    match rearm with
    | some i => (s.onCairn p (fun k => { k with posted := updWhere (fun e => e.index == i) (fun e => { e with armed := true }) k.posted }), d64 (k.handle i * 2 ^ 32))
    | none =>
      let total := s.parts.foldl (fun n e => n + e.2.cairn.posted.length) 0
      match (List.range (k.posted.length + 1)).find? (fun i => !k.posted.any (fun e => e.index == i)) with
      | some i =>
        if decide (i < k.quota) && decide (total < 65536) then
          (s.onCairn p (fun k => { k with posted := k.posted ++ [{ index := i, order := k.nextOrder, desc := desc }], nextOrder := k.nextOrder + 1 }),
           d64 (k.handle i * 2 ^ 32))
        else (s, 2)
      | none => (s, 2)

/-- The entry a handle names. -/
def Cairn.entry (k : Cairn) (h : Nat) : Option Posted := k.posted.find? (fun e => k.handle e.index == h)

/-- What `mprobe` writes for a message found (R344). -/
def probeWords (m : Packet) : Dword × Dword :=
  (d64 (1 + pktPds m * 2 + m.msg.sep.toNat * 64 + m.src.toNat * 2 ^ 18 + m.msg.ctx.toNat * 2 ^ 30 + (if isHeader m then 2 ^ 46 else 0)),
   d64 (m.msg.mtag.toNat + pktLen m * 2 ^ 32))

/-- Performs an `mpost`, `mprobe`, `mcancel` or `mtest` of a group at the match memory (R58). `k` is 1 for the re-arm form. -/
def State.cairnOp (s : State) (c sl seq : Nat) : State :=
  match (s.group c sl).op seq with
  | none => s
  | some o =>
    if o.status != .issued then s
    else
      let p := o.vals.getD 1 0 |>.toNat
      let k := s.cairn p
      let fin := fun (s : State) (vs : List Dword) (reps : List Report) =>
        let g := s.group c sl
        s.setGroup c sl (g.setOp { o with status := .performed, out := (List.range vs.length).map (fun j => .s (o.d + j) (vs.getD j 0)), reports := reps })
      let h := (o.vals.getD 0 0).toNat / 2 ^ 32
      let withDesc := fun (go : State → List Byte → State) =>
        let s := ((s.group c sl).ops.filter (fun x => decide (x.seq < seq) && x.kind.isMem)).foldl (fun s x => s.performSeq c sl x.seq) s
        let g := s.group c sl
        let before := g.ops.filter (fun x => decide (x.seq < seq))
        let wait := fun (s : State) (n : Nat) => s.setGroup c sl ((s.group c sl).setOp { o with status := .parked n })
        match before.findSome? (fun q => (s.part p).parkedFor q o.touched) with
        | some n => wait s n
        | none =>
        if before.any (fun x => x.status != .performed && (mustPrecede x o || (x.kind.isMem && sharesByte x o))) then s
        else
          let ia := o.ias.getD 0 0
          match (s.l1Land c).homeRead (o.acc c sl g false s.pkg.tick) ia 64 with
          | (s, .ok (bs, false)) => go s bs
          | (s, .ok (_, true)) => fin s ((List.range o.dn).map (fun _ => 0)) [o.report 0x11 (o.addrs.getD 0 0)]
          | (s, .held) => s
          | (s, .fatal) => fin (s.fault p ia false true { core := c, slot := sl, iaddr := o.pc.toNat }).1 ((List.range o.dn).map (fun _ => 0)) [o.report 0x10 (o.addrs.getD 0 0)]
          | (s, .page) =>
            let (s, n) := s.fault p ia false false { core := c, slot := sl, iaddr := o.pc.toNat }
            let g := s.group c sl
            if g.isTask then (s.setGroup c sl (g.setOp { o with status := .performed })).abortTask c sl (some n) else wait s n
      match o.kind with
      | .mpost =>
        if o.k = 1 then
          if !k.enabled then fin s [4] []
          else match k.entry h with
            | some e =>
              if e.armed || !descPersist e.desc then fin s [5] []
              else let (s, v) := s.post p e.desc (some e.index); fin s [v] []
            | none => fin s [5] []
        else if !k.enabled then fin s [4] []
        else withDesc (fun s d => if descBad d then fin s [3] [] else let (s, v) := s.post p d none; fin s [v] [])
      | .mprobe =>
        if !k.enabled then fin s [0, 0] []
        else withDesc (fun s d => match (s.cairn p).unexpected.find? (fun m => descMatches d m.hdr) with
          | some m => let w := probeWords m.hdr; fin s [w.1, w.2] []
          | none => fin s [0, 0] [])
      | .mcancel =>
        if !k.enabled then fin s [4] []
        else match k.entry h with
          | some e =>
            let s := s.onCairn p (fun k => k.free e.index)
            if e.armed then fin (s.msgResolve p { cairnAgent with pol := o.pol, cls := o.cls, rel := o.deadline, who := { core := c, slot := sl, req := 2 } } (descFut e.desc) (msgWord 4 0 0 0) 0) [0] [] else fin s [6] []
          | none => fin s [5] []
      | _ =>
        let busy : Nat := if k.landings.any (fun m => m.handle == some h) then 4 else 0
        if !k.enabled then fin s [2] []
        else match k.entry h with
          | some e => fin s [d64 ((if e.armed then 0 else 1) + busy)] []
          | none => fin s [d64 (2 + busy)] []

/-- A message instruction enters path 3 and goes to the match memory. -/
def enterCairn (x : Ictx) (s : State) (o : Op) : Done :=
  let o := { o.withHints x.u.hints with path := 3, dvec := false, mo := 0 }
  match enterOp x s (fun s => s.completeOldest x.c x.sl 3) o with
  | .fin s' l w n a => .fin (s'.cairnOp x.c x.sl s.seq) l w n a
  | d => d

/-- An instruction that reads a descriptor: the checks of its address (R333). -/
def withDescriptor (x : Ictx) (s : State) (kind : OpKind) (d : BitVec 7) (dn : Nat) (a : Dword) : Done :=
  let va := vaMod a.toNat
  match (s.part x.g.part).xlate va 64 { rd := true, user := !x.g.privileged } with
  | .error v => .trap 0x08 (d64 v)
  | .ok (ia, so) =>
    if va % 64 != 0 then .trap 0x09 (d64 va)
    else enterCairn x s { seq := 0, path := 3, pc := 0, kind := kind, d := d.toNat, dn := dn, addrs := [va], ias := [ia], vals := [a, d64 x.g.part], so := so }

/-- MPOST (R343). -/
def execMpost (e : Bool) (d a : BitVec 7) (s : State) : Host.Outcome State Fault Refusal :=
  issue { i := .mpost e d a, e := e, fields := [sDstF d, sSrcF a] } s (fun x s => withDescriptor x s .mpost d 1 (x.readS a))
/-- MPROBE (R344). -/
def execMprobe (e : Bool) (d a : BitVec 7) (s : State) : Host.Outcome State Fault Refusal :=
  issue { i := .mprobe e d a, e := e, fields := [(sDstF d).many 2, sSrcF a] } s (fun x s => withDescriptor x s .mprobe d 2 (x.readS a))
/-- MPOST.RA (R343). -/
def execMpostRa (e : Bool) (d a : BitVec 7) (s : State) : Host.Outcome State Fault Refusal :=
  issue { i := .mpostRa e d a, e := e, fields := [sDstF d, sSrcF a] } s (fun x s =>
    enterCairn x s { seq := 0, path := 3, pc := 0, kind := .mpost, k := 1, d := d.toNat, dn := 1, vals := [x.readS a, d64 x.g.part] })
/-- MCANCEL (R345). -/
def execMcancel (e : Bool) (d a : BitVec 7) (s : State) : Host.Outcome State Fault Refusal :=
  issue { i := .mcancel e d a, e := e, fields := [sDstF d, sSrcF a] } s (fun x s =>
    enterCairn x s { seq := 0, path := 3, pc := 0, kind := .mcancel, d := d.toNat, dn := 1, vals := [x.readS a, d64 x.g.part] })
/-- MTEST (R345). -/
def execMtest (e : Bool) (d a : BitVec 7) (s : State) : Host.Outcome State Fault Refusal :=
  issue { i := .mtest e d a, e := e, fields := [sDstF d, sSrcF a] } s (fun x s =>
    enterCairn x s { seq := 0, path := 3, pc := 0, kind := .mtest, d := d.toNat, dn := 1, vals := [x.readS a, d64 x.g.part] })

/-- The send record as captured (R342). -/
structure SendRec where
  buf : Nat
  len : Nat
  pds : Nat
  pstr : Nat
  dst : Nat
  sep : Nat
  ctx : Nat
  tag : Nat
  fut : Nat
  bad : Bool
  deriving DecidableEq, Repr

def sendRec (r : Nat → Nat) : SendRec :=
  let pds := nbits (r 1) 32 5
  let len := nbits (r 1) 0 32
  { buf := nbits (r 0) 0 57, len := len, pds := pds, pstr := r 2, dst := nbits (r 3) 0 12, sep := nbits (r 3) 12 12,
    ctx := nbits (r 3) 24 16, tag := nbits (r 4) 0 32, fut := nbits (r 5) 0 57,
    bad := nbits (r 0) 57 7 != 0 || nbits (r 1) 37 27 != 0 || decide (24 < pds) || nbits (r 3) 40 24 != 0 || nbits (r 4) 32 32 != 0 ||
      nbits (r 5) 57 7 != 0 || r 5 % 16 != 0 || r 6 != 0 || r 7 != 0 ||
      (if pds = 0 then r 2 != 0 || (decide (8192 < len) && r 0 % 64 != 0)
       else r 2 % 4 != 0 || r 2 == 0 || len % (4 * (pds + 2)) != 0 || decide (8192 < len)) }

/-- The first byte of a message that no range register lets be read: every 64 KiB unit of a contiguous payload lies in the
register of its first byte. -/
def Part.sendFault (p : Part) (r : SendRec) (user : Bool) : Option Nat :=
  let need : Need := { rd := true, user := user }
  if r.pds = 0 then
    if r.len = 0 then none
    else match p.rangeOf r.buf with
      | none => some r.buf
      | some (k, x) =>
        if !x.grants need then some r.buf
        else
          let units := (r.buf + r.len - 1) / 65536 - r.buf / 65536
          ((List.range units).map (fun i => vaMod ((r.buf / 65536 + i + 1) * 65536))).find? (fun va =>
            match p.rangeOf va with | some (k', _) => k' != k | none => true)
  else
    ((List.range (r.len / (4 * (r.pds + 2)))).flatMap (fun b => (List.range (r.pds + 2)).map (fun k => vaMod (r.buf + 4 * b + k * r.pstr)))).findSome? (fun va =>
      match p.xlate va 4 need with | .error v => some v | .ok _ => none)

/-- MSEND (R342, R358, R360). -/
def execMsend (e : Bool) (d a : BitVec 7) (s : State) : Host.Outcome State Fault Refusal :=
  issue { i := .msend e d a, e := e, fields := [sDstF d, (sSrcF a).many 8] } s (fun x s =>
    let r := sendRec (fun j => (x.g.sreg (a.toNat + j)).toNat)
    let row := s.fab.row r.dst
    let p := x.g.part
    let k := s.cairn p
    if s.fab.drank == 4095 || !rowPeer row || !rowMsg row || (r.pds != 0 && !rowPwr row) then .trap 0x12 (d64 (r.buf + 3 * 2 ^ 57))
    else
      let fault := if !k.enabled || r.bad then none else (s.part p).sendFault r (!x.g.privileged)
      match fault with
      | some va => .trap 0x08 (d64 va)
      | none =>
        let code : Option Nat := if !k.enabled then some 4 else if r.bad then some 3 else if 1024 ≤ k.sends.length then some 2 else none
        let o : Op := { seq := 0, path := 3, pc := 0, kind := .msend, d := d.toNat, dn := 1, dvec := false }
        let o := o.withHints { x.u.hints with mo := none }
        let stalled := fun (s : State) => s.completeOldest x.c x.sl 3
        match code with
        | some n => enterOp x s stalled { o with status := .performed, out := [.s d.toNat (d64 n)] }
        | none =>
          match enterOp x s stalled { o with vals := [d64 k.sid], out := [.s d.toNat (d64 (k.sid * 2 ^ 32))] } with
          | .fin s' l w n af =>
            let hdr : Packet := { blankPkt with src := BitVec.ofNat 12 s.fab.drank, dst := BitVec.ofNat 12 r.dst, cls := BitVec.ofNat 2 o.cls,
                                                job := BitVec.ofNat 12 (s.jobOf p),
                                                msg := { blankMsg with ctx := BitVec.ofNat 16 r.ctx, sep := BitVec.ofNat 12 r.sep, mtag := w32 r.tag,
                                                                       mlen := w32 r.len, pds := BitVec.ofNat 5 r.pds, sid := BitVec.ofNat 16 k.sid } }
            let m : OutMsg := { sid := k.sid, dst := r.dst, hdr := hdr, buf := r.buf, pstr := r.pstr, fut := r.fut, rel := o.deadline, pol := o.pol, user := !x.g.privileged, core := x.c, slot := x.sl, seq := s.seq }
            let s' := s'.onCairn p (fun k => { k with sid := (k.sid + 1) % 65536, sends := k.sends ++ [m] })
            let s' := if x.g.isTask then s'.sendRead p m else s'
            .fin s' l w n af
          | y => y)

/-- What an outstanding message operation does when its completion is asked for. -/
def State.cairnProgress (s : State) (c sl : Nat) (o : Op) : State :=
  match o.kind with
  | .msend =>
    match (s.cairn (s.group c sl).part).sends.find? (fun m => m.seq == o.seq && m.core == c && m.slot == sl) with
    | some m => s.sendRead (s.group c sl).part m
    | none => s
  | _ => s.cairnOp c sl o.seq

end Sys2Proof.Machine
end

