-- ==== Sys2Proof/Machine/Collective.lean ====
section
/-! DEFINITION. The collective unit (R46 to R48, R346 to R349): `car`, `cbc` and `cbar`, multicast writes that arrive, and
timeouts. -/

namespace Sys2Proof.Machine

def Fabric.coll (f : Fabric) (g : Nat) : Coll := mget {} f.colls g
def State.onColl (s : State) (g : Nat) (f : Coll → Coll) : State :=
  { s with fab := { s.fab with colls := mput s.fab.colls g (f (s.fab.coll g)) } }

/-! ### Parameters -/

/-- Element bytes of a `car` format, or none (R347). -/
def carElem (fmt : Nat) : Option Nat := match fmt with
  | 0 => some 4
  | 1 => some 2
  | 2 => some 2
  | 6 => some 4
  | 13 => some 8
  | _ => none

/-- The limits of `car`'s parameters. -/
def carBad (b count : Nat) : Bool :=
  let s := nbits b 12 7
  match carElem (nbits b 19 4) with
  | none => true
  | some e => s == 0 || decide (64 < s) || s % e != 0 || (decide (576 < count) && decide (16 < s)) || b / 2 ^ 23 != 0

/-- Multicast writes of a broadcast, and the bytes of one. -/
def cbcCount (b : Nat) : Nat := ceilDiv (nbits b 24 12 + 1) 256
def cbcPiece (b i : Nat) : Nat := min 256 (nbits b 24 12 + 1 - 256 * i)

/-! ### Completion -/

/-- A collective ends with a status in D: the group is free again, and a completion is an acquire (R204, R347 to R349). -/
def State.collEnd (s : State) (g : Nat) (o : Op) (c sl : Nat) (status : Nat) (reps : List Report := []) : State :=
  let s := s.onColl g (fun u => { u with busy := none, failed := false })
  let s := if status = 0 then s.l1Acquire c else s
  let gr := s.group c sl
  s.setGroup c sl (gr.setOp { o with status := .performed, reqs := [], out := [.s o.d (d64 status)], reports := o.reports ++ reps })

/-- The sum of R48 for one element of every slot, and the events of its rounding. -/
def carSum (fmt : Nat) (xs : List Nat) : Nat × Option Ev :=
  match floatFmt fmt with
  | some f =>
    let r := (xs.drop 1).foldl (fun (acc : Num × Bool) x =>
      let t := acc.1.add 0 (f.readPlain x); (t.1, acc.2 || t.2)) (f.readPlain (xs.headD 0), false)
    let v := f.finish 0 r
    (v.1, some v.2)
  | none => (xs.foldl (· + ·) 0 % (if fmt = 13 then 2 ^ 64 else 2 ^ 32), none)

/-- Reads slots in ascending order; the IA of the one it stops at. -/
def State.slots (s : State) (a : Acc) (n : Nat) : List Nat → List (List Byte) → Bool → State × Nat × MemRes (List (List Byte) × Bool)
  | [], acc, bad => (s, 0, .ok (acc, bad))
  | ia :: ias, acc, bad =>
    match s.homeRead a ia n with
    | (s, .ok (b, p)) => State.slots s a n ias (acc ++ [b]) (bad || p)
    | (s, .page) => (s, ia, .page)
    | (s, .held) => (s, ia, .held)
    | (s, .fatal) => (s, ia, .fatal)

/-- The IA of a slot of a bank (R346, R347). -/
def Coll.slotIa (u : Coll) (bank i : Nat) : Nat := u.base * 64 + 64 * (bank * u.count + i)

/-- How the collective unit reaches a group's buffers for an operation: counted for no requester (R30). -/
def Op.collAcc (o : Op) (c sl : Nat) (g : Group) (write : Bool) (tick : Nat) : Acc :=
  { o.acc c sl g write tick with core := none, requester := noCounter }

/-- A task's collective meets a page fault: it ends, and the task is aborted (R218). -/
def State.collAbort (s : State) (g : Nat) (o : Op) (c sl rec : Nat) : State :=
  let s := s.onColl g (fun u => { u with busy := none, failed := false })
  (s.setGroup c sl ((s.group c sl).setOp { o with status := .performed, reqs := [] })).abortTask c sl (some rec)

/-- Delivers the result of an all-reduce whose slots have all arrived: it is summed, and for `car` written at a. -/
def State.carDeliver (s : State) (g : Nat) (o : Op) (c sl : Nat) : State :=
  let u := s.fab.coll g
  let gr := s.group c sl
  let b := (o.vals.getD 1 0).toNat
  let n := nbits b 12 7
  let fmt := nbits b 19 4
  let e := (carElem fmt).getD 4
  let toggle := fun (s : State) => s.onColl g (fun u => { u with bank := 1 - u.bank, arrived := u.arrived.filter (fun x => x.1 != u.bank) })
  if o.kind == .cbar then (toggle s).collEnd g o c sl 0
  else
    let va := o.addrs.getD 0 0
    let park := fun (s : State) (ia : Nat) (w : Bool) =>
      let (s, r) := s.fault gr.part ia w false { core := c, slot := sl, iaddr := o.pc.toNat }
      if gr.isTask then (toggle s).collAbort g o c sl r else s.setGroup c sl ((s.group c sl).setOp { o with status := .parked r })
    let fatal := fun (s : State) (ia : Nat) (w : Bool) =>
      ((s.fault gr.part ia w true { core := c, slot := sl, iaddr := o.pc.toNat }).1).collEnd g o c sl 0 [o.report 0x10 va]
    let a : Acc := { o.collAcc c sl gr false s.pkg.tick with die := 0, sor := true, user := false }
    let ias := (List.range u.count).map (u.slotIa u.bank)
    match s.slots a n ias [] false with
    | (s, i, .page) => park s i false
    | (s, _, .held) => s
    | (s, i, .fatal) => fatal s i false
    | (s, _, .ok (sl_, bad)) =>
      if bad then s.collEnd g o c sl 0 [o.report 0x11 va]
      else
        let rs := (List.range (n / e)).map (fun k => carSum fmt (sl_.map (fun bs => recField bs (e * k) e)))
        let ia := o.ias.getD 0 0
        let w := o.collAcc c sl gr true s.pkg.tick
        match s.homeWrites w 3 ia (rs.flatMap (fun r => leBytes e r.1)) with
        | (s, .page) => park s (s.pageAt w ia n) true
        | (s, .held) => s.setGroup c sl ((s.group c sl).setOp { o with status := .held })
        | (s, .fatal) => fatal s (s.fatalAt w ia n) true
        | (s, .ok _) =>
          let s := s.setGroup c sl ((s.group c sl).countEvents fmt (rs.filterMap (·.2)))
          (toggle s).collEnd g o c sl 0

/-- The slots of the current bank have all arrived. -/
def Coll.complete (u : Coll) : Bool := (List.range u.count).all (fun i => u.arrived.contains (u.bank, i))
/-- The multicast writes of a broadcast with these parameters: one sender's, 256 B apart, each of the bytes that the broadcast gives it
(R348). -/
def Coll.broadcast (u : Coll) (b : Nat) : Option (List (Nat × Nat × Nat)) :=
  ((u.landed.map (fun e => (List.range (cbcCount b)).map (fun i => (e.1, e.2.1 + 256 * i, cbcPiece b i)))).find? (fun es => es.all u.landed.contains))

/-- Whether the collective in progress on a group can end, and its end. A root ends with its last answer, another collective with what
has arrived (R347, R348). -/
def State.collCheck (s : State) (g : Nat) : State :=
  let u := s.fab.coll g
  match u.busy with
  | none => s
  | some (c, sl, seq) =>
    match (s.group c sl).op seq with
    | none => s
    | some o =>
      if o.status != .sent then s
      else if o.kind == .cbc && o.k = 1 then
        (if !o.reqs.isEmpty then s else s.collEnd g o c sl (if u.failed then 2 else 0))
      else if u.failed then s.collEnd g o c sl 2
      else if o.kind == .cbc then
        match u.broadcast (o.vals.getD 1 0).toNat with
        | some es => (s.onColl g (fun u => { u with landed := es.foldl List.erase u.landed })).collEnd g o c sl 0
        | none => s
      else if u.complete then s.carDeliver g o c sl
      else s

/-- A multicast write is answered: the switches' combined status (R47). -/
def State.collReply (s : State) (g seq tag stat : Nat) : State :=
  match (s.fab.coll g).busy with
  | none => s
  | some (c, sl, q) =>
    if q != seq then s
    else match (s.group c sl).op seq with
      | none => s
      | some o =>
        let s := s.setGroup c sl ((s.group c sl).setOp { o with reqs := o.reqs.filter (fun r => r.1 != tag) })
        (if stat != 0 then s.onColl g (fun u => { u with failed := true }) else s).collCheck g

/-! ### Issue and sending -/

/-- A multicast write of a collective. -/
def mcwPkt (o : Op) (job tick g ia : Nat) (bs : List Byte) : Packet :=
  { blankPkt with kind := 4, dst := BitVec.ofNat 12 g, job := BitVec.ofNat 12 job, cls := BitVec.ofNat 2 o.cls, dline := BitVec.ofNat 16 (stampFor tick o.deadline),
                  ia := BitVec.ofNat 52 ia, len := BitVec.ofNat 8 (bs.length - 1), payload := bs }

/-- Whether a collective waits for an earlier operation of its group: an access of it that is not performed, the result of an earlier
`car` among them (R347), and for `cbar` whatever path 3 holds. -/
def Op.collWaits (o x : Op) : Bool :=
  decide (x.seq < o.seq) && ((x.status != .performed && (x.kind.isMem || x.kind.isRemote || x.kind == .mpost || x.kind == .mprobe || x.kind == .car ||
    (x.kind == .cbc && x.k == 1) || (o.kind == .cbar && x.path == 3) || mustPrecede x o)))

/-- Sends what a collective sends (`rnd` is 1 once it has), once every earlier access of its group is performed (for `cbar` at fabric
scope) and what the group has to inject before it has left (R44). A member that receives a broadcast sends nothing, and waits for nothing but its arrival (R348). -/
def State.collSend (s : State) (c sl seq : Nat) : State :=
  match (s.group c sl).op seq with
  | none => s
  | some o =>
    let g := (o.vals.getD 0 0).toNat
    if o.status != .issued then s.collCheck g
    else if o.kind == .cbc && o.k = 0 then (s.setGroup c sl ((s.group c sl).setOp { o with status := .sent, rnd := 1 })).collCheck g
    else
      let s := ((s.group c sl).ops.filter (fun x => decide (x.seq < seq) && x.kind.isMem)).foldl (fun s x => s.performSeq c sl x.seq) s
      let s := ((s.group c sl).ops.filter (fun x => decide (x.seq < seq) && x.kind.isRemote && x.status == .issued)).foldl (fun s x => s.sendOp c sl x.seq) s
      let gr := s.group c sl
      let b := (o.vals.getD 1 0).toNat
      let u := s.fab.coll g
      let n := if o.kind == .cbc then nbits b 24 12 + 1 else if o.kind == .cbar then 4 else nbits b 12 7
      let count := if o.kind == .cbc then cbcCount b else 1
      if gr.ops.any o.collWaits || s.uninjected c sl seq || s.fab.full count then s
      else if u.broken then s.collEnd g o c sl 2
      else
        let s := s.landFrom c 4
        let go := fun (s : State) (bs : List Byte) =>
          let pkts := if o.kind == .cbc then (List.range count).map (fun i => mcwPkt o (s.jobOf gr.part) s.pkg.tick g (o.ias.getD 0 0 + 256 * i) ((bs.drop (256 * i)).take 256))
            else [mcwPkt o (s.jobOf gr.part) s.pkg.tick g (u.slotIa u.bank u.index) bs]
          let tags := (List.range pkts.length)
          let s := pkts.foldl (fun (acc : State × List Nat) q => (acc.1.sendReq (.coll g seq) (o.addrs.getD 0 0) q, acc.2 ++ [acc.1.fab.freeTag])) (s, [])
          let gr := s.1.group c sl
          s.1.setGroup c sl (gr.setOp { o with status := .sent, rnd := 1, reqs := tags.map (fun i => (s.2.getD i 0, [])) })
        let park := fun (s : State) (ia : Nat) =>
          let (s, r) := s.fault gr.part ia false false { core := c, slot := sl, iaddr := o.pc.toNat }
          let gr := s.group c sl
          if gr.isTask then s.collAbort g o c sl r else s.setGroup c sl (gr.setOp { o with status := .parked r })
        if o.kind == .cbar then go s [0, 0, 0, 0]
        else
          let ia := o.ias.getD 0 0
          match s.homeReads (o.collAcc c sl gr false s.pkg.tick) 66 ia n [] false with
          | (s, .ok (bs, false)) => go s bs
          | (s, .ok (_, true)) => s.collEnd g o c sl 0 [o.report 0x11 (o.addrs.getD 0 0)]
          | (s, .page) => park s (s.pageAt (o.collAcc c sl gr false s.pkg.tick) ia n)
          | (s, .held) => s
          | (s, .fatal) =>
            ((s.fault gr.part (s.fatalAt (o.collAcc c sl gr false s.pkg.tick) ia n) false true { core := c, slot := sl, iaddr := o.pc.toNat }).1).collEnd g o c sl 0 [o.report 0x10 (o.addrs.getD 0 0)]

/-- A collective instruction (R346): the group's entry, its parameters, its address (R333), and whether the group is busy or
broken; then its operation. -/
def collective (x : Ictx) (s : State) (kind : OpKind) (d : BitVec 7) (g : Nat) (bad : Nat → Bool) (va : Option (Nat × Nat × Nat)) (root : Coll → Bool) (vals : List Dword) : Done :=
  let u := s.fab.coll g
  let trx := (match va with | some v => v.1 | none => 0) + 3 * 2 ^ 57
  let o : Op := { seq := 0, path := 3, pc := 0, kind := kind, d := d.toNat, dn := 1, dvec := false, vals := d64 g :: vals }
  let o := { o.withHints { x.u.hints with mo := none } with rnd := 0 }
  let stalled := fun (s : State) => s.completeOldest x.c x.sl 3
  let answer := fun (n : Nat) => enterOp x s stalled { o with status := .performed, out := [.s d.toNat (d64 n)] }
  -- a device without a rank issues no remote instruction (R38)
  if s.fab.drank == 4095 || !u.valid || u.count == 0 then .trap 0x12 (d64 trx)
  else if bad u.count then answer 4
  else
    let addr : Except (Nat × Nat) (Nat × Nat × Bool) := match va with
      | none => .ok (0, 0, false)
      | some (a, n, al) => match (s.part x.g.part).xlate a n { rd := true, user := !x.g.privileged } with
        | .error v => .error (0x08, v)
        | .ok (ia, so) => if a % al != 0 then .error (0x09, a) else .ok (a, ia, so)
    match addr with
    | .error (cause, v) => .trap cause (d64 v)
    | .ok (a, ia, so) =>
      if u.busy.isSome then answer 3
      else if u.broken then answer 2
      else match enterOp x s stalled { o with k := if root u then 1 else 0, addrs := [a], ias := [ia], so := so } with
        | .fin s' l w n af =>
          let s' := s'.onColl g (fun u => { u with busy := some (x.c, x.sl, s.seq), failed := false })
          .fin (s'.collSend x.c x.sl s.seq) l w n af
        | y => y

/-- CAR (R347). -/
def execCar (e : Bool) (d a b : BitVec 7) (s : State) : Host.Outcome State Fault Refusal :=
  issue { i := .car e d a b, e := e, fields := [sDstF d, sSrcF a, sSrcF b] } s (fun x s =>
    let p := (x.readS b).toNat
    collective x s .car d (nbits p 0 12) (carBad p) (some (vaMod (x.readS a).toNat, nbits p 12 7, 16)) (fun _ => false) [x.readS b])
/-- CBC (R348). -/
def execCbc (e : Bool) (d a b : BitVec 7) (s : State) : Host.Outcome State Fault Refusal :=
  issue { i := .cbc e d a b, e := e, fields := [sDstF d, sSrcF a, sSrcF b] } s (fun x s =>
    let p := (x.readS b).toNat
    collective x s .cbc d (nbits p 0 12) (fun _ => p / 2 ^ 36 != 0) (some (vaMod (x.readS a).toNat, nbits p 24 12 + 1, 256))
      (fun u => u.index == nbits p 12 12) [x.readS b])
/-- CBAR (R349). -/
def execCbar (e : Bool) (d a : BitVec 7) (s : State) : Host.Outcome State Fault Refusal :=
  issue { i := .cbar e d a, e := e, fields := [sDstF d, sSrcF a] } s (fun x s =>
    let p := (x.readS a).toNat
    collective x s .cbar d (nbits p 0 12) (fun _ => p / 2 ^ 12 != 0) none (fun _ => false) [0])

/-! ### Events -/

/-- What arrives at a member with a multicast write that has been performed: a slot of its own buffer is counted for its bank, a
piece of a broadcast, which starts an aligned 256 B block, for its broadcasts; a slot elsewhere counts for nothing (R346, R348, log
112). -/
def State.mcwCount (s : State) (pkt : Packet) : State :=
  let g := pkt.dst.toNat
  let u := s.fab.coll g
  let ia := pkt.ia.toNat
  if !u.valid || u.broken then s
  else if u.base * 64 ≤ ia && ia < u.base * 64 + 128 * u.count then
    let i := (ia - u.base * 64) / 64
    let e := (i / u.count, i % u.count)
    (s.onColl g (fun u => { u with arrived := if u.arrived.contains e then u.arrived else u.arrived ++ [e] })).collCheck g
  else if pkt.src.toNat = s.fab.drank || ia % 256 != 0 then s
  else (s.onColl g (fun u => { u with landed := u.landed ++ [(pkt.src.toNat, ia, pkt.len.toNat + 1)] })).collCheck g

/-- A slot that arrives at a group marked broken (R347). -/
def State.lateSlot (s : State) (pkt : Packet) : Bool :=
  let u := s.fab.coll pkt.dst.toNat
  u.valid && u.broken && decide (u.base * 64 ≤ pkt.ia.toNat) && decide (pkt.ia.toNat < u.base * 64 + 128 * u.count)

/-- A multicast write is served as a write, behind an earlier one to its block (R44), and counted once it is performed; a late slot is
dropped (R48, log 48). -/
def State.serveMcw (s : State) (port : Nat) (pkt : Packet) : State :=
  if pkt.rsvSet then s.badPacket port
  else if s.lateSlot pkt && (s.partOfJob pkt.job.toNat).isSome then s.respond port pkt 0 []
  else match s.partOfJob pkt.job.toNat with
    | none => s.respond port pkt 5 []
    | some p =>
      let pkt := { pkt with kind := 4 }
      match (s.part p).behind pkt with
      | some n => s.parkRemote p n port pkt
      | none =>
        match s.serveIn p pkt with
        | (s, .rsp stat data) => (if stat = 0 then s.mcwCount pkt else s).respond port pkt stat data
        | (s, .park n) => s.parkRemote p n port pkt

/-- MCW (R47). -/
def execMcw (s : State) : Host.Outcome State Fault Refusal := s.packet 4 (fun s p => s.serveMcw s.args.port p)

/-- A multicast write of a collective has not left its port yet. -/
def State.collHeld (s : State) (g seq : Nat) : Bool := s.fab.out.any (fun o => o.who == .coll g seq && o.port == 72)
/-- Something that a collective waits for has not arrived, its own contribution having left (R48, R347, R348). -/
def State.collMissing (s : State) (g : Nat) (o : Op) : Bool :=
  let u := s.fab.coll g
  o.status == .sent && (if o.kind == .cbc then (u.broadcast (o.vals.getD 1 0).toNat).isNone else !s.collHeld g o.seq && !u.complete)
/-- The member times out: the operation ends with TIMEOUT, the group is broken and its counts are cleared (R347). -/
def State.collTimeout (s : State) (g : Nat) (mine : Op → Bool) : State :=
  match (s.fab.coll g).busy with
  | none => s
  | some (c, sl, seq) =>
    match (s.group c sl).op seq with
    | none => s
    | some o =>
      if !mine o || !s.collMissing g o then s
      else (s.onColl g (fun u => { u with broken := true, arrived := [], landed := [] })).collEnd g o c sl 1

/-- CAR_TIMEOUT (R347): `car` or `cbar`. -/
def execCarTimeout (s : State) : Host.Outcome State Fault Refusal := .next (s.collTimeout s.args.group (fun o => o.kind == .car || o.kind == .cbar))
/-- CBC_TIMEOUT (R348): of a member other than the root. -/
def execCbcTimeout (s : State) : Host.Outcome State Fault Refusal := .next (s.collTimeout s.args.group (fun o => o.kind == .cbc && o.k != 1))

/-- A write of MCG entry g (R46, R346, R347): VALID written 1 sets BANK to 0; written 1 after 0 it clears the mark and the counts. -/
def State.mcgWrite (s : State) (g : Nat) (v : Dword) : State :=
  s.onColl g (fun u =>
    let was := u.valid
    let u := { u with count := nbits v.toNat 0 12, index := nbits v.toNat 12 12, valid := nbit v.toNat 24 }
    if !u.valid then u
    else if was then { u with bank := 0 }
    else { u with bank := 0, broken := false, arrived := [], landed := [] })

/-- MCG_WRITE: writes from a virtual function are ignored. -/
def execMcgWrite (s : State) : Host.Outcome State Fault Refusal :=
  .next (s.bar0 (0x28000 + 8 * s.args.group) (fun s => if s.args.fn != .pf then s else s.mcgWrite s.args.group s.args.v))

end Sys2Proof.Machine
end

