-- ==== Sys2Proof/Machine/Progress.lean ====
section
/-! DEFINITION. Completion of asynchronous operations (R122, R126), and what moves in a quarter that has no ready unit. -/

namespace Sys2Proof.Machine

/-- An operation of path 3 goes on. -/
def State.remoteOn (s : State) (c sl : Nat) (o : Op) : State :=
  match o.kind with
  | .rld | .rst | .ratom => s.sendOne c sl o.seq
  | .car | .cbc | .cbar => s.collSend c sl o.seq
  | .msend | .mpost | .mprobe | .mcancel | .mtest => s.cairnProgress c sl o
  | _ => s
/-- The operations of path 3 up to one go on in issue order, with the messages that the send side has accepted before them (R44). -/
def State.pathOn (s : State) (c sl seq : Nat) : State :=
  let s := s.sendsOn c sl seq
  ((s.group c sl).ops.filter (fun o => o.path == 3 && decide (o.seq ≤ seq) && o.status != .performed)).foldl (fun s o =>
    match (s.group c sl).op o.seq with
    | some o => s.remoteOn c sl o
    | none => s) s

/-- The oldest operation of a path of a group completes, whatever its kind, if it can (R122). -/
def State.completePath (s : State) (c sl path : Nat) : State :=
  match (s.group c sl).ops.find? (fun o => o.path == path) with
  | none => s
  | some o =>
    match o.kind with
    | .cfetch => ((if o.status == .issued then s.performFetch c sl o else s)).completeOldest c sl path
    | .sfu => s.sfuDone c (quarterOf sl)
    | .engine => s.engineOldest c sl
    | .rld | .rst | .ratom | .car | .cbc | .cbar | .msend | .mpost | .mprobe | .mcancel | .mtest => (s.pathOn c sl o.seq).completeOldest c sl path
    | _ => s.completeOldest c sl path

/-- OPERATION_COMPLETE (R122). -/
def execOperationComplete (s : State) : Host.Outcome State Fault Refusal :=
  .next (s.completePath s.args.core s.args.slot s.args.path)

/-- GROUP_RETIRE (R89). -/
def execGroupRetire (s : State) : Host.Outcome State Fault Refusal :=
  .next (s.retire s.args.core s.args.slot)

/-- What the units of a quarter whose next run would stall wait for goes on (R102, log 89), and the messages at a channel that is free
again (R65). -/
def State.progress (s : State) (c q : Nat) : State :=
  ((s.core c).groups.filter (fun e => quarterOf e.1 == q)).foldl (fun s e =>
    e.2.live.foldl (fun s u =>
      let g := s.group c e.1
      match (s.core c).stallsOn e.1 g (g.iunit u.uid) with
      | some 8 => s.performAll c e.1
      | some 9 => s.boardMoves c
      | some 10 | some 11 => s
      | some p => s.completePath c e.1 p
      | none => if g.windowOps.isEmpty || (s.core c).onBoard < 64 then s else s.boardMoves c) s) s.takeHeld

/-- The oldest operation of each path of a group. -/
def Group.heads (g : Group) : List Op := g.ops.filter (fun o => (g.ops.find? (fun p => p.path == o.path)) == some o)

/-- A quarter without a ready unit idles for a cycle; the first operation of its groups that can complete does, so that a group
whose units have exited or wait reaches its end (log 7). -/
def State.idle (s : State) (c q : Nat) : State :=
  let cands := ((s.core c).groups.filter (fun e => quarterOf e.1 == q)).flatMap (fun e => e.2.heads.map (fun o => (e.1, o)))
  match cands.find? (fun x => match x.2.status with | .issued => true | .performed => true | _ => false) with
  | some (sl, o) => (s.completePath c sl o.path).cycle c
  | none => s.cycle c

end Sys2Proof.Machine
end

