-- ==== Sys2Proof/Machine/Sync.lean ====
section
/-! DEFINITION. Fences, waits and barriers (R124, R196 to R199, R203, R222, R303). -/

namespace Sys2Proof.Machine

/-- Whether an operation is performed, as far as a fence waits for it: remote ones at fabric scope and wider (R44, R198). -/
def fenceWaits (order scope : Nat) (o : Op) : Bool :=
  o.status != .performed && ((o.kind.isMem && (order != 1 || o.kind.reads)) || (o.path == 3 && decide (4 ≤ scope)))

/-- A fence of an order and scope (R197, R198, R203): what it waits for is performed; a release leaves no far copy behind, an
acquire invalidates the clean lines of L1. -/
def fenceDo (x : Ictx) (s : State) (order scope : Nat) (go : State → Done) : Done :=
  if order = 0 then go s
  else
    let want := ((s.group x.c x.sl).ops.filter (fun o => o.kind.isMem && (order != 1 || o.kind.reads))).map (·.seq)
    let s := want.foldl (fun s n => s.performSeq x.c x.sl n) s
    match (s.group x.c x.sl).ops.find? (fenceWaits order scope) with
    | some o => .stall (if o.path = 3 then s.pathOn x.c x.sl o.seq else s)
    | none =>
      let s := if order != 1 then s.landFrom x.c scope else s
      go (if order != 2 && decide (2 ≤ scope) then s.l1Acquire x.c else s)

/-- FENCE (R303). -/
def execFence (e : Bool) (sc o : BitVec 3) (s : State) : Host.Outcome State Fault Refusal :=
  issue { i := .fence e sc o, e := e, flush := true } s (fun x s => fenceDo x s o.toNat sc.toNat finPlain)

/-- WAITC (R124, R222): the unit stalls until the count is low enough; then what is reported on the path traps, one event at a time,
whether or not its operation is among those the instruction need not wait for (log 136).
On path 4 it is a flush point (R142); a handler holds further TILE_FAULTs back (R153). -/
def execWaitc (e : Bool) (n : BitVec 6) (p : BitVec 3) (s : State) : Host.Outcome State Fault Refusal :=
  issue { i := .waitc e n p, e := e } s (fun x s =>
    let path := p.toNat
    let s := if path = 4 then s.flush x.c x.sl else s
    let g := s.group x.c x.sl
    if path = 4 && s.windowLeft x.c x.sl then .stall (s.completePath x.c x.sl path)
    else if n.toNat < g.inFlight path then .stall (s.completePath x.c x.sl path)
    else
      let mine := g.reports.filter (fun r => r.path == path && !(statInTrapBit g.stat && r.cause == 0x14))
      match firstReport mine with
      | some r => .report (s.setGroup x.c x.sl (g.dropReport r)) r.cause r.trx (r.tra.getD x.u.pc) r.inst
      | none => finPlain s)

/-- A barrier of a group (R303): the unit waits, which releases its quarter (R116); the group's arrival is a release. A unit whose barrier
has completed goes on, an acquire. A task's completes at once, as a fence, which flushes its window (R142). -/
def barInst (i : Instr) (e : Bool) (scope : Nat) (w : Wait) (s : State) : Host.Outcome State Fault Refusal :=
  issue { i := i, e := e, flush := s.ictx.g.isTask } s (fun x s =>
    if x.g.isTask then fenceDo x s 3 scope finPlain
    else if x.u.passed then finPlain (if 2 ≤ scope then s.l1Acquire x.c else s)
    else .wait ((s.performAll x.c x.sl).landFrom x.c scope) w)

/-- BAR (R303). -/
def execBar (e : Bool) (s : State) : Host.Outcome State Fault Refusal := barInst (.bar e) e 1 .bar s
/-- BARC (R303). -/
def execBarc (e : Bool) (s : State) : Host.Outcome State Fault Refusal := barInst (.barc e) e 2 .barc s

end Sys2Proof.Machine
end

