-- ==== Sys2Proof/Machine/Link.lean ====
section
/-! DEFINITION. Responses and timeouts (R41, R42), ports and protected links (R45, R49 to R51), the key window (R50), and
checkpoints (R55). -/

namespace Sys2Proof.Machine

/-! ### Checkpoints (R55) -/

/-- Pieces of 256 B of a checkpoint. -/
def ckptPieces (l : List (Nat × Nat × Nat × Nat)) : Nat := l.foldl (fun n e => n + e.2.1 * 8192) 0

/-- The packet of a piece: its source, and where it goes. -/
def ckptPiece : List (Nat × Nat × Nat × Nat) → Nat → Option (Nat × Nat × Nat)
  | [], _ => none
  | (src, len, rank, ia) :: l, n => if n < len * 8192 then some (src + 256 * n, rank, ia + 256 * n) else ckptPiece l (n - len * 8192)

/-- Sends the next piece of a checkpoint that runs; pieces go one after the other (log 15). A device without a rank sends none
(R38). Poisoned bytes go as they read (log 96). -/
def State.ckptSend (s : State) : State :=
  if s.fab.ckptState != 1 || s.fab.ckptOpen != 0 || s.fab.ckptAborting || s.fab.full 1 || s.fab.drank == 4095 then s
  else match ckptPiece s.fab.ckptList s.fab.ckptNext with
    | none => s
    | some (src, rank, ia) =>
      let (s, a, _) := s.memRead src 128 2
      let (s, b, _) := s.memRead (src + 128) 128 2
      let pkt : Packet := { blankPkt with kind := 1, dst := BitVec.ofNat 12 rank, cls := 2, ia := BitVec.ofNat 52 ia, len := 255, payload := a ++ b }
      let s := { s with fab := { s.fab with ckptNext := s.fab.ckptNext + 1, ckptOpen := 1 } }
      s.sendReq .checkpoint 0 pkt

/-- A checkpoint write is answered: a status other than OK fails it, and an abort that waited for it takes effect. -/
def State.ckptReply (s : State) (stat : Nat) : State :=
  let s := { s with fab := { s.fab with ckptOpen := 0 } }
  if s.fab.ckptAborting then { s with fab := { s.fab with ckptState := 3, ckptCode := 3, ckptAborting := false } }
  else if stat = 0 || s.fab.ckptState != 1 then s.ckptSend else { s with fab := { s.fab with ckptState := 3, ckptCode := 4 } }

/-- Writes every dirty L2 line back, then every dirty block of the cache layer. -/
def State.cleanAll (s : State) : State :=
  let s := s.cleanWhere (fun _ => true)
  let h := s.hbm.victims.foldl (fun h v => h.writeBlock v.1 v.2) s.hbm
  let h := { h with victims := [] }
  let h := h.layer.foldl (fun h e => e.2.foldl (fun h b => h.writeBlock (e.1 / 4096) b) h) h
  { s with hbm := { h with layer := h.layer.map (fun e => (e.1, e.2.map (fun b => { b with dirty := 0 }))) } }

/-- A descriptor of the list (log 16): source, length, rank and IA, 8 B each; whether it can be streamed (log 96). -/
def ckptEntry (b : List Byte) : Nat × Nat × Nat × Nat := (recField b 0 8, recField b 8 8, recField b 16 8, recField b 24 8)
def ckptBad (e : Nat × Nat × Nat × Nat) : Bool :=
  decide (memEnd < e.1 + e.2.1 * 2097152) || e.1 % 256 != 0 || e.2.1 == 0 || decide (4095 ≤ e.2.2.1) || e.2.2.2 % 256 != 0

/-- A checkpoint starts or fails at once; a running partition is found before a bad list (log 96). Before READY no memory access is
accepted, and it does not start (R17). -/
def State.ckptGo (s : State) : State :=
  if s.fab.ckptState = 1 || !s.pkg.ready then s
  else
    let fail := fun (s : State) (c : Nat) => { s with fab := { s.fab with ckptState := 3, ckptCode := c } }
    let n := nbits s.fab.ckptDesc.toNat 52 12
    let base := nbits s.fab.ckptDesc.toNat 0 52
    if s.parts.any (fun e => e.2.st == 1 || e.2.st == 2 || e.2.st == 5) then fail s 2
    else if n = 0 || base % 32 != 0 || decide (memEnd < base + 32 * n) then fail s 1
    else
      let s := s.cleanAll
      let r := (List.range n).foldl (fun (acc : State × List (Nat × Nat × Nat × Nat)) i =>
        let (s, b, _) := acc.1.memRead (base + 32 * i) 32 2
        (s, acc.2 ++ [ckptEntry b])) (s, [])
      if r.2.any ckptBad then fail r.1 1
      else { r.1 with fab := { r.1.fab with ckptState := 1, ckptCode := 0, ckptList := r.2, ckptNext := 0, ckptOpen := 0, ckptAborting := false } }.ckptSend

/-- CHECKPOINT_GO (R55): from the physical function only. -/
def execCheckpointGo (s : State) : Host.Outcome State Fault Refusal := .next (s.bar0 0x26008 (fun s => if s.args.fn != .pf then s else s.ckptGo))
/-- An abort (R55): the checkpoint stops at once, or when its packet in flight has been answered. -/
def State.ckptAbort (s : State) : State :=
  if s.fab.ckptState != 1 then s
  else if s.fab.ckptOpen != 0 then { s with fab := { s.fab with ckptAborting := true } }
  else { s with fab := { s.fab with ckptState := 3, ckptCode := 3 } }
/-- CHECKPOINT_ABORT (R55). -/
def execCheckpointAbort (s : State) : Host.Outcome State Fault Refusal := .next (s.bar0 0x26008 (fun s => if s.args.fn != .pf then s else s.ckptAbort))
/-- CHECKPOINT_DONE (R55): every packet has been answered; else a packet that could not leave before leaves. -/
def execCheckpointDone (s : State) : Host.Outcome State Fault Refusal :=
  if s.fab.ckptState = 1 && s.fab.ckptOpen = 0 && decide (ckptPieces s.fab.ckptList ≤ s.fab.ckptNext) then
    .next { s with fab := { s.fab with ckptState := 2, ckptCode := 0 } }
  else .next s.ckptSend

/-! ### Responses (R41, R42) -/

/-- What a response, or a timeout in its place, does for the one who asked. -/
def State.deliver (s : State) (o : Outstanding) (stat : Nat) (data : List Byte) : State :=
  match o.who with
  | .lane c sl seq i => s.laneReply c sl seq i o stat data
  | .engine c sl seq => s.cmdReply c sl seq o stat data
  | .cairn p sid => s.cairnReply p sid o stat data
  | .coll g seq => s.collReply g seq o.tag stat
  | .checkpoint => s.ckptReply stat

/-- Ends an outstanding request: its tag is free, held requests may leave, its requester is told. -/
def State.endReq (s : State) (o : Outstanding) (stat : Nat) (data : List Byte) : State :=
  let s := { s with fab := { s.fab with out := s.fab.out.filter (fun x => x.tag != o.tag) } }
  (s.pump).deliver o stat data

/-- RSP (R42): one whose tag is free came after its timeout and is dropped; STAT 7 is treated as 4. One whose tag a newer request has
is taken as that one's answer (log 97). -/
def execRsp (s : State) : Host.Outcome State Fault Refusal :=
  s.packet 9 (fun s pkt =>
    match s.fab.out.find? (fun o => o.tag == pkt.tag.toNat) with
    | none =>
      let p := s.fab.port s.args.port
      { s with fab := s.fab.setPort s.args.port { p with late := satAdd p.late 1 } }
    | some o => s.endReq o (if pkt.stat = 7 then 4 else pkt.stat.toNat) pkt.payload)

/-- REQUEST_TIMEOUT (R41): a request that has been injected and is unanswered. -/
def execRequestTimeout (s : State) : Host.Outcome State Fault Refusal :=
  match s.fab.out.find? (fun o => o.tag == s.args.tag && o.port != 72) with
  | none => .next s
  | some o => .next (s.endReq o 6 [])

/-! ### Ports and links (R45, R49, R51) -/

/-- A port goes down: LINKDOWN is posted. -/
def State.portDown (s : State) (p : Nat) : State :=
  { s with fab := s.fab.setPort p { s.fab.port p with up := false, fails := 0 } }.postMgmt (.portDown p)

/-- PORT_FAILURE (R45). -/
def execPortFailure (s : State) : Host.Outcome State Fault Refusal :=
  if (s.fab.port s.args.port).up && s.args.port < 72 then .next (s.portDown s.args.port).pump else .next s

/-- PORT_RETRAIN_COMPLETE (R17): the port carries traffic once a key is installed. In recovery mode the ports stay in reset, without an
identity key they stay disabled (R13, R14). -/
def execPortRetrainComplete (s : State) : Host.Outcome State Fault Refusal :=
  let p := s.args.port
  if p < 72 && !s.pkg.recov && s.pkg.idok then .next { s with fab := s.fab.setPort p { s.fab.port p with trained := true, up := true, fails := 0 } }.pump else .next s

/-- FLIT_RECEIVE (R49, R51): a flit under a key slot. -/
def execFlitReceive (s : State) : Host.Outcome State Fault Refusal :=
  let n := s.args.port
  let p := s.fab.port n
  let k := mget {} p.slots s.args.slot
  if !k.present then .next { s with fab := s.fab.setPort n { p with kdrop := satAdd p.kdrop 1 } }
  else if !s.args.tagOk then
    let p := { p with tagfail := satAdd p.tagfail 1, fails := p.fails + 1 }
    let s := { s with fab := s.fab.setPort n p }
    .next (if 8 ≤ p.fails then (s.portDown n).pump else s)
  else
    let slots := mput p.slots s.args.slot { k with rxCount := k.rxCount + 1 }
    let other := if s.args.slot % 2 = 0 then s.args.slot + 1 else s.args.slot - 1
    let old := mget {} slots other
    -- the first valid flit under the newer generation zeroises the older
    let slots := if old.present && decide (old.gen < k.gen) then mdel slots other else slots
    .next { s with fab := s.fab.setPort n { p with fails := 0, slots := slots } }

/-- KEY_COUNTER_EXHAUSTED (R49): the transmit counter of a slot has reached its greatest value. -/
def execKeyCounterExhausted (s : State) : Host.Outcome State Fault Refusal :=
  let p := s.fab.port s.args.port
  let k := mget {} p.slots s.args.slot
  if k.present then .next { s with fab := s.fab.setPort s.args.port { p with slots := mput p.slots s.args.slot { k with txCount := 2 ^ 64 - 1 } } }
  else .next s

/-! ### The key window (R50) -/

def recJob (r : List Byte) : Nat := nbits (recField r 144 2) 0 12
def recPart (r : List Byte) : Nat := recField r 146 1
def recGen (r : List Byte) : Nat := recField r 147 1 % 2

/-- The failure code of a record, or the key it carries. A PART above 7 counts as a reserved field (log 98). -/
def State.keyRecord (s : State) (r : List Byte) : Except Nat Nat :=
  let pj := mget (0, false) s.fab.pjob (recPart r)
  let reserved := (List.range 7).any (fun i => r.getD (97 + i) 0 != 0) || (List.range 44).any (fun i => r.getD (148 + i) 0 != 0) ||
    recField r 144 2 / 4096 != 0 || decide (7 < recPart r) || decide (1 < recField r 147 1)
  if !s.pkg.idok then .error 3
  else if reserved || !pj.2 || pj.1 != recJob r then .error 4
  else if !Config.onCurve (r.take 97) then .error 2
  else match Config.openKeyRecord s.fab.drank r with
    | some k => .ok k
    | none => .error 1

/-- A slot's key is installed on every port, its counters at 0. -/
def Fabric.installKey (f : Fabric) (job slot key : Nat) : Fabric :=
  (List.range 72).foldl (fun f i =>
    let p := f.port i
    let gen := p.slots.foldl (fun n e => max n (e.2.gen + 1)) 0
    f.setPort i { p with slots := mput p.slots slot { present := true, job := job, key := key, gen := gen } }) f

/-- GO starts an installation with the record as it stands; it is ignored while one runs. A management command that it ignores is
answered with the final value of that one (log 98). -/
def State.keyGo (s : State) (r : List Byte) (mctp : Bool) : State :=
  if s.fab.kwState = 1 then { s with fab := { s.fab with kwMctp := s.fab.kwMctp + (if mctp then 1 else 0) } }
  else { s with fab := { s.fab with kwState := 1, kwCode := 0, kwBusy := r, kwMctp := if mctp then 1 else 0 } }

/-- KEY_WINDOW_GO (R50): from the physical function only. -/
def execKeyWindowGo (s : State) : Host.Outcome State Fault Refusal :=
  .next (s.bar0 0x251C0 (fun s => if s.args.fn != .pf then s else s.keyGo (memBytes s.fab.kwrec 0 192) false))
/-- KEY_INSTALL (R50): the management command's record. -/
def execKeyInstall (s : State) : Host.Outcome State Fault Refusal := .next (s.keyGo (bytesAt s.args.data 0 192) true)

/-- KEY_INSTALL_DONE (R50). -/
def execKeyInstallDone (s : State) : Host.Outcome State Fault Refusal :=
  if s.fab.kwState != 1 then .next s
  else
    let r := s.fab.kwBusy
    let s := match s.keyRecord r with
      | .ok key => { s with fab := { s.fab.installKey (recJob r) (2 * recPart r + recGen r) key with kwState := 2, kwCode := 0 } }
      | .error c => { s with fab := { s.fab with kwState := 3, kwCode := c } }.postMgmt (.keyRecord (recPart r) c)
    let s := { s with pkg := { s.pkg with answers := s.pkg.answers ++ List.replicate s.fab.kwMctp (Answer.key s.fab.kwState s.fab.kwCode) } }
    .next ({ s with fab := { s.fab with kwBusy := [], kwMctp := 0 } }.pump)

end Sys2Proof.Machine
end

