-- ==== Sys2Proof/Machine/Launch.lean ====
section
/-! DEFINITION. Launch queues and records (R77 to R81), code sections (R76), placement (R88 to R92), graphs (R83), and tasks
from their queues to their start (R94 to R97). -/

namespace Sys2Proof.Machine

/-! ### Records (R80) -/

def lrLid (r : List Byte) : Nat := recField r 0 4
def lrKind (r : List Byte) : Nat := recField r 4 1
def lrPrio (r : List Byte) : Nat := recField r 5 1 % 4
def lrEarly (r : List Byte) : Bool := nbit (recField r 5 1) 2
/-- SHARE, 1 to 7: 0 acts as 4, 8 and above as 7. -/
def lrShare (r : List Byte) : Nat := let v := recField r 6 1; if v = 0 then 4 else min v 7
def lrCode (r : List Byte) : Nat := recField r 8 8
def lrGrid (r : List Byte) (i : Nat) : Nat := recField r (0x18 + 2 * i) 2
def lrWidth (r : List Byte) : Nat := nbits (recField r 0x1E 2) 0 4
def lrHeight (r : List Byte) : Nat := nbits (recField r 0x1E 2) 4 4
/-- Groups of a team. -/
def lrTeam (r : List Byte) : Nat := nbits (recField r 0x1E 2) 8 5 + 1
def lrPreds (r : List Byte) : List Nat := ((List.range 4).map (fun i => recField r (0x28 + 4 * i) 4)).filter (fun l => l != 0)
def lrCompl (r : List Byte) : Nat := recField r 0x48 8
/-- Clusters of the grid. -/
def lrClusters (r : List Byte) : Nat := lrGrid r 0 * lrGrid r 1 * lrGrid r 2
/-- What a launch passes on to a task it causes (R96). -/
def lrInherit (r : List Byte) (max : BitVec 3) : Inherit :=
  { rwp := BitVec.ofNat 3 (recField r 7 1) &&& max, fxb := d64 (recField r 0x38 8), lnch := w32 (lrLid r),
    safeto := if recField r 0x40 4 = 0 then 65536 else recField r 0x40 4 }

/-- A record that fails with status 1. -/
def lrBad (r : List Byte) : Bool :=
  nbits (recField r 5 1) 3 5 != 0 || nbits (recField r 7 1) 3 5 != 0 || nbits (recField r 0x1E 2) 13 3 != 0 || recField r 0x44 4 != 0 ||
  recField r 0x50 48 != 0 || decide (1 < lrKind r) || lrLid r == 0 || lrGrid r 0 == 0 || lrGrid r 1 == 0 || lrGrid r 2 == 0 ||
  lrWidth r * lrHeight r == 0 || decide (12 < lrWidth r * lrHeight r) || lrCompl r % 16 != 0 || recField r 0x38 8 % 256 != 0

/-- The cores of a rectangle at an origin of a die (R74, R90), or none where it leaves the die. -/
def rectangle (die x y w h : Nat) : Option (List Nat) :=
  if x + w ≤ 12 && y + h ≤ 8 then
    some ((List.range h).flatMap (fun j => (List.range w).map (fun i => 96 * die + 12 * (y + j) + x + i)))
  else none

/-- Rectangles of a shape among a partition's cores, in the scan order of R90; a core that R10 leaves out is none of them. -/
def Part.rectangles (p : Part) (w h : Nat) : List (List Nat) :=
  (List.range 2).flatMap (fun die => (List.range 8).flatMap (fun y => (List.range 12).filterMap (fun x =>
    match rectangle die x y w h with
    | some cs => if cs.all (fun c => p.cores.contains c) then some cs else none
    | none => none)))

/-! ### Completion of launches (R80) -/

/-- The scheduler as it takes steps at futures: a fault record names it as it names a prefetch (log 126). -/
def schedAgent : Agent := { who := { req := 5 } }
/-- A launch ends with a status: COMPL is resolved, a release at system scope (R204), its node has completed, and it is no longer among the unfinished. -/
def State.launchEnd (s : State) (p : Nat) (l : Launch) (status : Nat) : State :=
  let pt := s.part p
  let s := s.setPart p { pt with launches := pt.launches.filter (fun x => x.id != l.id),
                                 graphs := pt.graphs.filter (fun g => some g.id != l.graph),
                                 reservation := match pt.reservation with | some r => if r.1 = l.id then none else some r | none => none }
  let c := lrCompl l.record
  let s := s.landAt 5
  let s := if c = 0 || c % 16 != 0 then s else s.acts p schedAgent (lrInherit l.record pt.rwpmax) [.res c (futureWord status) (d64 (lrLid l.record))]
  s.nodeDone p l.node

/-- A launch that a queue or a graph gives the scheduler: it fails at once, or waits for placement. -/
def State.newLaunch (s : State) (p : Nat) (r : List Byte) (node : Option (Nat × Nat)) : State × Nat :=
  let pt := s.part p
  let l : Launch := { id := pt.nextLaunch, record := r, node := node }
  let s := s.setPart p { pt with nextLaunch := pt.nextLaunch + 1, launches := pt.launches ++ [l] }
  if lrBad r then (s.launchEnd p l 1, l.id)
  else if lrKind r = 0 && (pt.rectangles (lrWidth r) (lrHeight r)).isEmpty then (s.launchEnd p l 3, l.id)
  else (s, l.id)

/-- LAUNCH_COMPLETION (R80, R89): every cluster is placed or the launch has failed, and its last group has retired; a graph when
every node has completed, or has failed and every started node has. -/
def execLaunchCompletion (s : State) : Host.Outcome State Fault Refusal :=
  let p := s.args.part
  let pt := s.part p
  match pt.launches.find? (fun l => l.id == s.args.launch) with
  | none => .next s
  | some l =>
    let stopped := l.failed.isSome && l.failed != some 5
    let ran := match l.graph with
      | some g => pt.graphs.any (fun x => x.id == g && x.ended.isEmpty && (decide (x.done.length = x.nodes) || (x.failed && x.started.isEmpty)))
      | none => lrKind l.record == 0 && decide (lrClusters l.record ≤ l.next)
    let bad := match l.graph with
      | some g => if pt.graphs.any (fun x => x.id == g && x.failed) then some 1 else none
      | none => l.failed
    if l.live = 0 && (stopped || ran) then .next (s.launchEnd p l (bad.getD 0)) else .next s

/-! ### Launch queues (R77, R78) -/

def State.lq (s : State) (p q : Nat) : LQueue := mget {} (s.part p).lqs q
def State.setLq (s : State) (p q : Nat) (x : LQueue) : State := let pt := s.part p; s.setPart p { pt with lqs := mput pt.lqs q x }
def LQueue.lineIa (x : LQueue) : Nat := nbits x.line.toNat 6 46 * 64
def LQueue.slots (x : LQueue) : Nat := 2 ^ (if x.log2n = 0 || 16 < x.log2n then 1 else x.log2n)
/-- The queue stops with a code. -/
def State.lqStop (s : State) (p q code : Nat) : State := s.setLq p q { s.lq p q with state := 2, code := code, waiting := false, parked := false }
/-- A read or an enabling of the queue waits for a fault record. -/
def State.lqPark (s : State) (p q ia : Nat) (write : Bool) : State :=
  let (s, n) := s.fault p ia write false { req := 5 }
  let s := s.setLq p q { s.lq p q with parked := true }
  let pt := s.part p
  s.setPart p { pt with parked := pt.parked ++ [(n, .queueRead q)] }

/-- Whether a function may write a partition's queue registers: the PF, or the partition's own VF (R72). -/
def mayWrite (fn : Fn) (p : Nat) : Bool := match fn with | .pf => true | .vf q => q == p

/-- Writes R into bytes 8 to 15 of the index line. -/
def State.lqWriteR (s : State) (p q : Nat) (r : Dword) : State × MemRes Unit :=
  s.homeWrite { part := p, sor := true, write := true } ((s.lq p q).lineIa + 8) (leBytes 8 r.toNat) []

/-- What the watcher of a queue writes waits for a write-protected page, and with it the queue (R216). -/
def State.lqHold (s : State) (p q : Nat) : State :=
  let s := s.setLq p q { s.lq p q with parked := true }
  let pt := s.part p
  s.setPart p { pt with parked := pt.parked ++ [(wpHold, .queueRead q)] }

/-- EN is set: W becomes R, R is written to the line, and the queue is watched. Before READY it is not (R17). -/
def State.lqEnable (s : State) (p q : Nat) : State :=
  let x := { s.lq p q with en := true }
  let s := s.setLq p q x
  if !s.pkg.ready then s else
  match s.homeRead { part := p, sor := true } x.lineIa 8 with
  | (s, .page) => s.lqPark p q x.lineIa false
  | (s, .held) => s
  | (s, .fatal) => (s.fault p x.lineIa false true { req := 5 }).1.lqStop p q 3
  | (s, .ok (w, bad)) =>
    if bad then s.lqStop p q 3
    else
      let r := d64 (leNat w)
      match s.lqWriteR p q r with
      | (s, .page) => s.lqPark p q x.lineIa true
      | (s, .held) => s.lqHold p q
      | (s, .fatal) => (s.fault p x.lineIa true true { req := 5 }).1.lqStop p q 3
      | (s, _) => s.setLq p q { s.lq p q with state := 1, code := 0, r := r, seen := r, waiting := false, parked := false }

/-- The BAR0 offset of a queue's LQCFG. -/
def lqOffset (p q : Nat) : Nat := 0x40010 + 0x800 * p + 0x20 * q

/-- LQ_ENABLE (R77). -/
def execLqEnable (s : State) : Host.Outcome State Fault Refusal :=
  let p := s.args.part
  let q := s.args.queue
  .next (s.bar0 (lqOffset p q) (fun s => if !mayWrite s.args.fn p || 64 ≤ q || (s.lq p q).en then s else s.lqEnable p q))

/-- LQ_DISABLE (R77). -/
def State.lqDisable (s : State) (p q : Nat) : State :=
  let pt := s.part p
  let s := s.setPart p { pt with parked := pt.parked.filter (fun e => e.2 != .queueRead q) }
  s.setLq p q { s.lq p q with en := false, state := 0, code := 0, waiting := false, parked := false }
def execLqDisable (s : State) : Host.Outcome State Fault Refusal :=
  .next (s.bar0 (lqOffset s.args.part s.args.queue) (fun s =>
    if mayWrite s.args.fn s.args.part && s.args.queue < 64 then s.lqDisable s.args.part s.args.queue else s))

/-- WRITE_INDEX_NOTIFY (R78): the watcher compares W; a W below the last one stops the queue before an overrun does, also one that has
wrapped past 2^64 (log 132). A page fault of its read parks the notification; a W that cannot be read stops the queue (log 56). -/
def execWriteIndexNotify (s : State) : Host.Outcome State Fault Refusal :=
  let p := s.args.part
  let q := s.args.queue
  let x := s.lq p q
  if !s.pkg.ready || !x.waiting || x.state != 1 || x.parked then .next s
  else
    match s.homeRead { part := p, sor := true } x.lineIa 8 with
    | (s, .page) => .next (s.lqPark p q x.lineIa false)
    | (s, .held) => .next s
    | (s, .fatal) => .next ((s.fault p x.lineIa false true { req := 5 }).1.lqStop p q 3)
    | (s, .ok (b, bad)) =>
      let w := d64 (leNat b)
      if bad then .next (s.lqStop p q 3)
      else if w.toNat < x.seen.toNat then .next (s.lqStop p q 2)
      else if x.slots < (w - x.r).toNat then .next (s.lqStop p q 1)
      else .next (s.setLq p q { s.lq p q with seen := w, waiting := false })

/-- LAUNCH_RECORD_READ (R78, R80): the next record of a watched queue. -/
def execLaunchRecordRead (s : State) : Host.Outcome State Fault Refusal :=
  let p := s.args.part
  let q := s.args.queue
  let x := s.lq p q
  if !s.pkg.ready || x.state != 1 || x.parked || x.r == x.seen then .next s
  else
    let va := vaMod (nbits x.ring.toNat 7 50 * 128 + 128 * (x.r.toNat % x.slots))
    match (s.part p).xlate va 128 { rd := true } with
    | .error _ => .next (s.lqStop p q 3)
    | .ok (ia, sor) =>
      match s.homeRead { part := p, sor := sor } ia 128 with
      | (s, .page) => .next (s.lqPark p q ia false)
      | (s, .held) => .next s
      | (s, .fatal) => .next ((s.fault p ia false true { req := 5 }).1.lqStop p q 3)
      | (s, .ok (r, bad)) =>
        if bad then .next (s.lqStop p q 3)
        else
          match s.lqWriteR p q (x.r + 1) with
          | (s, .page) => .next (s.lqPark p q (x.lineIa + 8) true)
          | (s, .held) => .next (s.lqHold p q)
          | (s, .fatal) => .next ((s.fault p (x.lineIa + 8) true true { req := 5 }).1.lqStop p q 3)
          | (s, _) => .next ((s.setLq p q { s.lq p q with r := x.r + 1 }).newLaunch p r none).1

/-! ### Readiness and order (R81, R92) -/

/-- Unfinished launches of a LID that the watcher read before another launch: those a graph's nodes give are none (R81). -/
def Part.unfinished (p : Part) (lid before : Nat) : List Launch :=
  p.launches.filter (fun l => l.node.isNone && lrLid l.record == lid && decide (l.id < before))
/-- Clusters are left to place: a group that a trap has ended stops none of them (R80, R89). -/
def Launch.unplaced (l : Launch) : Bool :=
  lrKind l.record == 0 && (l.failed.isNone || l.failed == some 5) && decide (l.next < lrClusters l.record)
/-- A launch that has started placing, or a graph that has started. -/
def Launch.begun (l : Launch) : Bool := decide (0 < l.next) || l.graph.isSome || l.failed.isSome
/-- Its predecessors let a launch be placed; those of a graph's node are ignored (R83). -/
def Part.ready (p : Part) (l : Launch) : Bool :=
  l.node.isSome || (lrPreds l.record).all (fun lid =>
    let u := p.unfinished lid l.id
    if lrEarly l.record then u.all Launch.begun else u.isEmpty)
/-- What a launch still has to place: itself, or of a graph the launches that its nodes have given (log 90). -/
def Part.placing (p : Part) (u : Launch) : List Launch :=
  match u.graph with
  | some g => p.launches.filter (fun x => x.unplaced && x.node.any (fun n => n.1 == g))
  | none => if u.unplaced then [u] else []
/-- What the predecessors of an early-started launch have left to place: while there is any, it is a consumer (R92). -/
def Part.producers (p : Part) (l : Launch) : List Launch :=
  if l.node.isSome || !lrEarly l.record then []
  else (lrPreds l.record).flatMap (fun lid => (p.unfinished lid l.id).flatMap p.placing)
/-- The order of R81: lower priority value, then reading order. -/
def Launch.before (a b : Launch) : Bool := decide (lrPrio a.record < lrPrio b.record) || (lrPrio a.record == lrPrio b.record && decide (a.id < b.id))
def insertLaunch (l : Launch) : List Launch → List Launch
  | [] => [l]
  | x :: xs => if l.before x then l :: x :: xs else x :: insertLaunch l xs
/-- A launch may place its next cluster now. -/
def Part.mayPlace (p : Part) (l : Launch) : Bool := l.unplaced && !l.parked && p.ready l
/-- Appends a launch to an order, its ready producers and theirs before it (R92). -/
def Part.visit (p : Part) : Nat → List Launch → Launch → List Launch
  | 0, acc, l => acc ++ [l]
  | n + 1, acc, l => if acc.any (fun x => x.id == l.id) then acc else ((p.producers l).filter p.mayPlace).foldl (Part.visit p n) acc ++ [l]
/-- Ready launches with clusters left in the order of R81, each consumer's producers before it (R92). -/
def Part.order (p : Part) : List Launch :=
  ((p.launches.filter p.mayPlace).foldl (fun a l => insertLaunch l a) []).foldl (p.visit p.launches.length) []

/-! ### Fitting a cluster (R90 to R92) -/

/-- A slot's chunk of local memory lies in the window of a team, until the team's last group retires (R87, R89). -/
def Core.chunkHeld (k : Core) (sl : Nat) : Bool := k.groups.any (fun e => e.2.holder == .group && e.2.team.contains sl)
/-- Group slots of a quarter that a team may take: unheld, not short of units (R132), their chunks in no team's window (R90). -/
def Core.freeSlots (k : Core) (q : Nat) : List Nat :=
  ((List.range 16).map (fun i => 16 * q + i)).filter (fun sl =>
    (k.group sl).holder == .free && mget 0 (k.quarter q).short sl == 0 && !k.chunkHeld sl)
/-- Slots of a quarter that a launch keeps from other teams: those of its teams, until the last group of a team retires (R92, R93). -/
def Core.slotsOf (k : Core) (q id : Nat) : Nat :=
  (((List.range 16).map (fun i => 16 * q + i)).filter (fun sl => k.groups.any (fun e => e.2.holder == .group && e.2.launch == id && (e.1 == sl || e.2.team.contains sl)))).length

/-- Slots that a team of a launch takes in a quarter (R90). -/
def lrNeed (r : List Byte) (j : Nat) : Nat := ceilDiv (lrTeam r - j) 4
/-- Segment 0 of a launch's code (R76). -/
def lrSeg (r : List Byte) : Nat := lrCode r % 2 ^ 57 / 4096 + 1
/-- The early-start limit lets a launch hold that many slots of a quarter beside some it holds (R92). -/
def Part.within (p : Part) (l : Launch) (held need : Nat) : Bool := (p.producers l).isEmpty || need == 0 || decide (held + need ≤ 2 * lrShare l.record)
/-- Whether a reservation keeps a launch off a core (R91). It keeps no predecessor off: a predecessor team waits for no group of a consumer
(R93, log 113). -/
def Part.reservedFrom (p : Part) (l : Launch) (c : Nat) : Bool :=
  match p.reservation with
  | some (id, cs) => id != l.id && cs.contains c && !(p.launches.any (fun x => x.id == id && (p.producers x).any (fun u => u.id == l.id)))
  | none => false

/-- A core can take a team of a launch. One whose frame for segment 0 a `cfetch` is filling can, once it is filled (R356). -/
def State.coreFits (s : State) (p : Nat) (l : Launch) (c : Nat) : Bool :=
  let k := s.core c
  let seg := lrSeg l.record
  !(s.part p).reservedFrom l c && ((k.resident p seg).isSome || k.segLoading p seg || (frameFor k).isSome) &&
  (List.range 4).all (fun j =>
    decide (lrNeed l.record j ≤ (k.freeSlots j).length) && (s.part p).within l (k.slotsOf j l.id) (lrNeed l.record j))

/-- The first rectangle that a launch's next cluster fits. -/
def State.fits (s : State) (p : Nat) (l : Launch) : Option (List Nat) :=
  ((s.part p).rectangles (lrWidth l.record) (lrHeight l.record)).find? (fun cs => cs.all (s.coreFits p l))

/-! ### Starting a cluster (R76, R88, R90) -/

/-- The slots a team takes, in group order: the lowest free one in quarter g mod 4. -/
def Core.teamSlots (k : Core) (n : Nat) : List Nat := (List.range n).map (fun g => (k.freeSlots (g % 4)).getD (g / 4) 0)

/-- A group of a launch at its first instruction. -/
def startGroup (pt : Part) (l : Launch) (cluster gid tid entry clk : Nat) (team : List Nat) : Group :=
  let r := l.record
  let inh := lrInherit r pt.rwpmax
  let n := l.next
  let x := n % lrGrid r 0
  let y := n / lrGrid r 0 % lrGrid r 1
  let z := n / lrGrid r 0 / lrGrid r 1
  { holder := .group, launch := l.id, gid := gid, tid := tid, cid := n, role := nbits (recField r 0x20 8) (2 * gid) 2, cluster := cluster,
    team := team, inherit := inh, sregs := mput (mput (mput [] 0 (d64 (recField r 0x10 8))) 1 (d64 (x + y * 65536 + z * 2 ^ 32))) 2 (d64 (lrLid r)),
    trv := d64 (nbits pt.ptvb.toNat 12 45 * 4096), rwp := inh.rwp, fxb := d64 (nbits inh.fxb.toNat 8 49 * 256), lnch := inh.lnch,
    iunits := [{ pc := b57 entry, stamp := clk }] }

/-- The role a cluster gives a core that holds no role (R90, R316). -/
def State.givePair (s : State) (c : Nat) (role : PairRole) : State :=
  let k := s.core c
  if k.pair == .single && !k.groups.any (fun e => e.2.holder == .group) then s.setCore c { k with pair := role } else s

/-- Reads code through the partition's ranges and page tables, at user level like a group's own code fetch: the register has to grant
USR for the header and segment 0 too (R76, log 81). A fault record names who loads it. -/
def State.readCode (s : State) (p va n : Nat) (who : Faulter := { req := 5 }) : State × MemRes (List Byte) × Nat :=
  match (s.part p).xlate va n { rd := true, user := true } with
  | .error _ => (s, .fatal, 0)
  | .ok (ia, sor) => match s.homeReads { part := p, sor := sor, user := true, who := who } 40 ia n [] false with
    | (s, .ok (bs, bad)) => (s, if bad then .fatal else .ok bs, 0)
    | (s, .page) => (s, .page, ia)
    | (s, .held) => (s, .held, ia)
    | (s, .fatal) => ((s.fault p ia false true who).1, .fatal, ia)

/-- A header that the C9 runs: REV 2, SEGS at least 1, ENTRY below 1,024, reserved bytes 0 (R76). -/
def headerOk (h : List Byte) : Bool :=
  recField h 0 1 == 2 && recField h 1 1 == 0 && recField h 2 2 != 0 && decide (recField h 4 4 < 1024) && (h.drop 8).all (fun b => b == 0)

def State.onLaunch (s : State) (p id : Nat) (f : Launch → Launch) : State :=
  let pt := s.part p
  s.setPart p { pt with launches := updWhere (fun l => l.id == id) f pt.launches }

/-- A read of a launch's code meets a page fault: the launch waits for its replay. -/
def State.launchPark (s : State) (p id ia : Nat) : State :=
  let (s, n) := s.fault p ia false false { req := 5 }
  let s := s.onLaunch p id (fun l => { l with parked := true })
  let pt := s.part p
  s.setPart p { pt with parked := pt.parked ++ [(n, .launchRead id)] }

/-- Places a cluster on a rectangle: header and segment 0 are read first, then every team starts, an acquire (R204). A CODE that is not a
4 KiB aligned virtual address names no section that could be read, and fails the launch with status 2 (log 114). -/
def State.placeCluster (s : State) (p : Nat) (l : Launch) (cs : List Nat) : State :=
  let code := lrCode l.record % 2 ^ 57
  let fail := fun (s : State) => s.onLaunch p l.id (fun l => { l with failed := some 2 })
  let aligned := decide (lrCode l.record < 2 ^ 57) && lrCode l.record % 4096 == 0
  match (if aligned then s.readCode p code 64 else (s, .fatal, 0)) with
  | (s, .page, ia) => s.launchPark p l.id ia
  | (s, .held, _) => s
  | (s, .fatal, _) => fail s
  | (s, .ok h, _) =>
    if !headerOk h then fail s
    else match (if cs.all (fun c => ((s.core c).resident p (code / 4096 + 1)).isSome) then (s, .ok [], 0) else s.readCode p (code + 4096) 4096) with
      | (s, .page, ia) => s.launchPark p l.id ia
      | (s, .held, _) => s
      | (s, .fatal, _) => fail s
      | (s, .ok seg, _) =>
        let pt := s.part p
        let segNo := lrSeg l.record
        let entry := code + 4096 + 4 * recField h 4 4
        let w := lrWidth l.record
        let n := lrTeam l.record
        let s := (List.range cs.length).foldl (fun s i =>
          let c := cs.getD i 0
          let x := i % w
          let role : PairRole := if x % 2 = 0 then (if x + 1 < w then .leader (c + 1) l.id pt.nextCluster else .single) else .follower (c - 1) l.id pt.nextCluster
          let s := s.givePair c role
          let k := s.core c
          let frames := if (k.resident p segNo).isSome then k.frames
            else (frameFor k).getD k.frames ++ [{ seg := segNo, part := p, code := codeCells seg, issued := s.lru }]
          let team := k.teamSlots n
          let k := { k with frames := frames }
          let k := (List.range n).foldl (fun k g =>
            k.setGroup (team.getD g 0) { startGroup pt l pt.nextCluster g i entry k.clk.toNat team with part := p, pairRole := role }) k
          ({ (s.touchChan (coreMark c)).setCore c k with lru := s.lru + 1 }).l1Acquire c) s
        let pt := s.part p
        let s := s.setPart p { pt with nextCluster := pt.nextCluster + 1,
                                       reservation := match pt.reservation with | some r => if r.1 = l.id then none else some r | none => none }
        s.onLaunch p l.id (fun l => { l with next := l.next + 1, live := l.live + n * cs.length })

/-! ### Graphs (R83) -/

/-- A launch waits for a write-protected page (R216). -/
def State.launchHold (s : State) (p id : Nat) : State :=
  let s := s.onLaunch p id (fun l => { l with parked := true })
  let pt := s.part p
  s.setPart p { pt with parked := pt.parked ++ [(wpHold, .launchRead id)] }

/-- Bytes of graph data, read with the partition's translation. -/
def State.readAt (s : State) (p va n : Nat) : State × MemRes (List Byte) × Nat :=
  match (s.part p).xlate (vaMod va) n { rd := true } with
  | .error _ => (s, .fatal, 0)
  | .ok (ia, sor) => match s.homeReads { part := p, sor := sor } (n / 128 + 2) ia n [] false with
    | (s, .ok (bs, bad)) => (s, if bad then .fatal else .ok bs, 0)
    | (s, .page) => (s, .page, s.pageAt { part := p, sor := sor } ia n)
    | (s, .held) => (s, .held, ia)
    | (s, .fatal) => ((s.fault p (s.fatalAt { part := p, sor := sor } ia n) false true { req := 5 }).1, .fatal, ia)

/-- Writes 8 bytes of graph data; whether it could. A fault posts its record (R214). -/
def State.writeCount (s : State) (p va n : Nat) : State × Bool :=
  match (s.part p).xlate (vaMod va) 8 { rd := true, wr := true } with
  | .error _ => (s, false)
  | .ok (ia, sor) => match s.homeWrites { part := p, sor := sor, write := true } 2 ia (leBytes 8 n) with
    | (s, .ok _) => (s, true)
    | (s, .page) => ((s.fault p (s.pageAt { part := p, sor := sor, write := true } ia 8) true false { req := 5 }).1, false)
    | (s, .held) => (s, false)
    | (s, .fatal) => ((s.fault p (s.fatalAt { part := p, sor := sor, write := true } ia 8) true true { req := 5 }).1, false)

def nodeAddr (e : List Byte) : Nat := nbits (recField e 0 8) 0 48
def nodeIsTask (e : List Byte) : Bool := nbit (recField e 0 8) 48
def nodeBad (e : List Byte) : Bool := nbits (recField e 0 8) 49 15 != 0

/-- The table entry of a node. -/
def State.nodeEntry (s : State) (p table n : Nat) : State × MemRes (List Byte) × Nat := s.readAt p (table + 8 + 32 * n) 32

def State.onGraph (s : State) (p id : Nat) (f : Graph → Graph) : State :=
  let pt := s.part p
  s.setPart p { pt with graphs := updWhere (fun g => g.id == id) f pt.graphs }

/-- Starts a node: its record is read, and launched or enqueued; a page fault makes the node wait, and a malformed or unreadable
node fails the graph. -/
def State.startNode (s : State) (p : Nat) (g : Nat) (lr : List Byte) (table n : Nat) : State :=
  let fail := fun (s : State) => s.onGraph p g (fun x => { x with failed := true })
  let waits := fun (s : State) (ia : Nat) =>
    let s := s.onGraph p g (fun x => { x with pending := x.pending ++ [n] })
    match (s.part p).graphs.find? (fun x => x.id == g) with
    | some x => s.launchPark p x.launch ia
    | none => s
  match s.nodeEntry p table n with
  | (s, .ok e, _) =>
    if nodeBad e then fail s
    else if nodeIsTask e then
      match s.readAt p (nodeAddr e) 64 with
      | (s, .ok r, _) =>
        let s := s.onGraph p g (fun x => { x with started := x.started ++ [n] })
        let inh := lrInherit lr (s.part p).rwpmax
        if TaskRecord.bad r then (s.acts p schedAgent inh (submitActs r)).nodeDone p (some (g, n))
        else s.placeTask p none r inh (some (g, n))
      | (s, .page, ia) => waits s ia
      | (s, _, _) => fail s
    else
      match s.readAt p (nodeAddr e) 128 with
      | (s, .ok r, _) => ((s.onGraph p g (fun x => { x with started := x.started ++ [n] })).newLaunch p r (some (g, n))).1
      | (s, .page, ia) => waits s ia
      | (s, _, _) => fail s
  | (s, .page, ia) => waits s ia
  | (s, _, _) => fail s

/-- The first and the last byte of each of some pieces of n bytes: a piece may straddle two pages. -/
def pieceEnds (n : Nat) (vas : List Nat) : List Nat := vas.flatMap (fun va => [va, va + (n - 1)])
/-- The first IA of some VAs that misses its page, so that a graph step waits before it does anything. -/
def State.missing (s : State) (p : Nat) (vas : List Nat) : Option Nat :=
  vas.findSome? (fun va => match (s.part p).xlate (vaMod va) 1 { rd := true } with
    | .ok (ia, sor) => (match (s.l2Line { part := p, sor := sor } ia).2 with | .page => some ia | _ => none)
    | .error _ => none)

/-- A counter lies on a write-protected page: the graph's step waits (R216). -/
def State.countersHeld (s : State) (p : Nat) (vas : List Nat) : Bool :=
  vas.any (fun va => match (s.part p).xlate (vaMod va) 1 { rd := true, wr := true } with
    | .ok (ia, sor) => (match (s.l2Line { part := p, sor := sor, write := true } ia).2 with | .held => true | _ => false)
    | .error _ => false)

/-- A ready graph starts: every counter is written, and the nodes without incoming edges start. -/
def State.startGraph (s : State) (p : Nat) (l : Launch) : State :=
  let table := lrCode l.record % 2 ^ 57
  let gone := fun (s : State) => s.onLaunch p l.id (fun l => { l with failed := some 2 })
  match s.readAt p table 8 with
  | (s, .page, ia) => s.launchPark p l.id ia
  | (s, .held, _) => s
  | (s, .fatal, _) => gone s
  | (s, .ok b, _) =>
    let n := leNat b
    if n = 0 || 65536 < n then s.onLaunch p l.id (fun l => { l with failed := some 1 })
    else match s.missing p ((List.range (n / 2048 + 2)).map (fun i => table + min (65536 * i) (8 + 32 * n - 1))) with
      | some ia => s.launchPark p l.id ia
      | none =>
        let r := (List.range n).foldl (fun (acc : State × List (List Byte)) i =>
          match acc.1.nodeEntry p table i with
          | (s, .ok e, _) => (s, acc.2 ++ [e])
          | (s, _, _) => (s, acc.2 ++ [List.replicate 32 255])) (s, [])
        let counters := r.2.map (fun e => recField e 24 8)
        match r.1.missing p (pieceEnds 8 counters) with
        | some ia => r.1.launchPark p l.id ia
        | none =>
          let s := r.1
          if s.countersHeld p (pieceEnds 8 counters) then s.launchHold p l.id
          else
            let id := s.seq
            let pt := s.part p
            let s := { s.setPart p { pt with graphs := pt.graphs ++ [{ id := id, launch := l.id, nodes := n }] } with seq := id + 1 }
            let s := s.onLaunch p l.id (fun l => { l with graph := some id })
            let s := r.2.foldl (fun s e =>
              let w := s.writeCount p (recField e 24 8) (recField e 8 4)
              if w.2 then w.1 else w.1.onGraph p id (fun x => { x with failed := true })) s
            (List.range n).foldl (fun s i =>
              if recField (r.2.getD i []) 8 4 = 0 && !((s.part p).graphs.any (fun x => x.id == id && x.failed)) then s.startNode p id l.record table i else s) s

/-- A completed node's successors count down, and those that reach 0 start (R83). A page fault parks it until the record is resolved
(R214). -/
def State.graphNodeDone (s : State) (p graph n : Nat) : State :=
  match (s.part p).graphs.find? (fun g => g.id == graph && g.ended.contains n) with
  | none => s
  | some g =>
    match (s.part p).launches.find? (fun l => l.id == g.launch) with
    | none => s
    | some l =>
      let table := lrCode l.record % 2 ^ 57
      let park := fun (s : State) (ia : Nat) (write : Bool) =>
        let (s, k) := s.fault p ia write false { req := 5 }
        let pt := s.part p
        s.setPart p { pt with parked := pt.parked ++ [(k, .graphNode graph n)] }
      let finish := fun (s : State) => s.onGraph p g.id (fun x => { x with ended := x.ended.erase n, done := x.done ++ [n] })
      let fail := fun (s : State) => s.onGraph p g.id (fun x => { x with failed := true })
      match s.nodeEntry p table n with
      | (s, .page, ia) => park s ia false
      | (s, .held, _) => s
      | (s, .fatal, _) => fail (finish s)
      | (s, .ok e, _) =>
        let cnt := recField e 12 4
        match (if cnt = 0 then (s, .ok [], 0) else s.readAt p (recField e 16 8) (4 * cnt)) with
        | (s, .page, ia) => park s ia false
        | (s, .held, _) => s
        | (s, .fatal, _) => fail (finish s)
        | (s, .ok l4, _) =>
          let succ := (List.range cnt).map (fun i => recField l4 (4 * i) 4)
          -- a page fault of a successor's entry waits, like every other
          match s.missing p (pieceEnds 32 ((succ.filter (fun i => decide (i < g.nodes))).map (fun i => table + 8 + 32 * i))) with
          | some ia => park s ia false
          | none =>
          let es := succ.foldl (fun (acc : State × List (List Byte)) i =>
            match (if i < g.nodes then acc.1.nodeEntry p table i else (acc.1, .fatal, 0)) with
            | (s, .ok b, _) => (s, acc.2 ++ [b])
            | (s, _, _) => (s, acc.2 ++ [[]])) (s, [])
          let counters := pieceEnds 8 ((es.2.filter (fun b => !b.isEmpty)).map (fun b => recField b 24 8))
          match es.1.missing p counters with
          | some ia => park es.1 ia true
          | none =>
            if es.1.countersHeld p counters then es.1
            else ((List.range cnt).foldl (fun s j =>
              let b := es.2.getD j []
              if b.isEmpty then fail s
              else match s.readAt p (recField b 24 8) 8 with
                | (s, .ok v, _) =>
                  let left := (leNat v + 2 ^ 64 - 1) % 2 ^ 64
                  let w := s.writeCount p (recField b 24 8) left
                  if !w.2 then fail w.1
                  else if left = 0 && !((w.1.part p).graphs.any (fun x => x.id == g.id && x.failed)) then w.1.startNode p g.id l.record table (succ.getD j 0)
                  else w.1
                | (s, _, _) => fail s) (finish es.1))

/-- GRAPH_NODE_COMPLETE (R83): unless it waits for a fault record. -/
def execGraphNodeComplete (s : State) : Host.Outcome State Fault Refusal :=
  let p := s.args.part
  .next (if (s.part p).parked.any (fun e => e.2 == .graphNode s.args.graph s.args.node) then s else s.graphNodeDone p s.args.graph s.args.node)

/-! ### Placement events -/

/-- A node of a graph whose start has waited and waits no more: the graph, its launch, the node. -/
def Part.nextNode (pt : Part) (g : Graph) : Option (Nat × Launch × Nat) :=
  match g.pending, pt.launches.find? (fun l => l.id == g.launch) with
  | n :: _, some l => if g.failed || l.parked then none else some (g.id, l, n)
  | _, _ => none

/-- CLUSTER_PLACEMENT (R90): a node that has waited starts, or a ready graph; else the first launch in order whose next cluster fits places it, once no `cfetch` is loading its segment there (R356). -/
def execClusterPlacement (s : State) : Host.Outcome State Fault Refusal :=
  let p := s.args.part
  let pt := s.part p
  if pt.st != 1 || s.pkg.phase == .writeBack then .next s
  else match pt.graphs.findSome? (Part.nextNode pt), pt.launches.find? (fun l => lrKind l.record == 1 && l.graph.isNone && l.failed.isNone && !l.parked && pt.ready l) with
    | some (g, l, n), _ =>
      .next ((s.onGraph p g (fun x => { x with pending := x.pending.drop 1 })).startNode p g l.record (lrCode l.record % 2 ^ 57) n)
    | none, some l => .next (s.startGraph p l)
    | none, none =>
      match pt.order.findSome? (fun l => (s.fits p l).map (fun cs => (l, cs))) with
      | some (l, cs) => .next (if cs.any (fun c => (s.core c).segLoading p (lrSeg l.record)) then s else s.placeCluster p l cs)
      | none => .next s

/-- RESERVATION (R91): a ready launch whose next cluster fits nowhere takes the first rectangle that would hold it empty, within
the early-start limits (R92), unless a launch placed earlier in the order holds one. -/
def execReservation (s : State) : Host.Outcome State Fault Refusal :=
  let p := s.args.part
  let pt := s.part p
  match pt.order.find? (fun l => l.id == s.args.launch) with
  | none => .next s
  | some l =>
    let earlier := match pt.reservation with
      | some (id, _) => id == l.id || (match pt.launches.find? (fun x => x.id == id) with | some x => x.before l | none => false)
      | none => false
    if pt.st != 1 || earlier || (s.fits p l).isSome then .next s
    else match (if (List.range 4).all (fun j => pt.within l 0 (lrNeed l.record j)) then pt.rectangles (lrWidth l.record) (lrHeight l.record) else []).head? with
      | some cs => .next (s.setPart p { pt with reservation := some (l.id, cs) })
      | none => .next s

/-! ### Tasks (R94 to R97, R218) -/

/-- Tasks of a core's queues that wait to be dispatched, in order of capture. -/
def Core.waitingTasks (k : Core) : List QTask := k.tasks.filter (fun t => t.slot.isNone && t.blocked.isNone)

/-- The head of a queue. -/
def headOf (ts : List QTask) (q : Nat) : Option QTask := ts.find? (fun t => TaskRecord.queue t.record == q)

/-- The task dispatched next (R97): a head passed over too often, else the lowest priority value, queues in rotation after the
one served last, and order of capture. -/
def Core.nextTask (k : Core) (bound : Nat → Nat) : Option QTask :=
  let ts := k.waitingTasks
  match (List.range 16).findSome? (fun q => match headOf ts q with
      | some t => if 0 < bound q && bound q ≤ mget 0 k.passed t.id then some t else none
      | none => none) with
  | some t => some t
  | none =>
    match (List.range 4).find? (fun p => ts.any (fun t => TaskRecord.prio t.record == p)) with
    | none => none
    | some p =>
      let mine := ts.filter (fun t => TaskRecord.prio t.record == p)
      let from_ := mget 15 k.lastQueue p + 1
      ((List.range 16).map (fun i => (from_ + i) % 16)).findSome? (fun q => headOf mine q)

/-- A dispatch passes over the heads of lower priority, each of which counts it (R97). -/
def Core.passOver (k : Core) (t : QTask) : Core :=
  let ts := k.waitingTasks
  let p := TaskRecord.prio t.record
  let q := TaskRecord.queue t.record
  let passed := (List.range 16).foldl (fun m i =>
    match headOf ts i with
    | some h => if decide (p < TaskRecord.prio h.record) then mput m h.id (mget 0 m h.id + 1) else m
    | none => m) (mdel (k.passed.filter (fun e => ts.any (fun x => x.id == e.1))) t.id)
  { k with passed := passed, lastQueue := mput k.lastQueue p q }

/-- Free shadow slots and free pages of the task area (R95). -/
def Core.freeShadow (k : Core) : Option Nat :=
  ((List.range 8).map (fun i => 64 + i)).find? (fun sl => (k.group sl).holder == .free && !k.tasks.any (fun t => t.slot == some sl))
def Core.freePages (k : Core) : List Nat :=
  (List.range 32).filter (fun n => !k.groups.any (fun e => e.2.holder == .task && e.2.pages.contains n) && !k.tasks.any (fun t => t.pages.contains n))

def Core.setTask (k : Core) (t : QTask) : Core := { k with tasks := updWhere (fun x => x.id == t.id) (fun _ => t) k.tasks }
def Core.dropTask (k : Core) (t : QTask) : Core := { k with tasks := k.tasks.filter (fun x => x.id != t.id) }

/-- A prefetch that cannot be made ends its task: its future is POISONED with status 5, its successor decremented (R218). -/
def State.taskEnds (s : State) (c : Nat) (t : QTask) (status : Nat) : State :=
  let pt := s.part t.part
  let s := (s.setCore c ((s.core c).dropTask t)).setPart t.part { pt with saved := pt.saved.map (fun v => { v with tasks := v.tasks.filter (fun x => x.id != t.id) }) }
  let fut := TaskRecord.fut t.record
  let succ := TaskRecord.succ t.record
  (s.acts t.part { die := dieOf c, who := { core := c, slot := t.slot.getD 0, req := 5 } } t.inherit ((if fut = 0 then [] else [.tres fut (futureWord status) 0]) ++ (if succ = 0 then [] else [.tdec succ]))).nodeDone t.part t.node

/-- A page fault of a prefetch frees what the task holds; it waits outside its queue until the record is resolved (R218). -/
def State.taskFaults (s : State) (c : Nat) (t : QTask) (ia : Nat) : State :=
  let (s, n) := s.fault t.part ia false false { core := c, slot := t.slot.getD 0, req := 5 }
  let k := (s.core c).dropTask t
  s.setCore c { k with tasks := { t with slot := none, pages := [], ready := false, blocked := some n } :: k.tasks }

/-- How a prefetch stands. -/
inductive PreRes where
  | done
  | wait
  | page (ia : Nat)
  | ends
  deriving DecidableEq, Repr

/-- Loads a task's segments into frames, those not resident; one that an earlier `cfetch` is loading is waited for (R95, R356, log 115). -/
def State.loadSegs (s : State) (c : Nat) (t : QTask) : List Nat → State × PreRes
  | [] => (s, .done)
  | seg :: rest =>
    let k := s.core c
    if (k.resident t.part seg).isSome then State.loadSegs s c t rest
    else if k.segLoading t.part seg (fun o => t.ready || decide (o.seq < t.began)) then (s, .wait)
    else match frameFor k with
      | none => (s, .wait)
      | some fs =>
        match s.readCode t.part (seg * 4096) 4096 { core := c, slot := t.slot.getD 0, req := 5 } with
        | (s, .ok bs, _) =>
          let k := s.core c
          State.loadSegs { s.setCore c { k with frames := fs ++ [{ seg := seg, part := t.part, code := codeCells bs, issued := s.lru }] } with lru := s.lru + 1 } c t rest
        | (s, .page, ia) => (s, .page ia)
        | (s, .held, _) => (s, .wait)
        | (s, .fatal, _) => (s, .ends)

/-- Physical local address of a byte of a task's region (R87). -/
def pageAddr (pages : List Nat) (a : Nat) : Nat := 393216 + 4096 * pages.getD (a / 4096) 0 + a % 4096

/-- Copies the prefetch bytes into the region, granule by granule, poison with them; the rest of the region is zero (R95, R218). -/
def State.prefetchBytes (s : State) (c : Nat) (t : QTask) : Nat → Nat → State × PreRes
  | 0, _ => (s, .done)
  | fuel + 1, off =>
    let n := TaskRecord.plen t.record
    if n ≤ off then (s, .done)
    else
      let va := vaMod (recField t.record 0x28 8 + off)
      let len := min (n - off) (64 - va % 64)
      match (s.part t.part).xlate va len { rd := true, user := true } with
      | .error _ => (s, .ends)
      | .ok (ia, sor) =>
        let cls := nbits (recField t.record 0x26 2) 6 2
        match s.homeRead { part := t.part, die := dieOf c, cls := cls, requester := c, sor := sor, user := true } ia len with
        | (s, .page) => (s, .page ia)
        | (s, .held) => (s, .wait)
        | (s, .fatal) => ((s.fault t.part ia false true { core := c, slot := t.slot.getD 0, req := 5 }).1, .ends)
        | (s, .ok (bs, bad)) =>
          let k := s.core c
          let k := (List.range len).foldl (fun (k : Core) i =>
            { k with lmem := memSet k.lmem (pageAddr t.pages (off + i)) (bs.getD i 0),
                     lpoison := if bad then k.lpoison ++ [pageAddr t.pages (off + i)] else k.lpoison }) k
          State.prefetchBytes (s.setCore c k) c t fuel (off + len)

/-- The segments of a task (R94). -/
def QTask.segNos (t : QTask) : List Nat :=
  (List.range (TaskRecord.segs t.record)).map (fun i => nbits (TaskRecord.entry t.record) 0 48 / 4096 + i)

/-- A dispatched task's prefetch: segments first, then its region; of a runnable task, what has been displaced since. -/
def State.prefetch (s : State) (c : Nat) (t : QTask) : State :=
  match s.loadSegs c t t.segNos with
  | (s, .wait) => s
  | (s, .page ia) => s.taskFaults c t ia
  | (s, .ends) => s.taskEnds c t 5
  | (s, .done) =>
    if t.ready then s else
    let mine := fun (a : Nat) => decide (393216 ≤ a) && t.pages.contains ((a - 393216) / 4096)
    let k := s.core c
    let s := s.setCore c { k with lmem := k.lmem.filter (fun e => !mine e.1), lpoison := k.lpoison.filter (fun a => !mine a) }
    match s.prefetchBytes c t 1026 0 with
    | (s, .wait) => s
    | (s, .page ia) => s.taskFaults c t ia
    | (s, .ends) => s.taskEnds c t 5
    | (s, .done) => s.setCore c ((s.core c).setTask { t with ready := true })

/-- TASK_DISPATCH (R95, R97): the next task takes a shadow slot and pages, and its prefetch begins. -/
def execTaskDispatch (s : State) : Host.Outcome State Fault Refusal :=
  let c := s.args.core
  let k := s.core c
  match k.nextTask (fun q => match k.waitingTasks.head? with | some t => mget 0 (s.part t.part).tqBound q | none => 0) with
  | none => .next s
  | some t =>
    let n := TaskRecord.npages t.record
    match k.freeShadow with
    | none => .next s
    | some sl =>
      if (s.part t.part).st != 1 || s.pkg.phase == .writeBack || k.freePages.length < n then .next s
      else
        let t' := { t with slot := some sl, pages := k.freePages.take n, began := s.seq }
        .next (({ s.setCore c ((k.passOver t).setTask t') with seq := s.seq + 1 } : State).prefetch c t')

/-- A task at its first instruction (R88, R96). -/
def startTask (pt : Part) (c clk born : Nat) (t : QTask) : Group :=
  let r := t.record
  { holder := .task, part := t.part, cid := c, pages := t.pages, task := r, inherit := t.inherit, born := born, units := 12,
    sregs := mput (mput (mput (mput [] 0 (d64 (recField r 8 8))) 1 (d64 (recField r 0x20 6))) 2 (d64 (recField r 0x38 8))) 3 (d64 (4096 * t.pages.length)),
    stat := 4, trv := d64 (nbits pt.ptvb.toNat 12 45 * 4096), rwp := t.inherit.rwp, fxb := d64 (nbits t.inherit.fxb.toNat 8 49 * 256), lnch := t.inherit.lnch,
    node := t.node, iunits := [{ pc := b57 (nbits (TaskRecord.entry r) 0 48), stamp := clk }] }

/-- TASK_START (R96): a task whose segments and bytes have arrived starts, an acquire (R204). -/
def execTaskStart (s : State) : Host.Outcome State Fault Refusal :=
  let c := s.args.core
  match (s.core c).tasks.find? (fun t => t.slot == some s.args.slot) with
  | none => .next s
  | some t =>
    let s := s.prefetch c t
    let here := fun (t : QTask) => (t.segNos).all (fun seg => ((s.core c).resident t.part seg).isSome)
    match (s.core c).tasks.find? (fun x => x.id == t.id && x.ready && here x) with
    | none => .next s
    | some t =>
      if (s.part t.part).st != 1 || s.pkg.phase == .writeBack then .next s
      else
        let k := (s.core c).dropTask t
        let s := { s.setCore c (k.setGroup s.args.slot (startTask (s.part t.part) c k.clk.toNat s.seq t)) with seq := s.seq + 1 }
        .next (s.l1Acquire c)

/-- TASK_HALT_TIMEOUT (R99): while its partition halts, a running task that has not exited is aborted, and goes back to the head of
its queue. -/
def execTaskHaltTimeout (s : State) : Host.Outcome State Fault Refusal :=
  let g := s.group s.args.core s.args.slot
  if g.isTask && (s.part g.part).st == 2 && !g.exitedAll && g.ended.isNone && !g.finishing then .next (s.abortTask s.args.core s.args.slot none) else .next s

/-- DEFERRED_ENQUEUE (R100): the first record waiting in the scheduler whose core has room. -/
def execDeferredEnqueue (s : State) : Host.Outcome State Fault Refusal :=
  let p := s.args.part
  let pt := s.part p
  let target := fun (d : Deferred) => match d.core with | some c => some c | none => s.fewest p
  match pt.deferred.find? (fun d => match target d with | some c => decide (s.queuedOn p c < 256) | none => false) with
  | none => .next s
  | some d => .next ((s.setPart p { pt with deferred := pt.deferred.erase d }).placeTask p d.core d.record d.inherit d.node)

/-- SAFE_TIMEOUT (R105): a group that has not stopped stops at its next run boundary; PFRC counts it. One that stands where it stops and
only waits for its requests has stopped in time (R104, R304). -/
def execSafeTimeout (s : State) : Host.Outcome State Fault Refusal :=
  let g := s.group s.args.core s.args.slot
  let late := match g.preempt with | .requested | .stopping _ _ => true | _ => false
  if g.holder == .group && late && !g.atStop then
    let s := s.setGroup s.args.core s.args.slot { g with preempt := .forced }
    let pt := s.part g.part
    .next (s.setPart g.part { pt with pfrc := satAdd pt.pfrc 1 })
  else .next s

end Sys2Proof.Machine
end

