-- ==== Sys2Proof/Machine/Package.lean ====
section
/-! DEFINITION. Operating points, droop, self-tests, the configuration image, identity and resets (chapter 01). What decides
between outcomes (a temperature, a signature, a spare) is an argument of the event (log 6). -/

namespace Sys2Proof.Machine

/-- Changes the package. -/
def State.onPkg (s : State) (f : Pkg → Pkg) : State := { s with pkg := f s.pkg }
/-- An answer is given. -/
def State.answer (s : State) (a : Answer) : State := s.onPkg (fun k => { k with answers := k.answers ++ [a] })

/-! ### Operating points (R7 to R9) -/

/-- OPERATING_POINT_LOWER (R7, R8): one step of 10 mV, not below 600 mV; HSTAT.THROT names the cause. -/
def execOperatingPointLower (s : State) : Host.Outcome State Fault Refusal :=
  let d := s.args.die
  let v := s.pkg.opPoint.getD d 650
  let down := if d < 2 && 600 < v then 1 else 0
  .next (s.onPkg (fun k => { k with opPoint := setAt k.opPoint d (v - 10 * down), lowered := setAt k.lowered d (k.lowered.getD d 0 + down),
                                    throt := s.args.cause }))

/-- OPERATING_POINT_RAISE (R8): a step that was taken down is taken back; with none left there is no throttle cause. -/
def execOperatingPointRaise (s : State) : Host.Outcome State Fault Refusal :=
  let d := s.args.die
  let n := s.pkg.lowered.getD d 0
  if n = 0 then .next s
  else
    let low := setAt s.pkg.lowered d (n - 1)
    .next (s.onPkg (fun k => { k with opPoint := setAt k.opPoint d (k.opPoint.getD d 650 + 10), lowered := low,
                                      throt := if low.all (fun x => x == 0) then .none else k.throt }))

/-- THERMAL_SHUTDOWN (R8): all clocks stop. -/
def execThermalShutdown (s : State) : Host.Outcome State Fault Refusal := .next (s.onPkg (fun k => { k with clocksStopped := true }))

/-- DROOP_TRIP (R9): the core's clock is stretched; more than 64 trips within 1 ms are a throttle cause. -/
def execDroopTrip (s : State) : Host.Outcome State Fault Refusal :=
  let c := s.args.core
  let k := s.core c
  let trips := (k.trips.filter (fun t => decide (s.pkg.tick < t + 125000))) ++ [s.pkg.tick]
  let s := s.setCore c { k with drooping := true, trips := trips }
  .next (if 64 < trips.length then s.onPkg (fun k => { k with throt := .droop }) else s)

/-- DROOP_RECOVERY (R9). -/
def execDroopRecovery (s : State) : Host.Outcome State Fault Refusal :=
  .next (s.setCore s.args.core { s.core s.args.core with drooping := false })

/-! ### Self-tests (R10, R11) -/

/-- TARGETED_SELF_TEST (R10, R11): an error on a resource has its test run; it joins one that is pending. -/
def execTargetedSelfTest (s : State) : Host.Outcome State Fault Refusal := .next (s.errorOn s.args.res)

/-- SELF_TEST_FORCED_WINDOW (R10): the resource of a pending test is taken out of service. -/
def execSelfTestForcedWindow (s : State) : Host.Outcome State Fault Refusal :=
  let r := s.args.res
  .next (if s.pkg.tests.contains r && !s.pkg.windows.contains r then s.onPkg (fun k => { k with windows := k.windows ++ [r] }) else s)

/-- SELF_TEST_RESULT (R10): the resource is classified, retired to its spare, or its unit marked degraded. -/
def execSelfTestResult (s : State) : Host.Outcome State Fault Refusal :=
  let r := s.args.res
  if !s.pkg.tests.contains r then .next s
  else
    let s := s.onPkg (fun k => { k with tests := k.tests.erase r, windows := k.windows.erase r })
    if s.args.pass then .next (s.postMgmt (.transient r))
    else if s.args.spare then .next ((s.onPkg (fun k => { k with repair := k.repair ++ [r] })).postMgmt (.retired r))
    else .next ((s.onPkg (fun k => { k with degraded := if k.degraded.contains r then k.degraded else k.degraded ++ [r] })).postMgmt (.noSpare r))

/-- Pending tests are abandoned (R11). -/
def State.abandonTests (s : State) : State :=
  (s.pkg.tests.foldl (fun s r => s.postMgmt (.unclassified r)) s).onPkg (fun k => { k with tests := [], windows := [] })

/-! ### Image and identity (R12 to R14) -/

/-- REPAIR_EXPORT (R12). Without an identity key the section goes out all the same (log 99). -/
def execRepairExport (s : State) : Host.Outcome State Fault Refusal :=
  let sec := Config.repairSection s.pkg.repair
  .next (s.answer (.repair sec (Config.sign sec)))

/-- SIGNED_IMAGE_WRITE (R12, R13): a whole slot, or its repair section alone. -/
def execSignedImageWrite (s : State) : Host.Outcome State Fault Refusal :=
  let write := fun (old : Image) => if s.args.repairOnly then { old with repair := s.args.img.repair } else s.args.img
  .next (s.onPkg (fun k => if s.args.slotB then { k with flashB := write k.flashB } else { k with flashA := write k.flashA }))

/-- SPDM_REQUEST (R14): measurements of the accepted image and the repair maps, or an error without an identity key. -/
def execSpdmRequest (s : State) : Host.Outcome State Fault Refusal :=
  .next (s.answer (match s.pkg.image with
    | some img => let m := Config.measure img s.pkg.repair; if s.pkg.idok then .measurements m (Config.sign m) else .spdmError
    | none => .spdmError))

/-- CONFIGURATION_REQUEST (R13, R17). -/
def execConfigurationRequest (s : State) : Host.Outcome State Fault Refusal :=
  .next (s.answer (if s.pkg.ready || s.pkg.recov then .configuration else .retryStatus))

/-! ### Resets (R15 to R18) -/

/-- Clears what a warm reset clears (R16); storage, its poison and the interleave schemes survive (R22), and a stack's cache layer that
is disabled stays so (R26). -/
def State.clearState (s : State) : State :=
  { s with cores := [], l2 := [], far := [], parts := [], fab := {}, b2off := [],
           hbm := { store := s.hbm.store, poison := s.hbm.poison, mgs := s.hbm.mgs, disabled := s.hbm.disabled, nextReq := s.hbm.nextReq } }

/-- State is cleared and the retrains run; LASTRST is set when the reset ends (R18). -/
def State.startRetrain (s : State) (kind : Nat) : State :=
  s.clearState.onPkg (fun k => { k with ready := false, hbmtr := false, sadtr := false, idok := k.idPending, phase := .retraining, kind := kind })

/-- The image slot a cold reset accepts, if any: A first (R12). -/
def Pkg.accept (k : Pkg) : Option (Bool × Image) :=
  if k.flashA.vendorOk then some (false, k.flashA) else if k.flashB.vendorOk then some (true, k.flashB) else none

/-- COLD_RESET (R12 to R15, R17): the flash survives, and LASTRST until the reset ends (R18); HBM holds what memory holds that nothing
has written (log 2). With no slot that verifies, recovery mode, with which the reset has ended (log 68). A repair section that is there
while no identity key is derived counts as failed (log 99). -/
def execColdReset (s : State) : Host.Outcome State Fault Refusal :=
  let lost := s.pkg.tests
  let k : Pkg := { flashA := s.pkg.flashA, flashB := s.pkg.flashB, lastrst := s.pkg.lastrst, answers := s.pkg.answers, tick := s.pkg.tick }
  let s := { s.clearState with hbm := { nextReq := s.hbm.nextReq }, pkg := k }
  let s := lost.foldl (fun s r => s.postMgmt (.unclassified r)) s
  match s.pkg.accept with
  | none => .next (s.onPkg (fun k => { k with recov := true, lastrst := 0 }))
  | some (slot, img) =>
    let maps := match img.repair with | .good m => if s.args.idOk then img.factory ++ m else img.factory | _ => img.factory
    let s := s.onPkg (fun k => { k with imgok := true, imgslot := slot, image := some img, idok := s.args.idOk, idPending := s.args.idOk, repair := maps })
    let failed := match img.repair with | .absent => false | .bad => true | .good _ => !s.args.idOk
    .next (if failed then s.postMgmt .repbad else s)

/-- Whether who asks may have a warm reset (R15). -/
def mayReset : ResetSrc → Bool
  | .mctp => true
  | .reg .pf => true
  | .reg (.vf _) => false

/-- What a partition still had to run is abandoned (R15). -/
def Part.abandon (p : Part) : Part := { p with launches := [], graphs := [], deferred := [], reservation := none }

/-- An orderly warm reset starts (R15): issue stops, running groups and tasks are abandoned, and the write-back runs. A request during
one is ignored (log 68). -/
def State.orderly (s : State) (src : ResetSrc) (idOk : Bool) : State :=
  if !mayReset src || s.pkg.phase != .running then s
  else
    let s := s.abandonTests
    let s := { s with cores := s.cores.map (fun (e : Nat × Core) => (e.1, { e.2 with groups := [], tasks := [], quarters := [] })) }
    let s := { s with parts := s.parts.map (fun (e : Nat × Part) => (e.1, e.2.abandon)) }
    s.onPkg (fun k => { k with phase := .writeBack, kind := 1, ready := false, idPending := idOk })

/-- A request for a warm reset: one that is a write of RSTCTL is no register access in recovery mode (R13). -/
def State.onReset (s : State) (go : State → State) : State :=
  match s.args.src with
  | .mctp => go s
  | .reg fn => if s.pkg.recov then s.postMgmt (.unsupported (fnIndex fn) 0x1008) else go s

/-- ORDERLY_WARM_RESET (R15). -/
def execOrderlyWarmReset (s : State) : Host.Outcome State Fault Refusal := .next (s.onReset (fun s => s.orderly s.args.src s.args.idOk))

/-- ORDERLY_WRITEBACK_END (R15). -/
def execOrderlyWritebackEnd (s : State) : Host.Outcome State Fault Refusal :=
  .next (if s.pkg.phase != .writeBack then s else s.cleanAll.startRetrain 1)

/-- The first n dirty lines of L2, then victims and dirty blocks of the cache layer, are written back: how far a write-back came before
it was cut short (log 68). -/
def State.cleanSome (s : State) (n : Nat) : State :=
  let ls := s.l2.filter (fun l => l.dirty != 0)
  let s := (planesLast (ls.take n)).foldl (fun s l => s.l2Clean l) s
  let blocks := s.hbm.victims ++ s.hbm.layer.flatMap (fun e => (e.2.filter (fun b => b.dirty != 0)).map (fun b => (e.1 / 4096, b)))
  { s with hbm := (blocks.take (n - ls.length)).foldl (fun h b => h.writeBlock b.1 b.2) s.hbm }

/-- ORDERLY_RESET_TIMEOUT (R15): the reset goes on as forced. `n` lines had been written back. -/
def execOrderlyResetTimeout (s : State) : Host.Outcome State Fault Refusal :=
  .next (if s.pkg.phase != .writeBack then s else (s.cleanSome s.args.n).abandonTests.startRetrain 2)

/-- A forced warm reset (R15): at once, during an orderly one too; ignored during a forced or a cold one. -/
def State.forced (s : State) (src : ResetSrc) (idOk : Bool) (n : Nat) : State :=
  if !mayReset src then s
  else
    let go := fun (s : State) => (s.abandonTests.onPkg (fun k => { k with idPending := idOk })).startRetrain 2
    match s.pkg.phase with
    | .running => go s
    | .writeBack => go (s.cleanSome n)
    | .retraining => if s.pkg.kind = 1 then go s else s

/-- FORCED_WARM_RESET (R15). -/
def execForcedWarmReset (s : State) : Host.Outcome State Fault Refusal := .next (s.onReset (fun s => s.forced s.args.src s.args.idOk s.args.n))

/-- Queues whose EN was set before READY are watched from now on (R17, R77). -/
def State.watchQueues (s : State) : State :=
  s.parts.foldl (fun s e => e.2.lqs.foldl (fun s q => if q.2.en && q.2.state = 0 && !q.2.parked then s.lqEnable e.1 q.1 else s) s) s

/-- RETRAIN_COMPLETE (R17, R18): of the saddle links, or of both. Nothing retrains before a cold reset has accepted an image (R12). -/
def execRetrainComplete (s : State) : Host.Outcome State Fault Refusal :=
  .next (if s.pkg.phase != .retraining || s.pkg.recov || !s.pkg.imgok then s
    else if s.args.saddleOnly then s.onPkg (fun k => { k with sadtr := true })
    else (s.onPkg (fun k => { k with ready := true, hbmtr := true, sadtr := true, phase := .running, lastrst := k.kind })).watchQueues)

end Sys2Proof.Machine
end

