-- ==== Sys2Proof/Machine/System.lean ====
section
/-! DEFINITION. The system instructions that touch only the issuing group, its partition and memory (R252, R253, R350 to R353,
R355). -/

namespace Sys2Proof.Machine

/-! ### System registers (R221, R224, R252, R253) -/

/-- What `rdsr` reads. -/
def Ictx.readSys (x : Ictx) (n : Nat) : Dword :=
  match n with
  | 0x00 => x.g.stat
  | 0x01 => x.g.trc
  | 0x02 => x.g.tra
  | 0x03 => x.g.trx
  | 0x04 => x.g.trv
  | 0x05 => d64 (2 + 16 * Config.stepping.toNat)
  | 0x06 => 32
  | 0x07 => d64 x.g.rwp.toNat
  | 0x08 => x.g.rws
  | 0x09 => x.g.fxb
  | 0x0A => x.g.fxt
  | 0x0B => x.clk
  | 0x0C => d64 (x.g.part % 8 + x.c % 256 * 8 + quarterOf x.sl % 4 * 2048 + x.sl % 128 * 8192)
  | 0x0D => d64 x.g.lnch.toNat
  | 0x0E => d64 (x.g.role % 4)
  | 0x10 => d64 (x.g.xvs.getD 0 0).toNat
  | 0x11 => d64 (x.g.xvs.getD 1 0).toNat
  | 0x12 => d64 (x.g.xvs.getD 2 0).toNat
  | _ => d64 (x.g.xvs.getD 3 0).toNat

/-- Registers whose `wrsr` is privileged (R252). -/
def sysPriv (n : Nat) : Bool := (decide (1 ≤ n) && decide (n ≤ 4)) || (decide (7 ≤ n) && decide (n ≤ 10))

/-- What `wrsr` does to the group's registers: only writable fields change, and a read-only register keeps its value. -/
def Group.writeSys (g : Group) (n : Nat) (v : Dword) : Group :=
  match n with
  | 0x01 => { g with trc := d64 (nbits v.toNat 0 8) }
  | 0x02 => { g with tra := d64 (nbits v.toNat 0 57), save := g.save.map (fun t => { t with traWritten := true }) }
  | 0x03 => { g with trx := v }
  | 0x04 => { g with trv := d64 (nbits v.toNat 12 45 * 4096) }
  | 0x07 => { g with rwp := BitVec.ofNat 3 v.toNat }
  | 0x08 => { g with rws := d64 (nbits v.toNat 6 51 * 64) }
  | 0x09 => { g with fxb := d64 (nbits v.toNat 8 49 * 256) }
  | 0x0A => { g with fxt := d64 (nbits v.toNat 0 32) }
  | 0x10 => { g with xvs := setAt g.xvs 0 (BitVec.ofNat 16 v.toNat) }
  | 0x11 => { g with xvs := setAt g.xvs 1 (BitVec.ofNat 16 v.toNat) }
  | 0x12 => { g with xvs := setAt g.xvs 2 (BitVec.ofNat 16 v.toNat) }
  | 0x13 => { g with xvs := setAt g.xvs 3 (BitVec.ofNat 16 v.toNat) }
  | _ => g

/-- RDSR (R351). -/
def execRdsr (e : Bool) (d : BitVec 7) (n : BitVec 8) (s : State) : Host.Outcome State Fault Refusal :=
  issue { i := .rdsr e d n, e := e, fields := [sDstF d] } s (fun x s => finScalar s false d 1 (x.readSys n.toNat))

/-- WRSR (R351): counts that wait for the old FXB, FXT or RWS are added before those change. -/
def execWrsr (e : Bool) (a : BitVec 7) (n : BitVec 8) (s : State) : Host.Outcome State Fault Refusal :=
  issue { i := .wrsr e a n, e := e, fields := [sSrcF a], priv := sysPriv n.toNat } s (fun x s =>
    let k := n.toNat
    let s := if k = 9 || k = 10 then s.flushFx x.c x.sl else if k = 8 then s.flushRw x.c x.sl else s
    let g := s.group x.c x.sl
    -- an add that still waits (R214, R216) names the old register
    if ((k = 9 || k = 10) && !g.fxAdds.isEmpty) || (k = 8 && !g.rwAdds.isEmpty) then .stall s
    else finPlain (s.onGroup x (fun g => g.writeSys k (x.readS a))))

/-- SRET (R352): the handler's run ends, the originals of a faulted instance enter again, and the trap state comes back. A target
whose segment is not resident traps first (R130). -/
def execSret (e : Bool) (s : State) : Host.Outcome State Fault Refusal :=
  issue { i := .sret e, e := e, priv := true, mustEnd := true, flush := true } s (fun x s =>
    match x.g.returnsTo.filter (fun t => segOf t != segOf x.u.pc && ((s.core x.c).resident x.g.part (segOf t)).isNone) with
    | some t => .trap 0x06 (d64 t.toNat)
    | none =>
    if (s.core x.c).returnStalls (s.group x.c x.sl) then .stall (s.boardMoves x.c) else
    let s := s.onGroup x (fun g => (landAll g (g.iunit x.u.uid).due).setUnit { g.iunit x.u.uid with due := [], streak := x.u.streak + 1 })
    let s := match x.g.save with
      | some v => match v.inst with
        | some id => s.replay x.c x.sl id v.cut
        | none => s
      | none => s
    .done (s.trapReturn x.c x.sl x.u.uid))

/-! ### Rules (R149 to R152, R353) -/

/-- Whether a group may load rules and narrow RWP: privileged, or its partition's PCFG.USERRW is 1 (R152). -/
def State.rwPriv (s : State) : Bool := !(s.part s.ictx.g.part).userrw

/-- A reference of an instruction that stalls meets a page fault: a task is aborted (R218), a group waits for the record
(R214). -/
def Ictx.waitOn (x : Ictx) (s : State) (ia : Nat) (write : Bool) : Done :=
  let (s, n) := s.fault x.g.part ia write false { core := x.c, slot := x.sl, iaddr := x.u.pc.toNat }
  if x.g.isTask then .stall (s.abortTask x.c x.sl (some n)) else .stall (s.onGroup x (fun g => { g with waitRec := some (n, false), waitIa := (ia, write) }))

/-- What an instruction that stalled on a record does next: it waits, ends as for an unresolvable fault, which posts its record (R214, log
64), or runs (R215). -/
def Ictx.resumed (x : Ictx) (s : State) (fatal run : State → Done) : Done :=
  match x.g.waitRec with
  | none => run s
  | some (_, false) => .stall s
  | some (_, true) =>
    let s := (s.fault x.g.part x.g.waitIa.1 x.g.waitIa.2 true { core := x.c, slot := x.sl, iaddr := x.u.pc.toNat }).1
    fatal (s.onGroup x (fun g => { g with waitRec := none }))

/-- RWLD (R353). -/
def execRwld (e : Bool) (a b : BitVec 7) (s : State) : Host.Outcome State Fault Refusal :=
  issue { i := .rwld e a b, e := e, fields := [sSrcF a, sSrcF b], priv := s.rwPriv, flush := true } s (fun x s =>
    let va := vaMod (x.readS a).toNat
    let n := x.readS b
    match (s.part x.g.part).xlate va 64 { rd := true, user := !x.g.privileged } with
    | .error _ => .trap 0x08 (x.readS a)
    | .ok (ia, sor) =>
      if va % 64 != 0 then .trap 0x09 (x.readS a)
      else if 63 < n.toNat then .trap 0x18 n
      else
        x.resumed s (fun s => .report s 0x18 n x.u.pc none) (fun s =>
        let s := s.performAll x.c x.sl
        match s.comesFirst x.c x.sl ia 64 sor with
        | some o => .stall (s.completePath x.c x.sl o.path)
        | none =>
        let s := s.l1Land x.c
        let cp := x.u.hints.cp.getD (0, 1, 0)
        let a : Acc := { part := x.g.part, die := dieOf x.c, pol := cp.1, cls := cp.2.1, stamp := stampFor s.pkg.tick cp.2.2, requester := x.c, sor := sor, user := !x.g.privileged }
        let who : Faulter := { core := x.c, slot := x.sl, iaddr := x.u.pc.toNat }
        match s.homeRead a ia 64 with
        | (s, .ok (img, bad)) =>
          let pt := s.part x.g.part
          if bad then .report s 0x18 n x.u.pc none
          else if !ruleValid img then finPlain (s.setPart x.g.part { pt with rules := mdel pt.rules n.toNat })
          else if ruleOk img then finPlain (s.setPart x.g.part { pt with rules := mput pt.rules n.toNat img })
          else .trap 0x18 n
        | (s, .page) => x.waitOn s ia false
        | (s, .held) => .stall s
        | (s, .fatal) => .report (s.fault x.g.part ia false true who).1 0x18 n x.u.pc none))

/-- RWCTL (R152, R353). -/
def execRwctl (e : Bool) (k : BitVec 3) (s : State) : Host.Outcome State Fault Refusal :=
  issue { i := .rwctl e k, e := e, priv := s.rwPriv, flush := true } s (fun x s =>
    finPlain (s.onGroup x (fun g => { g with rwp := g.rwp &&& k })))

/-! ### Appending a token (R191, R192, R355) -/

/-- The ptag of a key register after an append: E, DEPTH and RESC of a block's H word. -/
def appendTag (h : Nat) : BitVec 16 := BitVec.ofNat 16 (h % 256 + nbits h 8 5 * 256 + (if nbit h 13 then 16384 else 0))

/-- KVAPP (R355): D and the ptags are written for the next instruction; a page fault on a table or block stalls the unit. -/
def execKvapp (e : Bool) (a v : BitVec 7) (d : BitVec 6) (s : State) : Host.Outcome State Fault Refusal :=
  issue { i := .kvapp e a v d, e := e, fields := [{ sRegF d with wr := true }, sSrcF a, (vSrcF v).many 16] } s (fun x s =>
    let lane := fun (r ch : Nat) => ((x.g.vreg (v.toNat + r + ch / 32)).lanes.getD (ch % 32) 0).toNat
    -- a `hint.cp` overrides the class of the reference, 1 for the tail's tier 0 (R187)
    let cp := x.u.hints.cp.getD (0, 1, 0)
    let acc : Acc := { part := x.g.part, die := dieOf x.c, pol := cp.1, cls := cp.2.1, stamp := stampFor s.pkg.tick cp.2.2, requester := x.c, user := !x.g.privileged, who := { core := x.c, slot := x.sl, iaddr := x.u.pc.toNat } }
    x.resumed s (fun s => .fin s {} [{ left := 1, w := .s d.toNat 4 }] .seq .ready) (fun s =>
    let s := s.performAll x.c x.sl
    -- its reads and writes come after an acquire that is outstanding (R197, R349)
    match (s.group x.c x.sl).ops.find? (fun o => o.status != .performed && o.acquires) with
    | some o => .stall (s.completePath x.c x.sl o.path)
    | none =>
    let s := s.l1Land x.c
    match s.kvAppend x.c x.sl acc (x.readS a) (lane 0) (lane 8) with
    | (s, .page ia w) => x.waitOn s ia w
    | (s, .held) => .stall s
    | (_, .straddles ia) => .trap 0x09 (d64 ia)
    | (s, .status n heads) =>
      let regs := (List.range 8).filter (fun j => decide (32 * j < heads.length))
      let tags := regs.map (fun j => ({ left := 1, w := .tag (v.toNat + j) (appendTag (heads.getD (32 * j) 0)) } : DueWrite))
      .fin s {} ({ left := 1, w := .s d.toNat (d64 n) } :: tags) .seq .ready))

end Sys2Proof.Machine
end

