-- ==== Sys2Proof/Machine/Resolve.lean ====
section
/-! DEFINITION. Resolution of fault records (R215, R218), and translation invalidation (R216, R354). -/

namespace Sys2Proof.Machine

/-! ### Replay -/

/-- An operation that waited for a record or a write-protected page is as it was before it waited; a collective that has sent
waits for its end again. -/
def Op.unwait (o : Op) : Op :=
  { o with status := match o.kind with
      | .car | .cbc | .cbar => if o.rnd = 1 then .sent else .issued
      | _ => .issued }

/-- An operation that waited for a number is tried again. -/
def State.replayOp (s : State) (n c sl seq : Nat) : State :=
  match (s.group c sl).op seq with
  | none => s
  | some o =>
    match o.kind with
    | .engine => s.runCmd c sl seq
    | .cfetch => s.performFetch c sl o
    | .car | .cbc | .cbar => s.collSend c sl seq
    | .msend | .mpost | .mprobe | .mcancel | .mtest => s.cairnProgress c sl o
    | .rld | .rst | .ratom => s
    | _ => s.performAgain c sl seq n

/-- Core, slot and number of a partition's operations that satisfy a condition, in order of issue. -/
def State.opsWhere (s : State) (p : Nat) (f : Op → Bool) : List (Nat × Nat × Nat) :=
  s.cores.flatMap (fun k => k.2.groups.flatMap (fun g =>
    if g.2.part == p then (g.2.ops.filter f).map (fun o => (k.1, g.1, o.seq)) else []))

/-- Operations other than memory accesses leave their wait; of those, requests wait one by one. -/
def State.unwaitOps (s : State) (l : List (Nat × Nat × Nat)) : State :=
  l.foldl (fun s x =>
    let g := s.group x.1 x.2.1
    match g.op x.2.2 with
    | some o => if o.kind.isMem then s else s.setGroup x.1 x.2.1 (g.setOp o.unwait)
    | none => s) s
/-- Counter adds that groups of a partition have waiting are tried again (R215). -/
def State.replayAdds (s : State) (p : Nat) : State :=
  s.cores.foldl (fun s k => k.2.groups.foldl (fun s e =>
    if e.2.part == p && !(e.2.fxAdds.isEmpty && e.2.rwAdds.isEmpty) then (s.flushFx k.1 e.1).flushRw k.1 e.1 else s) s) s

/-! ### A virtual function's accesses of its window (R72) -/

/-- The lines of a VF's range, each translated: (IA, SOR, length). -/
def Part.hostRange (p : Part) (need : Need) : Nat → Nat → Nat → Option (List (Nat × Bool × Nat))
  | 0, _, _ => some []
  | fuel + 1, va, n =>
    if n = 0 then some []
    else
      let k := min n (128 - va % 128)
      match p.xlate va k need with
      | .error _ => none
      | .ok (ia, so) => (Part.hostRange p need fuel (va + k) (n - k)).map (fun r => (ia, so, k) :: r)

def hostAcc (p : Nat) (so write : Bool) : Acc := { part := p, requester := 385, sor := so, write := write, who := { req := 4 } }

/-- Whether a write of a partition's VF is held. -/
def Part.hostHolds (p : Part) : Bool := p.parked.any (fun e => match e.2 with | .host _ _ _ => true | _ => false)
/-- A host's access waits for a write-protected page, or behind a write that does (R72, R216). -/
def State.hostHold (s : State) (p : Nat) (x : Parked) : State :=
  let pt := s.part p
  s.setPart p { pt with parked := pt.parked ++ [(wpHold, x)] }

/-- A host's access that faults: its record is posted, and it completes with Unsupported Request; nothing parks (R72, R214, log 131). -/
def State.hostFault (s : State) (p ia : Nat) (write fatal : Bool) : State := (s.fault p ia write fatal { req := 4 }).1

/-- A virtual function's write inside one line is performed, in PCIe arrival order: behind a held one it is held too. Whether it could be
made, or waits. -/
def State.hostWrite (s : State) (p ia : Nat) (sor : Bool) (bs : List Byte) : State × Bool :=
  if (s.part p).hostHolds then (s.hostHold p (.host ia sor bs), true)
  else match s.homeWrite (hostAcc p sor true) ia bs [] with
    | (s, .ok _) => (s, true)
    | (s, .held) => (s.hostHold p (.host ia sor bs), true)
    | (s, .page) => (s.hostFault p ia true false, false)
    | (s, .fatal) => (s.hostFault p ia true true, false)

/-- A virtual function's read, once its earlier writes are performed: its bytes, or Unsupported Request. Poisoned bytes are answered as they
are stored (log 130). -/
def State.hostRead (s : State) (p va n : Nat) : State :=
  let fn : Fn := .vf p
  if (s.part p).hostHolds then s.hostHold p (.hostRead va n)
  else match (s.part p).hostRange { rd := true } (n + 1) va n with
    | none => s.hostAnswer fn none
    | some l =>
      let r := l.foldl (fun (acc : State × Option (List Byte)) x =>
        match acc.2 with
        | none => acc
        | some bs => match acc.1.homeRead (hostAcc p x.2.1 false) x.1 x.2.2 with
          | (s, .ok (b, _)) => (s, some (bs ++ b))
          | (s, .page) => (s.hostFault p x.1 false false, none)
          | (s, .fatal) => (s.hostFault p x.1 false true, none)
          | (s, .held) => (s, none)) (s, some [])
      r.1.hostAnswer fn r.2

/-- What a step that has outlived its partition enqueues is abandoned like the partition's other tasks (R75). -/
def State.abandonTasks (s : State) (p : Nat) : State :=
  let s := { s with cores := s.cores.map (fun (e : Nat × Core) => (e.1, { e.2 with tasks := e.2.tasks.filter (fun t => t.part != p) })) }
  s.setPart p { s.part p with deferred := [] }

/-- An agent that waited acts again. -/
def State.replayAgent (s : State) (p : Nat) (fatal : Bool) : Parked → State
  | .acts ag inh steps => let s := s.acts p ag inh steps; if (s.part p).st = 0 then s.abandonTasks p else s
  | .completion ag va w v => s.msgResolve p ag va w v
  | .store ia bs => s.ownStore p ia bs
  | .launchRead id =>
    let gr := (s.part p).launches.findSome? (fun l => if l.id == id then l.graph else none)
    let s := s.onLaunch p id (fun l => { l with parked := false, failed := if fatal && gr.isNone then some 2 else l.failed })
    (match gr with
    | some g => if fatal then s.onGraph p g (fun x => { x with failed := true }) else s
    | none => s)
  | .graphNode g n => s.graphNodeDone p g n
  | .queueRead q =>
    let x := s.lq p q
    if fatal then s.lqStop p q 3
    else
      let s := s.setLq p q { x with parked := false }
      if x.en && x.state = 0 then s.lqEnable p q else s
  | .remote port pkt => if pkt.kind = 4 then s.serveMcw port pkt else s.serve port pkt
  | .host ia sor bs => let r := s.hostWrite p ia sor bs; if r.2 then r.1 else r.1.hostAnswer (.vf p) none
  | .hostRead va n => s.hostRead p va n

/-- The agents that wait under a number act again, in the order in which they came. -/
def State.replayAgents (s : State) (p n : Nat) (fatal : Bool) : State :=
  let pt := s.part p
  let mine := pt.parked.filter (fun e => e.1 == n)
  let s := s.setPart p { pt with parked := pt.parked.filter (fun e => e.1 != n) }
  let s := mine.foldl (fun s e => s.replayAgent p fatal e.2) s
  ((s.cairn p).landings.filter (fun m => m.parked == some n)).foldl (fun s m => s.advance p { m with parked := none }) s

/-- Tasks that a record held back come first in their queue again. -/
def unblockTasks (p n : Nat) (ts : List QTask) : List QTask :=
  let mine := fun (t : QTask) => t.part == p && t.blocked == some n
  (ts.filter mine).map (fun t => { t with blocked := none }) ++ ts.filter (fun t => !mine t)
/-- Tasks that a record held back are queued again, at the head of their queues, or end (R218); those of a swapped-out partition too
(R84). -/
def State.replayTasks (s : State) (p n : Nat) (fatal : Bool) : State :=
  let pt := s.part p
  if fatal then
    let mine := fun (c : Nat) (ts : List QTask) => (ts.filter (fun t => t.part == p && t.blocked == some n)).map (fun t => (c, t))
    (s.cores.flatMap (fun k => mine k.1 k.2.tasks) ++ pt.saved.flatMap (fun v => mine v.core v.tasks)).foldl (fun s x => s.taskEnds x.1 x.2 5) s
  else
    let s := s.setPart p { pt with saved := pt.saved.map (fun v => { v with tasks := unblockTasks p n v.tasks }) }
    { s with cores := s.cores.map (fun k => (k.1, { k.2 with tasks := unblockTasks p n k.2.tasks })) }

/-- A group whose instruction stalls on a record, or an aborted task that has not yet retired, when the record is resolved. -/
def Group.resolved (g : Group) (p n : Nat) (fatal : Bool) : Group :=
  if g.part != p then g
  else
    let g := if g.waitRec == some (n, false) then { g with waitRec := if fatal then some (n, true) else none } else g
    if g.abortRec == some n then (if fatal then { g with aborted := false, abortRec := none, ended := some 5 } else { g with abortRec := none }) else g
/-- Groups whose instruction stalls on the record, and aborted tasks that have not yet retired; those of a swapped-out partition too. -/
def State.replayGroups (s : State) (p n : Nat) (fatal : Bool) : State :=
  let pt := s.part p
  let each := fun (gs : Map Group) => gs.map (fun (e : Nat × Group) => (e.1, e.2.resolved p n fatal))
  let s := s.setPart p { pt with saved := pt.saved.map (fun v => { v with groups := each v.groups }) }
  { s with cores := s.cores.map (fun k => (k.1, { k.2 with groups := each k.2.groups })) }

/-- Everything that waits for a record is tried again (R215); `fatal` ends it as an unresolvable fault, for which the page has
no translation while the accesses are replayed. -/
def State.replayRecord (s : State) (p n page : Nat) (fatal : Bool) : State :=
  let ops := s.opsWhere p (fun o => o.waitsFor n)
  let s := (s.unwaitOps ops).replayGroups p n fatal
  if fatal then
    let pt := s.part p
    let s := s.setPart p { pt with walks := { page := page, pte := deadEntry, level := 4 } :: pt.walks }
    let s := ops.foldl (fun s x => s.replayOp n x.1 x.2.1 x.2.2) s
    let s := ((s.replayAgents p n true).replayTasks p n true).replayAdds p
    let pt := s.part p
    s.setPart p { pt with walks := pt.walks.filter (fun w => !(w.page == page && w.pte == deadEntry)) }
  else (((ops.foldl (fun s x => s.replayOp n x.1 x.2.1 x.2.2) s).replayAgents p n false).replayTasks p n false).replayAdds p

/-- A write of FQRES (R215): the record is closed and what waits for it is replayed; one that names no open record is
ignored. -/
def State.fqresWrite (s : State) (p : Nat) (v : Dword) : State :=
  let pt := s.part p
  match pt.records.find? (fun r => r.seq == v.toNat % 2 ^ 32 && r.posted) with
  | none => s
  | some r =>
    let s := s.setPart p { pt with records := pt.records.filter (fun x => x.seq != r.seq) }
    let s := s.replayRecord p r.seq r.page (v.getLsbD 32)
    postRecords p ((s.part p).records.length + 1) s

/-- FQRES (R215). -/
def execFqres (s : State) : Host.Outcome State Fault Refusal :=
  .next (s.bar0 (0x3230 + 0x40 * s.args.part) (fun s => if mayWrite s.args.fn s.args.part then s.fqresWrite s.args.part s.args.v else s))

/-- A write of FQR (R215): slots free, and records that wait for them are posted. -/
def State.fqrWrite (s : State) (p : Nat) (v : Dword) : State :=
  let pt := s.part p
  postRecords p (pt.records.length + 1) (s.setPart p { pt with fqr := v })

/-- FQR (R215). -/
def execFqr (s : State) : Host.Outcome State Fault Refusal :=
  .next (s.bar0 (0x3228 + 0x40 * s.args.part) (fun s => if mayWrite s.args.fn s.args.part then s.fqrWrite s.args.part s.args.v else s))

/-! ### Translation invalidation -/

/-- What write-protected pages held is tried again (R216). -/
def State.releaseHeld (s : State) (p : Nat) : State :=
  let ops := s.opsWhere p (fun o => o.waitsFor wpHold)
  let s := ops.foldl (fun s x => s.replayOp wpHold x.1 x.2.1 x.2.2) (s.unwaitOps ops)
  let s := (s.replayAgents p wpHold false).replayAdds p
  postRecords p ((s.part p).records.length + 1) s

/-- TINV (R354): it waits for the group's earlier accesses, then the range is written back and invalidated in the issuing
partition, and writes held under R216 replay. -/
def execTinv (e : Bool) (a b : BitVec 7) (s : State) : Host.Outcome State Fault Refusal :=
  issue { i := .tinv e a b, e := e, fields := [sSrcF a, sSrcF b], priv := true } s (fun x s =>
    let lo := nbits (x.readS a).toNat 16 36 * 65536
    let n := x.readS b
    if nbits n.toNat 36 28 != 0 then .trap 0x01 (d64 ((encode (.tinv e a b)).getD 0).toNat)
    else
      let s := s.performAll x.c x.sl
      let gr := s.group x.c x.sl
      match gr.ops.find? (fun o => o.status != .performed && (o.kind.isMem || o.path == 3)) with
      | some o => .stall (if o.path = 3 then s.pathOn x.c x.sl o.seq else s)
      | none =>
        let s := s.landFar
        if n = 0 then finPlain s
        else finPlain ((s.invalidateRange x.g.part lo (n.toNat * 65536)).releaseHeld x.g.part))

end Sys2Proof.Machine
end

