-- ==== Sys2Proof/Machine/Partition.lean ====
section
/-! DEFINITION. Partitions and their commands (R73, R75, R84), the host's memory window (R72), far copies and evict-last lines
(R171, R194). -/

namespace Sys2Proof.Machine

/-! ### Forming -/

/-- Whether a partition in a state holds its units (R75). -/
def holdsUnits (st : Nat) : Bool := st == 1 || st == 2 || st == 3 || st == 5

/-- Whether another partition holds a unit of this one. -/
def State.unitsTaken (s : State) (p : Nat) : Bool :=
  s.parts.any (fun e => e.1 != p && holdsUnits e.2.st && (e.2.units &&& (s.part p).units) != 0)

/-- A core that R10 has marked degraded. -/
def degradedCore : Resource → Option Nat
  | .sramRow c _ => some c
  | .matrixSegment c _ => some c
  | _ => none

/-- One line of L2 after another leaves, until every set fits its pool (R84, R170). -/
def State.shrinkL2 : Nat → State → State
  | 0, s => s
  | fuel + 1, s =>
    let size := fun (k : Nat) => ((s.l2.filter (fun m => l2Set m.ia == k)).map Line.chunks).foldl (· + ·) 0
    match s.l2.find? (fun l => decide (s.l2Pool (homeDie l.ia) < size (l2Set l.ia))) with
    | none => s
    | some l => match evictStep (fun m => l2Set m.ia == l2Set l.ia) false s.l2 with
      | none => s
      | some (ls, out) => State.shrinkL2 fuel ({ s with l2 := ls }.writeBack out)

def State.badCommand (s : State) (p : Nat) : State := s.postMgmt (.pcmdbad p)

/-- `form` (R75): with windows, their chunks are freed before STATE becomes 1. Rules are disabled (R149), query slots empty (R321). -/
def State.formPart (s : State) (p : Nat) : State :=
  let pt := s.part p
  if pt.st != 0 || pt.units == 0 || s.unitsTaken p then s.badCommand p
  else
    let s := s.setPart p { pt with st := 1, without := s.pkg.degraded.filterMap degradedCore, rules := [] }
    let mine := (s.part p).cores
    let s := { s with cores := s.cores.map (fun (e : Nat × Core) => (e.1, if mine.contains e.1 then { e.2 with queries := [] } else e.2)) }
    if pt.shen then s.shrinkL2 (8 * s.l2.length + 1) else s

/-! ### Halting and resuming -/

/-- Changes every group of a partition. -/
def State.onGroups (s : State) (p : Nat) (f : Group → Group) : State :=
  { s with cores := s.cores.map (fun k => (k.1, { k.2 with groups := k.2.groups.map (fun e => (e.1, if e.2.part == p then f e.2 else e.2)) })) }

/-- `halt` (R75, R104): pre-emption is requested of every group. -/
def State.haltPart (s : State) (p : Nat) : State :=
  let pt := s.part p
  if pt.st != 1 then s.badCommand p
  else (s.setPart p { pt with st := 2 }).onGroups p (fun g => if g.holder == .group && g.preempt == .none then { g with preempt := .requested } else g)

/-- Whether a parked access is the partition's own (R75, R215); the Cairn keeps landing, and remote peers and the host are not
halted. -/
def Parked.halts : Parked → Bool
  | .completion _ _ _ _ => false
  | .store _ _ => false
  | .remote _ _ => false
  | .host _ _ _ => false
  | .hostRead _ _ => false
  | _ => true

/-- Whether a halting partition has come to rest: groups stopped with nothing outstanding, no task running, nothing parked. -/
def State.atRest (s : State) (p : Nat) : Bool :=
  s.cores.all (fun k => k.2.groups.all (fun e => e.2.part != p || (e.2.holder != .task && e.2.quiet && (e.2.holder == .free || e.2.preempt == .stopped)))) &&
  (s.part p).parked.all (fun e => !e.2.halts)

/-- HALT_DONE (R75). -/
def execHaltDone (s : State) : Host.Outcome State Fault Refusal :=
  let p := s.args.part
  if (s.part p).st != 2 then .next s
  else
    let s := s.cores.foldl (fun s k => if k.2.groups.any (fun e => e.2.part == p) then s.settle k.1 else s) s
    .next (if s.atRest p then s.setPart p { s.part p with st := 3 } else s)

/-- `resume` (R75): from STATE 3 at once; from 4 by a swap in, once no other partition holds a unit. -/
def State.resumePart (s : State) (p : Nat) : State :=
  let pt := s.part p
  if pt.st == 3 then (s.setPart p { pt with st := 1 }).onGroups p (fun g => { g with preempt := .none })
  else if pt.st == 4 && !s.unitsTaken p then s.setPart p { pt with st := 5 }
  else s.badCommand p

/-! ### Swapping (R84) -/

/-- `swap out`. -/
def State.swapOutPart (s : State) (p : Nat) : State :=
  let pt := s.part p
  if pt.st == 3 then s.setPart p { pt with st := 5 } else s.badCommand p

/-- A core's state as it is saved, in its shadow window or not, and the core without it. L1 is written back and not saved. -/
def Core.save (k : Core) (c p : Nat) (shadow : Bool) : Saved × Core :=
  ({ core := c, groups := k.groups, quarters := k.quarters, frames := k.frames, lmem := k.lmem, lpoison := k.lpoison, matrix := k.matrix,
     queries := k.queries, tasks := k.tasks, lastQueue := k.lastQueue, passed := k.passed, pair := k.pair, shadow := shadow },
   { k with groups := [], quarters := [], frames := [], lmem := [], lpoison := [], matrix := {}, queries := [], tasks := [], lastQueue := [], passed := [], pair := .single,
            l1 := [], shadowOf := if shadow then some p else k.shadowOf })

/-- Writes a core's dirty L1 lines back to their home slices. -/
def State.l1Flush (s : State) (c : Nat) : State :=
  (s.core c).l1.foldl (fun s l => s.l1Home c l) s

/-- The save area, 1.5 MiB at PSAVE for each core, takes what a swap out saves in a layout that the spec does not give: its bytes are
free values from then on (R73, R84, log 60). -/
def State.saveArea (s : State) (p : Nat) : State :=
  let pt := s.part p
  (List.range (12288 * pt.cores.length)).foldl (fun s i =>
    let (s, v) := s.draw
    (s.homeWrite { part := p, sor := true, write := true } (nbits pt.psave.toNat 12 40 * 4096 + 128 * i) (leBytes 128 v) []).1) s

/-- SWAP_OUT_DONE (R84): the state goes to memory, which takes no access before READY (R17). -/
def execSwapOutDone (s : State) : Host.Outcome State Fault Refusal :=
  let p := s.args.part
  let pt := s.part p
  if pt.st != 5 || !pt.saved.isEmpty || !s.pkg.ready then .next s
  else
    let s := pt.cores.foldl (fun s c => (s.l1Flush c).touchChan (coreMark c)) s
    -- a partition that finds one of its windows occupied uses none
    let shadow := pt.shen && pt.cores.all (fun c => (s.core c).shadowOf.isNone)
    let r := pt.cores.foldl (fun (acc : State × List Saved) c =>
      let (sv, k) := (acc.1.core c).save c p shadow
      (acc.1.setCore c k, acc.2 ++ [sv])) (s, [])
    let s := r.1.saveArea p
    .next (s.setPart p { s.part p with st := 4, saved := r.2 })

/-- SWAP_IN_DONE: the state comes from memory, after READY (R17, R84). -/
def execSwapInDone (s : State) : Host.Outcome State Fault Refusal :=
  let p := s.args.part
  let pt := s.part p
  if pt.st != 5 || pt.saved.isEmpty || !s.pkg.ready then .next s
  else
    let s := pt.saved.foldl (fun s v =>
      let k := s.core v.core
      let s := s.touchChan (coreMark v.core)
      s.setCore v.core { k with groups := v.groups, quarters := v.quarters, frames := v.frames, lmem := v.lmem, lpoison := v.lpoison, matrix := v.matrix,
                                queries := v.queries, tasks := v.tasks, lastQueue := v.lastQueue, passed := v.passed, pair := v.pair, l1 := [],
                                shadowOf := if v.shadow then none else k.shadowOf }) s
    .next ((s.setPart p { s.part p with st := 1, saved := [] }).onGroups p (fun g => { g with preempt := .none }))

/-! ### Dissolving -/

/-- What a core loses when the partition that runs on it is dissolved. -/
def Core.dissolve (k : Core) (p : Nat) (runs : Bool) : Core :=
  let k := { k with shadowOf := if k.shadowOf = some p then none else k.shadowOf }
  if runs then
    { k with groups := [], quarters := [], tasks := [], passed := [], matrix := {}, queries := [], pair := .single,
             frames := k.frames.filter (fun f => f.part != p), l1 := k.l1.filter (fun l => l.owner.isNone) }
  else k

/-- Keys of a partition's two slots go, on every port (R51). -/
def Fabric.zeroise (f : Fabric) (p : Nat) : Fabric :=
  { f with ports := f.ports.map (fun e => (e.1, { e.2 with slots := mdel (mdel e.2.slots (2 * p)) (2 * p + 1) })),
           pjob := (match mfind f.pjob p with | some (j, _) => mput f.pjob p (j, false) | none => f.pjob) }

/-- Whether a parked step outlives its partition: the resolution of a completion future, or the decrement that follows from one, that is
under way at its home slice (R75, R80). -/
def Parked.outlives : Parked → Bool
  | .acts _ _ (.resAt _ _ false _ _ :: _) => true
  | .acts _ _ (.decAt _ _ _ false :: _) => true
  | _ => false

/-- Requests of peers that wait in a partition are answered DENIED once their job is none of its (R42), and reads of its VF that wait behind
a held write with Unsupported Request (R72, log 128). -/
def State.denyRemotes (s : State) (p : Nat) (l : List (Nat × Parked)) : State :=
  l.foldl (fun s e => match e.2 with | .remote port pkt => s.respond port pkt 5 [] | .hostRead _ _ => s.hostAnswer (.vf p) none | _ => s) s

/-- `dissolve` (R42, R51, R71, R75, R208): launches resolve their completion futures with status 4, queues stop, and what the partition
ran or held is gone; requests of peers that waited are denied; what its VF wrote to write-protected pages is lost (log 128). Its Cairn state is discarded with CCTL.EN, as by a write of 0 to it; the
other registers of the block keep what the host wrote (log 116). -/
def State.dissolvePart (s : State) (p : Nat) : State :=
  let pt := s.part p
  if pt.st != 1 && pt.st != 3 && pt.st != 4 then s.badCommand p
  else
    let runs := pt.st != 4
    let mine := pt.cores
    let s := s.setPart p { pt with parked := pt.parked.filter (fun e => e.2.outlives) }
    let s := pt.launches.foldl (fun s l => s.launchEnd p { l with node := none } 4) s
    let s := (List.range 64).foldl (fun s q => s.lqDisable p q) s
    let s := { s with cores := s.cores.map (fun (e : Nat × Core) => (e.1, e.2.dissolve p (runs && mine.contains e.1))) }
    let s := { s with fab := { s.fab with colls := s.fab.colls.map (fun (e : Nat × Coll) => (e.1, match e.2.busy with
        | some (c, sl, _) => if runs && mine.contains c && ((s.core c).groups.all (fun x => x.1 != sl)) then { e.2 with busy := none, failed := false } else e.2
        | none => e.2)) } }
    let s := { s with fab := s.fab.zeroise p }
    let s := s.denyRemotes p pt.parked
    let s := s.onCairn p Cairn.clear
    let pt := s.part p
    s.setPart p { pt with st := 0, without := [], saved := [], launches := [], graphs := [], reservation := none, deferred := [], ranges := [],
                          rules := [], cairn := { pt.cairn with landings := [], sends := [], refusing := [] } }

/-! ### The commands as events -/

/-- A partition command, a write of PCTL, from a function that may give it (R13, R72). -/
def State.command (s : State) (f : State → Nat → State) : Host.Outcome State Fault Refusal :=
  .next (s.bar0 (0x3004 + 0x40 * s.args.part) (fun s => if mayWrite s.args.fn s.args.part then f s s.args.part else s))

/-- FORM (R75). -/
def execForm (s : State) : Host.Outcome State Fault Refusal := s.command State.formPart
/-- HALT (R75). -/
def execHalt (s : State) : Host.Outcome State Fault Refusal := s.command State.haltPart
/-- RESUME (R75, R84). -/
def execResume (s : State) : Host.Outcome State Fault Refusal := s.command State.resumePart
/-- SWAP_OUT (R75, R84). -/
def execSwapOut (s : State) : Host.Outcome State Fault Refusal := s.command State.swapOutPart
/-- DISSOLVE (R75). -/
def execDissolve (s : State) : Host.Outcome State Fault Refusal := s.command State.dissolvePart

/-! ### BAR2 (R72, R17) -/

/-- Lines of L2 that hold bytes of a physical range are written back and leave. -/
def State.flushPa (s : State) (pa n : Nat) : State :=
  let hit := fun (l : Line) => l.tier == 0 && l.pas.any (fun a => decide (a < pa + n) && decide (pa < a + (if l.plane then 4 else 128)))
  s.flushWhere hit

/-- Reads and writes physical bytes, sector by sector. -/
def State.paRead (s : State) : Nat → Nat → Nat → List Byte → State × List Byte
  | 0, _, _, acc => (s, acc)
  | fuel + 1, pa, n, acc =>
    if n = 0 then (s, acc)
    else
      let k := min n (128 - pa % 128)
      let (s, bs, _) := s.memRead pa k 1
      State.paRead s fuel (pa + k) (n - k) (acc ++ bs)
def State.paWrite (s : State) : Nat → Nat → List Byte → State
  | 0, _, _ => s
  | fuel + 1, pa, bs =>
    match bs with
    | [] => s
    | _ =>
      let k := min bs.length (128 - pa % 128)
      State.paWrite (s.memWriteAt pa (bs.take k) [] 1) fuel (pa + k) (bs.drop k)

/-- A write of physical bytes tells those who keep copies of them or watch them by IA: far copies, queue watchers, the Cairn (R71, R78,
R194). -/
def State.paSeen (s : State) (pa n : Nat) : State :=
  let hits := fun (p ia len : Nat) => match (s.walk p ia false).2 with
    | .ok x => !x.host && decide (x.pa < pa + n) && decide (pa < x.pa + len)
    | _ => false
  let s' := { s with far := s.far.map (fun (f : FarCopy) => if hits f.part f.ia 128 then { f with stale := true } else f) }
  s'.parts.foldl (fun (s : State) (e : Nat × Part) =>
    let s := e.2.lqs.foldl (fun s q => if q.2.en && hits e.1 q.2.lineIa 8 then s.notifyQueues e.1 q.2.lineIa 8 else s) s
    e.2.cairn.unexpected.foldl (fun s m =>
      let ia := e.2.cairn.entryIa m.entry
      if hits e.1 ia 32 then s.queueHit { part := e.1 } ia 32 else s) s) s'

/-- Where a function's BAR2 offset leads: a physical address for the PF, a VA for a VF. -/
def State.bar2Addr (s : State) (fn : Fn) (off : Nat) : Nat := off + (mget 0 s.b2off (fnIndex fn)).toNat

/-- BAR2_WRITE (R72). A part that meets a write-protected page is held there (R216), and what comes after it behind it. -/
def execBar2Write (s : State) : Host.Outcome State Fault Refusal :=
  let fn := s.args.fn
  let bs := s.args.data
  let a := s.bar2Addr fn s.args.off
  if !s.pkg.ready then .next (s.unsupported fn s.args.off)
  else match fn with
    | .pf => if a + bs.length ≤ memEnd then .next (((s.flushPa a bs.length).paWrite (bs.length + 1) a bs).paSeen a bs.length) else .next (s.hostAnswer fn none)
    | .vf p =>
      match (s.part p).hostRange { wr := true } (bs.length + 1) (vaMod a) bs.length with
      | none => .next (s.hostAnswer fn none)
      | some l =>
        let r := l.foldl (fun (acc : State × List Byte × Bool) x =>
          if acc.2.2 then acc
          else
            let r := acc.1.hostWrite p x.1 x.2.1 (acc.2.1.take x.2.2)
            (r.1, acc.2.1.drop x.2.2, !r.2)) (s, bs, false)
        .next (if r.2.2 then r.1.hostAnswer fn none else r.1)

/-- BAR2_READ (R72): it waits until earlier writes of the function have been performed. An access of the PF past the end of storage, and
one of a VF that misses, completes with Unsupported Request; a VF's offset is taken modulo 2^57 (log 129). -/
def execBar2Read (s : State) : Host.Outcome State Fault Refusal :=
  let fn := s.args.fn
  let n := s.args.n
  let a := s.bar2Addr fn s.args.off
  if !s.pkg.ready then .next (s.unsupported fn s.args.off)
  else match fn with
    | .pf =>
      if a + n ≤ memEnd then
        let (s, bs) := (s.flushPa a n).paRead (n + 1) a n []
        .next (s.hostAnswer fn (some bs))
      else .next (s.hostAnswer fn none)
    | .vf p => .next (s.hostRead p (vaMod a) n)

/-! ### Far copies and priorities -/

/-- FAR_COPY_INVALIDATION (R194): the invalidation of the copies of a line that a write has made stale lands; `line` is its
IA. -/
def execFarCopyInvalidation (s : State) : Host.Outcome State Fault Refusal :=
  .next { s with far := s.far.filter (fun f => !(f.stale && f.part == s.args.part && f.ia == s.args.line)) }

/-- EVICT_LAST_DEMOTION (R171): one cache demotes its evict-last lines to normal. -/
def execEvictLastDemotion (s : State) : Host.Outcome State Fault Refusal :=
  let demote := fun (ls : List Line) (mine : Line → Bool) => ls.map (fun l => if mine l && l.prio == 2 then { l with prio := 1 } else l)
  match s.args.cache with
  | .l1 c => .next ((s.touchChan (coreMark c)).setCore c { s.core c with l1 := demote (s.core c).l1 (fun _ => true) })
  | .l2 k => .next { s.touchChan (sliceMark k) with l2 := demote s.l2 (fun l => homeSlice l.ia == k) }

end Sys2Proof.Machine
end

