-- ==== Sys2Proof/Machine/Registers.lean ====
section
/-! DEFINITION. The BAR0 register map (R18, R23, R30, R32, R39, R46, R50, R51, R52, R55, R71 to R73, R77, R98, R106, R161, R190,
R208, R211, R215, R346): what a host access of a register reads and does. -/

namespace Sys2Proof.Machine

/-- Bits hi down to lo of a register, as a mask. -/
def regBits (hi lo : Nat) : Dword := d64 (2 ^ (hi + 1) - 2 ^ lo)

/-- Where a BAR0 offset lies. -/
inductive Place where
  | hstat | rstctl | b2off
  /-- partition block at 0x3000, its part from +0x200 on, task queue controls, range registers, Cairn block, launch queue -/
  | part (p r : Nat)
  | ext (p r : Nat)
  | tqctl (p q : Nat)
  | range (p n r : Nat)
  | cairn (p r : Nat)
  | lq (p q r : Nat)
  | mgs (n : Nat)
  | missed (i : Nat)
  | mc (r : Nat)
  | cap (n : Nat)
  | port (p i : Nat)
  | drank
  | pjob (p : Nat)
  | kwrec (b : Nat)
  | kwctl | kwst
  | ckpt (r : Nat)
  | mcg (g r : Nat)
  | crbuf (g r : Nat)
  | none
  deriving DecidableEq, Repr

/-- The register an offset names; `r` keeps the offset inside a block. -/
def placeAt (off : Nat) : Place :=
  if off = 0x1000 then .hstat else if off = 0x1008 then .rstctl
  else if off / 8 * 8 = 0x2000 then .b2off
  else if 0x3000 ≤ off ∧ off < 0x3200 then .part ((off - 0x3000) / 0x40) (off % 0x40)
  else if 0x3200 ≤ off ∧ off < 0x3400 then .ext ((off - 0x3200) / 0x40) (off % 0x40)
  else if 0x5000 ≤ off ∧ off < 0x5200 then .tqctl ((off - 0x5000) / 0x40) (off % 0x40 / 4)
  else if 0x6000 ≤ off ∧ off < 0x8000 then (if off % 0x400 < 0x200 then .range ((off - 0x6000) / 0x400) (off % 0x400 / 0x20) (off % 0x20) else .none)
  else if 0x10000 ≤ off ∧ off < 0x10F00 then .mgs ((off - 0x10000) / 4)
  else if 0x11000 ≤ off ∧ off < 0x11608 then .missed ((off - 0x11000) / 4)
  else if 0x12000 ≤ off ∧ off < 0x1200C then .mc (off - 0x12000)
  else if 0x20000 ≤ off ∧ off < 0x24000 then .cap ((off - 0x20000) / 4)
  else if 0x24000 ≤ off ∧ off < 0x24480 then .port ((off - 0x24000) / 16) (off % 16 / 4)
  else if off = 0x25000 then .drank
  else if 0x25010 ≤ off ∧ off < 0x25030 then .pjob ((off - 0x25010) / 4)
  else if 0x25100 ≤ off ∧ off < 0x251C0 then .kwrec (off - 0x25100)
  else if off = 0x251C0 then .kwctl else if off = 0x251C4 then .kwst
  else if 0x26000 ≤ off ∧ off < 0x26010 then .ckpt (off - 0x26000)
  else if 0x28000 ≤ off ∧ off < 0x30000 then .mcg ((off - 0x28000) / 8) (off % 8)
  else if 0x30000 ≤ off ∧ off < 0x30200 then .cairn ((off - 0x30000) / 0x40) (off % 0x40)
  else if 0x40000 ≤ off ∧ off < 0x44000 then .lq ((off - 0x40000) / 0x800) (off % 0x800 / 0x20) (off % 0x20)
  else if 0x60000 ≤ off ∧ off < 0x68000 then .crbuf ((off - 0x60000) / 8) (off % 8)
  else .none

/-- Whether the register is 64 bits wide. -/
def Place.is64 : Place → Bool
  | .b2off => true
  | .part _ r => r / 8 * 8 == 0x10 || r / 8 * 8 == 0x20 || r / 8 * 8 == 0x30 || r / 8 * 8 == 0x38
  | .ext _ r => r / 8 * 8 != 0x18
  | .range _ _ r => decide (r < 0x18)
  | .cairn _ r => r / 8 * 8 == 0 || r / 8 * 8 == 0x10 || r / 8 * 8 == 0x38
  | .lq _ _ r => decide (r < 0x10)
  | .ckpt r => decide (r < 8)
  | .mcg _ _ => true
  | .crbuf _ _ => true
  | _ => false

/-- Whether a function may read, and write, the register at all (R72 and the maps). -/
def Place.mayRead (fn : Fn) : Place → Bool
  | .hstat => true
  | .rstctl => true
  | .b2off => true
  | .part p _ => mayWrite fn p
  | .tqctl p _ => mayWrite fn p
  | .ext p _ => mayWrite fn p
  | .range p _ _ => mayWrite fn p
  | .lq p _ _ => mayWrite fn p
  | _ => fn == .pf
def Place.mayChange (fn : Fn) : Place → Bool
  | .part p r => if r = 0 || r / 8 * 8 = 0x10 || r / 8 * 8 = 0x20 || r = 0x28 || r = 0x2C || r / 8 * 8 = 0x30 || r / 8 * 8 = 0x38 then fn == .pf else mayWrite fn p
  | .tqctl p _ => mayWrite fn p
  | .ext p r => if r < 8 then fn == .pf else mayWrite fn p
  | .lq p _ _ => mayWrite fn p
  | _ => fn == .pf

/-! ### Reading -/

/-- HSTAT (R18). -/
def Pkg.hstat (k : Pkg) : Dword :=
  let b := fun (x : Bool) (i : Nat) => if x then 2 ^ i else 0
  d64 (b k.ready 0 + b k.hbmtr 1 + b k.sadtr 2 + b k.imgok 3 + b k.idok 4 + b k.recov 5 + k.lastrst % 4 * 64 + b k.imgslot 8 +
    (match k.throt with | .none => 0 | .power => 1 | .temperature => 2 | .droop => 3) * 512)

/-- The value of a register, whole (R39, R50: write-only fields read 0). `id` is the function whose B2OFF is meant. -/
def State.regValue (s : State) (id : Nat) : Place → Dword
  | .hstat => s.pkg.hstat
  | .rstctl => 0
  | .b2off => mget 0 s.b2off id
  | .part p r =>
    let x := s.part p
    if r = 0 then d64 (x.units.toNat + x.rwpmax.toNat * 256 + (if x.userrw then 2048 else 0) + (if x.shen then 4096 else 0))
    else if r = 8 then d64 x.st else if r = 0xC then d64 x.kvrs.toNat else if r / 8 * 8 = 0x10 then x.psave
    else if r = 0x18 then d64 x.pfrc.toNat else if r = 0x1C then d64 x.pjerr.toNat else if r / 8 * 8 = 0x20 then x.ptmb
    else if r = 0x28 then d64 x.ptms else if r = 0x2C then d64 x.kvtn.toNat else if r / 8 * 8 = 0x30 then x.kvtb
    else if r / 8 * 8 = 0x38 then x.kvgb else 0
  | .tqctl p q => d64 (mget 0 (s.part p).tqBound q)
  | .range p n r =>
    let g := mget {} (s.part p).ranges n
    match r / 8 with | 0 => g.base | 1 => g.lim | 2 => g.off | _ => if r = 0x18 then d64 g.attr.toNat else 0
  | .ext p r =>
    let x := s.part p
    match r / 8 with
    | 0 => x.ptbr | 1 => x.ptvb | 2 => x.fqbase | 3 => if r = 0x18 then d64 x.fqcfg.toNat else 0
    | 4 => x.fqw | 5 => x.fqr | _ => 0
  | .cairn p r =>
    let k := s.cairn p
    if r = 0x20 then boolD k.enabled else if r = 0x24 then d64 k.unexpected.length
    else mget 0 k.regs (if r / 8 * 8 = 0 || r / 8 * 8 = 0x10 || r / 8 * 8 = 0x38 then r / 8 * 8 else r)
  | .lq p q r =>
    let x := s.lq p q
    if r < 8 then x.ring else if r < 0x10 then x.line
    else if r = 0x10 then d64 (x.log2n + (if x.en then 32 else 0)) else if r = 0x14 then d64 (x.state + 4 * x.code) else 0
  | .mgs n => d64 (mget 0 s.hbm.mgs n)
  | .missed i => d64 (mget 0 s.hbm.missed i)
  | .mc r =>
    let ch := s.hbm.mcsel.toNat % 512
    let bank := nbits s.hbm.mcsel.toNat 9 7
    if r = 0 then d64 s.hbm.mcsel.toNat
    else if 384 ≤ ch then 0
    else if r = 4 then (if 48 ≤ bank then 0 else d64 (mget 0 s.hbm.mcref (ch * 48 + bank)))
    else d64 (mget 0 s.hbm.mcfab ch)
  | .cap n => d64 (mget 0 s.fab.capRows n)
  | .port p i =>
    let x := s.fab.port p
    d64 ((match i with | 0 => x.tagfail | 1 => x.kdrop | 2 => x.badpkt | _ => x.late).toNat)
  | .drank => d64 s.fab.drank
  | .pjob p => match mfind s.fab.pjob p with | some (j, v) => d64 (j + (if v then 4096 else 0)) | none => 0
  | .kwrec _ => 0
  | .kwctl => 0
  | .kwst => d64 (s.fab.kwState + 4 * s.fab.kwCode)
  | .ckpt r => if r < 8 then s.fab.ckptDesc else if r = 0xC then d64 (s.fab.ckptState + 4 * s.fab.ckptCode) else 0
  | .mcg g _ => let u := s.fab.coll g; d64 (u.count + u.index * 4096 + (if u.valid then 2 ^ 24 else 0))
  | .crbuf g _ => let u := s.fab.coll g; d64 (u.base * 64 + u.bank * 2 ^ 52)
  | .none => 0

/-- A 32-bit piece of BAR0 as a function reads it: 0 before READY, but for HSTAT, and where the function may not read (R17, R72). -/
def State.regWord (s : State) (fn : Fn) (off : Nat) : Nat :=
  let pl := placeAt off
  if !pl.mayRead fn || (!s.pkg.ready && pl != .hstat) then 0
  else
    let v := (s.regValue (fnIndex fn) pl).toNat
    if pl.is64 && off % 8 = 4 then v / 2 ^ 32 else v % 2 ^ 32

/-- What a read of BAR0 returns; in recovery mode only HSTAT answers (R13). -/
def State.regRead (s : State) (fn : Fn) (off : Nat) (wide : Bool) : Option Dword :=
  if s.pkg.recov && placeAt off != .hstat then none
  else some (d64 (s.regWord fn off + (if wide then s.regWord fn (off + 4) * 2 ^ 32 else 0)))

/-! ### Writing -/

/-- The partition block (R73, R106, R161, R190). -/
def Part.writeReg (x : Part) (r : Nat) (v : Dword) : Part :=
  let n := v.toNat
  if r = 0 then
    { x with units := if x.st = 0 then BitVec.ofNat 8 n else x.units, rwpmax := BitVec.ofNat 3 (n / 256), userrw := nbit n 11, shen := nbit n 12 }
  else if r = 0xC then { x with kvrs := 0 }
  else if r / 8 * 8 = 0x10 then { x with psave := v &&& regBits 51 12 }
  else if r = 0x18 then { x with pfrc := 0 }
  else if r = 0x1C then { x with pjerr := 0 }
  else if r / 8 * 8 = 0x20 then { x with ptmb := v &&& regBits 56 7 }
  else if r = 0x28 then { x with ptms := n % 32768 }
  else if r = 0x2C then { x with kvtn := w32 (n % 2 ^ 21) }
  else if r / 8 * 8 = 0x30 then { x with kvtb := v &&& regBits 56 12 }
  else if r / 8 * 8 = 0x38 then { x with kvgb := v &&& regBits 51 12 }
  else x

/-- Range registers (R208): only while STATE is 0, 3 or 4. -/
def State.rangeWrite (s : State) (p n r : Nat) (v : Dword) : State :=
  let x := s.part p
  if x.st != 0 && x.st != 3 && x.st != 4 then s
  else
    let g := mget {} x.ranges n
    let g := match r / 8 with
      | 0 => { g with base := v &&& regBits 56 16 }
      | 1 => { g with lim := v &&& regBits 56 16 }
      | 2 => { g with off := v &&& regBits 51 16 }
      | _ => if r = 0x18 then { g with attr := w32 (v.toNat % 32) } else g
    s.setPart p { x with ranges := mput x.ranges n g }

/-- The partition block from +0x200 on (R211, R215, R221). -/
def State.extWrite (s : State) (p r : Nat) (v : Dword) : State :=
  let x := s.part p
  match r / 8 with
  | 0 => s.setPart p { x with ptbr := v &&& regBits 39 16 }
  | 1 => s.setPart p { x with ptvb := v &&& regBits 56 12 }
  | 2 => s.setPart p { x with fqbase := v &&& regBits 51 5 }
  | 3 => if r = 0x18 then s.setPart p { x with fqcfg := w32 (v.toNat % 16) } else s
  | 5 => s.fqrWrite p v
  | 6 => s.fqresWrite p v
  | _ => s

/-- The Cairn block (R71). -/
def State.cairnWrite (s : State) (p r : Nat) (v : Dword) : State :=
  let k := s.cairn p
  let set := fun (off : Nat) (mask : Dword) => if k.enabled then s else s.onCairn p (fun k => k.setReg off (v &&& mask))
  if r / 8 * 8 = 0 then set 0 (regBits 51 16)
  else if r = 0x08 then set 0x08 (regBits 14 0)
  else if r / 8 * 8 = 0x10 then set 0x10 (regBits 51 12)
  else if r = 0x18 then set 0x18 (regBits 20 0)
  else if r = 0x1C then set 0x1C (regBits 16 0)
  else if r = 0x20 then (if v.getLsbD 0 then s.cairnEnable p else s.onCairn p Cairn.clear)
  else if r = 0x28 || r = 0x2C || r = 0x30 then s.onCairn p (fun k => k.setReg r 0)
  else if r / 8 * 8 = 0x38 then set 0x38 (regBits 51 23)
  else s

/-- A launch queue's registers (R77). -/
def State.lqWrite (s : State) (p q r : Nat) (v : Dword) : State :=
  let x := s.lq p q
  if r < 8 then (if x.en then s else s.setLq p q { x with ring := v &&& regBits 56 7 })
  else if r < 0x10 then (if x.en then s else s.setLq p q { x with line := v &&& regBits 51 6 })
  else if r = 0x10 then
    let on := v.getLsbD 5
    let s := if x.en then s else s.setLq p q { x with log2n := v.toNat % 32 }
    if on && !x.en then s.lqEnable p q else if !on then s.lqDisable p q else s
  else s

/-- A write of a register, whole (R72 and the register maps); fields that are read-only or reserved keep their value. `cut` is how far a
write-back that it cuts short has come (R15). A write of CKPTCTL that sets GO and ABORT starts a checkpoint and then aborts it (R55, log
138). -/
def State.regSet (s : State) (fn : Fn) (id : Nat) (idOk : Bool) (cut : Nat) (v : Dword) : Place → State
  | .rstctl => match v.toNat % 4 with | 1 => s.orderly (.reg fn) idOk | 2 => s.forced (.reg fn) idOk cut | _ => s
  | .b2off => { s with b2off := mput s.b2off id (v &&& regBits 63 12) }
  | .part p r =>
    if r = 4 then
      match v.toNat % 8 with
      | 1 => s.formPart p | 2 => s.haltPart p | 3 => s.resumePart p | 4 => s.dissolvePart p | 5 => s.swapOutPart p | _ => s
    else s.setPart p ((s.part p).writeReg r v)
  | .tqctl p q => let x := s.part p; s.setPart p { x with tqBound := mput x.tqBound q (v.toNat % 65536) }
  | .ext p r => s.extWrite p r v
  | .range p n r => s.rangeWrite p n r v
  | .cairn p r => s.cairnWrite p r v
  | .lq p q r => s.lqWrite p q r v
  | .mgs n => { s with hbm := { s.hbm with mgs := mput s.hbm.mgs n (v.toNat % 8) } }
  | .missed i => { s with hbm := { s.hbm with missed := mput s.hbm.missed i 0 } }
  | .mc r =>
    let ch := s.hbm.mcsel.toNat % 512
    let bank := nbits s.hbm.mcsel.toNat 9 7
    if r = 0 then { s with hbm := { s.hbm with mcsel := w32 (v.toNat % 65536) } }
    else if 384 ≤ ch then s
    else if r = 4 then (if 48 ≤ bank then s else { s with hbm := { s.hbm with mcref := mput s.hbm.mcref (ch * 48 + bank) 0 } })
    else { s with hbm := { s.hbm with mcfab := mput s.hbm.mcfab ch 0 } }
  | .cap n => { s with fab := { s.fab with capRows := mput s.fab.capRows n (v.toNat % 2 ^ 22) } }
  | .port p i =>
    let x := s.fab.port p
    { s with fab := s.fab.setPort p (match i with
        | 0 => { x with tagfail := 0 } | 1 => { x with kdrop := 0 } | 2 => { x with badpkt := 0 } | _ => { x with late := 0 }) }
  | .drank => if s.fab.pjob.any (fun e => e.2.2) then s else { s with fab := { s.fab with drank := v.toNat % 4096 } }
  | .pjob p =>
    let old := mget (0, false) s.fab.pjob p
    { s with fab := { s.fab with pjob := mput s.fab.pjob p (if old.2 then old.1 else v.toNat % 4096, v.getLsbD 12) } }
  | .kwctl => if v.getLsbD 0 then s.keyGo (memBytes s.fab.kwrec 0 192) false else s
  | .ckpt r =>
    if r < 8 then { s with fab := { s.fab with ckptDesc := v } }
    else if r = 8 then
      let s := if v.getLsbD 0 then s.ckptGo else s
      if v.getLsbD 1 then s.ckptAbort else s
    else s
  | .mcg g _ => s.mcgWrite g v
  | .crbuf g _ => if (s.fab.coll g).valid then s else s.onColl g (fun u => { u with base := nbits v.toNat 6 46 })
  | _ => s

/-- A 32-bit write: of a 32-bit register, of half a 64-bit one, which keeps its other half, or of bytes of KWREC. -/
def State.regWrite32 (s : State) (fn : Fn) (id : Nat) (idOk : Bool) (cut off n : Nat) : State :=
  let pl := placeAt off
  if !pl.mayChange fn then s
  else match pl with
    -- MCG holds nothing above bit 24: a write of its upper half writes nothing (R46)
    | .mcg g r => if r < 4 then s.mcgWrite g (d64 n) else s
    | .kwrec b => { s with fab := { s.fab with kwrec := memWrite s.fab.kwrec b (leBytes 4 n) } }
    | _ =>
      if pl.is64 then
        let old := (s.regValue id pl).toNat
        s.regSet fn id idOk cut (d64 (if off % 8 = 4 then old % 2 ^ 32 + n * 2 ^ 32 else old / 2 ^ 32 * 2 ^ 32 + n)) pl
      else s.regSet fn id idOk cut (d64 n) pl

/-- A write of BAR0, of 4 bytes or of 8 (R18, R72). In recovery mode no register but HSTAT answers (R13). -/
def State.regWrite (s : State) (fn : Fn) (id : Nat) (idOk : Bool) (cut off : Nat) (wide : Bool) (v : Dword) : State :=
  let pl := placeAt off
  if s.pkg.recov && pl != .hstat then s.postMgmt (.unsupported (fnIndex fn) off)
  else
    if wide && pl.is64 && off % 8 = 0 then (if pl.mayChange fn then s.regSet fn id idOk cut v pl else s)
    else
      let s := s.regWrite32 fn id idOk cut off (v.toNat % 2 ^ 32)
      if wide then s.regWrite32 fn id idOk cut (off + 4) (v.toNat / 2 ^ 32) else s

/-- REGISTER_WRITE (R72). -/
def execRegisterWrite (s : State) : Host.Outcome State Fault Refusal :=
  .next (s.regWrite s.args.fn s.args.id s.args.idOk s.args.n (s.args.off / 4 * 4) s.args.wide s.args.v)

end Sys2Proof.Machine
end

