-- ==== Sys2Proof/Machine/Turn.lean ====
section
/-! DEFINITION. The turns of the schedule that are no issue and no event (log 1), and placing a word for the next step. -/

namespace Sys2Proof.Machine

/-- Whether an instruction is an event of the device: it has no word. -/
def isEvent (i : Instr) : Bool := (encode i).isNone

/-- Whether a turn is a cold reset, the one thing that moves a device whose clocks are stopped (R8). -/
def Turn.isColdReset : Turn → Bool
  | .event .coldReset _ => true
  | _ => false

/-- Time passes: the device time base, and CHLD of the partitions that hold the message channel (R27, R71). Messages held at a channel
that is free again go on (R65). -/
def State.tickOn (s : State) (n : Nat) : State :=
  let s := s.takeHeld
  { s with pkg := { s.pkg with tick := s.pkg.tick + n },
           parts := s.parts.map (fun e => (e.1, if e.2.cairn.held then { e.2 with cairn := e.2.cairn.count 0x2C n } else e.2)) }

/-! ### Self-test windows (R10) -/

/-- Whether a turn has reached a memory channel, an L2 slice, the saddle links or a core that it places on or moves, while a self-test holds
them out of service. -/
def State.reachedOut (t : State) (windows : List Resource) : Bool :=
  windows.any (fun r => match r with
    | .hbmRow g _ => t.hbm.touched.contains g
    | .l2Row k _ => t.hbm.touched.contains (sliceMark k)
    | .saddleLane _ => t.hbm.touched.contains saddleMark
    | .sramRow c _ => t.hbm.touched.contains (coreMark c)
    | _ => false)

/-- Whether a self-test holds a core's SRAM out of service: its quarters do not issue, its operations wait. -/
def State.coreOut (s : State) (c : Nat) : Bool := s.pkg.windows.any (fun r => match r with | .sramRow d _ => d == c | _ => false)

/-- Events that act on a core's local memory, caches or registers. -/
def isCoreEvent : Instr → Bool
  | .operationComplete | .groupRetire | .windowTimeout | .engineCommandStart | .engineCommandComplete | .taskDispatch | .taskStart => true
  | _ => false

/-- The port on which an event brings a packet. -/
def Turn.arrivesOn : Turn → Option Nat
  | .event i a => match i with
    | .rd | .wr | .wrm | .atomRequest | .pwr | .mcw | .msge | .msgh | .fin | .rsp => some a.port
    | _ => none
  | _ => none
/-- What keeps turns in order: packets that arrive on one port (R44, R58), and BAR accesses of one function (R72). -/
def Turn.line (t : Turn) : Option Nat :=
  match t with
  | .event i a => match i with
    | .bar2Write | .bar2Read | .registerWrite => some (100 + fnIndex a.fn)
    | _ => t.arrivesOn
  | _ => none
/-- A turn that stalls comes again after the others, but before those that come behind it in its order. -/
def State.comeAgain (s : State) (t : Turn) : State :=
  let behind := fun (u : Turn) => t.line.isSome && u.line == t.line
  { s with turns := s.turns.filter (fun u => !behind u) ++ t :: s.turns.filter behind }

/-- A turn stalls where it would reach a resource that is out of service: `again` is then the state, and nothing is lost (R10, log
100). -/
def State.guarded (s : State) (again : State) (go : State → Host.Outcome State Fault Refusal) : Host.Outcome State Fault Refusal :=
  if s.pkg.windows.isEmpty then go s
  else match go { s with hbm := { s.hbm with touched := [] } } with
    | .next t => .next (if t.reachedOut s.pkg.windows then again else { t with hbm := { t.hbm with touched := [] } })
    | r => r

/-- An operation ahead of its completion, time, host software's own memory, and clock cycles of a core. -/
def State.otherTurn (s : State) : Turn → State
  | .perform c sl seq => s.performSeq c sl seq
  | .ticks n => s.tickOn n
  | .host addr bs => { s with hostMem := memWrite s.hostMem addr bs }
  | .cycles c n => s.cycle c n
  | _ => s

/-- A group of one unit at address 0 in core 0, slot 0, and segment 0 resident with a word at its start: what a step needs to
fetch and run that word. -/
def State.placeWord (s : State) (nbits w : Nat) : State :=
  let k := s.core 0
  let g : Group := { holder := .group, team := [0], iunits := [{ }], itGens := [] }
  let f : Frame := { seg := 0, part := 0, code := codeCells (leBytes 4 (w % 2 ^ nbits)) }
  let k := { k with groups := mput k.groups 0 g, frames := f :: k.frames.filter (fun x => !(x.part == 0 && x.seg == 0)) }
  let k := k.setQuarter 0 { k.quarter 0 with cur := some (0, 0) }
  { s.setCore 0 k with turns := [], focus := (0, 0), pkg := { s.pkg with clocksStopped := false } }

end Sys2Proof.Machine
end

