-- ==== Sys2Proof/Machine/Dispatch.lean ====
section
/-! DEFINITION. The dispatch of every instruction and event to its meaning. -/

namespace Sys2Proof.Machine

def exec (ins : Instr) (st : State) : Host.Outcome State Fault Refusal :=
  match ins with
  | .nop e => Sys2Proof.Machine.execNop e st
  | .hintIl e i => Sys2Proof.Machine.execHintIl e i st
  | .hintIh e i => Sys2Proof.Machine.execHintIh e i st
  | .hintRnd e x n m => Sys2Proof.Machine.execHintRnd e x n m st
  | .hintMo e s o => Sys2Proof.Machine.execHintMo e s o st
  | .hintCp e d k p => Sys2Proof.Machine.execHintCp e d k p st
  | .hintAo e o => Sys2Proof.Machine.execHintAo e o st
  | .hintRw e => Sys2Proof.Machine.execHintRw e st
  | .sadd e w d a b => Sys2Proof.Machine.execSadd e w d a b st
  | .ssub e w d a b => Sys2Proof.Machine.execSsub e w d a b st
  | .smul e w d a b => Sys2Proof.Machine.execSmul e w d a b st
  | .smulh e w d a b => Sys2Proof.Machine.execSmulh e w d a b st
  | .sand e w d a b => Sys2Proof.Machine.execSand e w d a b st
  | .sor e w d a b => Sys2Proof.Machine.execSor e w d a b st
  | .sxor e w d a b => Sys2Proof.Machine.execSxor e w d a b st
  | .sandn e w d a b => Sys2Proof.Machine.execSandn e w d a b st
  | .sshl e w d a b => Sys2Proof.Machine.execSshl e w d a b st
  | .sshr e w d a b => Sys2Proof.Machine.execSshr e w d a b st
  | .ssra e w d a b => Sys2Proof.Machine.execSsra e w d a b st
  | .smin e w d a b => Sys2Proof.Machine.execSmin e w d a b st
  | .smax e w d a b => Sys2Proof.Machine.execSmax e w d a b st
  | .sminu e w d a b => Sys2Proof.Machine.execSminu e w d a b st
  | .smaxu e w d a b => Sys2Proof.Machine.execSmaxu e w d a b st
  | .sclz e w d a => Sys2Proof.Machine.execSclz e w d a st
  | .saddi e w d a i => Sys2Proof.Machine.execSaddi e w d a i st
  | .sandi e w d a i => Sys2Proof.Machine.execSandi e w d a i st
  | .sori e w d a i => Sys2Proof.Machine.execSori e w d a i st
  | .sxori e w d a i => Sys2Proof.Machine.execSxori e w d a i st
  | .sshli e w d a c => Sys2Proof.Machine.execSshli e w d a c st
  | .sshri e w d a c => Sys2Proof.Machine.execSshri e w d a c st
  | .ssrai e w d a c => Sys2Proof.Machine.execSsrai e w d a c st
  | .sroti e w d a c => Sys2Proof.Machine.execSroti e w d a c st
  | .scmp e w d a b c => Sys2Proof.Machine.execScmp e w d a b c st
  | .smov e w d a => Sys2Proof.Machine.execSmov e w d a st
  | .sfromv e w d a b => Sys2Proof.Machine.execSfromv e w d a b st
  | .ssel e w d a b => Sys2Proof.Machine.execSsel e w d a b st
  | .sext e w d a b => Sys2Proof.Machine.execSext e w d a b st
  | .spopc e w d a => Sys2Proof.Machine.execSpopc e w d a st
  | .br e p => Sys2Proof.Machine.execBr e p st
  | .call e p => Sys2Proof.Machine.execCall e p st
  | .brc e c r p => Sys2Proof.Machine.execBrc e c r p st
  | .brvAny e t r p => Sys2Proof.Machine.execBrvAny e t r p st
  | .brvAll e t r p => Sys2Proof.Machine.execBrvAll e t r p st
  | .jmpr e r p => Sys2Proof.Machine.execJmpr e r p st
  | .callr e r p => Sys2Proof.Machine.execCallr e r p st
  | .ret e r => Sys2Proof.Machine.execRet e r st
  | .jmpf e r p => Sys2Proof.Machine.execJmpf e r p st
  | .callf e r p => Sys2Proof.Machine.execCallf e r p st
  | .loop e r p => Sys2Proof.Machine.execLoop e r p st
  | .regang e => Sys2Proof.Machine.execRegang e st
  | .safe e s u => Sys2Proof.Machine.execSafe e s u st
  | .exit e => Sys2Proof.Machine.execExit e st
  | .trap e v => Sys2Proof.Machine.execTrap e v st
  | .lbrk e => Sys2Proof.Machine.execLbrk e st
  | .yield e => Sys2Proof.Machine.execYield e st
  | .emset e n => Sys2Proof.Machine.execEmset e n st
  | .emsave e n => Sys2Proof.Machine.execEmsave e n st
  | .emload e n => Sys2Proof.Machine.execEmload e n st
  | .cfetch e r p => Sys2Proof.Machine.execCfetch e r p st
  | .smovi e w d i => Sys2Proof.Machine.execSmovi e w d i st
  | .vadd e w d a b => Sys2Proof.Machine.execVadd e w d a b st
  | .vsub e w d a b => Sys2Proof.Machine.execVsub e w d a b st
  | .vmul e w d a b => Sys2Proof.Machine.execVmul e w d a b st
  | .vmulh e w d a b => Sys2Proof.Machine.execVmulh e w d a b st
  | .vmad e w d a b => Sys2Proof.Machine.execVmad e w d a b st
  | .vabsd e w d a b => Sys2Proof.Machine.execVabsd e w d a b st
  | .vmin e w d a b => Sys2Proof.Machine.execVmin e w d a b st
  | .vmax e w d a b => Sys2Proof.Machine.execVmax e w d a b st
  | .vminu e w d a b => Sys2Proof.Machine.execVminu e w d a b st
  | .vmaxu e w d a b => Sys2Proof.Machine.execVmaxu e w d a b st
  | .vand e w d a b => Sys2Proof.Machine.execVand e w d a b st
  | .vor e w d a b => Sys2Proof.Machine.execVor e w d a b st
  | .vxor e w d a b => Sys2Proof.Machine.execVxor e w d a b st
  | .vandn e w d a b => Sys2Proof.Machine.execVandn e w d a b st
  | .vshl e w d a b => Sys2Proof.Machine.execVshl e w d a b st
  | .vshr e w d a b => Sys2Proof.Machine.execVshr e w d a b st
  | .vsra e w d a b => Sys2Proof.Machine.execVsra e w d a b st
  | .vclz e w d a b => Sys2Proof.Machine.execVclz e w d a b st
  | .vpopc e w d a b => Sys2Proof.Machine.execVpopc e w d a b st
  | .vbrev e w d a b => Sys2Proof.Machine.execVbrev e w d a b st
  | .vsel e w d a b => Sys2Proof.Machine.execVsel e w d a b st
  | .vmov e w d a b => Sys2Proof.Machine.execVmov e w d a b st
  | .vmulhu e w d a b => Sys2Proof.Machine.execVmulhu e w d a b st
  | .vbfe e w d a b => Sys2Proof.Machine.execVbfe e w d a b st
  | .vaddi e w d a i => Sys2Proof.Machine.execVaddi e w d a i st
  | .vandi e w d a i => Sys2Proof.Machine.execVandi e w d a i st
  | .vori e w d a i => Sys2Proof.Machine.execVori e w d a i st
  | .vxori e w d a i => Sys2Proof.Machine.execVxori e w d a i st
  | .vshli e w d a i => Sys2Proof.Machine.execVshli e w d a i st
  | .vshri e w d a i => Sys2Proof.Machine.execVshri e w d a i st
  | .vsrai e w d a i => Sys2Proof.Machine.execVsrai e w d a i st
  | .vroti e w d a i => Sys2Proof.Machine.execVroti e w d a i st
  | .vcmp e w d a b c => Sys2Proof.Machine.execVcmp e w d a b c st
  | .fadd e w d a b => Sys2Proof.Machine.execFadd e w d a b st
  | .fsub e w d a b => Sys2Proof.Machine.execFsub e w d a b st
  | .fmul e w d a b => Sys2Proof.Machine.execFmul e w d a b st
  | .ffma e w d a b => Sys2Proof.Machine.execFfma e w d a b st
  | .fmin e w d a b => Sys2Proof.Machine.execFmin e w d a b st
  | .fmax e w d a b => Sys2Proof.Machine.execFmax e w d a b st
  | .fabs e w d a b => Sys2Proof.Machine.execFabs e w d a b st
  | .fneg e w d a b => Sys2Proof.Machine.execFneg e w d a b st
  | .fceq e w d a b => Sys2Proof.Machine.execFceq e w d a b st
  | .fclt e w d a b => Sys2Proof.Machine.execFclt e w d a b st
  | .fcle e w d a b => Sys2Proof.Machine.execFcle e w d a b st
  | .fcun e w d a b => Sys2Proof.Machine.execFcun e w d a b st
  | .fcpysgn e w d a b => Sys2Proof.Machine.execFcpysgn e w d a b st
  | .fclass e w d a b => Sys2Proof.Machine.execFclass e w d a b st
  | .fscale e w d a b => Sys2Proof.Machine.execFscale e w d a b st
  | .frnd e w d a b => Sys2Proof.Machine.execFrnd e w d a b st
  | .cvt e w d a t s m => Sys2Proof.Machine.execCvt e w d a t s m st
  | .pk2 e w d a b => Sys2Proof.Machine.execPk2 e w d a b st
  | .pk4 e w d a b => Sys2Proof.Machine.execPk4 e w d a b st
  | .pk8 e w d a b => Sys2Proof.Machine.execPk8 e w d a b st
  | .upk2 e w d a b => Sys2Proof.Machine.execUpk2 e w d a b st
  | .upk4 e w d a b => Sys2Proof.Machine.execUpk4 e w d a b st
  | .upk8 e w d a b => Sys2Proof.Machine.execUpk8 e w d a b st
  | .lshfl e w d a o => Sys2Proof.Machine.execLshfl e w d a o st
  | .lbcast e w d a b => Sys2Proof.Machine.execLbcast e w d a b st
  | .lsum e w d a k => Sys2Proof.Machine.execLsum e w d a k st
  | .lmin e w d a k => Sys2Proof.Machine.execLmin e w d a k st
  | .lmax e w d a k => Sys2Proof.Machine.execLmax e w d a k st
  | .lscan e w d a k => Sys2Proof.Machine.execLscan e w d a k st
  | .lvote e w d a => Sys2Proof.Machine.execLvote e w d a st
  | .lbfly e w d a o => Sys2Proof.Machine.execLbfly e w d a o st
  | .rcp e d a b => Sys2Proof.Machine.execRcp e d a b st
  | .rsqrt e d a b => Sys2Proof.Machine.execRsqrt e d a b st
  | .sqrt e d a b => Sys2Proof.Machine.execSqrt e d a b st
  | .exp2 e d a b => Sys2Proof.Machine.execExp2 e d a b st
  | .log2 e d a b => Sys2Proof.Machine.execLog2 e d a b st
  | .sin e d a b => Sys2Proof.Machine.execSin e d a b st
  | .cos e d a b => Sys2Proof.Machine.execCos e d a b st
  | .tanh e d a b => Sys2Proof.Machine.execTanh e d a b st
  | .badd2 e w d a b => Sys2Proof.Machine.execBadd2 e w d a b st
  | .bmul2 e w d a b => Sys2Proof.Machine.execBmul2 e w d a b st
  | .bfma2 e w d a b => Sys2Proof.Machine.execBfma2 e w d a b st
  | .hadd2 e w d a b => Sys2Proof.Machine.execHadd2 e w d a b st
  | .hmul2 e w d a b => Sys2Proof.Machine.execHmul2 e w d a b st
  | .hfma2 e w d a b => Sys2Proof.Machine.execHfma2 e w d a b st
  | .bmax2 e w d a b => Sys2Proof.Machine.execBmax2 e w d a b st
  | .bmin2 e w d a b => Sys2Proof.Machine.execBmin2 e w d a b st
  | .vmovi e w d i => Sys2Proof.Machine.execVmovi e w d i st
  | .tmapAdd e x y z => Sys2Proof.Machine.execTmapAdd e x y z st
  | .tmapMul e x y z => Sys2Proof.Machine.execTmapMul e x y z st
  | .tmapFma e x y z => Sys2Proof.Machine.execTmapFma e x y z st
  | .tmapMax e x y z => Sys2Proof.Machine.execTmapMax e x y z st
  | .tmapCvt e x y z => Sys2Proof.Machine.execTmapCvt e x y z st
  | .tmapCpy e x y z => Sys2Proof.Machine.execTmapCpy e x y z st
  | .itset e n a => Sys2Proof.Machine.execItset e n a st
  | .ldg e d a s k => Sys2Proof.Machine.execLdg e d a s k st
  | .stg e d a s k => Sys2Proof.Machine.execStg e d a s k st
  | .ldl e d a s k => Sys2Proof.Machine.execLdl e d a s k st
  | .stl e d a s k => Sys2Proof.Machine.execStl e d a s k st
  | .ldt e d a s k => Sys2Proof.Machine.execLdt e d a s k st
  | .stt e d a s k => Sys2Proof.Machine.execStt e d a s k st
  | .ldp e d a s k => Sys2Proof.Machine.execLdp e d a s k st
  | .ldpr e d a s k => Sys2Proof.Machine.execLdpr e d a s k st
  | .stp e d a s k => Sys2Proof.Machine.execStp e d a s k st
  | .atom e d a s k => Sys2Proof.Machine.execAtom e d a s k st
  | .atoml e d a s k => Sys2Proof.Machine.execAtoml e d a s k st
  | .rld e d a s k => Sys2Proof.Machine.execRld e d a s k st
  | .rst e d a s k => Sys2Proof.Machine.execRst e d a s k st
  | .ratom e d a s k => Sys2Proof.Machine.execRatom e d a s k st
  | .fence e s o => Sys2Proof.Machine.execFence e s o st
  | .waitc e s p => Sys2Proof.Machine.execWaitc e s p st
  | .bar e => Sys2Proof.Machine.execBar e st
  | .barc e => Sys2Proof.Machine.execBarc e st
  | .cvpF32 e w d a => Sys2Proof.Machine.execCvpF32 e w d a st
  | .cvpF32m e w d a => Sys2Proof.Machine.execCvpF32m e w d a st
  | .cvpBf e w d a => Sys2Proof.Machine.execCvpBf e w d a st
  | .cvpBfm e w d a => Sys2Proof.Machine.execCvpBfm e w d a st
  | .ptrd e w d a => Sys2Proof.Machine.execPtrd e w d a st
  | .ptwr e d a => Sys2Proof.Machine.execPtwr e d a st
  | .cpf2 e a s => Sys2Proof.Machine.execCpf2 e a s st
  | .cpf1 e a s => Sys2Proof.Machine.execCpf1 e a s st
  | .cef e a s => Sys2Proof.Machine.execCef e a s st
  | .cel e a s => Sys2Proof.Machine.execCel e a s st
  | .cnm e a s => Sys2Proof.Machine.execCnm e a s st
  | .ctrim e t a s => Sys2Proof.Machine.execCtrim e t a s st
  | .cinv e a s => Sys2Proof.Machine.execCinv e a s st
  | .cwb e a s => Sys2Proof.Machine.execCwb e a s st
  | .cpyin e x y z => Sys2Proof.Machine.execCpyin e x y z st
  | .cpyout e x y z => Sys2Proof.Machine.execCpyout e x y z st
  | .cpyp e x y z => Sys2Proof.Machine.execCpyp e x y z st
  | .gath e x y z => Sys2Proof.Machine.execGath e x y z st
  | .scat e x y z => Sys2Proof.Machine.execScat e x y z st
  | .cpyc e x y z => Sys2Proof.Machine.execCpyc e x y z st
  | .cpyr e x y z => Sys2Proof.Machine.execCpyr e x y z st
  | .tbinit e s => Sys2Proof.Machine.execTbinit e s st
  | .tbarr e a s => Sys2Proof.Machine.execTbarr e a s st
  | .tbexp e a s => Sys2Proof.Machine.execTbexp e a s st
  | .tbwait e a s => Sys2Proof.Machine.execTbwait e a s st
  | .tbtest e d a s => Sys2Proof.Machine.execTbtest e d a s st
  | .mma e f x y z => Sys2Proof.Machine.execMma e f x y z st
  | .mdr e f x y z => Sys2Proof.Machine.execMdr e f x y z st
  | .wbl e f x y p => Sys2Proof.Machine.execWbl e f x y p st
  | .ttr e x y => Sys2Proof.Machine.execTtr e x y st
  | .tscale e x y => Sys2Proof.Machine.execTscale e x y st
  | .tzero e x y => Sys2Proof.Machine.execTzero e x y st
  | .tzeroAcc e x y n => Sys2Proof.Machine.execTzeroAcc e x y n st
  | .tcvt e x y => Sys2Proof.Machine.execTcvt e x y st
  | .tadd e x y => Sys2Proof.Machine.execTadd e x y st
  | .tmov e x y => Sys2Proof.Machine.execTmov e x y st
  | .pqry e x y n => Sys2Proof.Machine.execPqry e x y n st
  | .pdot e x y n => Sys2Proof.Machine.execPdot e x y n st
  | .pdotr e x y n => Sys2Proof.Machine.execPdotr e x y n st
  | .pbnd e x y n => Sys2Proof.Machine.execPbnd e x y n st
  | .selk e x y => Sys2Proof.Machine.execSelk e x y st
  | .selkx e x y => Sys2Proof.Machine.execSelkx e x y st
  | .psel e x y => Sys2Proof.Machine.execPsel e x y st
  | .lmerge e x y => Sys2Proof.Machine.execLmerge e x y st
  | .lsort e x y q => Sys2Proof.Machine.execLsort e x y q st
  | .ssrch e x y l k => Sys2Proof.Machine.execSsrch e x y l k st
  | .tspawn e d a b => Sys2Proof.Machine.execTspawn e d a b st
  | .sdec e d a => Sys2Proof.Machine.execSdec e d a st
  | .tqry e d a => Sys2Proof.Machine.execTqry e d a st
  | .fres e d a b => Sys2Proof.Machine.execFres e d a b st
  | .freg e d a b => Sys2Proof.Machine.execFreg e d a b st
  | .fget e d a b => Sys2Proof.Machine.execFget e d a b st
  | .msend e d a => Sys2Proof.Machine.execMsend e d a st
  | .mpost e d a => Sys2Proof.Machine.execMpost e d a st
  | .mprobe e d a => Sys2Proof.Machine.execMprobe e d a st
  | .mcancel e d a => Sys2Proof.Machine.execMcancel e d a st
  | .mtest e d a => Sys2Proof.Machine.execMtest e d a st
  | .mpostRa e d a => Sys2Proof.Machine.execMpostRa e d a st
  | .car e d a b => Sys2Proof.Machine.execCar e d a b st
  | .cbc e d a b => Sys2Proof.Machine.execCbc e d a b st
  | .cbar e d a => Sys2Proof.Machine.execCbar e d a st
  | .rgive e k => Sys2Proof.Machine.execRgive e k st
  | .rclaim e w d k => Sys2Proof.Machine.execRclaim e w d k st
  | .rcnt e w d => Sys2Proof.Machine.execRcnt e w d st
  | .rdsr e d n => Sys2Proof.Machine.execRdsr e d n st
  | .wrsr e a n => Sys2Proof.Machine.execWrsr e a n st
  | .sret e => Sys2Proof.Machine.execSret e st
  | .rwld e a b => Sys2Proof.Machine.execRwld e a b st
  | .rwctl e k => Sys2Proof.Machine.execRwctl e k st
  | .tinv e a b => Sys2Proof.Machine.execTinv e a b st
  | .kvapp e a v d => Sys2Proof.Machine.execKvapp e a v d st
  | .coldReset => Sys2Proof.Machine.execColdReset st
  | .orderlyWarmReset => Sys2Proof.Machine.execOrderlyWarmReset st
  | .forcedWarmReset => Sys2Proof.Machine.execForcedWarmReset st
  | .orderlyResetTimeout => Sys2Proof.Machine.execOrderlyResetTimeout st
  | .retrainComplete => Sys2Proof.Machine.execRetrainComplete st
  | .operatingPointLower => Sys2Proof.Machine.execOperatingPointLower st
  | .operatingPointRaise => Sys2Proof.Machine.execOperatingPointRaise st
  | .thermalShutdown => Sys2Proof.Machine.execThermalShutdown st
  | .droopTrip => Sys2Proof.Machine.execDroopTrip st
  | .targetedSelfTest => Sys2Proof.Machine.execTargetedSelfTest st
  | .selfTestForcedWindow => Sys2Proof.Machine.execSelfTestForcedWindow st
  | .selfTestResult => Sys2Proof.Machine.execSelfTestResult st
  | .repairExport => Sys2Proof.Machine.execRepairExport st
  | .signedImageWrite => Sys2Proof.Machine.execSignedImageWrite st
  | .spdmRequest => Sys2Proof.Machine.execSpdmRequest st
  | .keyInstall => Sys2Proof.Machine.execKeyInstall st
  | .registerWrite => Sys2Proof.Machine.execRegisterWrite st
  | .memoryRequest => Sys2Proof.Machine.execMemoryRequest st
  | .channelSchedule => Sys2Proof.Machine.execChannelSchedule st
  | .promotion => Sys2Proof.Machine.execPromotion st
  | .memoryRequestComplete => Sys2Proof.Machine.execMemoryRequestComplete st
  | .victimWriteback => Sys2Proof.Machine.execVictimWriteback st
  | .perBankRefresh => Sys2Proof.Machine.execPerBankRefresh st
  | .cacheLayerDisable => Sys2Proof.Machine.execCacheLayerDisable st
  | .patrolScrub => Sys2Proof.Machine.execPatrolScrub st
  | .rd => Sys2Proof.Machine.execRd st
  | .wr => Sys2Proof.Machine.execWr st
  | .wrm => Sys2Proof.Machine.execWrm st
  | .atomRequest => Sys2Proof.Machine.execAtomRequest st
  | .mcw => Sys2Proof.Machine.execMcw st
  | .pwr => Sys2Proof.Machine.execPwr st
  | .msge => Sys2Proof.Machine.execMsge st
  | .msgh => Sys2Proof.Machine.execMsgh st
  | .fin => Sys2Proof.Machine.execFin st
  | .rsp => Sys2Proof.Machine.execRsp st
  | .requestTimeout => Sys2Proof.Machine.execRequestTimeout st
  | .portFailure => Sys2Proof.Machine.execPortFailure st
  | .flitReceive => Sys2Proof.Machine.execFlitReceive st
  | .keyCounterExhausted => Sys2Proof.Machine.execKeyCounterExhausted st
  | .keyWindowGo => Sys2Proof.Machine.execKeyWindowGo st
  | .keyInstallDone => Sys2Proof.Machine.execKeyInstallDone st
  | .checkpointGo => Sys2Proof.Machine.execCheckpointGo st
  | .checkpointAbort => Sys2Proof.Machine.execCheckpointAbort st
  | .checkpointDone => Sys2Proof.Machine.execCheckpointDone st
  | .payloadRead => Sys2Proof.Machine.execPayloadRead st
  | .refusedResend => Sys2Proof.Machine.execRefusedResend st
  | .cairnCompletion => Sys2Proof.Machine.execCairnCompletion st
  | .cctlEnSet => Sys2Proof.Machine.execCctlEnSet st
  | .cctlEnClear => Sys2Proof.Machine.execCctlEnClear st
  | .bar2Write => Sys2Proof.Machine.execBar2Write st
  | .bar2Read => Sys2Proof.Machine.execBar2Read st
  | .form => Sys2Proof.Machine.execForm st
  | .halt => Sys2Proof.Machine.execHalt st
  | .haltDone => Sys2Proof.Machine.execHaltDone st
  | .resume => Sys2Proof.Machine.execResume st
  | .swapOut => Sys2Proof.Machine.execSwapOut st
  | .swapOutDone => Sys2Proof.Machine.execSwapOutDone st
  | .swapInDone => Sys2Proof.Machine.execSwapInDone st
  | .dissolve => Sys2Proof.Machine.execDissolve st
  | .lqEnable => Sys2Proof.Machine.execLqEnable st
  | .lqDisable => Sys2Proof.Machine.execLqDisable st
  | .writeIndexNotify => Sys2Proof.Machine.execWriteIndexNotify st
  | .launchRecordRead => Sys2Proof.Machine.execLaunchRecordRead st
  | .graphNodeComplete => Sys2Proof.Machine.execGraphNodeComplete st
  | .clusterPlacement => Sys2Proof.Machine.execClusterPlacement st
  | .reservation => Sys2Proof.Machine.execReservation st
  | .launchCompletion => Sys2Proof.Machine.execLaunchCompletion st
  | .groupRetire => Sys2Proof.Machine.execGroupRetire st
  | .taskDispatch => Sys2Proof.Machine.execTaskDispatch st
  | .taskStart => Sys2Proof.Machine.execTaskStart st
  | .taskHaltTimeout => Sys2Proof.Machine.execTaskHaltTimeout st
  | .deferredEnqueue => Sys2Proof.Machine.execDeferredEnqueue st
  | .operationComplete => Sys2Proof.Machine.execOperationComplete st
  | .sfuEntryComplete => Sys2Proof.Machine.execSfuEntryComplete st
  | .safeTimeout => Sys2Proof.Machine.execSafeTimeout st
  | .pairReset => Sys2Proof.Machine.execPairReset st
  | .engineCommandStart => Sys2Proof.Machine.execEngineCommandStart st
  | .engineCommandComplete => Sys2Proof.Machine.execEngineCommandComplete st
  | .windowTimeout => Sys2Proof.Machine.execWindowTimeout st
  | .farCopyInvalidation => Sys2Proof.Machine.execFarCopyInvalidation st
  | .evictLastDemotion => Sys2Proof.Machine.execEvictLastDemotion st
  | .fqres => Sys2Proof.Machine.execFqres st
  | .fqr => Sys2Proof.Machine.execFqr st
  | .mcgWrite => Sys2Proof.Machine.execMcgWrite st
  | .carTimeout => Sys2Proof.Machine.execCarTimeout st
  | .cbcTimeout => Sys2Proof.Machine.execCbcTimeout st
  | .orderlyWritebackEnd => Sys2Proof.Machine.execOrderlyWritebackEnd st
  | .droopRecovery => Sys2Proof.Machine.execDroopRecovery st
  | .configurationRequest => Sys2Proof.Machine.execConfigurationRequest st
  | .portRetrainComplete => Sys2Proof.Machine.execPortRetrainComplete st

end Sys2Proof.Machine
end

