-- ==== Sys2Proof/Machine/Step.lean ====
section
/-! DEFINITION. The step of the device, and placing an instruction where a step fetches it. -/

namespace Sys2Proof.Machine

/-- A quarter issues: what settles on its core settles, what stalled units wait for goes on, a unit is chosen, and the instruction it
fetches is executed. A quarter with no ready unit idles. -/
def issueOn (c q : Nat) (s : State) : Host.Outcome State Fault Refusal :=
  let s := (s.settle c).progress c q
  match s.select c q with
  | none => .next (s.idle c q)
  | some (s, none) => .next s.segAbsent
  | some (s, some w) =>
    match decodeWord w with
    | .ok i => exec i s
    | .error _ => .next (s.illegal w)

/-- A quarter's turn: issue is stopped while an orderly reset writes back (R15), and while a self-test holds the core (R10). -/
def issueAt (s : State) (c q : Nat) : Host.Outcome State Fault Refusal :=
  if s.pkg.phase == .writeBack then .next s
  else if s.coreOut c then .next (s.cycle c)
  else s.guarded (s.cycle c) (issueOn c q)

/-- The turn that comes next (log 1). One that stalls comes again after the others; a packet stalls on a lane that a self-test holds (R10). -/
def takeTurn (s : State) (t : Turn) : Host.Outcome State Fault Refusal :=
  let again := s.comeAgain t
  match t with
  | .issue c q => issueAt s c q
  | .event i a =>
    if !isEvent i then .next s
    else if isCoreEvent i && s.coreOut a.core || t.arrivesOn.any s.laneOut then .next again
    else s.guarded again (fun s => exec i { s with args := a })
  | .perform c sl seq => if s.coreOut c then .next again else s.guarded again (fun s => .next (s.otherTurn (.perform c sl seq)))
  | t => .next (s.otherTurn t)

/-- One step of the device: the next turn, or an issue at the focus. With all clocks stopped only a cold reset moves it (R8). -/
def step (s : State) : Host.Outcome State Fault Refusal :=
  match s.turns with
  | [] => if s.pkg.clocksStopped then .fault .powerOff else issueAt s s.focus.1 s.focus.2
  | t :: ts =>
    if s.pkg.clocksStopped && !t.isColdReset then .fault .powerOff else takeTurn { s with turns := ts } t

/-- `s` with an instruction stored where the next step fetches it: a group of one unit at the start of segment 0 of core 0,
slot 0, and that segment resident with the word at its start. -/
def State.withFetchWord (s : State) (nbits w : Nat) : State := s.placeWord nbits w

end Sys2Proof.Machine
end

