-- ==== Sys2Proof/Laws/State.lean ====
section
/-! SUPPORT. What each update of the state leaves in each field: one lemma per field per update. -/

namespace Sys2Proof.Machine

@[simp] theorem State.setCore_pkg (s : State) (c : Nat) (k : Core) : (s.setCore c k).pkg = s.pkg := rfl
@[simp] theorem State.setCore_hbm (s : State) (c : Nat) (k : Core) : (s.setCore c k).hbm = s.hbm := rfl
@[simp] theorem State.setCore_fab (s : State) (c : Nat) (k : Core) : (s.setCore c k).fab = s.fab := rfl
@[simp] theorem State.setCore_parts (s : State) (c : Nat) (k : Core) : (s.setCore c k).parts = s.parts := rfl
@[simp] theorem State.setCore_b2off (s : State) (c : Nat) (k : Core) : (s.setCore c k).b2off = s.b2off := rfl
@[simp] theorem State.setCore_cores (s : State) (c : Nat) (k : Core) : (s.setCore c k).cores = mput s.cores c k := rfl
@[simp] theorem State.setCore_l2 (s : State) (c : Nat) (k : Core) : (s.setCore c k).l2 = s.l2 := rfl
@[simp] theorem State.setCore_far (s : State) (c : Nat) (k : Core) : (s.setCore c k).far = s.far := rfl
@[simp] theorem State.setCore_hostMem (s : State) (c : Nat) (k : Core) : (s.setCore c k).hostMem = s.hostMem := rfl
@[simp] theorem State.setCore_msix (s : State) (c : Nat) (k : Core) : (s.setCore c k).msix = s.msix := rfl
@[simp] theorem State.setCore_hostEvents (s : State) (c : Nat) (k : Core) : (s.setCore c k).hostEvents = s.hostEvents := rfl
@[simp] theorem State.setCore_bar2 (s : State) (c : Nat) (k : Core) : (s.setCore c k).bar2 = s.bar2 := rfl
@[simp] theorem State.setCore_turns (s : State) (c : Nat) (k : Core) : (s.setCore c k).turns = s.turns := rfl
@[simp] theorem State.setCore_focus (s : State) (c : Nat) (k : Core) : (s.setCore c k).focus = s.focus := rfl
@[simp] theorem State.setCore_cur (s : State) (c : Nat) (k : Core) : (s.setCore c k).cur = s.cur := rfl
@[simp] theorem State.setCore_args (s : State) (c : Nat) (k : Core) : (s.setCore c k).args = s.args := rfl
@[simp] theorem State.setCore_seq (s : State) (c : Nat) (k : Core) : (s.setCore c k).seq = s.seq := rfl
@[simp] theorem State.setCore_draws (s : State) (c : Nat) (k : Core) : (s.setCore c k).draws = s.draws := rfl
@[simp] theorem State.setCore_lru (s : State) (c : Nat) (k : Core) : (s.setCore c k).lru = s.lru := rfl

@[simp] theorem State.setPart_pkg (s : State) (p : Nat) (x : Part) : (s.setPart p x).pkg = s.pkg := rfl
@[simp] theorem State.setPart_hbm (s : State) (p : Nat) (x : Part) : (s.setPart p x).hbm = s.hbm := rfl
@[simp] theorem State.setPart_fab (s : State) (p : Nat) (x : Part) : (s.setPart p x).fab = s.fab := rfl
@[simp] theorem State.setPart_parts (s : State) (p : Nat) (x : Part) : (s.setPart p x).parts = mput s.parts p x := rfl
@[simp] theorem State.setPart_b2off (s : State) (p : Nat) (x : Part) : (s.setPart p x).b2off = s.b2off := rfl
@[simp] theorem State.setPart_cores (s : State) (p : Nat) (x : Part) : (s.setPart p x).cores = s.cores := rfl
@[simp] theorem State.setPart_l2 (s : State) (p : Nat) (x : Part) : (s.setPart p x).l2 = s.l2 := rfl
@[simp] theorem State.setPart_far (s : State) (p : Nat) (x : Part) : (s.setPart p x).far = s.far := rfl
@[simp] theorem State.setPart_hostMem (s : State) (p : Nat) (x : Part) : (s.setPart p x).hostMem = s.hostMem := rfl
@[simp] theorem State.setPart_msix (s : State) (p : Nat) (x : Part) : (s.setPart p x).msix = s.msix := rfl
@[simp] theorem State.setPart_hostEvents (s : State) (p : Nat) (x : Part) : (s.setPart p x).hostEvents = s.hostEvents := rfl
@[simp] theorem State.setPart_bar2 (s : State) (p : Nat) (x : Part) : (s.setPart p x).bar2 = s.bar2 := rfl
@[simp] theorem State.setPart_turns (s : State) (p : Nat) (x : Part) : (s.setPart p x).turns = s.turns := rfl
@[simp] theorem State.setPart_focus (s : State) (p : Nat) (x : Part) : (s.setPart p x).focus = s.focus := rfl
@[simp] theorem State.setPart_cur (s : State) (p : Nat) (x : Part) : (s.setPart p x).cur = s.cur := rfl
@[simp] theorem State.setPart_args (s : State) (p : Nat) (x : Part) : (s.setPart p x).args = s.args := rfl
@[simp] theorem State.setPart_seq (s : State) (p : Nat) (x : Part) : (s.setPart p x).seq = s.seq := rfl
@[simp] theorem State.setPart_draws (s : State) (p : Nat) (x : Part) : (s.setPart p x).draws = s.draws := rfl
@[simp] theorem State.setPart_lru (s : State) (p : Nat) (x : Part) : (s.setPart p x).lru = s.lru := rfl

@[simp] theorem State.setGroup_pkg (s : State) (c sl : Nat) (g : Group) : (s.setGroup c sl g).pkg = s.pkg := rfl
@[simp] theorem State.setGroup_hbm (s : State) (c sl : Nat) (g : Group) : (s.setGroup c sl g).hbm = s.hbm := rfl
@[simp] theorem State.setGroup_fab (s : State) (c sl : Nat) (g : Group) : (s.setGroup c sl g).fab = s.fab := rfl
@[simp] theorem State.setGroup_parts (s : State) (c sl : Nat) (g : Group) : (s.setGroup c sl g).parts = s.parts := rfl
@[simp] theorem State.setGroup_b2off (s : State) (c sl : Nat) (g : Group) : (s.setGroup c sl g).b2off = s.b2off := rfl
@[simp] theorem State.setGroup_cores (s : State) (c sl : Nat) (g : Group) : (s.setGroup c sl g).cores = mput s.cores c ((s.core c).setGroup sl g) := rfl
@[simp] theorem State.setGroup_l2 (s : State) (c sl : Nat) (g : Group) : (s.setGroup c sl g).l2 = s.l2 := rfl
@[simp] theorem State.setGroup_far (s : State) (c sl : Nat) (g : Group) : (s.setGroup c sl g).far = s.far := rfl
@[simp] theorem State.setGroup_hostMem (s : State) (c sl : Nat) (g : Group) : (s.setGroup c sl g).hostMem = s.hostMem := rfl
@[simp] theorem State.setGroup_msix (s : State) (c sl : Nat) (g : Group) : (s.setGroup c sl g).msix = s.msix := rfl
@[simp] theorem State.setGroup_hostEvents (s : State) (c sl : Nat) (g : Group) : (s.setGroup c sl g).hostEvents = s.hostEvents := rfl
@[simp] theorem State.setGroup_bar2 (s : State) (c sl : Nat) (g : Group) : (s.setGroup c sl g).bar2 = s.bar2 := rfl
@[simp] theorem State.setGroup_turns (s : State) (c sl : Nat) (g : Group) : (s.setGroup c sl g).turns = s.turns := rfl
@[simp] theorem State.setGroup_focus (s : State) (c sl : Nat) (g : Group) : (s.setGroup c sl g).focus = s.focus := rfl
@[simp] theorem State.setGroup_cur (s : State) (c sl : Nat) (g : Group) : (s.setGroup c sl g).cur = s.cur := rfl
@[simp] theorem State.setGroup_args (s : State) (c sl : Nat) (g : Group) : (s.setGroup c sl g).args = s.args := rfl
@[simp] theorem State.setGroup_seq (s : State) (c sl : Nat) (g : Group) : (s.setGroup c sl g).seq = s.seq := rfl
@[simp] theorem State.setGroup_draws (s : State) (c sl : Nat) (g : Group) : (s.setGroup c sl g).draws = s.draws := rfl
@[simp] theorem State.setGroup_lru (s : State) (c sl : Nat) (g : Group) : (s.setGroup c sl g).lru = s.lru := rfl

@[simp] theorem State.cycle_pkg (s : State) (c n : Nat) : (s.cycle c n).pkg = s.pkg := rfl
@[simp] theorem State.cycle_hbm (s : State) (c n : Nat) : (s.cycle c n).hbm = s.hbm := rfl
@[simp] theorem State.cycle_fab (s : State) (c n : Nat) : (s.cycle c n).fab = s.fab := rfl
@[simp] theorem State.cycle_parts (s : State) (c n : Nat) : (s.cycle c n).parts = s.parts := rfl
@[simp] theorem State.cycle_b2off (s : State) (c n : Nat) : (s.cycle c n).b2off = s.b2off := rfl
@[simp] theorem State.cycle_cores (s : State) (c n : Nat) : (s.cycle c n).cores = mput s.cores c { s.core c with clk := (s.core c).clk + d64 n } := rfl
@[simp] theorem State.cycle_l2 (s : State) (c n : Nat) : (s.cycle c n).l2 = s.l2 := rfl
@[simp] theorem State.cycle_far (s : State) (c n : Nat) : (s.cycle c n).far = s.far := rfl
@[simp] theorem State.cycle_hostMem (s : State) (c n : Nat) : (s.cycle c n).hostMem = s.hostMem := rfl
@[simp] theorem State.cycle_msix (s : State) (c n : Nat) : (s.cycle c n).msix = s.msix := rfl
@[simp] theorem State.cycle_hostEvents (s : State) (c n : Nat) : (s.cycle c n).hostEvents = s.hostEvents := rfl
@[simp] theorem State.cycle_bar2 (s : State) (c n : Nat) : (s.cycle c n).bar2 = s.bar2 := rfl
@[simp] theorem State.cycle_turns (s : State) (c n : Nat) : (s.cycle c n).turns = s.turns := rfl
@[simp] theorem State.cycle_focus (s : State) (c n : Nat) : (s.cycle c n).focus = s.focus := rfl
@[simp] theorem State.cycle_cur (s : State) (c n : Nat) : (s.cycle c n).cur = s.cur := rfl
@[simp] theorem State.cycle_args (s : State) (c n : Nat) : (s.cycle c n).args = s.args := rfl
@[simp] theorem State.cycle_seq (s : State) (c n : Nat) : (s.cycle c n).seq = s.seq := rfl
@[simp] theorem State.cycle_draws (s : State) (c n : Nat) : (s.cycle c n).draws = s.draws := rfl
@[simp] theorem State.cycle_lru (s : State) (c n : Nat) : (s.cycle c n).lru = s.lru := rfl

@[simp] theorem State.postMgmt_pkg (s : State) (e : MgmtEvent) : (s.postMgmt e).pkg = { s.pkg with events := s.pkg.events ++ [e] } := rfl
@[simp] theorem State.postMgmt_hbm (s : State) (e : MgmtEvent) : (s.postMgmt e).hbm = s.hbm := rfl
@[simp] theorem State.postMgmt_fab (s : State) (e : MgmtEvent) : (s.postMgmt e).fab = s.fab := rfl
@[simp] theorem State.postMgmt_parts (s : State) (e : MgmtEvent) : (s.postMgmt e).parts = s.parts := rfl
@[simp] theorem State.postMgmt_b2off (s : State) (e : MgmtEvent) : (s.postMgmt e).b2off = s.b2off := rfl
@[simp] theorem State.postMgmt_cores (s : State) (e : MgmtEvent) : (s.postMgmt e).cores = s.cores := rfl
@[simp] theorem State.postMgmt_l2 (s : State) (e : MgmtEvent) : (s.postMgmt e).l2 = s.l2 := rfl
@[simp] theorem State.postMgmt_far (s : State) (e : MgmtEvent) : (s.postMgmt e).far = s.far := rfl
@[simp] theorem State.postMgmt_hostMem (s : State) (e : MgmtEvent) : (s.postMgmt e).hostMem = s.hostMem := rfl
@[simp] theorem State.postMgmt_msix (s : State) (e : MgmtEvent) : (s.postMgmt e).msix = s.msix := rfl
@[simp] theorem State.postMgmt_hostEvents (s : State) (e : MgmtEvent) : (s.postMgmt e).hostEvents = s.hostEvents := rfl
@[simp] theorem State.postMgmt_bar2 (s : State) (e : MgmtEvent) : (s.postMgmt e).bar2 = s.bar2 := rfl
@[simp] theorem State.postMgmt_turns (s : State) (e : MgmtEvent) : (s.postMgmt e).turns = s.turns := rfl
@[simp] theorem State.postMgmt_focus (s : State) (e : MgmtEvent) : (s.postMgmt e).focus = s.focus := rfl
@[simp] theorem State.postMgmt_cur (s : State) (e : MgmtEvent) : (s.postMgmt e).cur = s.cur := rfl
@[simp] theorem State.postMgmt_args (s : State) (e : MgmtEvent) : (s.postMgmt e).args = s.args := rfl
@[simp] theorem State.postMgmt_seq (s : State) (e : MgmtEvent) : (s.postMgmt e).seq = s.seq := rfl
@[simp] theorem State.postMgmt_draws (s : State) (e : MgmtEvent) : (s.postMgmt e).draws = s.draws := rfl
@[simp] theorem State.postMgmt_lru (s : State) (e : MgmtEvent) : (s.postMgmt e).lru = s.lru := rfl

@[simp] theorem Core.setGroup_clk (k : Core) (sl : Nat) (g : Group) : (k.setGroup sl g).clk = k.clk := rfl
@[simp] theorem Core.setGroup_groups (k : Core) (sl : Nat) (g : Group) : (k.setGroup sl g).groups = mput k.groups sl g := rfl
@[simp] theorem Core.setGroup_quarters (k : Core) (sl : Nat) (g : Group) : (k.setGroup sl g).quarters = k.quarters := rfl
@[simp] theorem Core.setGroup_frames (k : Core) (sl : Nat) (g : Group) : (k.setGroup sl g).frames = k.frames := rfl
@[simp] theorem Core.setGroup_lmem (k : Core) (sl : Nat) (g : Group) : (k.setGroup sl g).lmem = k.lmem := rfl
@[simp] theorem Core.setGroup_lpoison (k : Core) (sl : Nat) (g : Group) : (k.setGroup sl g).lpoison = k.lpoison := rfl
@[simp] theorem Core.setGroup_l1 (k : Core) (sl : Nat) (g : Group) : (k.setGroup sl g).l1 = k.l1 := rfl
@[simp] theorem Core.setGroup_entries (k : Core) (sl : Nat) (g : Group) : (k.setGroup sl g).entries = k.entries := rfl
@[simp] theorem Core.setGroup_matrix (k : Core) (sl : Nat) (g : Group) : (k.setGroup sl g).matrix = k.matrix := rfl
@[simp] theorem Core.setGroup_pair (k : Core) (sl : Nat) (g : Group) : (k.setGroup sl g).pair = k.pair := rfl
@[simp] theorem Core.setGroup_queries (k : Core) (sl : Nat) (g : Group) : (k.setGroup sl g).queries = k.queries := rfl
@[simp] theorem Core.setGroup_tasks (k : Core) (sl : Nat) (g : Group) : (k.setGroup sl g).tasks = k.tasks := rfl
@[simp] theorem Core.setGroup_lastQueue (k : Core) (sl : Nat) (g : Group) : (k.setGroup sl g).lastQueue = k.lastQueue := rfl
@[simp] theorem Core.setGroup_passed (k : Core) (sl : Nat) (g : Group) : (k.setGroup sl g).passed = k.passed := rfl
@[simp] theorem Core.setGroup_drooping (k : Core) (sl : Nat) (g : Group) : (k.setGroup sl g).drooping = k.drooping := rfl
@[simp] theorem Core.setGroup_trips (k : Core) (sl : Nat) (g : Group) : (k.setGroup sl g).trips = k.trips := rfl
@[simp] theorem Core.setGroup_shadowOf (k : Core) (sl : Nat) (g : Group) : (k.setGroup sl g).shadowOf = k.shadowOf := rfl

@[simp] theorem Core.setQuarter_clk (k : Core) (q : Nat) (x : Quarter) : (k.setQuarter q x).clk = k.clk := rfl
@[simp] theorem Core.setQuarter_groups (k : Core) (q : Nat) (x : Quarter) : (k.setQuarter q x).groups = k.groups := rfl
@[simp] theorem Core.setQuarter_quarters (k : Core) (q : Nat) (x : Quarter) : (k.setQuarter q x).quarters = mput k.quarters q x := rfl
@[simp] theorem Core.setQuarter_frames (k : Core) (q : Nat) (x : Quarter) : (k.setQuarter q x).frames = k.frames := rfl
@[simp] theorem Core.setQuarter_lmem (k : Core) (q : Nat) (x : Quarter) : (k.setQuarter q x).lmem = k.lmem := rfl
@[simp] theorem Core.setQuarter_lpoison (k : Core) (q : Nat) (x : Quarter) : (k.setQuarter q x).lpoison = k.lpoison := rfl
@[simp] theorem Core.setQuarter_l1 (k : Core) (q : Nat) (x : Quarter) : (k.setQuarter q x).l1 = k.l1 := rfl
@[simp] theorem Core.setQuarter_entries (k : Core) (q : Nat) (x : Quarter) : (k.setQuarter q x).entries = k.entries := rfl
@[simp] theorem Core.setQuarter_matrix (k : Core) (q : Nat) (x : Quarter) : (k.setQuarter q x).matrix = k.matrix := rfl
@[simp] theorem Core.setQuarter_pair (k : Core) (q : Nat) (x : Quarter) : (k.setQuarter q x).pair = k.pair := rfl
@[simp] theorem Core.setQuarter_queries (k : Core) (q : Nat) (x : Quarter) : (k.setQuarter q x).queries = k.queries := rfl
@[simp] theorem Core.setQuarter_tasks (k : Core) (q : Nat) (x : Quarter) : (k.setQuarter q x).tasks = k.tasks := rfl
@[simp] theorem Core.setQuarter_lastQueue (k : Core) (q : Nat) (x : Quarter) : (k.setQuarter q x).lastQueue = k.lastQueue := rfl
@[simp] theorem Core.setQuarter_passed (k : Core) (q : Nat) (x : Quarter) : (k.setQuarter q x).passed = k.passed := rfl
@[simp] theorem Core.setQuarter_drooping (k : Core) (q : Nat) (x : Quarter) : (k.setQuarter q x).drooping = k.drooping := rfl
@[simp] theorem Core.setQuarter_trips (k : Core) (q : Nat) (x : Quarter) : (k.setQuarter q x).trips = k.trips := rfl
@[simp] theorem Core.setQuarter_shadowOf (k : Core) (q : Nat) (x : Quarter) : (k.setQuarter q x).shadowOf = k.shadowOf := rfl

@[simp] theorem Group.setS_holder (g : Group) (n : Nat) (v : Dword) : (g.setS n v).holder = g.holder := rfl
@[simp] theorem Group.setS_part (g : Group) (n : Nat) (v : Dword) : (g.setS n v).part = g.part := rfl
@[simp] theorem Group.setS_launch (g : Group) (n : Nat) (v : Dword) : (g.setS n v).launch = g.launch := rfl
@[simp] theorem Group.setS_gid (g : Group) (n : Nat) (v : Dword) : (g.setS n v).gid = g.gid := rfl
@[simp] theorem Group.setS_tid (g : Group) (n : Nat) (v : Dword) : (g.setS n v).tid = g.tid := rfl
@[simp] theorem Group.setS_cid (g : Group) (n : Nat) (v : Dword) : (g.setS n v).cid = g.cid := rfl
@[simp] theorem Group.setS_role (g : Group) (n : Nat) (v : Dword) : (g.setS n v).role = g.role := rfl
@[simp] theorem Group.setS_cluster (g : Group) (n : Nat) (v : Dword) : (g.setS n v).cluster = g.cluster := rfl
@[simp] theorem Group.setS_pairRole (g : Group) (n : Nat) (v : Dword) : (g.setS n v).pairRole = g.pairRole := rfl
@[simp] theorem Group.setS_team (g : Group) (n : Nat) (v : Dword) : (g.setS n v).team = g.team := rfl
@[simp] theorem Group.setS_pages (g : Group) (n : Nat) (v : Dword) : (g.setS n v).pages = g.pages := rfl
@[simp] theorem Group.setS_task (g : Group) (n : Nat) (v : Dword) : (g.setS n v).task = g.task := rfl
@[simp] theorem Group.setS_inherit (g : Group) (n : Nat) (v : Dword) : (g.setS n v).inherit = g.inherit := rfl
@[simp] theorem Group.setS_born (g : Group) (n : Nat) (v : Dword) : (g.setS n v).born = g.born := rfl
@[simp] theorem Group.setS_tbuf (g : Group) (n : Nat) (v : Dword) : (g.setS n v).tbuf = g.tbuf := rfl
@[simp] theorem Group.setS_pinStall (g : Group) (n : Nat) (v : Dword) : (g.setS n v).pinStall = g.pinStall := rfl
@[simp] theorem Group.setS_sregs (g : Group) (n : Nat) (v : Dword) : (g.setS n v).sregs = mput g.sregs n v := rfl
@[simp] theorem Group.setS_vregs (g : Group) (n : Nat) (v : Dword) : (g.setS n v).vregs = g.vregs := rfl
@[simp] theorem Group.setS_masks (g : Group) (n : Nat) (v : Dword) : (g.setS n v).masks = g.masks := rfl
@[simp] theorem Group.setS_iters (g : Group) (n : Nat) (v : Dword) : (g.setS n v).iters = g.iters := rfl
@[simp] theorem Group.setS_itGens (g : Group) (n : Nat) (v : Dword) : (g.setS n v).itGens = g.itGens := rfl
@[simp] theorem Group.setS_units (g : Group) (n : Nat) (v : Dword) : (g.setS n v).units = g.units := rfl
@[simp] theorem Group.setS_stat (g : Group) (n : Nat) (v : Dword) : (g.setS n v).stat = g.stat := rfl
@[simp] theorem Group.setS_trc (g : Group) (n : Nat) (v : Dword) : (g.setS n v).trc = g.trc := rfl
@[simp] theorem Group.setS_tra (g : Group) (n : Nat) (v : Dword) : (g.setS n v).tra = g.tra := rfl
@[simp] theorem Group.setS_trx (g : Group) (n : Nat) (v : Dword) : (g.setS n v).trx = g.trx := rfl
@[simp] theorem Group.setS_trv (g : Group) (n : Nat) (v : Dword) : (g.setS n v).trv = g.trv := rfl
@[simp] theorem Group.setS_rwp (g : Group) (n : Nat) (v : Dword) : (g.setS n v).rwp = g.rwp := rfl
@[simp] theorem Group.setS_rws (g : Group) (n : Nat) (v : Dword) : (g.setS n v).rws = g.rws := rfl
@[simp] theorem Group.setS_fxb (g : Group) (n : Nat) (v : Dword) : (g.setS n v).fxb = g.fxb := rfl
@[simp] theorem Group.setS_fxt (g : Group) (n : Nat) (v : Dword) : (g.setS n v).fxt = g.fxt := rfl
@[simp] theorem Group.setS_lnch (g : Group) (n : Nat) (v : Dword) : (g.setS n v).lnch = g.lnch := rfl
@[simp] theorem Group.setS_xvs (g : Group) (n : Nat) (v : Dword) : (g.setS n v).xvs = g.xvs := rfl
@[simp] theorem Group.setS_iunits (g : Group) (n : Nat) (v : Dword) : (g.setS n v).iunits = g.iunits := rfl
@[simp] theorem Group.setS_nextUid (g : Group) (n : Nat) (v : Dword) : (g.setS n v).nextUid = g.nextUid := rfl
@[simp] theorem Group.setS_ops (g : Group) (n : Nat) (v : Dword) : (g.setS n v).ops = g.ops := rfl
@[simp] theorem Group.setS_reports (g : Group) (n : Nat) (v : Dword) : (g.setS n v).reports = g.reports := rfl
@[simp] theorem Group.setS_instances (g : Group) (n : Nat) (v : Dword) : (g.setS n v).instances = g.instances := rfl
@[simp] theorem Group.setS_save (g : Group) (n : Nat) (v : Dword) : (g.setS n v).save = g.save := rfl
@[simp] theorem Group.setS_bars (g : Group) (n : Nat) (v : Dword) : (g.setS n v).bars = g.bars := rfl
@[simp] theorem Group.setS_barcs (g : Group) (n : Nat) (v : Dword) : (g.setS n v).barcs = g.barcs := rfl
@[simp] theorem Group.setS_fxAdds (g : Group) (n : Nat) (v : Dword) : (g.setS n v).fxAdds = g.fxAdds := rfl
@[simp] theorem Group.setS_rwAdds (g : Group) (n : Nat) (v : Dword) : (g.setS n v).rwAdds = g.rwAdds := rfl
@[simp] theorem Group.setS_preempt (g : Group) (n : Nat) (v : Dword) : (g.setS n v).preempt = g.preempt := rfl
@[simp] theorem Group.setS_finishing (g : Group) (n : Nat) (v : Dword) : (g.setS n v).finishing = g.finishing := rfl
@[simp] theorem Group.setS_ended (g : Group) (n : Nat) (v : Dword) : (g.setS n v).ended = g.ended := rfl
@[simp] theorem Group.setS_aborted (g : Group) (n : Nat) (v : Dword) : (g.setS n v).aborted = g.aborted := rfl
@[simp] theorem Group.setS_abortRec (g : Group) (n : Nat) (v : Dword) : (g.setS n v).abortRec = g.abortRec := rfl
@[simp] theorem Group.setS_node (g : Group) (n : Nat) (v : Dword) : (g.setS n v).node = g.node := rfl
@[simp] theorem Group.setS_waitRec (g : Group) (n : Nat) (v : Dword) : (g.setS n v).waitRec = g.waitRec := rfl
@[simp] theorem Group.setS_waitIa (g : Group) (n : Nat) (v : Dword) : (g.setS n v).waitIa = g.waitIa := rfl

@[simp] theorem Group.setV_holder (g : Group) (n : Nat) (v : VReg) : (g.setV n v).holder = g.holder := rfl
@[simp] theorem Group.setV_part (g : Group) (n : Nat) (v : VReg) : (g.setV n v).part = g.part := rfl
@[simp] theorem Group.setV_launch (g : Group) (n : Nat) (v : VReg) : (g.setV n v).launch = g.launch := rfl
@[simp] theorem Group.setV_gid (g : Group) (n : Nat) (v : VReg) : (g.setV n v).gid = g.gid := rfl
@[simp] theorem Group.setV_tid (g : Group) (n : Nat) (v : VReg) : (g.setV n v).tid = g.tid := rfl
@[simp] theorem Group.setV_cid (g : Group) (n : Nat) (v : VReg) : (g.setV n v).cid = g.cid := rfl
@[simp] theorem Group.setV_role (g : Group) (n : Nat) (v : VReg) : (g.setV n v).role = g.role := rfl
@[simp] theorem Group.setV_cluster (g : Group) (n : Nat) (v : VReg) : (g.setV n v).cluster = g.cluster := rfl
@[simp] theorem Group.setV_pairRole (g : Group) (n : Nat) (v : VReg) : (g.setV n v).pairRole = g.pairRole := rfl
@[simp] theorem Group.setV_team (g : Group) (n : Nat) (v : VReg) : (g.setV n v).team = g.team := rfl
@[simp] theorem Group.setV_pages (g : Group) (n : Nat) (v : VReg) : (g.setV n v).pages = g.pages := rfl
@[simp] theorem Group.setV_task (g : Group) (n : Nat) (v : VReg) : (g.setV n v).task = g.task := rfl
@[simp] theorem Group.setV_inherit (g : Group) (n : Nat) (v : VReg) : (g.setV n v).inherit = g.inherit := rfl
@[simp] theorem Group.setV_born (g : Group) (n : Nat) (v : VReg) : (g.setV n v).born = g.born := rfl
@[simp] theorem Group.setV_tbuf (g : Group) (n : Nat) (v : VReg) : (g.setV n v).tbuf = g.tbuf := rfl
@[simp] theorem Group.setV_pinStall (g : Group) (n : Nat) (v : VReg) : (g.setV n v).pinStall = g.pinStall := rfl
@[simp] theorem Group.setV_sregs (g : Group) (n : Nat) (v : VReg) : (g.setV n v).sregs = g.sregs := rfl
@[simp] theorem Group.setV_vregs (g : Group) (n : Nat) (v : VReg) : (g.setV n v).vregs = mput g.vregs n v := rfl
@[simp] theorem Group.setV_masks (g : Group) (n : Nat) (v : VReg) : (g.setV n v).masks = g.masks := rfl
@[simp] theorem Group.setV_iters (g : Group) (n : Nat) (v : VReg) : (g.setV n v).iters = g.iters := rfl
@[simp] theorem Group.setV_itGens (g : Group) (n : Nat) (v : VReg) : (g.setV n v).itGens = g.itGens := rfl
@[simp] theorem Group.setV_units (g : Group) (n : Nat) (v : VReg) : (g.setV n v).units = g.units := rfl
@[simp] theorem Group.setV_stat (g : Group) (n : Nat) (v : VReg) : (g.setV n v).stat = g.stat := rfl
@[simp] theorem Group.setV_trc (g : Group) (n : Nat) (v : VReg) : (g.setV n v).trc = g.trc := rfl
@[simp] theorem Group.setV_tra (g : Group) (n : Nat) (v : VReg) : (g.setV n v).tra = g.tra := rfl
@[simp] theorem Group.setV_trx (g : Group) (n : Nat) (v : VReg) : (g.setV n v).trx = g.trx := rfl
@[simp] theorem Group.setV_trv (g : Group) (n : Nat) (v : VReg) : (g.setV n v).trv = g.trv := rfl
@[simp] theorem Group.setV_rwp (g : Group) (n : Nat) (v : VReg) : (g.setV n v).rwp = g.rwp := rfl
@[simp] theorem Group.setV_rws (g : Group) (n : Nat) (v : VReg) : (g.setV n v).rws = g.rws := rfl
@[simp] theorem Group.setV_fxb (g : Group) (n : Nat) (v : VReg) : (g.setV n v).fxb = g.fxb := rfl
@[simp] theorem Group.setV_fxt (g : Group) (n : Nat) (v : VReg) : (g.setV n v).fxt = g.fxt := rfl
@[simp] theorem Group.setV_lnch (g : Group) (n : Nat) (v : VReg) : (g.setV n v).lnch = g.lnch := rfl
@[simp] theorem Group.setV_xvs (g : Group) (n : Nat) (v : VReg) : (g.setV n v).xvs = g.xvs := rfl
@[simp] theorem Group.setV_iunits (g : Group) (n : Nat) (v : VReg) : (g.setV n v).iunits = g.iunits := rfl
@[simp] theorem Group.setV_nextUid (g : Group) (n : Nat) (v : VReg) : (g.setV n v).nextUid = g.nextUid := rfl
@[simp] theorem Group.setV_ops (g : Group) (n : Nat) (v : VReg) : (g.setV n v).ops = g.ops := rfl
@[simp] theorem Group.setV_reports (g : Group) (n : Nat) (v : VReg) : (g.setV n v).reports = g.reports := rfl
@[simp] theorem Group.setV_instances (g : Group) (n : Nat) (v : VReg) : (g.setV n v).instances = g.instances := rfl
@[simp] theorem Group.setV_save (g : Group) (n : Nat) (v : VReg) : (g.setV n v).save = g.save := rfl
@[simp] theorem Group.setV_bars (g : Group) (n : Nat) (v : VReg) : (g.setV n v).bars = g.bars := rfl
@[simp] theorem Group.setV_barcs (g : Group) (n : Nat) (v : VReg) : (g.setV n v).barcs = g.barcs := rfl
@[simp] theorem Group.setV_fxAdds (g : Group) (n : Nat) (v : VReg) : (g.setV n v).fxAdds = g.fxAdds := rfl
@[simp] theorem Group.setV_rwAdds (g : Group) (n : Nat) (v : VReg) : (g.setV n v).rwAdds = g.rwAdds := rfl
@[simp] theorem Group.setV_preempt (g : Group) (n : Nat) (v : VReg) : (g.setV n v).preempt = g.preempt := rfl
@[simp] theorem Group.setV_finishing (g : Group) (n : Nat) (v : VReg) : (g.setV n v).finishing = g.finishing := rfl
@[simp] theorem Group.setV_ended (g : Group) (n : Nat) (v : VReg) : (g.setV n v).ended = g.ended := rfl
@[simp] theorem Group.setV_aborted (g : Group) (n : Nat) (v : VReg) : (g.setV n v).aborted = g.aborted := rfl
@[simp] theorem Group.setV_abortRec (g : Group) (n : Nat) (v : VReg) : (g.setV n v).abortRec = g.abortRec := rfl
@[simp] theorem Group.setV_node (g : Group) (n : Nat) (v : VReg) : (g.setV n v).node = g.node := rfl
@[simp] theorem Group.setV_waitRec (g : Group) (n : Nat) (v : VReg) : (g.setV n v).waitRec = g.waitRec := rfl
@[simp] theorem Group.setV_waitIa (g : Group) (n : Nat) (v : VReg) : (g.setV n v).waitIa = g.waitIa := rfl

@[simp] theorem Group.setUnit_holder (g : Group) (u : IUnit) : (g.setUnit u).holder = g.holder := rfl
@[simp] theorem Group.setUnit_part (g : Group) (u : IUnit) : (g.setUnit u).part = g.part := rfl
@[simp] theorem Group.setUnit_launch (g : Group) (u : IUnit) : (g.setUnit u).launch = g.launch := rfl
@[simp] theorem Group.setUnit_gid (g : Group) (u : IUnit) : (g.setUnit u).gid = g.gid := rfl
@[simp] theorem Group.setUnit_tid (g : Group) (u : IUnit) : (g.setUnit u).tid = g.tid := rfl
@[simp] theorem Group.setUnit_cid (g : Group) (u : IUnit) : (g.setUnit u).cid = g.cid := rfl
@[simp] theorem Group.setUnit_role (g : Group) (u : IUnit) : (g.setUnit u).role = g.role := rfl
@[simp] theorem Group.setUnit_cluster (g : Group) (u : IUnit) : (g.setUnit u).cluster = g.cluster := rfl
@[simp] theorem Group.setUnit_pairRole (g : Group) (u : IUnit) : (g.setUnit u).pairRole = g.pairRole := rfl
@[simp] theorem Group.setUnit_team (g : Group) (u : IUnit) : (g.setUnit u).team = g.team := rfl
@[simp] theorem Group.setUnit_pages (g : Group) (u : IUnit) : (g.setUnit u).pages = g.pages := rfl
@[simp] theorem Group.setUnit_task (g : Group) (u : IUnit) : (g.setUnit u).task = g.task := rfl
@[simp] theorem Group.setUnit_inherit (g : Group) (u : IUnit) : (g.setUnit u).inherit = g.inherit := rfl
@[simp] theorem Group.setUnit_born (g : Group) (u : IUnit) : (g.setUnit u).born = g.born := rfl
@[simp] theorem Group.setUnit_tbuf (g : Group) (u : IUnit) : (g.setUnit u).tbuf = g.tbuf := rfl
@[simp] theorem Group.setUnit_pinStall (g : Group) (u : IUnit) : (g.setUnit u).pinStall = g.pinStall := rfl
@[simp] theorem Group.setUnit_sregs (g : Group) (u : IUnit) : (g.setUnit u).sregs = g.sregs := rfl
@[simp] theorem Group.setUnit_vregs (g : Group) (u : IUnit) : (g.setUnit u).vregs = g.vregs := rfl
@[simp] theorem Group.setUnit_masks (g : Group) (u : IUnit) : (g.setUnit u).masks = g.masks := rfl
@[simp] theorem Group.setUnit_iters (g : Group) (u : IUnit) : (g.setUnit u).iters = g.iters := rfl
@[simp] theorem Group.setUnit_itGens (g : Group) (u : IUnit) : (g.setUnit u).itGens = g.itGens := rfl
@[simp] theorem Group.setUnit_units (g : Group) (u : IUnit) : (g.setUnit u).units = g.units := rfl
@[simp] theorem Group.setUnit_stat (g : Group) (u : IUnit) : (g.setUnit u).stat = g.stat := rfl
@[simp] theorem Group.setUnit_trc (g : Group) (u : IUnit) : (g.setUnit u).trc = g.trc := rfl
@[simp] theorem Group.setUnit_tra (g : Group) (u : IUnit) : (g.setUnit u).tra = g.tra := rfl
@[simp] theorem Group.setUnit_trx (g : Group) (u : IUnit) : (g.setUnit u).trx = g.trx := rfl
@[simp] theorem Group.setUnit_trv (g : Group) (u : IUnit) : (g.setUnit u).trv = g.trv := rfl
@[simp] theorem Group.setUnit_rwp (g : Group) (u : IUnit) : (g.setUnit u).rwp = g.rwp := rfl
@[simp] theorem Group.setUnit_rws (g : Group) (u : IUnit) : (g.setUnit u).rws = g.rws := rfl
@[simp] theorem Group.setUnit_fxb (g : Group) (u : IUnit) : (g.setUnit u).fxb = g.fxb := rfl
@[simp] theorem Group.setUnit_fxt (g : Group) (u : IUnit) : (g.setUnit u).fxt = g.fxt := rfl
@[simp] theorem Group.setUnit_lnch (g : Group) (u : IUnit) : (g.setUnit u).lnch = g.lnch := rfl
@[simp] theorem Group.setUnit_xvs (g : Group) (u : IUnit) : (g.setUnit u).xvs = g.xvs := rfl
@[simp] theorem Group.setUnit_iunits (g : Group) (u : IUnit) : (g.setUnit u).iunits = updWhere (fun x => x.uid == u.uid) (fun _ => u) g.iunits := rfl
@[simp] theorem Group.setUnit_nextUid (g : Group) (u : IUnit) : (g.setUnit u).nextUid = g.nextUid := rfl
@[simp] theorem Group.setUnit_ops (g : Group) (u : IUnit) : (g.setUnit u).ops = g.ops := rfl
@[simp] theorem Group.setUnit_reports (g : Group) (u : IUnit) : (g.setUnit u).reports = g.reports := rfl
@[simp] theorem Group.setUnit_instances (g : Group) (u : IUnit) : (g.setUnit u).instances = g.instances := rfl
@[simp] theorem Group.setUnit_save (g : Group) (u : IUnit) : (g.setUnit u).save = g.save := rfl
@[simp] theorem Group.setUnit_bars (g : Group) (u : IUnit) : (g.setUnit u).bars = g.bars := rfl
@[simp] theorem Group.setUnit_barcs (g : Group) (u : IUnit) : (g.setUnit u).barcs = g.barcs := rfl
@[simp] theorem Group.setUnit_fxAdds (g : Group) (u : IUnit) : (g.setUnit u).fxAdds = g.fxAdds := rfl
@[simp] theorem Group.setUnit_rwAdds (g : Group) (u : IUnit) : (g.setUnit u).rwAdds = g.rwAdds := rfl
@[simp] theorem Group.setUnit_preempt (g : Group) (u : IUnit) : (g.setUnit u).preempt = g.preempt := rfl
@[simp] theorem Group.setUnit_finishing (g : Group) (u : IUnit) : (g.setUnit u).finishing = g.finishing := rfl
@[simp] theorem Group.setUnit_ended (g : Group) (u : IUnit) : (g.setUnit u).ended = g.ended := rfl
@[simp] theorem Group.setUnit_aborted (g : Group) (u : IUnit) : (g.setUnit u).aborted = g.aborted := rfl
@[simp] theorem Group.setUnit_abortRec (g : Group) (u : IUnit) : (g.setUnit u).abortRec = g.abortRec := rfl
@[simp] theorem Group.setUnit_node (g : Group) (u : IUnit) : (g.setUnit u).node = g.node := rfl
@[simp] theorem Group.setUnit_waitRec (g : Group) (u : IUnit) : (g.setUnit u).waitRec = g.waitRec := rfl
@[simp] theorem Group.setUnit_waitIa (g : Group) (u : IUnit) : (g.setUnit u).waitIa = g.waitIa := rfl

@[simp] theorem Group.setOp_holder (g : Group) (o : Op) : (g.setOp o).holder = g.holder := rfl
@[simp] theorem Group.setOp_part (g : Group) (o : Op) : (g.setOp o).part = g.part := rfl
@[simp] theorem Group.setOp_launch (g : Group) (o : Op) : (g.setOp o).launch = g.launch := rfl
@[simp] theorem Group.setOp_gid (g : Group) (o : Op) : (g.setOp o).gid = g.gid := rfl
@[simp] theorem Group.setOp_tid (g : Group) (o : Op) : (g.setOp o).tid = g.tid := rfl
@[simp] theorem Group.setOp_cid (g : Group) (o : Op) : (g.setOp o).cid = g.cid := rfl
@[simp] theorem Group.setOp_role (g : Group) (o : Op) : (g.setOp o).role = g.role := rfl
@[simp] theorem Group.setOp_cluster (g : Group) (o : Op) : (g.setOp o).cluster = g.cluster := rfl
@[simp] theorem Group.setOp_pairRole (g : Group) (o : Op) : (g.setOp o).pairRole = g.pairRole := rfl
@[simp] theorem Group.setOp_team (g : Group) (o : Op) : (g.setOp o).team = g.team := rfl
@[simp] theorem Group.setOp_pages (g : Group) (o : Op) : (g.setOp o).pages = g.pages := rfl
@[simp] theorem Group.setOp_task (g : Group) (o : Op) : (g.setOp o).task = g.task := rfl
@[simp] theorem Group.setOp_inherit (g : Group) (o : Op) : (g.setOp o).inherit = g.inherit := rfl
@[simp] theorem Group.setOp_born (g : Group) (o : Op) : (g.setOp o).born = g.born := rfl
@[simp] theorem Group.setOp_tbuf (g : Group) (o : Op) : (g.setOp o).tbuf = g.tbuf := rfl
@[simp] theorem Group.setOp_pinStall (g : Group) (o : Op) : (g.setOp o).pinStall = g.pinStall := rfl
@[simp] theorem Group.setOp_sregs (g : Group) (o : Op) : (g.setOp o).sregs = g.sregs := rfl
@[simp] theorem Group.setOp_vregs (g : Group) (o : Op) : (g.setOp o).vregs = g.vregs := rfl
@[simp] theorem Group.setOp_masks (g : Group) (o : Op) : (g.setOp o).masks = g.masks := rfl
@[simp] theorem Group.setOp_iters (g : Group) (o : Op) : (g.setOp o).iters = g.iters := rfl
@[simp] theorem Group.setOp_itGens (g : Group) (o : Op) : (g.setOp o).itGens = g.itGens := rfl
@[simp] theorem Group.setOp_units (g : Group) (o : Op) : (g.setOp o).units = g.units := rfl
@[simp] theorem Group.setOp_stat (g : Group) (o : Op) : (g.setOp o).stat = g.stat := rfl
@[simp] theorem Group.setOp_trc (g : Group) (o : Op) : (g.setOp o).trc = g.trc := rfl
@[simp] theorem Group.setOp_tra (g : Group) (o : Op) : (g.setOp o).tra = g.tra := rfl
@[simp] theorem Group.setOp_trx (g : Group) (o : Op) : (g.setOp o).trx = g.trx := rfl
@[simp] theorem Group.setOp_trv (g : Group) (o : Op) : (g.setOp o).trv = g.trv := rfl
@[simp] theorem Group.setOp_rwp (g : Group) (o : Op) : (g.setOp o).rwp = g.rwp := rfl
@[simp] theorem Group.setOp_rws (g : Group) (o : Op) : (g.setOp o).rws = g.rws := rfl
@[simp] theorem Group.setOp_fxb (g : Group) (o : Op) : (g.setOp o).fxb = g.fxb := rfl
@[simp] theorem Group.setOp_fxt (g : Group) (o : Op) : (g.setOp o).fxt = g.fxt := rfl
@[simp] theorem Group.setOp_lnch (g : Group) (o : Op) : (g.setOp o).lnch = g.lnch := rfl
@[simp] theorem Group.setOp_xvs (g : Group) (o : Op) : (g.setOp o).xvs = g.xvs := rfl
@[simp] theorem Group.setOp_iunits (g : Group) (o : Op) : (g.setOp o).iunits = g.iunits := rfl
@[simp] theorem Group.setOp_nextUid (g : Group) (o : Op) : (g.setOp o).nextUid = g.nextUid := rfl
@[simp] theorem Group.setOp_ops (g : Group) (o : Op) : (g.setOp o).ops = updWhere (fun x => x.seq == o.seq) (fun _ => o) g.ops := rfl
@[simp] theorem Group.setOp_reports (g : Group) (o : Op) : (g.setOp o).reports = g.reports := rfl
@[simp] theorem Group.setOp_instances (g : Group) (o : Op) : (g.setOp o).instances = g.instances := rfl
@[simp] theorem Group.setOp_save (g : Group) (o : Op) : (g.setOp o).save = g.save := rfl
@[simp] theorem Group.setOp_bars (g : Group) (o : Op) : (g.setOp o).bars = g.bars := rfl
@[simp] theorem Group.setOp_barcs (g : Group) (o : Op) : (g.setOp o).barcs = g.barcs := rfl
@[simp] theorem Group.setOp_fxAdds (g : Group) (o : Op) : (g.setOp o).fxAdds = g.fxAdds := rfl
@[simp] theorem Group.setOp_rwAdds (g : Group) (o : Op) : (g.setOp o).rwAdds = g.rwAdds := rfl
@[simp] theorem Group.setOp_preempt (g : Group) (o : Op) : (g.setOp o).preempt = g.preempt := rfl
@[simp] theorem Group.setOp_finishing (g : Group) (o : Op) : (g.setOp o).finishing = g.finishing := rfl
@[simp] theorem Group.setOp_ended (g : Group) (o : Op) : (g.setOp o).ended = g.ended := rfl
@[simp] theorem Group.setOp_aborted (g : Group) (o : Op) : (g.setOp o).aborted = g.aborted := rfl
@[simp] theorem Group.setOp_abortRec (g : Group) (o : Op) : (g.setOp o).abortRec = g.abortRec := rfl
@[simp] theorem Group.setOp_node (g : Group) (o : Op) : (g.setOp o).node = g.node := rfl
@[simp] theorem Group.setOp_waitRec (g : Group) (o : Op) : (g.setOp o).waitRec = g.waitRec := rfl
@[simp] theorem Group.setOp_waitIa (g : Group) (o : Op) : (g.setOp o).waitIa = g.waitIa := rfl

end Sys2Proof.Machine
end

