-- ==== Sys2Proof/Laws/Maps.lean ====
section
/-! SUPPORT. Reading back what was put into a sparse table, and the accessors of the state over them. -/

namespace Sys2Proof.Machine

@[simp] theorem mfind_mput_self {α : Type} (m : Map α) (n : Nat) (v : α) : mfind (mput m n v) n = some v := by
  induction m with
  | nil => simp [mput, mfind]
  | cons e t ih =>
    obtain ⟨k, w⟩ := e
    unfold mput
    split
    · simp [mfind]
    · split
      · simp [mfind]
      · next h => simp [mfind, h, ih]

theorem mfind_mput_ne {α : Type} (m : Map α) (n k : Nat) (v : α) (h : k ≠ n) : mfind (mput m n v) k = mfind m k := by
  induction m with
  | nil => simp [mput, mfind, h]
  | cons e t ih =>
    obtain ⟨j, w⟩ := e
    unfold mput
    split
    · simp [mfind, h]
    · split
      · next e => subst e; simp [mfind, h]
      · simp [mfind, ih]

@[simp] theorem mget_mput_self {α : Type} (d : α) (m : Map α) (n : Nat) (v : α) : mget d (mput m n v) n = v := by
  simp [mget]
theorem mget_mput_ne {α : Type} (d : α) (m : Map α) (n k : Nat) (v : α) (h : k ≠ n) : mget d (mput m n v) k = mget d m k := by
  simp [mget, mfind_mput_ne m n k v h]

@[simp] theorem State.core_setCore_self (s : State) (c : Nat) (k : Core) : (s.setCore c k).core c = k := mget_mput_self _ _ _ _
theorem State.core_setCore_ne (s : State) (c d : Nat) (k : Core) (h : d ≠ c) : (s.setCore c k).core d = s.core d :=
  mget_mput_ne _ _ _ _ _ h
@[simp] theorem Core.group_setGroup_self (k : Core) (sl : Nat) (g : Group) : (k.setGroup sl g).group sl = g := mget_mput_self _ _ _ _
theorem Core.group_setGroup_ne (k : Core) (sl t : Nat) (g : Group) (h : t ≠ sl) : (k.setGroup sl g).group t = k.group t :=
  mget_mput_ne _ _ _ _ _ h
@[simp] theorem Core.group_setQuarter (k : Core) (q : Nat) (x : Quarter) (sl : Nat) : (k.setQuarter q x).group sl = k.group sl := rfl
@[simp] theorem Core.quarter_setQuarter_self (k : Core) (q : Nat) (x : Quarter) : (k.setQuarter q x).quarter q = x := mget_mput_self _ _ _ _
@[simp] theorem Core.quarter_setGroup (k : Core) (q sl : Nat) (g : Group) : (k.setGroup sl g).quarter q = k.quarter q := rfl
@[simp] theorem State.part_setPart_self (s : State) (p : Nat) (x : Part) : (s.setPart p x).part p = x := mget_mput_self _ _ _ _
theorem State.part_setPart_ne (s : State) (p q : Nat) (x : Part) (h : q ≠ p) : (s.setPart p x).part q = s.part q :=
  mget_mput_ne _ _ _ _ _ h
@[simp] theorem State.part_setCore (s : State) (c p : Nat) (k : Core) : (s.setCore c k).part p = s.part p := rfl
@[simp] theorem State.core_setPart (s : State) (c p : Nat) (x : Part) : (s.setPart p x).core c = s.core c := rfl
@[simp] theorem State.core_postMgmt (s : State) (c : Nat) (e : MgmtEvent) : (s.postMgmt e).core c = s.core c := rfl
@[simp] theorem State.part_setGroup (s : State) (c sl p : Nat) (g : Group) : (s.setGroup c sl g).part p = s.part p := rfl
@[simp] theorem State.core_setGroup_self (s : State) (c sl : Nat) (g : Group) : (s.setGroup c sl g).core c = (s.core c).setGroup sl g := by
  simp [State.setGroup]
theorem State.core_setGroup_ne (s : State) (c sl d : Nat) (g : Group) (h : d ≠ c) : (s.setGroup c sl g).core d = s.core d :=
  State.core_setCore_ne _ _ _ _ h
@[simp] theorem State.group_setGroup_self (s : State) (c sl : Nat) (g : Group) : (s.setGroup c sl g).group c sl = g := by
  simp [State.group]
theorem State.group_setGroup_slot (s : State) (c sl t : Nat) (g : Group) (h : t ≠ sl) : (s.setGroup c sl g).group c t = s.group c t := by
  simp [State.group, Core.group_setGroup_ne _ _ _ _ h]
theorem State.group_setGroup_core (s : State) (c sl d t : Nat) (g : Group) (h : d ≠ c) : (s.setGroup c sl g).group d t = s.group d t := by
  simp [State.group, State.core_setGroup_ne _ _ _ _ _ h]
@[simp] theorem State.core_cycle_self (s : State) (c n : Nat) : (s.cycle c n).core c = { s.core c with clk := (s.core c).clk + d64 n } := by
  simp [State.cycle]
theorem State.core_cycle_ne (s : State) (c d n : Nat) (h : d ≠ c) : (s.cycle c n).core d = s.core d := State.core_setCore_ne _ _ _ _ h
@[simp] theorem State.part_cycle (s : State) (c n p : Nat) : (s.cycle c n).part p = s.part p := rfl
@[simp] theorem State.group_cycle (s : State) (c n d sl : Nat) : (s.cycle c n).group d sl = s.group d sl := by
  by_cases h : d = c
  · subst h; simp [State.group, Core.group]
  · simp [State.group, State.core_cycle_ne _ _ _ _ h]
@[simp] theorem Group.sreg_setS_self (g : Group) (n : Nat) (v : Dword) : (g.setS n v).sreg n = v := mget_mput_self _ _ _ _
theorem Group.sreg_setS_ne (g : Group) (n k : Nat) (v : Dword) (h : k ≠ n) : (g.setS n v).sreg k = g.sreg k := mget_mput_ne _ _ _ _ _ h
@[simp] theorem Group.vreg_setS (g : Group) (n k : Nat) (v : Dword) : (g.setS n v).vreg k = g.vreg k := rfl
@[simp] theorem Group.vreg_setV_self (g : Group) (n : Nat) (v : VReg) : (g.setV n v).vreg n = v := mget_mput_self _ _ _ _
theorem Group.vreg_setV_ne (g : Group) (n k : Nat) (v : VReg) (h : k ≠ n) : (g.setV n v).vreg k = g.vreg k := mget_mput_ne _ _ _ _ _ h
@[simp] theorem Group.sreg_setV (g : Group) (n k : Nat) (v : VReg) : (g.setV n v).sreg k = g.sreg k := rfl
@[simp] theorem Group.sreg_setUnit (g : Group) (u : IUnit) (k : Nat) : (g.setUnit u).sreg k = g.sreg k := rfl
@[simp] theorem Group.vreg_setUnit (g : Group) (u : IUnit) (k : Nat) : (g.setUnit u).vreg k = g.vreg k := rfl

theorem find_updWhere {α : Type} (l : List α) (p : α → Bool) (v : α) (h : l.any p = true) (hv : p v = true) :
    (updWhere p (fun _ => v) l).find? p = some v := by
  induction l with
  | nil => simp at h
  | cons x t ih =>
    by_cases hx : p x = true
    · simp [updWhere, hx, hv]
    · have : t.any p = true := by simpa [hx] using h
      simpa [updWhere, hx] using ih this

/-- A unit of the group that is set reads back. -/
theorem Group.iunit_setUnit (g : Group) (u : IUnit) (h : g.iunits.any (fun x => x.uid == u.uid) = true) : (g.setUnit u).iunit u.uid = u := by
  simp [Group.iunit, Group.setUnit, find_updWhere _ _ _ h]

end Sys2Proof.Machine
end

