-- ==== Sys2Proof/Laws/Issue.lean ====
section
/-! SUPPORT. What issue, landing and the trap operations do: one lemma per shared operation, for later proofs to cite. -/

namespace Sys2Proof.Machine

/-! ### Landing (R114, R115) -/

/-- A write names a scalar register, or a vector register (its lanes or its ptag). -/
def RegWrite.namesS (n : Nat) : RegWrite → Bool
  | .s d _ => d == n
  | _ => false
def RegWrite.namesV (n : Nat) : RegWrite → Bool
  | .s _ _ => false
  | .v d _ _ _ _ => d == n
  | .tag d _ => d == n

@[simp] theorem Group.apply_s (g : Group) (d : Nat) (v : Dword) : g.apply (.s d v) = g.setS d v := rfl

theorem Group.apply_sreg (g : Group) (w : RegWrite) (n : Nat) (h : w.namesS n = false) : (g.apply w).sreg n = g.sreg n := by
  cases w with
  | s d v => exact Group.sreg_setS_ne g d n v (fun e => by subst e; simp [RegWrite.namesS] at h)
  | v d m l t p => rfl
  | tag d t => rfl

theorem Group.apply_vreg (g : Group) (w : RegWrite) (n : Nat) (h : w.namesV n = false) : (g.apply w).vreg n = g.vreg n := by
  cases w with
  | s d v => rfl
  | v d m l t p => exact Group.vreg_setV_ne g d n _ (fun e => by subst e; simp [RegWrite.namesV] at h)
  | tag d t => exact Group.vreg_setV_ne g d n _ (fun e => by subst e; simp [RegWrite.namesV] at h)

theorem landOne_sreg (n : Nat) : ∀ (ws : List DueWrite) (g : Group), (∀ w ∈ ws, w.w.namesS n = false) → (landOne g ws).1.sreg n = g.sreg n
  | [], _, _ => rfl
  | w :: ws, g, h => by
    have ht := landOne_sreg n ws (if w.left ≤ 1 then g.apply w.w else g) (fun x hx => h x (by simp [hx]))
    show (landOne (if w.left ≤ 1 then g.apply w.w else g) ws).1.sreg n = _
    rw [ht]
    split
    · exact Group.apply_sreg g _ n (h w (by simp))
    · rfl

theorem landOne_vreg (n : Nat) : ∀ (ws : List DueWrite) (g : Group), (∀ w ∈ ws, w.w.namesV n = false) → (landOne g ws).1.vreg n = g.vreg n
  | [], _, _ => rfl
  | w :: ws, g, h => by
    have ht := landOne_vreg n ws (if w.left ≤ 1 then g.apply w.w else g) (fun x hx => h x (by simp [hx]))
    show (landOne (if w.left ≤ 1 then g.apply w.w else g) ws).1.vreg n = _
    rw [ht]
    split
    · exact Group.apply_vreg g _ n (h w (by simp))
    · rfl

/-- One slot for a list with a last write: the others land first, then the last lands or comes closer. -/
theorem landOne_append (w : DueWrite) : ∀ (ws : List DueWrite) (g : Group),
    landOne g (ws ++ [w]) =
      ((if w.left ≤ 1 then (landOne g ws).1.apply w.w else (landOne g ws).1),
       (landOne g ws).2 ++ (if w.left ≤ 1 then [] else [{ w with left := w.left - 1 }]))
  | [], g => by simp [landOne]
  | v :: ws, g => by
    have ih := landOne_append w ws (if v.left ≤ 1 then g.apply v.w else g)
    show (let r := landOne (if v.left ≤ 1 then g.apply v.w else g) (ws ++ [w]); (r.1, if v.left ≤ 1 then r.2 else { v with left := v.left - 1 } :: r.2)) = _
    rw [ih]
    by_cases hv : v.left ≤ 1 <;> by_cases hw : w.left ≤ 1 <;> simp [landOne, hv, hw]

theorem landOne_due_namesS (n : Nat) : ∀ (ws : List DueWrite) (g : Group), (∀ w ∈ ws, w.w.namesS n = false) →
    ∀ w ∈ (landOne g ws).2, w.w.namesS n = false
  | [], _, _ => by simp [landOne]
  | v :: ws, g, h => by
    have ih := landOne_due_namesS n ws (if v.left ≤ 1 then g.apply v.w else g) (fun x hx => h x (by simp [hx]))
    have hv := h v (by simp)
    by_cases hl : v.left ≤ 1 <;> simp only [landOne, hl, if_true, if_false] at ih ⊢
    · exact ih
    · intro w hw
      rcases List.mem_cons.1 hw with rfl | hw
      · exact hv
      · exact ih w hw

theorem landOne_due_namesV (n : Nat) : ∀ (ws : List DueWrite) (g : Group), (∀ w ∈ ws, w.w.namesV n = false) →
    ∀ w ∈ (landOne g ws).2, w.w.namesV n = false
  | [], _, _ => by simp [landOne]
  | v :: ws, g, h => by
    have ih := landOne_due_namesV n ws (if v.left ≤ 1 then g.apply v.w else g) (fun x hx => h x (by simp [hx]))
    have hv := h v (by simp)
    by_cases hl : v.left ≤ 1 <;> simp only [landOne, hl, if_true, if_false] at ih ⊢
    · exact ih
    · intro w hw
      rcases List.mem_cons.1 hw with rfl | hw
      · exact hv
      · exact ih w hw

/-- A group that differs in registers only. -/
def Group.sameButRegs (g h : Group) : Prop := h = { g with sregs := h.sregs, vregs := h.vregs }
theorem Group.sameButRegs_refl (g : Group) : g.sameButRegs g := rfl
theorem Group.sameButRegs_apply (g : Group) (w : RegWrite) : g.sameButRegs (g.apply w) := by cases w <;> rfl
theorem Group.sameButRegs_trans {a b c : Group} (h : a.sameButRegs b) (k : b.sameButRegs c) : a.sameButRegs c := by
  unfold Group.sameButRegs at *
  rw [k, h]

theorem landOne_frame : ∀ (ws : List DueWrite) (g : Group), g.sameButRegs (landOne g ws).1
  | [], _ => rfl
  | w :: ws, g => by
    have ih := landOne_frame ws (if w.left ≤ 1 then g.apply w.w else g)
    refine Group.sameButRegs_trans ?_ ih
    split
    · exact Group.sameButRegs_apply g w.w
    · exact Group.sameButRegs_refl g

theorem applyAll_sreg (n : Nat) : ∀ (ws : List DueWrite) (g : Group), (∀ w ∈ ws, w.w.namesS n = false) →
    (ws.foldl (fun g w => g.apply w.w) g).sreg n = g.sreg n
  | [], _, _ => rfl
  | w :: ws, g, h => by
    rw [List.foldl_cons, applyAll_sreg n ws _ (fun x hx => h x (by simp [hx])), Group.apply_sreg g _ n (h w (by simp))]

theorem applyAll_vreg (n : Nat) : ∀ (ws : List DueWrite) (g : Group), (∀ w ∈ ws, w.w.namesV n = false) →
    (ws.foldl (fun g w => g.apply w.w) g).vreg n = g.vreg n
  | [], _, _ => rfl
  | w :: ws, g, h => by
    rw [List.foldl_cons, applyAll_vreg n ws _ (fun x hx => h x (by simp [hx])), Group.apply_vreg g _ n (h w (by simp))]

theorem applyAll_frame : ∀ (ws : List DueWrite) (g : Group), g.sameButRegs (ws.foldl (fun g w => g.apply w.w) g)
  | [], _ => rfl
  | w :: ws, g => Group.sameButRegs_trans (Group.sameButRegs_apply g w.w) (applyAll_frame ws (g.apply w.w))

/-- Landing every due write leaves a register that none names. -/
theorem landAll_sreg (g : Group) (ws : List DueWrite) (n : Nat) (h : ∀ w ∈ ws, w.w.namesS n = false) : (landAll g ws).sreg n = g.sreg n := by
  have step : ∀ (ks : List Nat) (g : Group), (ks.foldl (fun g k => (ws.filter (fun w => w.left == k + 1)).foldl (fun g w => g.apply w.w) g) g).sreg n = g.sreg n := by
    intro ks
    induction ks with
    | nil => intro g; rfl
    | cons k ks ih => intro g; rw [List.foldl_cons, ih, applyAll_sreg n _ _ (fun w hw => h w (List.mem_filter.1 hw).1)]
  exact step _ _
theorem landAll_vreg (g : Group) (ws : List DueWrite) (n : Nat) (h : ∀ w ∈ ws, w.w.namesV n = false) : (landAll g ws).vreg n = g.vreg n := by
  have step : ∀ (ks : List Nat) (g : Group), (ks.foldl (fun g k => (ws.filter (fun w => w.left == k + 1)).foldl (fun g w => g.apply w.w) g) g).vreg n = g.vreg n := by
    intro ks
    induction ks with
    | nil => intro g; rfl
    | cons k ks ih => intro g; rw [List.foldl_cons, ih, applyAll_vreg n _ _ (fun w hw => h w (List.mem_filter.1 hw).1)]
  exact step _ _
theorem landAll_frame (g : Group) (ws : List DueWrite) : g.sameButRegs (landAll g ws) := by
  have step : ∀ (ks : List Nat) (g : Group), g.sameButRegs (ks.foldl (fun g k => (ws.filter (fun w => w.left == k + 1)).foldl (fun g w => g.apply w.w) g) g) := by
    intro ks
    induction ks with
    | nil => intro g; rfl
    | cons k ks ih => intro g; exact Group.sameButRegs_trans (applyAll_frame _ g) (ih _)
  exact step _ _

/-! ### Issue -/

/-- The state in which an instruction that completes leaves its unit. -/
def completed (x : Issue) (s : State) (s1 : State) (latch : Latch) (writes : List DueWrite) (next : Next) (after : Wait) : State :=
  (s1.setGroup s.cur.1 s.cur.2.1 (finishUnit x (s1.group s.cur.1 s.cur.2.1) ((s1.group s.cur.1 s.cur.2.1).iunit s.cur.2.2) latch writes next after)).cycle s.cur.1

/-- The address an instruction goes on at lies in the segment it is in, or in one that is resident. -/
def nextResident (s1 : State) (c sl uid : Nat) (next : Next) (after : Wait) : Prop :=
  after = .exited ∨ ∀ t, needsSegment ((s1.group c sl).iunit uid) next = some t → ((s1.core c).resident (s1.group c sl).part (segOf t)).isSome = true

/-- An instruction without a flush point that passes decode and completes. -/
theorem issue_fin (x : Issue) (s s1 : State) (body : Ictx → State → Done) (latch : Latch) (writes : List DueWrite) (next : Next) (after : Wait)
    (hf : x.flush = false) (ht : x.trapsAfter = false) (hd : decodeTrap x s.ictx.g s.ictx.u = none) (hb : body s.ictx s = .fin s1 latch writes next after)
    (hn : nextResident s1 s.cur.1 s.cur.2.1 s.cur.2.2 next after) : issue x s body = .next (completed x s s1 latch writes next after) := by
  have hb' : body { s.ictx with g := s.group s.ictx.c s.ictx.sl } s = .fin s1 latch writes next after := hb
  unfold issue
  simp only [hd, hf, ht, Bool.or_self, Bool.false_and, ite_self, Bool.false_eq_true, if_false, hb']
  rcases hn with h | h
  · subst h; rfl
  · by_cases ha : after = .exited
    · subst ha; rfl
    · have ha' : (after == Wait.exited) = false := by simpa using ha
      simp only [ha', Bool.false_eq_true, if_false]
      cases hs : needsSegment ((s1.group s.ictx.c s.ictx.sl).iunit s.cur.2.2) next with
      | none => rfl
      | some t => simp only [show ((s1.core s.ictx.c).resident (s1.group s.ictx.c s.ictx.sl).part (segOf t)).isSome = true from h t hs, if_true]; rfl

/-- An instruction at a flush point: the window is flushed first, which takes room on the scoreboard for all of it (R133). -/
theorem issue_flush_fin (x : Issue) (s s1 : State) (body : Ictx → State → Done) (latch : Latch) (writes : List DueWrite) (next : Next) (after : Wait)
    (hf : x.flush = true) (hd : decodeTrap x s.ictx.g s.ictx.u = none) (ht : s.ictx.g.tileFault = none)
    (hw : (s.flush s.cur.1 s.cur.2.1).windowLeft s.cur.1 s.cur.2.1 = false)
    (hb : body { s.ictx with g := (s.flush s.cur.1 s.cur.2.1).group s.cur.1 s.cur.2.1 } (s.flush s.cur.1 s.cur.2.1) = .fin s1 latch writes next after)
    (hn : nextResident s1 s.cur.1 s.cur.2.1 s.cur.2.2 next after) : issue x s body = .next (completed x s s1 latch writes next after) := by
  have hb' : body { s.ictx with g := (s.flush s.ictx.c s.ictx.sl).group s.ictx.c s.ictx.sl } (s.flush s.ictx.c s.ictx.sl) = .fin s1 latch writes next after := hb
  unfold issue
  simp only [hd, hf, ht, Bool.true_or, Bool.true_and, ite_self, if_true, show (s.flush s.ictx.c s.ictx.sl).windowLeft s.ictx.c s.ictx.sl = false from hw, Bool.false_eq_true, if_false, hb']
  rcases hn with h | h
  · subst h; rfl
  · by_cases ha : after = .exited
    · subst ha; rfl
    · have ha' : (after == Wait.exited) = false := by simpa using ha
      simp only [ha', Bool.false_eq_true, if_false]
      cases hs : needsSegment ((s1.group s.ictx.c s.ictx.sl).iunit s.cur.2.2) next with
      | none => rfl
      | some t => simp only [show ((s1.core s.ictx.c).resident (s1.group s.ictx.c s.ictx.sl).part (segOf t)).isSome = true from h t hs, if_true]; rfl

/-- With no entry in the window a flush changes nothing. -/
theorem State.flush_empty (s : State) (c sl : Nat) (h : (s.group c sl).windowOps = []) : s.flush c sl = s := by
  simp [State.flush, h]

theorem State.windowLeft_empty (s : State) (c sl : Nat) (h : (s.group c sl).windowOps = []) : (s.flush c sl).windowLeft c sl = false := by
  simp [State.flush_empty s c sl h, State.windowLeft, h]

/-- With no entry in the window a trap is taken at once. -/
theorem State.trapNow_empty (s : State) (c sl uid cause : Nat) (trx : Dword) (tra resume : Va) (inst : Option Nat) (h : (s.group c sl).windowOps = []) :
    s.trapNow c sl uid cause trx tra resume inst = (s.takeTrap c sl uid cause trx tra resume inst).cycle c := by
  simp [State.trapNow, State.flush_empty s c sl h, State.windowLeft, h]

/-- A decode trap is taken before anything of the instruction is done. -/
theorem issue_trap (x : Issue) (s : State) (body : Ictx → State → Done) (cause : Nat) (trx : Dword)
    (hr : s.ictx.u.wait = .ready) (hd : decodeTrap x s.ictx.g s.ictx.u = some (cause, trx)) :
    issue x s body = .next (s.trapNow s.cur.1 s.cur.2.1 s.cur.2.2 cause trx s.ictx.u.pc s.ictx.u.pc) := by
  unfold issue
  simp only [hr, hd, beq_self_eq_true, if_true]
  rfl

end Sys2Proof.Machine
end

