-- ==== Sys2Proof/Laws/Encoding.lean ====
section
/-! SUPPORT. Reading a field back from a word that was put together field by field: what `encode` and `decodeWord` rest on. -/

namespace Sys2Proof

/-- Every field fits its length. -/
def fieldsFit : List (Nat × Nat) → Prop
  | [] => True
  | (len, x) :: fs => x < 2 ^ len ∧ fieldsFit fs

/-- How many bits the fields take. -/
def fieldsLen : List (Nat × Nat) → Nat
  | [] => 0
  | (len, _) :: fs => len + fieldsLen fs

/-- The field that starts at a bit, if one does. -/
def fieldAt : List (Nat × Nat) → Nat → Option (Nat × Nat)
  | [], _ => none
  | (len, x) :: fs, lo => if lo = 0 then some (len, x) else if lo < len then none else fieldAt fs (lo - len)

theorem wordNat_lt : ∀ (fs : List (Nat × Nat)), fieldsFit fs → wordNat fs < 2 ^ fieldsLen fs
  | [], _ => by simp [wordNat, fieldsLen]
  | (len, x) :: fs, ⟨h, t⟩ => by
    have ih := wordNat_lt fs t
    have hx : x < 2 ^ len := h
    calc x + 2 ^ len * wordNat fs < 2 ^ len + 2 ^ len * wordNat fs := by omega
      _ = 2 ^ len * (wordNat fs + 1) := by ring
      _ ≤ 2 ^ len * 2 ^ fieldsLen fs := Nat.mul_le_mul_left _ ih
      _ = 2 ^ (len + fieldsLen fs) := by rw [pow_add]

theorem wordNat_field : ∀ (fs : List (Nat × Nat)) (lo len x : Nat), fieldsFit fs → fieldAt fs lo = some (len, x) →
    wordNat fs / 2 ^ lo % 2 ^ len = x
  | [], _, _, _, _, h => by simp [fieldAt] at h
  | (l, y) :: fs, lo, len, x, ⟨hy, t⟩, h => by
    have hy : y < 2 ^ l := hy
    unfold fieldAt at h
    split at h
    · next h0 =>
      obtain ⟨rfl, rfl⟩ := Prod.mk.inj (Option.some.inj h)
      subst h0
      simp [wordNat, Nat.add_mul_mod_self_left, Nat.mod_eq_of_lt hy]
    · split at h
      · cases h
      · next h0 h1 =>
        have ih := wordNat_field fs (lo - l) len x t h
        have e : lo = l + (lo - l) := by omega
        rw [e, pow_add, ← Nat.div_div_eq_div_mul]
        show (y + 2 ^ l * wordNat fs) / 2 ^ l / 2 ^ (lo - l) % 2 ^ len = x
        rw [Nat.add_mul_div_left _ _ (Nat.two_pow_pos l), Nat.div_eq_of_lt hy, Nat.zero_add]
        exact ih

/-- A field of a word reads as what was put there. -/
theorem bitsAt_wordOf (fs : List (Nat × Nat)) (hf : fieldsFit fs) (hl : fieldsLen fs = 32) (lo len x : Nat)
    (h : fieldAt fs lo = some (len, x)) : bitsAt (wordOf fs) lo len = x := by
  have hlt : wordNat fs < 2 ^ 32 := hl ▸ wordNat_lt fs hf
  simp only [bitsAt, wordOf, BitVec.toNat_ofNat]
  rw [Nat.mod_eq_of_lt hlt]
  exact wordNat_field fs lo len x hf h

theorem field_of_bits {W : Word} {lo len : Nat} {x : BitVec len} (h : bitsAt W lo len = x.toNat) : field W lo len = x := by
  simp [field, h]
theorem bitAt_of_bits {W : Word} {lo : Nat} {e : Bool} (h : bitsAt W lo 1 = e.toNat) : bitAt W lo = e := by
  rw [bitAt, h]; cases e <;> rfl

/-- `decodeWord` answers the legal instruction that `decodeRaw` names. -/
theorem decodeWord_of_raw {W : Word} {i : Instr} (h : decodeRaw W = some i) (k : i.wf = true) : decodeWord W = .ok i := by
  simp [decodeWord, h, k]

end Sys2Proof
end

