-- ==== Sys2Proof/Laws/PerInstr.lean ====
section
/-! SUPPORT. The families of statements made per instruction: `RoundTrip`, decoding the encoded instruction gives it back. -/

namespace Sys2Proof.Laws.RoundTrip

set_option Elab.async false
set_option linter.unusedSimpArgs false

/-- A legal instruction is what its word decodes to. -/
def Statement (i : Instr) : Prop := i.wf = true → ∀ w, encode i = some w → decodeWord w = .ok i

/-- A fact about every word with given fields holds of the word put together from them. -/
theorem of_fields {P : Word → Prop} (fs : List (Nat × Nat)) (hf : fieldsFit fs) (hl : fieldsLen fs = 32)
    (h : ∀ W, (∀ lo len x, fieldAt fs lo = some (len, x) → bitsAt W lo len = x) → P W) : P (wordOf fs) :=
  h _ (bitsAt_wordOf fs hf hl)

theorem raw00 {W : Word} (h : bitsAt W 25 6 = 0) : decodeRaw W = decodeMajor00 W := by rw [decodeRaw, h]; rfl
theorem raw01 {W : Word} (h : bitsAt W 25 6 = 1) : decodeRaw W = decodeMajor01 W := by rw [decodeRaw, h]; rfl
theorem raw02 {W : Word} (h : bitsAt W 25 6 = 2) : decodeRaw W = decodeMajor02 W := by rw [decodeRaw, h]; rfl
theorem raw03 {W : Word} (h : bitsAt W 25 6 = 3) : decodeRaw W = decodeMajor03 W := by rw [decodeRaw, h]; rfl
theorem raw04 {W : Word} (h : bitsAt W 25 6 = 4) : decodeRaw W = decodeMajor04 W := by rw [decodeRaw, h]; rfl
theorem raw05 {W : Word} (h : bitsAt W 25 6 = 5) : decodeRaw W = decodeMajor05 W := by rw [decodeRaw, h]; rfl
theorem raw06 {W : Word} (h : bitsAt W 25 6 = 6) : decodeRaw W = decodeMajor06 W := by rw [decodeRaw, h]; rfl
theorem raw07 {W : Word} (h : bitsAt W 25 6 = 7) : decodeRaw W = decodeMajor07 W := by rw [decodeRaw, h]; rfl
theorem raw08 {W : Word} (h : bitsAt W 25 6 = 8) : decodeRaw W = decodeMajor08 W := by rw [decodeRaw, h]; rfl
theorem raw09 {W : Word} (h : bitsAt W 25 6 = 9) : decodeRaw W = decodeMajor09 W := by rw [decodeRaw, h]; rfl
theorem raw0A {W : Word} (h : bitsAt W 25 6 = 10) : decodeRaw W = decodeMajor0A W := by rw [decodeRaw, h]; rfl
theorem raw0B {W : Word} (h : bitsAt W 25 6 = 11) : decodeRaw W = decodeMajor0B W := by rw [decodeRaw, h]; rfl
theorem raw0C {W : Word} (h : bitsAt W 25 6 = 12) : decodeRaw W = decodeMajor0C W := by rw [decodeRaw, h]; rfl
theorem raw0D {W : Word} (h : bitsAt W 25 6 = 13) : decodeRaw W = decodeMajor0D W := by rw [decodeRaw, h]; rfl
theorem raw0E {W : Word} (h : bitsAt W 25 6 = 14) : decodeRaw W = decodeMajor0E W := by rw [decodeRaw, h]; rfl
theorem raw0F {W : Word} (h : bitsAt W 25 6 = 15) : decodeRaw W = decodeMajor0F W := by rw [decodeRaw, h]; rfl
theorem raw10 {W : Word} (h : bitsAt W 25 6 = 16) : decodeRaw W = decodeMajor10 W := by rw [decodeRaw, h]; rfl
theorem raw11 {W : Word} (h : bitsAt W 25 6 = 17) : decodeRaw W = decodeMajor11 W := by rw [decodeRaw, h]; rfl
theorem raw12 {W : Word} (h : bitsAt W 25 6 = 18) : decodeRaw W = decodeMajor12 W := by rw [decodeRaw, h]; rfl
theorem raw13 {W : Word} (h : bitsAt W 25 6 = 19) : decodeRaw W = decodeMajor13 W := by rw [decodeRaw, h]; rfl
theorem raw14 {W : Word} (h : bitsAt W 25 6 = 20) : decodeRaw W = decodeMajor14 W := by rw [decodeRaw, h]; rfl
theorem raw15 {W : Word} (h : bitsAt W 25 6 = 21) : decodeRaw W = decodeMajor15 W := by rw [decodeRaw, h]; rfl
theorem raw16 {W : Word} (h : bitsAt W 25 6 = 22) : decodeRaw W = decodeMajor16 W := by rw [decodeRaw, h]; rfl
theorem raw17 {W : Word} (h : bitsAt W 25 6 = 23) : decodeRaw W = decodeMajor17 W := by rw [decodeRaw, h]; rfl
theorem raw18 {W : Word} (h : bitsAt W 25 6 = 24) : decodeRaw W = decodeMajor18 W := by rw [decodeRaw, h]; rfl
theorem raw19 {W : Word} (h : bitsAt W 25 6 = 25) : decodeRaw W = decodeMajor19 W := by rw [decodeRaw, h]; rfl
theorem raw1A {W : Word} (h : bitsAt W 25 6 = 26) : decodeRaw W = decodeMajor1A W := by rw [decodeRaw, h]; rfl
theorem raw1B {W : Word} (h : bitsAt W 25 6 = 27) : decodeRaw W = decodeMajor1B W := by rw [decodeRaw, h]; rfl
theorem raw1C {W : Word} (h : bitsAt W 25 6 = 28) : decodeRaw W = decodeMajor1C W := by rw [decodeRaw, h]; rfl
theorem raw1D {W : Word} (h : bitsAt W 25 6 = 29) : decodeRaw W = decodeMajor1D W := by rw [decodeRaw, h]; rfl
theorem raw1E {W : Word} (h : bitsAt W 25 6 = 30) : decodeRaw W = decodeMajor1E W := by rw [decodeRaw, h]; rfl
theorem raw1F {W : Word} (h : bitsAt W 25 6 = 31) : decodeRaw W = decodeMajor1F W := by rw [decodeRaw, h]; rfl
theorem raw20 {W : Word} (h : bitsAt W 25 6 = 32) : decodeRaw W = decodeMajor20 W := by rw [decodeRaw, h]; rfl
theorem raw21 {W : Word} (h : bitsAt W 25 6 = 33) : decodeRaw W = decodeMajor21 W := by rw [decodeRaw, h]; rfl
theorem raw22 {W : Word} (h : bitsAt W 25 6 = 34) : decodeRaw W = decodeMajor22 W := by rw [decodeRaw, h]; rfl
theorem raw23 {W : Word} (h : bitsAt W 25 6 = 35) : decodeRaw W = decodeMajor23 W := by rw [decodeRaw, h]; rfl
theorem raw24 {W : Word} (h : bitsAt W 25 6 = 36) : decodeRaw W = decodeMajor24 W := by rw [decodeRaw, h]; rfl
theorem raw25 {W : Word} (h : bitsAt W 25 6 = 37) : decodeRaw W = decodeMajor25 W := by rw [decodeRaw, h]; rfl
theorem raw26 {W : Word} (h : bitsAt W 25 6 = 38) : decodeRaw W = decodeMajor26 W := by rw [decodeRaw, h]; rfl
theorem raw27 {W : Word} (h : bitsAt W 25 6 = 39) : decodeRaw W = decodeMajor27 W := by rw [decodeRaw, h]; rfl
theorem raw28 {W : Word} (h : bitsAt W 25 6 = 40) : decodeRaw W = decodeMajor28 W := by rw [decodeRaw, h]; rfl
theorem raw29 {W : Word} (h : bitsAt W 25 6 = 41) : decodeRaw W = decodeMajor29 W := by rw [decodeRaw, h]; rfl
theorem raw2A {W : Word} (h : bitsAt W 25 6 = 42) : decodeRaw W = decodeMajor2A W := by rw [decodeRaw, h]; rfl
theorem raw2B {W : Word} (h : bitsAt W 25 6 = 43) : decodeRaw W = decodeMajor2B W := by rw [decodeRaw, h]; rfl
theorem raw2C {W : Word} (h : bitsAt W 25 6 = 44) : decodeRaw W = decodeMajor2C W := by rw [decodeRaw, h]; rfl
theorem raw2D {W : Word} (h : bitsAt W 25 6 = 45) : decodeRaw W = decodeMajor2D W := by rw [decodeRaw, h]; rfl
theorem raw2E {W : Word} (h : bitsAt W 25 6 = 46) : decodeRaw W = decodeMajor2E W := by rw [decodeRaw, h]; rfl
theorem raw2F {W : Word} (h : bitsAt W 25 6 = 47) : decodeRaw W = decodeMajor2F W := by rw [decodeRaw, h]; rfl
theorem raw30 {W : Word} (h : bitsAt W 25 6 = 48) : decodeRaw W = decodeMajor30 W := by rw [decodeRaw, h]; rfl
theorem raw31 {W : Word} (h : bitsAt W 25 6 = 49) : decodeRaw W = decodeMajor31 W := by rw [decodeRaw, h]; rfl
theorem raw32 {W : Word} (h : bitsAt W 25 6 = 50) : decodeRaw W = decodeMajor32 W := by rw [decodeRaw, h]; rfl
theorem raw33 {W : Word} (h : bitsAt W 25 6 = 51) : decodeRaw W = decodeMajor33 W := by rw [decodeRaw, h]; rfl
theorem raw34 {W : Word} (h : bitsAt W 25 6 = 52) : decodeRaw W = decodeMajor34 W := by rw [decodeRaw, h]; rfl
theorem raw35 {W : Word} (h : bitsAt W 25 6 = 53) : decodeRaw W = decodeMajor35 W := by rw [decodeRaw, h]; rfl
theorem raw36 {W : Word} (h : bitsAt W 25 6 = 54) : decodeRaw W = decodeMajor36 W := by rw [decodeRaw, h]; rfl
theorem raw37 {W : Word} (h : bitsAt W 25 6 = 55) : decodeRaw W = decodeMajor37 W := by rw [decodeRaw, h]; rfl
theorem raw38 {W : Word} (h : bitsAt W 25 6 = 56) : decodeRaw W = decodeMajor38 W := by rw [decodeRaw, h]; rfl
theorem raw39 {W : Word} (h : bitsAt W 25 6 = 57) : decodeRaw W = decodeMajor39 W := by rw [decodeRaw, h]; rfl
theorem raw3A {W : Word} (h : bitsAt W 25 6 = 58) : decodeRaw W = decodeMajor3A W := by rw [decodeRaw, h]; rfl
theorem raw3B {W : Word} (h : bitsAt W 25 6 = 59) : decodeRaw W = decodeMajor3B W := by rw [decodeRaw, h]; rfl
theorem raw3C {W : Word} (h : bitsAt W 25 6 = 60) : decodeRaw W = decodeMajor3C W := by rw [decodeRaw, h]; rfl
theorem raw3D {W : Word} (h : bitsAt W 25 6 = 61) : decodeRaw W = decodeMajor3D W := by rw [decodeRaw, h]; rfl

theorem coldReset : Statement .coldReset := fun _ _ h => by cases h
theorem orderlyWarmReset : Statement .orderlyWarmReset := fun _ _ h => by cases h
theorem forcedWarmReset : Statement .forcedWarmReset := fun _ _ h => by cases h
theorem orderlyResetTimeout : Statement .orderlyResetTimeout := fun _ _ h => by cases h
theorem retrainComplete : Statement .retrainComplete := fun _ _ h => by cases h
theorem operatingPointLower : Statement .operatingPointLower := fun _ _ h => by cases h
theorem operatingPointRaise : Statement .operatingPointRaise := fun _ _ h => by cases h
theorem thermalShutdown : Statement .thermalShutdown := fun _ _ h => by cases h
theorem droopTrip : Statement .droopTrip := fun _ _ h => by cases h
theorem targetedSelfTest : Statement .targetedSelfTest := fun _ _ h => by cases h
theorem selfTestForcedWindow : Statement .selfTestForcedWindow := fun _ _ h => by cases h
theorem selfTestResult : Statement .selfTestResult := fun _ _ h => by cases h
theorem repairExport : Statement .repairExport := fun _ _ h => by cases h
theorem signedImageWrite : Statement .signedImageWrite := fun _ _ h => by cases h
theorem spdmRequest : Statement .spdmRequest := fun _ _ h => by cases h
theorem keyInstall : Statement .keyInstall := fun _ _ h => by cases h
theorem registerWrite : Statement .registerWrite := fun _ _ h => by cases h
theorem memoryRequest : Statement .memoryRequest := fun _ _ h => by cases h
theorem channelSchedule : Statement .channelSchedule := fun _ _ h => by cases h
theorem promotion : Statement .promotion := fun _ _ h => by cases h
theorem memoryRequestComplete : Statement .memoryRequestComplete := fun _ _ h => by cases h
theorem victimWriteback : Statement .victimWriteback := fun _ _ h => by cases h
theorem perBankRefresh : Statement .perBankRefresh := fun _ _ h => by cases h
theorem cacheLayerDisable : Statement .cacheLayerDisable := fun _ _ h => by cases h
theorem patrolScrub : Statement .patrolScrub := fun _ _ h => by cases h
theorem rd : Statement .rd := fun _ _ h => by cases h
theorem wr : Statement .wr := fun _ _ h => by cases h
theorem wrm : Statement .wrm := fun _ _ h => by cases h
theorem atomRequest : Statement .atomRequest := fun _ _ h => by cases h
theorem mcw : Statement .mcw := fun _ _ h => by cases h
theorem pwr : Statement .pwr := fun _ _ h => by cases h
theorem msge : Statement .msge := fun _ _ h => by cases h
theorem msgh : Statement .msgh := fun _ _ h => by cases h
theorem fin : Statement .fin := fun _ _ h => by cases h
theorem rsp : Statement .rsp := fun _ _ h => by cases h
theorem requestTimeout : Statement .requestTimeout := fun _ _ h => by cases h
theorem portFailure : Statement .portFailure := fun _ _ h => by cases h
theorem flitReceive : Statement .flitReceive := fun _ _ h => by cases h
theorem keyCounterExhausted : Statement .keyCounterExhausted := fun _ _ h => by cases h
theorem keyWindowGo : Statement .keyWindowGo := fun _ _ h => by cases h
theorem keyInstallDone : Statement .keyInstallDone := fun _ _ h => by cases h
theorem checkpointGo : Statement .checkpointGo := fun _ _ h => by cases h
theorem checkpointAbort : Statement .checkpointAbort := fun _ _ h => by cases h
theorem checkpointDone : Statement .checkpointDone := fun _ _ h => by cases h
theorem payloadRead : Statement .payloadRead := fun _ _ h => by cases h
theorem refusedResend : Statement .refusedResend := fun _ _ h => by cases h
theorem cairnCompletion : Statement .cairnCompletion := fun _ _ h => by cases h
theorem cctlEnSet : Statement .cctlEnSet := fun _ _ h => by cases h
theorem cctlEnClear : Statement .cctlEnClear := fun _ _ h => by cases h
theorem bar2Write : Statement .bar2Write := fun _ _ h => by cases h
theorem bar2Read : Statement .bar2Read := fun _ _ h => by cases h
theorem form : Statement .form := fun _ _ h => by cases h
theorem halt : Statement .halt := fun _ _ h => by cases h
theorem haltDone : Statement .haltDone := fun _ _ h => by cases h
theorem resume : Statement .resume := fun _ _ h => by cases h
theorem swapOut : Statement .swapOut := fun _ _ h => by cases h
theorem swapOutDone : Statement .swapOutDone := fun _ _ h => by cases h
theorem swapInDone : Statement .swapInDone := fun _ _ h => by cases h
theorem dissolve : Statement .dissolve := fun _ _ h => by cases h
theorem lqEnable : Statement .lqEnable := fun _ _ h => by cases h
theorem lqDisable : Statement .lqDisable := fun _ _ h => by cases h
theorem writeIndexNotify : Statement .writeIndexNotify := fun _ _ h => by cases h
theorem launchRecordRead : Statement .launchRecordRead := fun _ _ h => by cases h
theorem graphNodeComplete : Statement .graphNodeComplete := fun _ _ h => by cases h
theorem clusterPlacement : Statement .clusterPlacement := fun _ _ h => by cases h
theorem reservation : Statement .reservation := fun _ _ h => by cases h
theorem launchCompletion : Statement .launchCompletion := fun _ _ h => by cases h
theorem groupRetire : Statement .groupRetire := fun _ _ h => by cases h
theorem taskDispatch : Statement .taskDispatch := fun _ _ h => by cases h
theorem taskStart : Statement .taskStart := fun _ _ h => by cases h
theorem taskHaltTimeout : Statement .taskHaltTimeout := fun _ _ h => by cases h
theorem deferredEnqueue : Statement .deferredEnqueue := fun _ _ h => by cases h
theorem operationComplete : Statement .operationComplete := fun _ _ h => by cases h
theorem sfuEntryComplete : Statement .sfuEntryComplete := fun _ _ h => by cases h
theorem safeTimeout : Statement .safeTimeout := fun _ _ h => by cases h
theorem pairReset : Statement .pairReset := fun _ _ h => by cases h
theorem engineCommandStart : Statement .engineCommandStart := fun _ _ h => by cases h
theorem engineCommandComplete : Statement .engineCommandComplete := fun _ _ h => by cases h
theorem windowTimeout : Statement .windowTimeout := fun _ _ h => by cases h
theorem farCopyInvalidation : Statement .farCopyInvalidation := fun _ _ h => by cases h
theorem evictLastDemotion : Statement .evictLastDemotion := fun _ _ h => by cases h
theorem fqres : Statement .fqres := fun _ _ h => by cases h
theorem fqr : Statement .fqr := fun _ _ h => by cases h
theorem mcgWrite : Statement .mcgWrite := fun _ _ h => by cases h
theorem carTimeout : Statement .carTimeout := fun _ _ h => by cases h
theorem cbcTimeout : Statement .cbcTimeout := fun _ _ h => by cases h
theorem nop (e) : Statement (.nop e) := by
  intro h v hv
  cases Option.some.inj hv
  refine decodeWord_of_raw (of_fields (P := fun W => decodeRaw W = some (.nop e)) [(21, 0), (4, 0), (6, 0), (1, e.toNat)] ⟨by decide, by decide, by decide, Bool.toNat_lt e, trivial⟩ rfl (fun W g => ?_)) h
  refine (raw00 (g 25 6 0 rfl)).trans ?_
  simp only [decodeMajor00, fixedAt, g 0 21 0 rfl, g 21 4 0 rfl, bitAt_of_bits (g 31 1 _ rfl), if_true, and_self]
theorem hintIl (e i) : Statement (.hintIl e i) := by
  intro h v hv
  cases Option.some.inj hv
  refine decodeWord_of_raw (of_fields (P := fun W => decodeRaw W = some (.hintIl e i)) [(21, i.toNat), (4, 1), (6, 0), (1, e.toNat)] ⟨i.isLt, by decide, by decide, Bool.toNat_lt e, trivial⟩ rfl (fun W g => ?_)) h
  refine (raw00 (g 25 6 0 rfl)).trans ?_
  simp only [decodeMajor00, fixedAt, field_of_bits (x := i) (g 0 21 _ rfl), g 21 4 1 rfl, bitAt_of_bits (g 31 1 _ rfl), if_true, and_self]
theorem hintIh (e i) : Statement (.hintIh e i) := by
  intro h v hv
  cases Option.some.inj hv
  refine decodeWord_of_raw (of_fields (P := fun W => decodeRaw W = some (.hintIh e i)) [(11, i.toNat), (10, 0), (4, 2), (6, 0), (1, e.toNat)] ⟨i.isLt, by decide, by decide, by decide, Bool.toNat_lt e, trivial⟩ rfl (fun W g => ?_)) h
  refine (raw00 (g 25 6 0 rfl)).trans ?_
  simp only [decodeMajor00, fixedAt, field_of_bits (x := i) (g 0 11 _ rfl), g 11 10 0 rfl, g 21 4 2 rfl, bitAt_of_bits (g 31 1 _ rfl), if_true, and_self]
theorem hintRnd (e x n m) : Statement (.hintRnd e x n m) := by
  intro h v hv
  cases Option.some.inj hv
  refine decodeWord_of_raw (of_fields (P := fun W => decodeRaw W = some (.hintRnd e x n m)) [(3, m.toNat), (2, n.toNat), (1, x.toNat), (15, 0), (4, 3), (6, 0), (1, e.toNat)] ⟨m.isLt, n.isLt, Bool.toNat_lt x, by decide, by decide, by decide, Bool.toNat_lt e, trivial⟩ rfl (fun W g => ?_)) h
  refine (raw00 (g 25 6 0 rfl)).trans ?_
  simp only [decodeMajor00, fixedAt, field_of_bits (x := m) (g 0 3 _ rfl), field_of_bits (x := n) (g 3 2 _ rfl), bitAt_of_bits (g 5 1 _ rfl), g 6 15 0 rfl, g 21 4 3 rfl, bitAt_of_bits (g 31 1 _ rfl), if_true, and_self]
theorem hintMo (e s o) : Statement (.hintMo e s o) := by
  intro h v hv
  cases Option.some.inj hv
  refine decodeWord_of_raw (of_fields (P := fun W => decodeRaw W = some (.hintMo e s o)) [(3, o.toNat), (3, s.toNat), (15, 0), (4, 4), (6, 0), (1, e.toNat)] ⟨o.isLt, s.isLt, by decide, by decide, by decide, Bool.toNat_lt e, trivial⟩ rfl (fun W g => ?_)) h
  refine (raw00 (g 25 6 0 rfl)).trans ?_
  simp only [decodeMajor00, fixedAt, field_of_bits (x := o) (g 0 3 _ rfl), field_of_bits (x := s) (g 3 3 _ rfl), g 6 15 0 rfl, g 21 4 4 rfl, bitAt_of_bits (g 31 1 _ rfl), if_true, and_self]
theorem hintCp (e d k p) : Statement (.hintCp e d k p) := by
  intro h v hv
  cases Option.some.inj hv
  refine decodeWord_of_raw (of_fields (P := fun W => decodeRaw W = some (.hintCp e d k p)) [(2, p.toNat), (2, k.toNat), (16, d.toNat), (1, 0), (4, 5), (6, 0), (1, e.toNat)] ⟨p.isLt, k.isLt, d.isLt, by decide, by decide, by decide, Bool.toNat_lt e, trivial⟩ rfl (fun W g => ?_)) h
  refine (raw00 (g 25 6 0 rfl)).trans ?_
  simp only [decodeMajor00, fixedAt, field_of_bits (x := p) (g 0 2 _ rfl), field_of_bits (x := k) (g 2 2 _ rfl), field_of_bits (x := d) (g 4 16 _ rfl), g 20 1 0 rfl, g 21 4 5 rfl, bitAt_of_bits (g 31 1 _ rfl), if_true, and_self]
theorem hintAo (e o) : Statement (.hintAo e o) := by
  intro h v hv
  cases Option.some.inj hv
  refine decodeWord_of_raw (of_fields (P := fun W => decodeRaw W = some (.hintAo e o)) [(5, o.toNat), (16, 0), (4, 6), (6, 0), (1, e.toNat)] ⟨o.isLt, by decide, by decide, by decide, Bool.toNat_lt e, trivial⟩ rfl (fun W g => ?_)) h
  refine (raw00 (g 25 6 0 rfl)).trans ?_
  simp only [decodeMajor00, fixedAt, field_of_bits (x := o) (g 0 5 _ rfl), g 5 16 0 rfl, g 21 4 6 rfl, bitAt_of_bits (g 31 1 _ rfl), if_true, and_self]
theorem hintRw (e) : Statement (.hintRw e) := by
  intro h v hv
  cases Option.some.inj hv
  refine decodeWord_of_raw (of_fields (P := fun W => decodeRaw W = some (.hintRw e)) [(21, 0), (4, 7), (6, 0), (1, e.toNat)] ⟨by decide, by decide, by decide, Bool.toNat_lt e, trivial⟩ rfl (fun W g => ?_)) h
  refine (raw00 (g 25 6 0 rfl)).trans ?_
  simp only [decodeMajor00, fixedAt, g 0 21 0 rfl, g 21 4 7 rfl, bitAt_of_bits (g 31 1 _ rfl), if_true, and_self]
theorem sadd (e w d a b) : Statement (.sadd e w d a b) := by
  intro h v hv
  cases Option.some.inj hv
  refine decodeWord_of_raw (of_fields (P := fun W => decodeRaw W = some (.sadd e w d a b)) [(3, 0), (7, b.toNat), (7, a.toNat), (7, d.toNat), (1, w.toNat), (6, 1), (1, e.toNat)] ⟨by decide, b.isLt, a.isLt, d.isLt, Bool.toNat_lt w, by decide, Bool.toNat_lt e, trivial⟩ rfl (fun W g => ?_)) h
  refine (raw01 (g 25 6 1 rfl)).trans ?_
  simp only [decodeMajor01, fixedAt, g 0 3 0 rfl, field_of_bits (x := b) (g 3 7 _ rfl), field_of_bits (x := a) (g 10 7 _ rfl), field_of_bits (x := d) (g 17 7 _ rfl), bitAt_of_bits (g 24 1 _ rfl), bitAt_of_bits (g 31 1 _ rfl), if_true, and_self]
theorem ssub (e w d a b) : Statement (.ssub e w d a b) := by
  intro h v hv
  cases Option.some.inj hv
  refine decodeWord_of_raw (of_fields (P := fun W => decodeRaw W = some (.ssub e w d a b)) [(3, 1), (7, b.toNat), (7, a.toNat), (7, d.toNat), (1, w.toNat), (6, 1), (1, e.toNat)] ⟨by decide, b.isLt, a.isLt, d.isLt, Bool.toNat_lt w, by decide, Bool.toNat_lt e, trivial⟩ rfl (fun W g => ?_)) h
  refine (raw01 (g 25 6 1 rfl)).trans ?_
  simp only [decodeMajor01, fixedAt, g 0 3 1 rfl, field_of_bits (x := b) (g 3 7 _ rfl), field_of_bits (x := a) (g 10 7 _ rfl), field_of_bits (x := d) (g 17 7 _ rfl), bitAt_of_bits (g 24 1 _ rfl), bitAt_of_bits (g 31 1 _ rfl), if_true, and_self]
theorem smul (e w d a b) : Statement (.smul e w d a b) := by
  intro h v hv
  cases Option.some.inj hv
  refine decodeWord_of_raw (of_fields (P := fun W => decodeRaw W = some (.smul e w d a b)) [(3, 2), (7, b.toNat), (7, a.toNat), (7, d.toNat), (1, w.toNat), (6, 1), (1, e.toNat)] ⟨by decide, b.isLt, a.isLt, d.isLt, Bool.toNat_lt w, by decide, Bool.toNat_lt e, trivial⟩ rfl (fun W g => ?_)) h
  refine (raw01 (g 25 6 1 rfl)).trans ?_
  simp only [decodeMajor01, fixedAt, g 0 3 2 rfl, field_of_bits (x := b) (g 3 7 _ rfl), field_of_bits (x := a) (g 10 7 _ rfl), field_of_bits (x := d) (g 17 7 _ rfl), bitAt_of_bits (g 24 1 _ rfl), bitAt_of_bits (g 31 1 _ rfl), if_true, and_self]
theorem smulh (e w d a b) : Statement (.smulh e w d a b) := by
  intro h v hv
  cases Option.some.inj hv
  refine decodeWord_of_raw (of_fields (P := fun W => decodeRaw W = some (.smulh e w d a b)) [(3, 3), (7, b.toNat), (7, a.toNat), (7, d.toNat), (1, w.toNat), (6, 1), (1, e.toNat)] ⟨by decide, b.isLt, a.isLt, d.isLt, Bool.toNat_lt w, by decide, Bool.toNat_lt e, trivial⟩ rfl (fun W g => ?_)) h
  refine (raw01 (g 25 6 1 rfl)).trans ?_
  simp only [decodeMajor01, fixedAt, g 0 3 3 rfl, field_of_bits (x := b) (g 3 7 _ rfl), field_of_bits (x := a) (g 10 7 _ rfl), field_of_bits (x := d) (g 17 7 _ rfl), bitAt_of_bits (g 24 1 _ rfl), bitAt_of_bits (g 31 1 _ rfl), if_true, and_self]
theorem sand (e w d a b) : Statement (.sand e w d a b) := by
  intro h v hv
  cases Option.some.inj hv
  refine decodeWord_of_raw (of_fields (P := fun W => decodeRaw W = some (.sand e w d a b)) [(3, 4), (7, b.toNat), (7, a.toNat), (7, d.toNat), (1, w.toNat), (6, 1), (1, e.toNat)] ⟨by decide, b.isLt, a.isLt, d.isLt, Bool.toNat_lt w, by decide, Bool.toNat_lt e, trivial⟩ rfl (fun W g => ?_)) h
  refine (raw01 (g 25 6 1 rfl)).trans ?_
  simp only [decodeMajor01, fixedAt, g 0 3 4 rfl, field_of_bits (x := b) (g 3 7 _ rfl), field_of_bits (x := a) (g 10 7 _ rfl), field_of_bits (x := d) (g 17 7 _ rfl), bitAt_of_bits (g 24 1 _ rfl), bitAt_of_bits (g 31 1 _ rfl), if_true, and_self]
theorem sor (e w d a b) : Statement (.sor e w d a b) := by
  intro h v hv
  cases Option.some.inj hv
  refine decodeWord_of_raw (of_fields (P := fun W => decodeRaw W = some (.sor e w d a b)) [(3, 5), (7, b.toNat), (7, a.toNat), (7, d.toNat), (1, w.toNat), (6, 1), (1, e.toNat)] ⟨by decide, b.isLt, a.isLt, d.isLt, Bool.toNat_lt w, by decide, Bool.toNat_lt e, trivial⟩ rfl (fun W g => ?_)) h
  refine (raw01 (g 25 6 1 rfl)).trans ?_
  simp only [decodeMajor01, fixedAt, g 0 3 5 rfl, field_of_bits (x := b) (g 3 7 _ rfl), field_of_bits (x := a) (g 10 7 _ rfl), field_of_bits (x := d) (g 17 7 _ rfl), bitAt_of_bits (g 24 1 _ rfl), bitAt_of_bits (g 31 1 _ rfl), if_true, and_self]
theorem sxor (e w d a b) : Statement (.sxor e w d a b) := by
  intro h v hv
  cases Option.some.inj hv
  refine decodeWord_of_raw (of_fields (P := fun W => decodeRaw W = some (.sxor e w d a b)) [(3, 6), (7, b.toNat), (7, a.toNat), (7, d.toNat), (1, w.toNat), (6, 1), (1, e.toNat)] ⟨by decide, b.isLt, a.isLt, d.isLt, Bool.toNat_lt w, by decide, Bool.toNat_lt e, trivial⟩ rfl (fun W g => ?_)) h
  refine (raw01 (g 25 6 1 rfl)).trans ?_
  simp only [decodeMajor01, fixedAt, g 0 3 6 rfl, field_of_bits (x := b) (g 3 7 _ rfl), field_of_bits (x := a) (g 10 7 _ rfl), field_of_bits (x := d) (g 17 7 _ rfl), bitAt_of_bits (g 24 1 _ rfl), bitAt_of_bits (g 31 1 _ rfl), if_true, and_self]
theorem sandn (e w d a b) : Statement (.sandn e w d a b) := by
  intro h v hv
  cases Option.some.inj hv
  refine decodeWord_of_raw (of_fields (P := fun W => decodeRaw W = some (.sandn e w d a b)) [(3, 7), (7, b.toNat), (7, a.toNat), (7, d.toNat), (1, w.toNat), (6, 1), (1, e.toNat)] ⟨by decide, b.isLt, a.isLt, d.isLt, Bool.toNat_lt w, by decide, Bool.toNat_lt e, trivial⟩ rfl (fun W g => ?_)) h
  refine (raw01 (g 25 6 1 rfl)).trans ?_
  simp only [decodeMajor01, fixedAt, g 0 3 7 rfl, field_of_bits (x := b) (g 3 7 _ rfl), field_of_bits (x := a) (g 10 7 _ rfl), field_of_bits (x := d) (g 17 7 _ rfl), bitAt_of_bits (g 24 1 _ rfl), bitAt_of_bits (g 31 1 _ rfl), if_true, and_self]
theorem sshl (e w d a b) : Statement (.sshl e w d a b) := by
  intro h v hv
  cases Option.some.inj hv
  refine decodeWord_of_raw (of_fields (P := fun W => decodeRaw W = some (.sshl e w d a b)) [(3, 0), (7, b.toNat), (7, a.toNat), (7, d.toNat), (1, w.toNat), (6, 2), (1, e.toNat)] ⟨by decide, b.isLt, a.isLt, d.isLt, Bool.toNat_lt w, by decide, Bool.toNat_lt e, trivial⟩ rfl (fun W g => ?_)) h
  refine (raw02 (g 25 6 2 rfl)).trans ?_
  simp only [decodeMajor02, fixedAt, g 0 3 0 rfl, field_of_bits (x := b) (g 3 7 _ rfl), field_of_bits (x := a) (g 10 7 _ rfl), field_of_bits (x := d) (g 17 7 _ rfl), bitAt_of_bits (g 24 1 _ rfl), bitAt_of_bits (g 31 1 _ rfl), if_true, and_self]
theorem sshr (e w d a b) : Statement (.sshr e w d a b) := by
  intro h v hv
  cases Option.some.inj hv
  refine decodeWord_of_raw (of_fields (P := fun W => decodeRaw W = some (.sshr e w d a b)) [(3, 1), (7, b.toNat), (7, a.toNat), (7, d.toNat), (1, w.toNat), (6, 2), (1, e.toNat)] ⟨by decide, b.isLt, a.isLt, d.isLt, Bool.toNat_lt w, by decide, Bool.toNat_lt e, trivial⟩ rfl (fun W g => ?_)) h
  refine (raw02 (g 25 6 2 rfl)).trans ?_
  simp only [decodeMajor02, fixedAt, g 0 3 1 rfl, field_of_bits (x := b) (g 3 7 _ rfl), field_of_bits (x := a) (g 10 7 _ rfl), field_of_bits (x := d) (g 17 7 _ rfl), bitAt_of_bits (g 24 1 _ rfl), bitAt_of_bits (g 31 1 _ rfl), if_true, and_self]
theorem ssra (e w d a b) : Statement (.ssra e w d a b) := by
  intro h v hv
  cases Option.some.inj hv
  refine decodeWord_of_raw (of_fields (P := fun W => decodeRaw W = some (.ssra e w d a b)) [(3, 2), (7, b.toNat), (7, a.toNat), (7, d.toNat), (1, w.toNat), (6, 2), (1, e.toNat)] ⟨by decide, b.isLt, a.isLt, d.isLt, Bool.toNat_lt w, by decide, Bool.toNat_lt e, trivial⟩ rfl (fun W g => ?_)) h
  refine (raw02 (g 25 6 2 rfl)).trans ?_
  simp only [decodeMajor02, fixedAt, g 0 3 2 rfl, field_of_bits (x := b) (g 3 7 _ rfl), field_of_bits (x := a) (g 10 7 _ rfl), field_of_bits (x := d) (g 17 7 _ rfl), bitAt_of_bits (g 24 1 _ rfl), bitAt_of_bits (g 31 1 _ rfl), if_true, and_self]
theorem smin (e w d a b) : Statement (.smin e w d a b) := by
  intro h v hv
  cases Option.some.inj hv
  refine decodeWord_of_raw (of_fields (P := fun W => decodeRaw W = some (.smin e w d a b)) [(3, 3), (7, b.toNat), (7, a.toNat), (7, d.toNat), (1, w.toNat), (6, 2), (1, e.toNat)] ⟨by decide, b.isLt, a.isLt, d.isLt, Bool.toNat_lt w, by decide, Bool.toNat_lt e, trivial⟩ rfl (fun W g => ?_)) h
  refine (raw02 (g 25 6 2 rfl)).trans ?_
  simp only [decodeMajor02, fixedAt, g 0 3 3 rfl, field_of_bits (x := b) (g 3 7 _ rfl), field_of_bits (x := a) (g 10 7 _ rfl), field_of_bits (x := d) (g 17 7 _ rfl), bitAt_of_bits (g 24 1 _ rfl), bitAt_of_bits (g 31 1 _ rfl), if_true, and_self]
theorem smax (e w d a b) : Statement (.smax e w d a b) := by
  intro h v hv
  cases Option.some.inj hv
  refine decodeWord_of_raw (of_fields (P := fun W => decodeRaw W = some (.smax e w d a b)) [(3, 4), (7, b.toNat), (7, a.toNat), (7, d.toNat), (1, w.toNat), (6, 2), (1, e.toNat)] ⟨by decide, b.isLt, a.isLt, d.isLt, Bool.toNat_lt w, by decide, Bool.toNat_lt e, trivial⟩ rfl (fun W g => ?_)) h
  refine (raw02 (g 25 6 2 rfl)).trans ?_
  simp only [decodeMajor02, fixedAt, g 0 3 4 rfl, field_of_bits (x := b) (g 3 7 _ rfl), field_of_bits (x := a) (g 10 7 _ rfl), field_of_bits (x := d) (g 17 7 _ rfl), bitAt_of_bits (g 24 1 _ rfl), bitAt_of_bits (g 31 1 _ rfl), if_true, and_self]
theorem sminu (e w d a b) : Statement (.sminu e w d a b) := by
  intro h v hv
  cases Option.some.inj hv
  refine decodeWord_of_raw (of_fields (P := fun W => decodeRaw W = some (.sminu e w d a b)) [(3, 5), (7, b.toNat), (7, a.toNat), (7, d.toNat), (1, w.toNat), (6, 2), (1, e.toNat)] ⟨by decide, b.isLt, a.isLt, d.isLt, Bool.toNat_lt w, by decide, Bool.toNat_lt e, trivial⟩ rfl (fun W g => ?_)) h
  refine (raw02 (g 25 6 2 rfl)).trans ?_
  simp only [decodeMajor02, fixedAt, g 0 3 5 rfl, field_of_bits (x := b) (g 3 7 _ rfl), field_of_bits (x := a) (g 10 7 _ rfl), field_of_bits (x := d) (g 17 7 _ rfl), bitAt_of_bits (g 24 1 _ rfl), bitAt_of_bits (g 31 1 _ rfl), if_true, and_self]
theorem smaxu (e w d a b) : Statement (.smaxu e w d a b) := by
  intro h v hv
  cases Option.some.inj hv
  refine decodeWord_of_raw (of_fields (P := fun W => decodeRaw W = some (.smaxu e w d a b)) [(3, 6), (7, b.toNat), (7, a.toNat), (7, d.toNat), (1, w.toNat), (6, 2), (1, e.toNat)] ⟨by decide, b.isLt, a.isLt, d.isLt, Bool.toNat_lt w, by decide, Bool.toNat_lt e, trivial⟩ rfl (fun W g => ?_)) h
  refine (raw02 (g 25 6 2 rfl)).trans ?_
  simp only [decodeMajor02, fixedAt, g 0 3 6 rfl, field_of_bits (x := b) (g 3 7 _ rfl), field_of_bits (x := a) (g 10 7 _ rfl), field_of_bits (x := d) (g 17 7 _ rfl), bitAt_of_bits (g 24 1 _ rfl), bitAt_of_bits (g 31 1 _ rfl), if_true, and_self]
theorem sclz (e w d a) : Statement (.sclz e w d a) := by
  intro h v hv
  cases Option.some.inj hv
  refine decodeWord_of_raw (of_fields (P := fun W => decodeRaw W = some (.sclz e w d a)) [(3, 7), (7, 0), (7, a.toNat), (7, d.toNat), (1, w.toNat), (6, 2), (1, e.toNat)] ⟨by decide, by decide, a.isLt, d.isLt, Bool.toNat_lt w, by decide, Bool.toNat_lt e, trivial⟩ rfl (fun W g => ?_)) h
  refine (raw02 (g 25 6 2 rfl)).trans ?_
  simp only [decodeMajor02, fixedAt, g 0 3 7 rfl, g 3 7 0 rfl, field_of_bits (x := a) (g 10 7 _ rfl), field_of_bits (x := d) (g 17 7 _ rfl), bitAt_of_bits (g 24 1 _ rfl), bitAt_of_bits (g 31 1 _ rfl), if_true, and_self]
theorem saddi (e w d a i) : Statement (.saddi e w d a i) := by
  intro h v hv
  cases Option.some.inj hv
  refine decodeWord_of_raw (of_fields (P := fun W => decodeRaw W = some (.saddi e w d a i)) [(10, i.toNat), (7, a.toNat), (7, d.toNat), (1, w.toNat), (6, 3), (1, e.toNat)] ⟨i.isLt, a.isLt, d.isLt, Bool.toNat_lt w, by decide, Bool.toNat_lt e, trivial⟩ rfl (fun W g => ?_)) h
  refine (raw03 (g 25 6 3 rfl)).trans ?_
  simp only [decodeMajor03, fixedAt, field_of_bits (x := i) (g 0 10 _ rfl), field_of_bits (x := a) (g 10 7 _ rfl), field_of_bits (x := d) (g 17 7 _ rfl), bitAt_of_bits (g 24 1 _ rfl), bitAt_of_bits (g 31 1 _ rfl), if_true, and_self]
theorem sandi (e w d a i) : Statement (.sandi e w d a i) := by
  intro h v hv
  cases Option.some.inj hv
  refine decodeWord_of_raw (of_fields (P := fun W => decodeRaw W = some (.sandi e w d a i)) [(8, i.toNat), (2, 0), (7, a.toNat), (7, d.toNat), (1, w.toNat), (6, 4), (1, e.toNat)] ⟨i.isLt, by decide, a.isLt, d.isLt, Bool.toNat_lt w, by decide, Bool.toNat_lt e, trivial⟩ rfl (fun W g => ?_)) h
  refine (raw04 (g 25 6 4 rfl)).trans ?_
  simp only [decodeMajor04, fixedAt, field_of_bits (x := i) (g 0 8 _ rfl), g 8 2 0 rfl, field_of_bits (x := a) (g 10 7 _ rfl), field_of_bits (x := d) (g 17 7 _ rfl), bitAt_of_bits (g 24 1 _ rfl), bitAt_of_bits (g 31 1 _ rfl), if_true, and_self]
theorem sori (e w d a i) : Statement (.sori e w d a i) := by
  intro h v hv
  cases Option.some.inj hv
  refine decodeWord_of_raw (of_fields (P := fun W => decodeRaw W = some (.sori e w d a i)) [(8, i.toNat), (2, 1), (7, a.toNat), (7, d.toNat), (1, w.toNat), (6, 4), (1, e.toNat)] ⟨i.isLt, by decide, a.isLt, d.isLt, Bool.toNat_lt w, by decide, Bool.toNat_lt e, trivial⟩ rfl (fun W g => ?_)) h
  refine (raw04 (g 25 6 4 rfl)).trans ?_
  simp only [decodeMajor04, fixedAt, field_of_bits (x := i) (g 0 8 _ rfl), g 8 2 1 rfl, field_of_bits (x := a) (g 10 7 _ rfl), field_of_bits (x := d) (g 17 7 _ rfl), bitAt_of_bits (g 24 1 _ rfl), bitAt_of_bits (g 31 1 _ rfl), if_true, and_self]
theorem sxori (e w d a i) : Statement (.sxori e w d a i) := by
  intro h v hv
  cases Option.some.inj hv
  refine decodeWord_of_raw (of_fields (P := fun W => decodeRaw W = some (.sxori e w d a i)) [(8, i.toNat), (2, 2), (7, a.toNat), (7, d.toNat), (1, w.toNat), (6, 4), (1, e.toNat)] ⟨i.isLt, by decide, a.isLt, d.isLt, Bool.toNat_lt w, by decide, Bool.toNat_lt e, trivial⟩ rfl (fun W g => ?_)) h
  refine (raw04 (g 25 6 4 rfl)).trans ?_
  simp only [decodeMajor04, fixedAt, field_of_bits (x := i) (g 0 8 _ rfl), g 8 2 2 rfl, field_of_bits (x := a) (g 10 7 _ rfl), field_of_bits (x := d) (g 17 7 _ rfl), bitAt_of_bits (g 24 1 _ rfl), bitAt_of_bits (g 31 1 _ rfl), if_true, and_self]
theorem sshli (e w d a c) : Statement (.sshli e w d a c) := by
  intro h v hv
  cases Option.some.inj hv
  refine decodeWord_of_raw (of_fields (P := fun W => decodeRaw W = some (.sshli e w d a c)) [(6, c.toNat), (2, 0), (2, 0), (7, a.toNat), (7, d.toNat), (1, w.toNat), (6, 5), (1, e.toNat)] ⟨c.isLt, by decide, by decide, a.isLt, d.isLt, Bool.toNat_lt w, by decide, Bool.toNat_lt e, trivial⟩ rfl (fun W g => ?_)) h
  refine (raw05 (g 25 6 5 rfl)).trans ?_
  simp only [decodeMajor05, fixedAt, field_of_bits (x := c) (g 0 6 _ rfl), g 6 2 0 rfl, g 8 2 0 rfl, field_of_bits (x := a) (g 10 7 _ rfl), field_of_bits (x := d) (g 17 7 _ rfl), bitAt_of_bits (g 24 1 _ rfl), bitAt_of_bits (g 31 1 _ rfl), if_true, and_self]
theorem sshri (e w d a c) : Statement (.sshri e w d a c) := by
  intro h v hv
  cases Option.some.inj hv
  refine decodeWord_of_raw (of_fields (P := fun W => decodeRaw W = some (.sshri e w d a c)) [(6, c.toNat), (2, 0), (2, 1), (7, a.toNat), (7, d.toNat), (1, w.toNat), (6, 5), (1, e.toNat)] ⟨c.isLt, by decide, by decide, a.isLt, d.isLt, Bool.toNat_lt w, by decide, Bool.toNat_lt e, trivial⟩ rfl (fun W g => ?_)) h
  refine (raw05 (g 25 6 5 rfl)).trans ?_
  simp only [decodeMajor05, fixedAt, field_of_bits (x := c) (g 0 6 _ rfl), g 6 2 0 rfl, g 8 2 1 rfl, field_of_bits (x := a) (g 10 7 _ rfl), field_of_bits (x := d) (g 17 7 _ rfl), bitAt_of_bits (g 24 1 _ rfl), bitAt_of_bits (g 31 1 _ rfl), if_true, and_self]
theorem ssrai (e w d a c) : Statement (.ssrai e w d a c) := by
  intro h v hv
  cases Option.some.inj hv
  refine decodeWord_of_raw (of_fields (P := fun W => decodeRaw W = some (.ssrai e w d a c)) [(6, c.toNat), (2, 0), (2, 2), (7, a.toNat), (7, d.toNat), (1, w.toNat), (6, 5), (1, e.toNat)] ⟨c.isLt, by decide, by decide, a.isLt, d.isLt, Bool.toNat_lt w, by decide, Bool.toNat_lt e, trivial⟩ rfl (fun W g => ?_)) h
  refine (raw05 (g 25 6 5 rfl)).trans ?_
  simp only [decodeMajor05, fixedAt, field_of_bits (x := c) (g 0 6 _ rfl), g 6 2 0 rfl, g 8 2 2 rfl, field_of_bits (x := a) (g 10 7 _ rfl), field_of_bits (x := d) (g 17 7 _ rfl), bitAt_of_bits (g 24 1 _ rfl), bitAt_of_bits (g 31 1 _ rfl), if_true, and_self]
theorem sroti (e w d a c) : Statement (.sroti e w d a c) := by
  intro h v hv
  cases Option.some.inj hv
  refine decodeWord_of_raw (of_fields (P := fun W => decodeRaw W = some (.sroti e w d a c)) [(6, c.toNat), (2, 0), (2, 3), (7, a.toNat), (7, d.toNat), (1, w.toNat), (6, 5), (1, e.toNat)] ⟨c.isLt, by decide, by decide, a.isLt, d.isLt, Bool.toNat_lt w, by decide, Bool.toNat_lt e, trivial⟩ rfl (fun W g => ?_)) h
  refine (raw05 (g 25 6 5 rfl)).trans ?_
  simp only [decodeMajor05, fixedAt, field_of_bits (x := c) (g 0 6 _ rfl), g 6 2 0 rfl, g 8 2 3 rfl, field_of_bits (x := a) (g 10 7 _ rfl), field_of_bits (x := d) (g 17 7 _ rfl), bitAt_of_bits (g 24 1 _ rfl), bitAt_of_bits (g 31 1 _ rfl), if_true, and_self]
theorem scmp (e w d a b c) : Statement (.scmp e w d a b c) := by
  intro h v hv
  cases Option.some.inj hv
  refine decodeWord_of_raw (of_fields (P := fun W => decodeRaw W = some (.scmp e w d a b c)) [(3, c.toNat), (7, b.toNat), (7, a.toNat), (7, d.toNat), (1, w.toNat), (6, 6), (1, e.toNat)] ⟨c.isLt, b.isLt, a.isLt, d.isLt, Bool.toNat_lt w, by decide, Bool.toNat_lt e, trivial⟩ rfl (fun W g => ?_)) h
  refine (raw06 (g 25 6 6 rfl)).trans ?_
  simp only [decodeMajor06, fixedAt, field_of_bits (x := c) (g 0 3 _ rfl), field_of_bits (x := b) (g 3 7 _ rfl), field_of_bits (x := a) (g 10 7 _ rfl), field_of_bits (x := d) (g 17 7 _ rfl), bitAt_of_bits (g 24 1 _ rfl), bitAt_of_bits (g 31 1 _ rfl), if_true, and_self]
theorem smov (e w d a) : Statement (.smov e w d a) := by
  intro h v hv
  cases Option.some.inj hv
  refine decodeWord_of_raw (of_fields (P := fun W => decodeRaw W = some (.smov e w d a)) [(3, 0), (7, 0), (7, a.toNat), (7, d.toNat), (1, w.toNat), (6, 7), (1, e.toNat)] ⟨by decide, by decide, a.isLt, d.isLt, Bool.toNat_lt w, by decide, Bool.toNat_lt e, trivial⟩ rfl (fun W g => ?_)) h
  refine (raw07 (g 25 6 7 rfl)).trans ?_
  simp only [decodeMajor07, fixedAt, g 0 3 0 rfl, g 3 7 0 rfl, field_of_bits (x := a) (g 10 7 _ rfl), field_of_bits (x := d) (g 17 7 _ rfl), bitAt_of_bits (g 24 1 _ rfl), bitAt_of_bits (g 31 1 _ rfl), if_true, and_self]
theorem sfromv (e w d a b) : Statement (.sfromv e w d a b) := by
  intro h v hv
  cases Option.some.inj hv
  refine decodeWord_of_raw (of_fields (P := fun W => decodeRaw W = some (.sfromv e w d a b)) [(3, 1), (7, b.toNat), (7, a.toNat), (7, d.toNat), (1, w.toNat), (6, 7), (1, e.toNat)] ⟨by decide, b.isLt, a.isLt, d.isLt, Bool.toNat_lt w, by decide, Bool.toNat_lt e, trivial⟩ rfl (fun W g => ?_)) h
  refine (raw07 (g 25 6 7 rfl)).trans ?_
  simp only [decodeMajor07, fixedAt, g 0 3 1 rfl, field_of_bits (x := b) (g 3 7 _ rfl), field_of_bits (x := a) (g 10 7 _ rfl), field_of_bits (x := d) (g 17 7 _ rfl), bitAt_of_bits (g 24 1 _ rfl), bitAt_of_bits (g 31 1 _ rfl), if_true, and_self]
theorem ssel (e w d a b) : Statement (.ssel e w d a b) := by
  intro h v hv
  cases Option.some.inj hv
  refine decodeWord_of_raw (of_fields (P := fun W => decodeRaw W = some (.ssel e w d a b)) [(3, 2), (7, b.toNat), (7, a.toNat), (7, d.toNat), (1, w.toNat), (6, 7), (1, e.toNat)] ⟨by decide, b.isLt, a.isLt, d.isLt, Bool.toNat_lt w, by decide, Bool.toNat_lt e, trivial⟩ rfl (fun W g => ?_)) h
  refine (raw07 (g 25 6 7 rfl)).trans ?_
  simp only [decodeMajor07, fixedAt, g 0 3 2 rfl, field_of_bits (x := b) (g 3 7 _ rfl), field_of_bits (x := a) (g 10 7 _ rfl), field_of_bits (x := d) (g 17 7 _ rfl), bitAt_of_bits (g 24 1 _ rfl), bitAt_of_bits (g 31 1 _ rfl), if_true, and_self]
theorem sext (e w d a b) : Statement (.sext e w d a b) := by
  intro h v hv
  cases Option.some.inj hv
  refine decodeWord_of_raw (of_fields (P := fun W => decodeRaw W = some (.sext e w d a b)) [(3, 3), (7, b.toNat), (7, a.toNat), (7, d.toNat), (1, w.toNat), (6, 7), (1, e.toNat)] ⟨by decide, b.isLt, a.isLt, d.isLt, Bool.toNat_lt w, by decide, Bool.toNat_lt e, trivial⟩ rfl (fun W g => ?_)) h
  refine (raw07 (g 25 6 7 rfl)).trans ?_
  simp only [decodeMajor07, fixedAt, g 0 3 3 rfl, field_of_bits (x := b) (g 3 7 _ rfl), field_of_bits (x := a) (g 10 7 _ rfl), field_of_bits (x := d) (g 17 7 _ rfl), bitAt_of_bits (g 24 1 _ rfl), bitAt_of_bits (g 31 1 _ rfl), if_true, and_self]
theorem spopc (e w d a) : Statement (.spopc e w d a) := by
  intro h v hv
  cases Option.some.inj hv
  refine decodeWord_of_raw (of_fields (P := fun W => decodeRaw W = some (.spopc e w d a)) [(3, 4), (7, 0), (7, a.toNat), (7, d.toNat), (1, w.toNat), (6, 7), (1, e.toNat)] ⟨by decide, by decide, a.isLt, d.isLt, Bool.toNat_lt w, by decide, Bool.toNat_lt e, trivial⟩ rfl (fun W g => ?_)) h
  refine (raw07 (g 25 6 7 rfl)).trans ?_
  simp only [decodeMajor07, fixedAt, g 0 3 4 rfl, g 3 7 0 rfl, field_of_bits (x := a) (g 10 7 _ rfl), field_of_bits (x := d) (g 17 7 _ rfl), bitAt_of_bits (g 24 1 _ rfl), bitAt_of_bits (g 31 1 _ rfl), if_true, and_self]
theorem br (e p) : Statement (.br e p) := by
  intro h v hv
  cases Option.some.inj hv
  refine decodeWord_of_raw (of_fields (P := fun W => decodeRaw W = some (.br e p)) [(21, p.toNat), (4, 0), (6, 8), (1, e.toNat)] ⟨p.isLt, by decide, by decide, Bool.toNat_lt e, trivial⟩ rfl (fun W g => ?_)) h
  refine (raw08 (g 25 6 8 rfl)).trans ?_
  simp only [decodeMajor08, fixedAt, field_of_bits (x := p) (g 0 21 _ rfl), g 21 4 0 rfl, bitAt_of_bits (g 31 1 _ rfl), if_true, and_self]
theorem call (e p) : Statement (.call e p) := by
  intro h v hv
  cases Option.some.inj hv
  refine decodeWord_of_raw (of_fields (P := fun W => decodeRaw W = some (.call e p)) [(21, p.toNat), (4, 1), (6, 8), (1, e.toNat)] ⟨p.isLt, by decide, by decide, Bool.toNat_lt e, trivial⟩ rfl (fun W g => ?_)) h
  refine (raw08 (g 25 6 8 rfl)).trans ?_
  simp only [decodeMajor08, fixedAt, field_of_bits (x := p) (g 0 21 _ rfl), g 21 4 1 rfl, bitAt_of_bits (g 31 1 _ rfl), if_true, and_self]
theorem brc (e c r p) : Statement (.brc e c r p) := by
  intro h v hv
  cases Option.some.inj hv
  refine decodeWord_of_raw (of_fields (P := fun W => decodeRaw W = some (.brc e c r p)) [(15, p.toNat), (7, r.toNat), (3, c.toNat), (6, 9), (1, e.toNat)] ⟨p.isLt, r.isLt, c.isLt, by decide, Bool.toNat_lt e, trivial⟩ rfl (fun W g => ?_)) h
  refine (raw09 (g 25 6 9 rfl)).trans ?_
  simp only [decodeMajor09, fixedAt, field_of_bits (x := p) (g 0 15 _ rfl), field_of_bits (x := r) (g 15 7 _ rfl), field_of_bits (x := c) (g 22 3 _ rfl), bitAt_of_bits (g 31 1 _ rfl), if_true, and_self]
theorem brvAny (e t r p) : Statement (.brvAny e t r p) := by
  intro h v hv
  cases Option.some.inj hv
  refine decodeWord_of_raw (of_fields (P := fun W => decodeRaw W = some (.brvAny e t r p)) [(15, p.toNat), (7, r.toNat), (2, t.toNat), (1, 0), (6, 10), (1, e.toNat)] ⟨p.isLt, r.isLt, t.isLt, by decide, by decide, Bool.toNat_lt e, trivial⟩ rfl (fun W g => ?_)) h
  refine (raw0A (g 25 6 10 rfl)).trans ?_
  simp only [decodeMajor0A, fixedAt, field_of_bits (x := p) (g 0 15 _ rfl), field_of_bits (x := r) (g 15 7 _ rfl), field_of_bits (x := t) (g 22 2 _ rfl), g 24 1 0 rfl, bitAt_of_bits (g 31 1 _ rfl), if_true, and_self]
theorem brvAll (e t r p) : Statement (.brvAll e t r p) := by
  intro h v hv
  cases Option.some.inj hv
  refine decodeWord_of_raw (of_fields (P := fun W => decodeRaw W = some (.brvAll e t r p)) [(15, p.toNat), (7, r.toNat), (2, t.toNat), (1, 1), (6, 10), (1, e.toNat)] ⟨p.isLt, r.isLt, t.isLt, by decide, by decide, Bool.toNat_lt e, trivial⟩ rfl (fun W g => ?_)) h
  refine (raw0A (g 25 6 10 rfl)).trans ?_
  simp only [decodeMajor0A, fixedAt, field_of_bits (x := p) (g 0 15 _ rfl), field_of_bits (x := r) (g 15 7 _ rfl), field_of_bits (x := t) (g 22 2 _ rfl), g 24 1 1 rfl, bitAt_of_bits (g 31 1 _ rfl), if_true, and_self]
theorem jmpr (e r p) : Statement (.jmpr e r p) := by
  intro h v hv
  cases Option.some.inj hv
  refine decodeWord_of_raw (of_fields (P := fun W => decodeRaw W = some (.jmpr e r p)) [(15, p.toNat), (7, r.toNat), (3, 0), (6, 11), (1, e.toNat)] ⟨p.isLt, r.isLt, by decide, by decide, Bool.toNat_lt e, trivial⟩ rfl (fun W g => ?_)) h
  refine (raw0B (g 25 6 11 rfl)).trans ?_
  simp only [decodeMajor0B, fixedAt, field_of_bits (x := p) (g 0 15 _ rfl), field_of_bits (x := r) (g 15 7 _ rfl), g 22 3 0 rfl, bitAt_of_bits (g 31 1 _ rfl), if_true, and_self]
theorem callr (e r p) : Statement (.callr e r p) := by
  intro h v hv
  cases Option.some.inj hv
  refine decodeWord_of_raw (of_fields (P := fun W => decodeRaw W = some (.callr e r p)) [(15, p.toNat), (7, r.toNat), (3, 1), (6, 11), (1, e.toNat)] ⟨p.isLt, r.isLt, by decide, by decide, Bool.toNat_lt e, trivial⟩ rfl (fun W g => ?_)) h
  refine (raw0B (g 25 6 11 rfl)).trans ?_
  simp only [decodeMajor0B, fixedAt, field_of_bits (x := p) (g 0 15 _ rfl), field_of_bits (x := r) (g 15 7 _ rfl), g 22 3 1 rfl, bitAt_of_bits (g 31 1 _ rfl), if_true, and_self]
theorem ret (e r) : Statement (.ret e r) := by
  intro h v hv
  cases Option.some.inj hv
  refine decodeWord_of_raw (of_fields (P := fun W => decodeRaw W = some (.ret e r)) [(15, 0), (7, r.toNat), (3, 2), (6, 11), (1, e.toNat)] ⟨by decide, r.isLt, by decide, by decide, Bool.toNat_lt e, trivial⟩ rfl (fun W g => ?_)) h
  refine (raw0B (g 25 6 11 rfl)).trans ?_
  simp only [decodeMajor0B, fixedAt, g 0 15 0 rfl, field_of_bits (x := r) (g 15 7 _ rfl), g 22 3 2 rfl, bitAt_of_bits (g 31 1 _ rfl), if_true, and_self]
theorem jmpf (e r p) : Statement (.jmpf e r p) := by
  intro h v hv
  cases Option.some.inj hv
  refine decodeWord_of_raw (of_fields (P := fun W => decodeRaw W = some (.jmpf e r p)) [(15, p.toNat), (7, r.toNat), (3, 3), (6, 11), (1, e.toNat)] ⟨p.isLt, r.isLt, by decide, by decide, Bool.toNat_lt e, trivial⟩ rfl (fun W g => ?_)) h
  refine (raw0B (g 25 6 11 rfl)).trans ?_
  simp only [decodeMajor0B, fixedAt, field_of_bits (x := p) (g 0 15 _ rfl), field_of_bits (x := r) (g 15 7 _ rfl), g 22 3 3 rfl, bitAt_of_bits (g 31 1 _ rfl), if_true, and_self]
theorem callf (e r p) : Statement (.callf e r p) := by
  intro h v hv
  cases Option.some.inj hv
  refine decodeWord_of_raw (of_fields (P := fun W => decodeRaw W = some (.callf e r p)) [(15, p.toNat), (7, r.toNat), (3, 4), (6, 11), (1, e.toNat)] ⟨p.isLt, r.isLt, by decide, by decide, Bool.toNat_lt e, trivial⟩ rfl (fun W g => ?_)) h
  refine (raw0B (g 25 6 11 rfl)).trans ?_
  simp only [decodeMajor0B, fixedAt, field_of_bits (x := p) (g 0 15 _ rfl), field_of_bits (x := r) (g 15 7 _ rfl), g 22 3 4 rfl, bitAt_of_bits (g 31 1 _ rfl), if_true, and_self]
theorem loop (e r p) : Statement (.loop e r p) := by
  intro h v hv
  cases Option.some.inj hv
  refine decodeWord_of_raw (of_fields (P := fun W => decodeRaw W = some (.loop e r p)) [(15, p.toNat), (7, r.toNat), (3, 0), (6, 12), (1, e.toNat)] ⟨p.isLt, r.isLt, by decide, by decide, Bool.toNat_lt e, trivial⟩ rfl (fun W g => ?_)) h
  refine (raw0C (g 25 6 12 rfl)).trans ?_
  simp only [decodeMajor0C, fixedAt, field_of_bits (x := p) (g 0 15 _ rfl), field_of_bits (x := r) (g 15 7 _ rfl), g 22 3 0 rfl, bitAt_of_bits (g 31 1 _ rfl), if_true, and_self]
theorem regang (e) : Statement (.regang e) := by
  intro h v hv
  cases Option.some.inj hv
  refine decodeWord_of_raw (of_fields (P := fun W => decodeRaw W = some (.regang e)) [(20, 0), (5, 0), (6, 13), (1, e.toNat)] ⟨by decide, by decide, by decide, Bool.toNat_lt e, trivial⟩ rfl (fun W g => ?_)) h
  refine (raw0D (g 25 6 13 rfl)).trans ?_
  simp only [decodeMajor0D, fixedAt, g 0 20 0 rfl, g 20 5 0 rfl, bitAt_of_bits (g 31 1 _ rfl), if_true, and_self]
theorem safe (e s u) : Statement (.safe e s u) := by
  intro h v hv
  cases Option.some.inj hv
  refine decodeWord_of_raw (of_fields (P := fun W => decodeRaw W = some (.safe e s u)) [(12, u.toNat), (8, s.toNat), (5, 1), (6, 13), (1, e.toNat)] ⟨u.isLt, s.isLt, by decide, by decide, Bool.toNat_lt e, trivial⟩ rfl (fun W g => ?_)) h
  refine (raw0D (g 25 6 13 rfl)).trans ?_
  simp only [decodeMajor0D, fixedAt, field_of_bits (x := u) (g 0 12 _ rfl), field_of_bits (x := s) (g 12 8 _ rfl), g 20 5 1 rfl, bitAt_of_bits (g 31 1 _ rfl), if_true, and_self]
theorem exit (e) : Statement (.exit e) := by
  intro h v hv
  cases Option.some.inj hv
  refine decodeWord_of_raw (of_fields (P := fun W => decodeRaw W = some (.exit e)) [(20, 0), (5, 2), (6, 13), (1, e.toNat)] ⟨by decide, by decide, by decide, Bool.toNat_lt e, trivial⟩ rfl (fun W g => ?_)) h
  refine (raw0D (g 25 6 13 rfl)).trans ?_
  simp only [decodeMajor0D, fixedAt, g 0 20 0 rfl, g 20 5 2 rfl, bitAt_of_bits (g 31 1 _ rfl), if_true, and_self]
theorem trap (e v) : Statement (.trap e v) := by
  intro h v hv
  cases Option.some.inj hv
  refine decodeWord_of_raw (of_fields (P := fun W => decodeRaw W = some (.trap e v)) [(20, v.toNat), (5, 3), (6, 13), (1, e.toNat)] ⟨v.isLt, by decide, by decide, Bool.toNat_lt e, trivial⟩ rfl (fun W g => ?_)) h
  refine (raw0D (g 25 6 13 rfl)).trans ?_
  simp only [decodeMajor0D, fixedAt, field_of_bits (x := v) (g 0 20 _ rfl), g 20 5 3 rfl, bitAt_of_bits (g 31 1 _ rfl), if_true, and_self]
theorem lbrk (e) : Statement (.lbrk e) := by
  intro h v hv
  cases Option.some.inj hv
  refine decodeWord_of_raw (of_fields (P := fun W => decodeRaw W = some (.lbrk e)) [(20, 0), (5, 4), (6, 13), (1, e.toNat)] ⟨by decide, by decide, by decide, Bool.toNat_lt e, trivial⟩ rfl (fun W g => ?_)) h
  refine (raw0D (g 25 6 13 rfl)).trans ?_
  simp only [decodeMajor0D, fixedAt, g 0 20 0 rfl, g 20 5 4 rfl, bitAt_of_bits (g 31 1 _ rfl), if_true, and_self]
theorem yield (e) : Statement (.yield e) := by
  intro h v hv
  cases Option.some.inj hv
  refine decodeWord_of_raw (of_fields (P := fun W => decodeRaw W = some (.yield e)) [(20, 0), (5, 5), (6, 13), (1, e.toNat)] ⟨by decide, by decide, by decide, Bool.toNat_lt e, trivial⟩ rfl (fun W g => ?_)) h
  refine (raw0D (g 25 6 13 rfl)).trans ?_
  simp only [decodeMajor0D, fixedAt, g 0 20 0 rfl, g 20 5 5 rfl, bitAt_of_bits (g 31 1 _ rfl), if_true, and_self]
theorem emset (e n) : Statement (.emset e n) := by
  intro h v hv
  cases Option.some.inj hv
  refine decodeWord_of_raw (of_fields (P := fun W => decodeRaw W = some (.emset e n)) [(2, n.toNat), (18, 0), (5, 6), (6, 13), (1, e.toNat)] ⟨n.isLt, by decide, by decide, by decide, Bool.toNat_lt e, trivial⟩ rfl (fun W g => ?_)) h
  refine (raw0D (g 25 6 13 rfl)).trans ?_
  simp only [decodeMajor0D, fixedAt, field_of_bits (x := n) (g 0 2 _ rfl), g 2 18 0 rfl, g 20 5 6 rfl, bitAt_of_bits (g 31 1 _ rfl), if_true, and_self]
theorem emsave (e n) : Statement (.emsave e n) := by
  intro h v hv
  cases Option.some.inj hv
  refine decodeWord_of_raw (of_fields (P := fun W => decodeRaw W = some (.emsave e n)) [(2, n.toNat), (18, 0), (5, 7), (6, 13), (1, e.toNat)] ⟨n.isLt, by decide, by decide, by decide, Bool.toNat_lt e, trivial⟩ rfl (fun W g => ?_)) h
  refine (raw0D (g 25 6 13 rfl)).trans ?_
  simp only [decodeMajor0D, fixedAt, field_of_bits (x := n) (g 0 2 _ rfl), g 2 18 0 rfl, g 20 5 7 rfl, bitAt_of_bits (g 31 1 _ rfl), if_true, and_self]
theorem emload (e n) : Statement (.emload e n) := by
  intro h v hv
  cases Option.some.inj hv
  refine decodeWord_of_raw (of_fields (P := fun W => decodeRaw W = some (.emload e n)) [(2, n.toNat), (18, 0), (5, 8), (6, 13), (1, e.toNat)] ⟨n.isLt, by decide, by decide, by decide, Bool.toNat_lt e, trivial⟩ rfl (fun W g => ?_)) h
  refine (raw0D (g 25 6 13 rfl)).trans ?_
  simp only [decodeMajor0D, fixedAt, field_of_bits (x := n) (g 0 2 _ rfl), g 2 18 0 rfl, g 20 5 8 rfl, bitAt_of_bits (g 31 1 _ rfl), if_true, and_self]
theorem cfetch (e r p) : Statement (.cfetch e r p) := by
  intro h v hv
  cases Option.some.inj hv
  refine decodeWord_of_raw (of_fields (P := fun W => decodeRaw W = some (.cfetch e r p)) [(15, p.toNat), (7, r.toNat), (3, 0), (6, 14), (1, e.toNat)] ⟨p.isLt, r.isLt, by decide, by decide, Bool.toNat_lt e, trivial⟩ rfl (fun W g => ?_)) h
  refine (raw0E (g 25 6 14 rfl)).trans ?_
  simp only [decodeMajor0E, fixedAt, field_of_bits (x := p) (g 0 15 _ rfl), field_of_bits (x := r) (g 15 7 _ rfl), g 22 3 0 rfl, bitAt_of_bits (g 31 1 _ rfl), if_true, and_self]
theorem smovi (e w d i) : Statement (.smovi e w d i) := by
  intro h v hv
  cases Option.some.inj hv
  refine decodeWord_of_raw (of_fields (P := fun W => decodeRaw W = some (.smovi e w d i)) [(17, i.toNat), (7, d.toNat), (1, w.toNat), (6, 15), (1, e.toNat)] ⟨i.isLt, d.isLt, Bool.toNat_lt w, by decide, Bool.toNat_lt e, trivial⟩ rfl (fun W g => ?_)) h
  refine (raw0F (g 25 6 15 rfl)).trans ?_
  simp only [decodeMajor0F, fixedAt, field_of_bits (x := i) (g 0 17 _ rfl), field_of_bits (x := d) (g 17 7 _ rfl), bitAt_of_bits (g 24 1 _ rfl), bitAt_of_bits (g 31 1 _ rfl), if_true, and_self]
theorem vadd (e w d a b) : Statement (.vadd e w d a b) := by
  intro h v hv
  cases Option.some.inj hv
  refine decodeWord_of_raw (of_fields (P := fun W => decodeRaw W = some (.vadd e w d a b)) [(3, 0), (7, b.toNat), (7, a.toNat), (7, d.toNat), (1, w.toNat), (6, 16), (1, e.toNat)] ⟨by decide, b.isLt, a.isLt, d.isLt, Bool.toNat_lt w, by decide, Bool.toNat_lt e, trivial⟩ rfl (fun W g => ?_)) h
  refine (raw10 (g 25 6 16 rfl)).trans ?_
  simp only [decodeMajor10, fixedAt, g 0 3 0 rfl, field_of_bits (x := b) (g 3 7 _ rfl), field_of_bits (x := a) (g 10 7 _ rfl), field_of_bits (x := d) (g 17 7 _ rfl), bitAt_of_bits (g 24 1 _ rfl), bitAt_of_bits (g 31 1 _ rfl), if_true, and_self]
theorem vsub (e w d a b) : Statement (.vsub e w d a b) := by
  intro h v hv
  cases Option.some.inj hv
  refine decodeWord_of_raw (of_fields (P := fun W => decodeRaw W = some (.vsub e w d a b)) [(3, 1), (7, b.toNat), (7, a.toNat), (7, d.toNat), (1, w.toNat), (6, 16), (1, e.toNat)] ⟨by decide, b.isLt, a.isLt, d.isLt, Bool.toNat_lt w, by decide, Bool.toNat_lt e, trivial⟩ rfl (fun W g => ?_)) h
  refine (raw10 (g 25 6 16 rfl)).trans ?_
  simp only [decodeMajor10, fixedAt, g 0 3 1 rfl, field_of_bits (x := b) (g 3 7 _ rfl), field_of_bits (x := a) (g 10 7 _ rfl), field_of_bits (x := d) (g 17 7 _ rfl), bitAt_of_bits (g 24 1 _ rfl), bitAt_of_bits (g 31 1 _ rfl), if_true, and_self]
theorem vmul (e w d a b) : Statement (.vmul e w d a b) := by
  intro h v hv
  cases Option.some.inj hv
  refine decodeWord_of_raw (of_fields (P := fun W => decodeRaw W = some (.vmul e w d a b)) [(3, 2), (7, b.toNat), (7, a.toNat), (7, d.toNat), (1, w.toNat), (6, 16), (1, e.toNat)] ⟨by decide, b.isLt, a.isLt, d.isLt, Bool.toNat_lt w, by decide, Bool.toNat_lt e, trivial⟩ rfl (fun W g => ?_)) h
  refine (raw10 (g 25 6 16 rfl)).trans ?_
  simp only [decodeMajor10, fixedAt, g 0 3 2 rfl, field_of_bits (x := b) (g 3 7 _ rfl), field_of_bits (x := a) (g 10 7 _ rfl), field_of_bits (x := d) (g 17 7 _ rfl), bitAt_of_bits (g 24 1 _ rfl), bitAt_of_bits (g 31 1 _ rfl), if_true, and_self]
theorem vmulh (e w d a b) : Statement (.vmulh e w d a b) := by
  intro h v hv
  cases Option.some.inj hv
  refine decodeWord_of_raw (of_fields (P := fun W => decodeRaw W = some (.vmulh e w d a b)) [(3, 3), (7, b.toNat), (7, a.toNat), (7, d.toNat), (1, w.toNat), (6, 16), (1, e.toNat)] ⟨by decide, b.isLt, a.isLt, d.isLt, Bool.toNat_lt w, by decide, Bool.toNat_lt e, trivial⟩ rfl (fun W g => ?_)) h
  refine (raw10 (g 25 6 16 rfl)).trans ?_
  simp only [decodeMajor10, fixedAt, g 0 3 3 rfl, field_of_bits (x := b) (g 3 7 _ rfl), field_of_bits (x := a) (g 10 7 _ rfl), field_of_bits (x := d) (g 17 7 _ rfl), bitAt_of_bits (g 24 1 _ rfl), bitAt_of_bits (g 31 1 _ rfl), if_true, and_self]
theorem vmad (e w d a b) : Statement (.vmad e w d a b) := by
  intro h v hv
  cases Option.some.inj hv
  refine decodeWord_of_raw (of_fields (P := fun W => decodeRaw W = some (.vmad e w d a b)) [(3, 4), (7, b.toNat), (7, a.toNat), (7, d.toNat), (1, w.toNat), (6, 16), (1, e.toNat)] ⟨by decide, b.isLt, a.isLt, d.isLt, Bool.toNat_lt w, by decide, Bool.toNat_lt e, trivial⟩ rfl (fun W g => ?_)) h
  refine (raw10 (g 25 6 16 rfl)).trans ?_
  simp only [decodeMajor10, fixedAt, g 0 3 4 rfl, field_of_bits (x := b) (g 3 7 _ rfl), field_of_bits (x := a) (g 10 7 _ rfl), field_of_bits (x := d) (g 17 7 _ rfl), bitAt_of_bits (g 24 1 _ rfl), bitAt_of_bits (g 31 1 _ rfl), if_true, and_self]
theorem vabsd (e w d a b) : Statement (.vabsd e w d a b) := by
  intro h v hv
  cases Option.some.inj hv
  refine decodeWord_of_raw (of_fields (P := fun W => decodeRaw W = some (.vabsd e w d a b)) [(3, 5), (7, b.toNat), (7, a.toNat), (7, d.toNat), (1, w.toNat), (6, 16), (1, e.toNat)] ⟨by decide, b.isLt, a.isLt, d.isLt, Bool.toNat_lt w, by decide, Bool.toNat_lt e, trivial⟩ rfl (fun W g => ?_)) h
  refine (raw10 (g 25 6 16 rfl)).trans ?_
  simp only [decodeMajor10, fixedAt, g 0 3 5 rfl, field_of_bits (x := b) (g 3 7 _ rfl), field_of_bits (x := a) (g 10 7 _ rfl), field_of_bits (x := d) (g 17 7 _ rfl), bitAt_of_bits (g 24 1 _ rfl), bitAt_of_bits (g 31 1 _ rfl), if_true, and_self]
theorem vmin (e w d a b) : Statement (.vmin e w d a b) := by
  intro h v hv
  cases Option.some.inj hv
  refine decodeWord_of_raw (of_fields (P := fun W => decodeRaw W = some (.vmin e w d a b)) [(3, 6), (7, b.toNat), (7, a.toNat), (7, d.toNat), (1, w.toNat), (6, 16), (1, e.toNat)] ⟨by decide, b.isLt, a.isLt, d.isLt, Bool.toNat_lt w, by decide, Bool.toNat_lt e, trivial⟩ rfl (fun W g => ?_)) h
  refine (raw10 (g 25 6 16 rfl)).trans ?_
  simp only [decodeMajor10, fixedAt, g 0 3 6 rfl, field_of_bits (x := b) (g 3 7 _ rfl), field_of_bits (x := a) (g 10 7 _ rfl), field_of_bits (x := d) (g 17 7 _ rfl), bitAt_of_bits (g 24 1 _ rfl), bitAt_of_bits (g 31 1 _ rfl), if_true, and_self]
theorem vmax (e w d a b) : Statement (.vmax e w d a b) := by
  intro h v hv
  cases Option.some.inj hv
  refine decodeWord_of_raw (of_fields (P := fun W => decodeRaw W = some (.vmax e w d a b)) [(3, 7), (7, b.toNat), (7, a.toNat), (7, d.toNat), (1, w.toNat), (6, 16), (1, e.toNat)] ⟨by decide, b.isLt, a.isLt, d.isLt, Bool.toNat_lt w, by decide, Bool.toNat_lt e, trivial⟩ rfl (fun W g => ?_)) h
  refine (raw10 (g 25 6 16 rfl)).trans ?_
  simp only [decodeMajor10, fixedAt, g 0 3 7 rfl, field_of_bits (x := b) (g 3 7 _ rfl), field_of_bits (x := a) (g 10 7 _ rfl), field_of_bits (x := d) (g 17 7 _ rfl), bitAt_of_bits (g 24 1 _ rfl), bitAt_of_bits (g 31 1 _ rfl), if_true, and_self]
theorem vminu (e w d a b) : Statement (.vminu e w d a b) := by
  intro h v hv
  cases Option.some.inj hv
  refine decodeWord_of_raw (of_fields (P := fun W => decodeRaw W = some (.vminu e w d a b)) [(3, 0), (7, b.toNat), (7, a.toNat), (7, d.toNat), (1, w.toNat), (6, 17), (1, e.toNat)] ⟨by decide, b.isLt, a.isLt, d.isLt, Bool.toNat_lt w, by decide, Bool.toNat_lt e, trivial⟩ rfl (fun W g => ?_)) h
  refine (raw11 (g 25 6 17 rfl)).trans ?_
  simp only [decodeMajor11, fixedAt, g 0 3 0 rfl, field_of_bits (x := b) (g 3 7 _ rfl), field_of_bits (x := a) (g 10 7 _ rfl), field_of_bits (x := d) (g 17 7 _ rfl), bitAt_of_bits (g 24 1 _ rfl), bitAt_of_bits (g 31 1 _ rfl), if_true, and_self]
theorem vmaxu (e w d a b) : Statement (.vmaxu e w d a b) := by
  intro h v hv
  cases Option.some.inj hv
  refine decodeWord_of_raw (of_fields (P := fun W => decodeRaw W = some (.vmaxu e w d a b)) [(3, 1), (7, b.toNat), (7, a.toNat), (7, d.toNat), (1, w.toNat), (6, 17), (1, e.toNat)] ⟨by decide, b.isLt, a.isLt, d.isLt, Bool.toNat_lt w, by decide, Bool.toNat_lt e, trivial⟩ rfl (fun W g => ?_)) h
  refine (raw11 (g 25 6 17 rfl)).trans ?_
  simp only [decodeMajor11, fixedAt, g 0 3 1 rfl, field_of_bits (x := b) (g 3 7 _ rfl), field_of_bits (x := a) (g 10 7 _ rfl), field_of_bits (x := d) (g 17 7 _ rfl), bitAt_of_bits (g 24 1 _ rfl), bitAt_of_bits (g 31 1 _ rfl), if_true, and_self]
theorem vand (e w d a b) : Statement (.vand e w d a b) := by
  intro h v hv
  cases Option.some.inj hv
  refine decodeWord_of_raw (of_fields (P := fun W => decodeRaw W = some (.vand e w d a b)) [(3, 2), (7, b.toNat), (7, a.toNat), (7, d.toNat), (1, w.toNat), (6, 17), (1, e.toNat)] ⟨by decide, b.isLt, a.isLt, d.isLt, Bool.toNat_lt w, by decide, Bool.toNat_lt e, trivial⟩ rfl (fun W g => ?_)) h
  refine (raw11 (g 25 6 17 rfl)).trans ?_
  simp only [decodeMajor11, fixedAt, g 0 3 2 rfl, field_of_bits (x := b) (g 3 7 _ rfl), field_of_bits (x := a) (g 10 7 _ rfl), field_of_bits (x := d) (g 17 7 _ rfl), bitAt_of_bits (g 24 1 _ rfl), bitAt_of_bits (g 31 1 _ rfl), if_true, and_self]
theorem vor (e w d a b) : Statement (.vor e w d a b) := by
  intro h v hv
  cases Option.some.inj hv
  refine decodeWord_of_raw (of_fields (P := fun W => decodeRaw W = some (.vor e w d a b)) [(3, 3), (7, b.toNat), (7, a.toNat), (7, d.toNat), (1, w.toNat), (6, 17), (1, e.toNat)] ⟨by decide, b.isLt, a.isLt, d.isLt, Bool.toNat_lt w, by decide, Bool.toNat_lt e, trivial⟩ rfl (fun W g => ?_)) h
  refine (raw11 (g 25 6 17 rfl)).trans ?_
  simp only [decodeMajor11, fixedAt, g 0 3 3 rfl, field_of_bits (x := b) (g 3 7 _ rfl), field_of_bits (x := a) (g 10 7 _ rfl), field_of_bits (x := d) (g 17 7 _ rfl), bitAt_of_bits (g 24 1 _ rfl), bitAt_of_bits (g 31 1 _ rfl), if_true, and_self]
theorem vxor (e w d a b) : Statement (.vxor e w d a b) := by
  intro h v hv
  cases Option.some.inj hv
  refine decodeWord_of_raw (of_fields (P := fun W => decodeRaw W = some (.vxor e w d a b)) [(3, 4), (7, b.toNat), (7, a.toNat), (7, d.toNat), (1, w.toNat), (6, 17), (1, e.toNat)] ⟨by decide, b.isLt, a.isLt, d.isLt, Bool.toNat_lt w, by decide, Bool.toNat_lt e, trivial⟩ rfl (fun W g => ?_)) h
  refine (raw11 (g 25 6 17 rfl)).trans ?_
  simp only [decodeMajor11, fixedAt, g 0 3 4 rfl, field_of_bits (x := b) (g 3 7 _ rfl), field_of_bits (x := a) (g 10 7 _ rfl), field_of_bits (x := d) (g 17 7 _ rfl), bitAt_of_bits (g 24 1 _ rfl), bitAt_of_bits (g 31 1 _ rfl), if_true, and_self]
theorem vandn (e w d a b) : Statement (.vandn e w d a b) := by
  intro h v hv
  cases Option.some.inj hv
  refine decodeWord_of_raw (of_fields (P := fun W => decodeRaw W = some (.vandn e w d a b)) [(3, 5), (7, b.toNat), (7, a.toNat), (7, d.toNat), (1, w.toNat), (6, 17), (1, e.toNat)] ⟨by decide, b.isLt, a.isLt, d.isLt, Bool.toNat_lt w, by decide, Bool.toNat_lt e, trivial⟩ rfl (fun W g => ?_)) h
  refine (raw11 (g 25 6 17 rfl)).trans ?_
  simp only [decodeMajor11, fixedAt, g 0 3 5 rfl, field_of_bits (x := b) (g 3 7 _ rfl), field_of_bits (x := a) (g 10 7 _ rfl), field_of_bits (x := d) (g 17 7 _ rfl), bitAt_of_bits (g 24 1 _ rfl), bitAt_of_bits (g 31 1 _ rfl), if_true, and_self]
theorem vshl (e w d a b) : Statement (.vshl e w d a b) := by
  intro h v hv
  cases Option.some.inj hv
  refine decodeWord_of_raw (of_fields (P := fun W => decodeRaw W = some (.vshl e w d a b)) [(3, 6), (7, b.toNat), (7, a.toNat), (7, d.toNat), (1, w.toNat), (6, 17), (1, e.toNat)] ⟨by decide, b.isLt, a.isLt, d.isLt, Bool.toNat_lt w, by decide, Bool.toNat_lt e, trivial⟩ rfl (fun W g => ?_)) h
  refine (raw11 (g 25 6 17 rfl)).trans ?_
  simp only [decodeMajor11, fixedAt, g 0 3 6 rfl, field_of_bits (x := b) (g 3 7 _ rfl), field_of_bits (x := a) (g 10 7 _ rfl), field_of_bits (x := d) (g 17 7 _ rfl), bitAt_of_bits (g 24 1 _ rfl), bitAt_of_bits (g 31 1 _ rfl), if_true, and_self]
theorem vshr (e w d a b) : Statement (.vshr e w d a b) := by
  intro h v hv
  cases Option.some.inj hv
  refine decodeWord_of_raw (of_fields (P := fun W => decodeRaw W = some (.vshr e w d a b)) [(3, 7), (7, b.toNat), (7, a.toNat), (7, d.toNat), (1, w.toNat), (6, 17), (1, e.toNat)] ⟨by decide, b.isLt, a.isLt, d.isLt, Bool.toNat_lt w, by decide, Bool.toNat_lt e, trivial⟩ rfl (fun W g => ?_)) h
  refine (raw11 (g 25 6 17 rfl)).trans ?_
  simp only [decodeMajor11, fixedAt, g 0 3 7 rfl, field_of_bits (x := b) (g 3 7 _ rfl), field_of_bits (x := a) (g 10 7 _ rfl), field_of_bits (x := d) (g 17 7 _ rfl), bitAt_of_bits (g 24 1 _ rfl), bitAt_of_bits (g 31 1 _ rfl), if_true, and_self]
theorem vsra (e w d a b) : Statement (.vsra e w d a b) := by
  intro h v hv
  cases Option.some.inj hv
  refine decodeWord_of_raw (of_fields (P := fun W => decodeRaw W = some (.vsra e w d a b)) [(3, 0), (7, b.toNat), (7, a.toNat), (7, d.toNat), (1, w.toNat), (6, 18), (1, e.toNat)] ⟨by decide, b.isLt, a.isLt, d.isLt, Bool.toNat_lt w, by decide, Bool.toNat_lt e, trivial⟩ rfl (fun W g => ?_)) h
  refine (raw12 (g 25 6 18 rfl)).trans ?_
  simp only [decodeMajor12, fixedAt, g 0 3 0 rfl, field_of_bits (x := b) (g 3 7 _ rfl), field_of_bits (x := a) (g 10 7 _ rfl), field_of_bits (x := d) (g 17 7 _ rfl), bitAt_of_bits (g 24 1 _ rfl), bitAt_of_bits (g 31 1 _ rfl), if_true, and_self]
theorem vclz (e w d a b) : Statement (.vclz e w d a b) := by
  intro h v hv
  cases Option.some.inj hv
  refine decodeWord_of_raw (of_fields (P := fun W => decodeRaw W = some (.vclz e w d a b)) [(3, 1), (7, b.toNat), (7, a.toNat), (7, d.toNat), (1, w.toNat), (6, 18), (1, e.toNat)] ⟨by decide, b.isLt, a.isLt, d.isLt, Bool.toNat_lt w, by decide, Bool.toNat_lt e, trivial⟩ rfl (fun W g => ?_)) h
  refine (raw12 (g 25 6 18 rfl)).trans ?_
  simp only [decodeMajor12, fixedAt, g 0 3 1 rfl, field_of_bits (x := b) (g 3 7 _ rfl), field_of_bits (x := a) (g 10 7 _ rfl), field_of_bits (x := d) (g 17 7 _ rfl), bitAt_of_bits (g 24 1 _ rfl), bitAt_of_bits (g 31 1 _ rfl), if_true, and_self]
theorem vpopc (e w d a b) : Statement (.vpopc e w d a b) := by
  intro h v hv
  cases Option.some.inj hv
  refine decodeWord_of_raw (of_fields (P := fun W => decodeRaw W = some (.vpopc e w d a b)) [(3, 2), (7, b.toNat), (7, a.toNat), (7, d.toNat), (1, w.toNat), (6, 18), (1, e.toNat)] ⟨by decide, b.isLt, a.isLt, d.isLt, Bool.toNat_lt w, by decide, Bool.toNat_lt e, trivial⟩ rfl (fun W g => ?_)) h
  refine (raw12 (g 25 6 18 rfl)).trans ?_
  simp only [decodeMajor12, fixedAt, g 0 3 2 rfl, field_of_bits (x := b) (g 3 7 _ rfl), field_of_bits (x := a) (g 10 7 _ rfl), field_of_bits (x := d) (g 17 7 _ rfl), bitAt_of_bits (g 24 1 _ rfl), bitAt_of_bits (g 31 1 _ rfl), if_true, and_self]
theorem vbrev (e w d a b) : Statement (.vbrev e w d a b) := by
  intro h v hv
  cases Option.some.inj hv
  refine decodeWord_of_raw (of_fields (P := fun W => decodeRaw W = some (.vbrev e w d a b)) [(3, 3), (7, b.toNat), (7, a.toNat), (7, d.toNat), (1, w.toNat), (6, 18), (1, e.toNat)] ⟨by decide, b.isLt, a.isLt, d.isLt, Bool.toNat_lt w, by decide, Bool.toNat_lt e, trivial⟩ rfl (fun W g => ?_)) h
  refine (raw12 (g 25 6 18 rfl)).trans ?_
  simp only [decodeMajor12, fixedAt, g 0 3 3 rfl, field_of_bits (x := b) (g 3 7 _ rfl), field_of_bits (x := a) (g 10 7 _ rfl), field_of_bits (x := d) (g 17 7 _ rfl), bitAt_of_bits (g 24 1 _ rfl), bitAt_of_bits (g 31 1 _ rfl), if_true, and_self]
theorem vsel (e w d a b) : Statement (.vsel e w d a b) := by
  intro h v hv
  cases Option.some.inj hv
  refine decodeWord_of_raw (of_fields (P := fun W => decodeRaw W = some (.vsel e w d a b)) [(3, 4), (7, b.toNat), (7, a.toNat), (7, d.toNat), (1, w.toNat), (6, 18), (1, e.toNat)] ⟨by decide, b.isLt, a.isLt, d.isLt, Bool.toNat_lt w, by decide, Bool.toNat_lt e, trivial⟩ rfl (fun W g => ?_)) h
  refine (raw12 (g 25 6 18 rfl)).trans ?_
  simp only [decodeMajor12, fixedAt, g 0 3 4 rfl, field_of_bits (x := b) (g 3 7 _ rfl), field_of_bits (x := a) (g 10 7 _ rfl), field_of_bits (x := d) (g 17 7 _ rfl), bitAt_of_bits (g 24 1 _ rfl), bitAt_of_bits (g 31 1 _ rfl), if_true, and_self]
theorem vmov (e w d a b) : Statement (.vmov e w d a b) := by
  intro h v hv
  cases Option.some.inj hv
  refine decodeWord_of_raw (of_fields (P := fun W => decodeRaw W = some (.vmov e w d a b)) [(3, 5), (7, b.toNat), (7, a.toNat), (7, d.toNat), (1, w.toNat), (6, 18), (1, e.toNat)] ⟨by decide, b.isLt, a.isLt, d.isLt, Bool.toNat_lt w, by decide, Bool.toNat_lt e, trivial⟩ rfl (fun W g => ?_)) h
  refine (raw12 (g 25 6 18 rfl)).trans ?_
  simp only [decodeMajor12, fixedAt, g 0 3 5 rfl, field_of_bits (x := b) (g 3 7 _ rfl), field_of_bits (x := a) (g 10 7 _ rfl), field_of_bits (x := d) (g 17 7 _ rfl), bitAt_of_bits (g 24 1 _ rfl), bitAt_of_bits (g 31 1 _ rfl), if_true, and_self]
theorem vmulhu (e w d a b) : Statement (.vmulhu e w d a b) := by
  intro h v hv
  cases Option.some.inj hv
  refine decodeWord_of_raw (of_fields (P := fun W => decodeRaw W = some (.vmulhu e w d a b)) [(3, 6), (7, b.toNat), (7, a.toNat), (7, d.toNat), (1, w.toNat), (6, 18), (1, e.toNat)] ⟨by decide, b.isLt, a.isLt, d.isLt, Bool.toNat_lt w, by decide, Bool.toNat_lt e, trivial⟩ rfl (fun W g => ?_)) h
  refine (raw12 (g 25 6 18 rfl)).trans ?_
  simp only [decodeMajor12, fixedAt, g 0 3 6 rfl, field_of_bits (x := b) (g 3 7 _ rfl), field_of_bits (x := a) (g 10 7 _ rfl), field_of_bits (x := d) (g 17 7 _ rfl), bitAt_of_bits (g 24 1 _ rfl), bitAt_of_bits (g 31 1 _ rfl), if_true, and_self]
theorem vbfe (e w d a b) : Statement (.vbfe e w d a b) := by
  intro h v hv
  cases Option.some.inj hv
  refine decodeWord_of_raw (of_fields (P := fun W => decodeRaw W = some (.vbfe e w d a b)) [(3, 7), (7, b.toNat), (7, a.toNat), (7, d.toNat), (1, w.toNat), (6, 18), (1, e.toNat)] ⟨by decide, b.isLt, a.isLt, d.isLt, Bool.toNat_lt w, by decide, Bool.toNat_lt e, trivial⟩ rfl (fun W g => ?_)) h
  refine (raw12 (g 25 6 18 rfl)).trans ?_
  simp only [decodeMajor12, fixedAt, g 0 3 7 rfl, field_of_bits (x := b) (g 3 7 _ rfl), field_of_bits (x := a) (g 10 7 _ rfl), field_of_bits (x := d) (g 17 7 _ rfl), bitAt_of_bits (g 24 1 _ rfl), bitAt_of_bits (g 31 1 _ rfl), if_true, and_self]
theorem vaddi (e w d a i) : Statement (.vaddi e w d a i) := by
  intro h v hv
  cases Option.some.inj hv
  refine decodeWord_of_raw (of_fields (P := fun W => decodeRaw W = some (.vaddi e w d a i)) [(10, i.toNat), (7, a.toNat), (7, d.toNat), (1, w.toNat), (6, 19), (1, e.toNat)] ⟨i.isLt, a.isLt, d.isLt, Bool.toNat_lt w, by decide, Bool.toNat_lt e, trivial⟩ rfl (fun W g => ?_)) h
  refine (raw13 (g 25 6 19 rfl)).trans ?_
  simp only [decodeMajor13, fixedAt, field_of_bits (x := i) (g 0 10 _ rfl), field_of_bits (x := a) (g 10 7 _ rfl), field_of_bits (x := d) (g 17 7 _ rfl), bitAt_of_bits (g 24 1 _ rfl), bitAt_of_bits (g 31 1 _ rfl), if_true, and_self]
theorem vandi (e w d a i) : Statement (.vandi e w d a i) := by
  intro h v hv
  cases Option.some.inj hv
  refine decodeWord_of_raw (of_fields (P := fun W => decodeRaw W = some (.vandi e w d a i)) [(8, i.toNat), (2, 0), (7, a.toNat), (7, d.toNat), (1, w.toNat), (6, 20), (1, e.toNat)] ⟨i.isLt, by decide, a.isLt, d.isLt, Bool.toNat_lt w, by decide, Bool.toNat_lt e, trivial⟩ rfl (fun W g => ?_)) h
  refine (raw14 (g 25 6 20 rfl)).trans ?_
  simp only [decodeMajor14, fixedAt, field_of_bits (x := i) (g 0 8 _ rfl), g 8 2 0 rfl, field_of_bits (x := a) (g 10 7 _ rfl), field_of_bits (x := d) (g 17 7 _ rfl), bitAt_of_bits (g 24 1 _ rfl), bitAt_of_bits (g 31 1 _ rfl), if_true, and_self]
theorem vori (e w d a i) : Statement (.vori e w d a i) := by
  intro h v hv
  cases Option.some.inj hv
  refine decodeWord_of_raw (of_fields (P := fun W => decodeRaw W = some (.vori e w d a i)) [(8, i.toNat), (2, 1), (7, a.toNat), (7, d.toNat), (1, w.toNat), (6, 20), (1, e.toNat)] ⟨i.isLt, by decide, a.isLt, d.isLt, Bool.toNat_lt w, by decide, Bool.toNat_lt e, trivial⟩ rfl (fun W g => ?_)) h
  refine (raw14 (g 25 6 20 rfl)).trans ?_
  simp only [decodeMajor14, fixedAt, field_of_bits (x := i) (g 0 8 _ rfl), g 8 2 1 rfl, field_of_bits (x := a) (g 10 7 _ rfl), field_of_bits (x := d) (g 17 7 _ rfl), bitAt_of_bits (g 24 1 _ rfl), bitAt_of_bits (g 31 1 _ rfl), if_true, and_self]
theorem vxori (e w d a i) : Statement (.vxori e w d a i) := by
  intro h v hv
  cases Option.some.inj hv
  refine decodeWord_of_raw (of_fields (P := fun W => decodeRaw W = some (.vxori e w d a i)) [(8, i.toNat), (2, 2), (7, a.toNat), (7, d.toNat), (1, w.toNat), (6, 20), (1, e.toNat)] ⟨i.isLt, by decide, a.isLt, d.isLt, Bool.toNat_lt w, by decide, Bool.toNat_lt e, trivial⟩ rfl (fun W g => ?_)) h
  refine (raw14 (g 25 6 20 rfl)).trans ?_
  simp only [decodeMajor14, fixedAt, field_of_bits (x := i) (g 0 8 _ rfl), g 8 2 2 rfl, field_of_bits (x := a) (g 10 7 _ rfl), field_of_bits (x := d) (g 17 7 _ rfl), bitAt_of_bits (g 24 1 _ rfl), bitAt_of_bits (g 31 1 _ rfl), if_true, and_self]
theorem vshli (e w d a i) : Statement (.vshli e w d a i) := by
  intro h v hv
  cases Option.some.inj hv
  refine decodeWord_of_raw (of_fields (P := fun W => decodeRaw W = some (.vshli e w d a i)) [(5, i.toNat), (3, 0), (2, 0), (7, a.toNat), (7, d.toNat), (1, w.toNat), (6, 21), (1, e.toNat)] ⟨i.isLt, by decide, by decide, a.isLt, d.isLt, Bool.toNat_lt w, by decide, Bool.toNat_lt e, trivial⟩ rfl (fun W g => ?_)) h
  refine (raw15 (g 25 6 21 rfl)).trans ?_
  simp only [decodeMajor15, fixedAt, field_of_bits (x := i) (g 0 5 _ rfl), g 5 3 0 rfl, g 8 2 0 rfl, field_of_bits (x := a) (g 10 7 _ rfl), field_of_bits (x := d) (g 17 7 _ rfl), bitAt_of_bits (g 24 1 _ rfl), bitAt_of_bits (g 31 1 _ rfl), if_true, and_self]
theorem vshri (e w d a i) : Statement (.vshri e w d a i) := by
  intro h v hv
  cases Option.some.inj hv
  refine decodeWord_of_raw (of_fields (P := fun W => decodeRaw W = some (.vshri e w d a i)) [(5, i.toNat), (3, 0), (2, 1), (7, a.toNat), (7, d.toNat), (1, w.toNat), (6, 21), (1, e.toNat)] ⟨i.isLt, by decide, by decide, a.isLt, d.isLt, Bool.toNat_lt w, by decide, Bool.toNat_lt e, trivial⟩ rfl (fun W g => ?_)) h
  refine (raw15 (g 25 6 21 rfl)).trans ?_
  simp only [decodeMajor15, fixedAt, field_of_bits (x := i) (g 0 5 _ rfl), g 5 3 0 rfl, g 8 2 1 rfl, field_of_bits (x := a) (g 10 7 _ rfl), field_of_bits (x := d) (g 17 7 _ rfl), bitAt_of_bits (g 24 1 _ rfl), bitAt_of_bits (g 31 1 _ rfl), if_true, and_self]
theorem vsrai (e w d a i) : Statement (.vsrai e w d a i) := by
  intro h v hv
  cases Option.some.inj hv
  refine decodeWord_of_raw (of_fields (P := fun W => decodeRaw W = some (.vsrai e w d a i)) [(5, i.toNat), (3, 0), (2, 2), (7, a.toNat), (7, d.toNat), (1, w.toNat), (6, 21), (1, e.toNat)] ⟨i.isLt, by decide, by decide, a.isLt, d.isLt, Bool.toNat_lt w, by decide, Bool.toNat_lt e, trivial⟩ rfl (fun W g => ?_)) h
  refine (raw15 (g 25 6 21 rfl)).trans ?_
  simp only [decodeMajor15, fixedAt, field_of_bits (x := i) (g 0 5 _ rfl), g 5 3 0 rfl, g 8 2 2 rfl, field_of_bits (x := a) (g 10 7 _ rfl), field_of_bits (x := d) (g 17 7 _ rfl), bitAt_of_bits (g 24 1 _ rfl), bitAt_of_bits (g 31 1 _ rfl), if_true, and_self]
theorem vroti (e w d a i) : Statement (.vroti e w d a i) := by
  intro h v hv
  cases Option.some.inj hv
  refine decodeWord_of_raw (of_fields (P := fun W => decodeRaw W = some (.vroti e w d a i)) [(5, i.toNat), (3, 0), (2, 3), (7, a.toNat), (7, d.toNat), (1, w.toNat), (6, 21), (1, e.toNat)] ⟨i.isLt, by decide, by decide, a.isLt, d.isLt, Bool.toNat_lt w, by decide, Bool.toNat_lt e, trivial⟩ rfl (fun W g => ?_)) h
  refine (raw15 (g 25 6 21 rfl)).trans ?_
  simp only [decodeMajor15, fixedAt, field_of_bits (x := i) (g 0 5 _ rfl), g 5 3 0 rfl, g 8 2 3 rfl, field_of_bits (x := a) (g 10 7 _ rfl), field_of_bits (x := d) (g 17 7 _ rfl), bitAt_of_bits (g 24 1 _ rfl), bitAt_of_bits (g 31 1 _ rfl), if_true, and_self]
theorem vcmp (e w d a b c) : Statement (.vcmp e w d a b c) := by
  intro h v hv
  cases Option.some.inj hv
  refine decodeWord_of_raw (of_fields (P := fun W => decodeRaw W = some (.vcmp e w d a b c)) [(3, c.toNat), (7, b.toNat), (7, a.toNat), (7, d.toNat), (1, w.toNat), (6, 22), (1, e.toNat)] ⟨c.isLt, b.isLt, a.isLt, d.isLt, Bool.toNat_lt w, by decide, Bool.toNat_lt e, trivial⟩ rfl (fun W g => ?_)) h
  refine (raw16 (g 25 6 22 rfl)).trans ?_
  simp only [decodeMajor16, fixedAt, field_of_bits (x := c) (g 0 3 _ rfl), field_of_bits (x := b) (g 3 7 _ rfl), field_of_bits (x := a) (g 10 7 _ rfl), field_of_bits (x := d) (g 17 7 _ rfl), bitAt_of_bits (g 24 1 _ rfl), bitAt_of_bits (g 31 1 _ rfl), if_true, and_self]
theorem fadd (e w d a b) : Statement (.fadd e w d a b) := by
  intro h v hv
  cases Option.some.inj hv
  refine decodeWord_of_raw (of_fields (P := fun W => decodeRaw W = some (.fadd e w d a b)) [(3, 0), (7, b.toNat), (7, a.toNat), (7, d.toNat), (1, w.toNat), (6, 23), (1, e.toNat)] ⟨by decide, b.isLt, a.isLt, d.isLt, Bool.toNat_lt w, by decide, Bool.toNat_lt e, trivial⟩ rfl (fun W g => ?_)) h
  refine (raw17 (g 25 6 23 rfl)).trans ?_
  simp only [decodeMajor17, fixedAt, g 0 3 0 rfl, field_of_bits (x := b) (g 3 7 _ rfl), field_of_bits (x := a) (g 10 7 _ rfl), field_of_bits (x := d) (g 17 7 _ rfl), bitAt_of_bits (g 24 1 _ rfl), bitAt_of_bits (g 31 1 _ rfl), if_true, and_self]
theorem fsub (e w d a b) : Statement (.fsub e w d a b) := by
  intro h v hv
  cases Option.some.inj hv
  refine decodeWord_of_raw (of_fields (P := fun W => decodeRaw W = some (.fsub e w d a b)) [(3, 1), (7, b.toNat), (7, a.toNat), (7, d.toNat), (1, w.toNat), (6, 23), (1, e.toNat)] ⟨by decide, b.isLt, a.isLt, d.isLt, Bool.toNat_lt w, by decide, Bool.toNat_lt e, trivial⟩ rfl (fun W g => ?_)) h
  refine (raw17 (g 25 6 23 rfl)).trans ?_
  simp only [decodeMajor17, fixedAt, g 0 3 1 rfl, field_of_bits (x := b) (g 3 7 _ rfl), field_of_bits (x := a) (g 10 7 _ rfl), field_of_bits (x := d) (g 17 7 _ rfl), bitAt_of_bits (g 24 1 _ rfl), bitAt_of_bits (g 31 1 _ rfl), if_true, and_self]
theorem fmul (e w d a b) : Statement (.fmul e w d a b) := by
  intro h v hv
  cases Option.some.inj hv
  refine decodeWord_of_raw (of_fields (P := fun W => decodeRaw W = some (.fmul e w d a b)) [(3, 2), (7, b.toNat), (7, a.toNat), (7, d.toNat), (1, w.toNat), (6, 23), (1, e.toNat)] ⟨by decide, b.isLt, a.isLt, d.isLt, Bool.toNat_lt w, by decide, Bool.toNat_lt e, trivial⟩ rfl (fun W g => ?_)) h
  refine (raw17 (g 25 6 23 rfl)).trans ?_
  simp only [decodeMajor17, fixedAt, g 0 3 2 rfl, field_of_bits (x := b) (g 3 7 _ rfl), field_of_bits (x := a) (g 10 7 _ rfl), field_of_bits (x := d) (g 17 7 _ rfl), bitAt_of_bits (g 24 1 _ rfl), bitAt_of_bits (g 31 1 _ rfl), if_true, and_self]
theorem ffma (e w d a b) : Statement (.ffma e w d a b) := by
  intro h v hv
  cases Option.some.inj hv
  refine decodeWord_of_raw (of_fields (P := fun W => decodeRaw W = some (.ffma e w d a b)) [(3, 3), (7, b.toNat), (7, a.toNat), (7, d.toNat), (1, w.toNat), (6, 23), (1, e.toNat)] ⟨by decide, b.isLt, a.isLt, d.isLt, Bool.toNat_lt w, by decide, Bool.toNat_lt e, trivial⟩ rfl (fun W g => ?_)) h
  refine (raw17 (g 25 6 23 rfl)).trans ?_
  simp only [decodeMajor17, fixedAt, g 0 3 3 rfl, field_of_bits (x := b) (g 3 7 _ rfl), field_of_bits (x := a) (g 10 7 _ rfl), field_of_bits (x := d) (g 17 7 _ rfl), bitAt_of_bits (g 24 1 _ rfl), bitAt_of_bits (g 31 1 _ rfl), if_true, and_self]
theorem fmin (e w d a b) : Statement (.fmin e w d a b) := by
  intro h v hv
  cases Option.some.inj hv
  refine decodeWord_of_raw (of_fields (P := fun W => decodeRaw W = some (.fmin e w d a b)) [(3, 4), (7, b.toNat), (7, a.toNat), (7, d.toNat), (1, w.toNat), (6, 23), (1, e.toNat)] ⟨by decide, b.isLt, a.isLt, d.isLt, Bool.toNat_lt w, by decide, Bool.toNat_lt e, trivial⟩ rfl (fun W g => ?_)) h
  refine (raw17 (g 25 6 23 rfl)).trans ?_
  simp only [decodeMajor17, fixedAt, g 0 3 4 rfl, field_of_bits (x := b) (g 3 7 _ rfl), field_of_bits (x := a) (g 10 7 _ rfl), field_of_bits (x := d) (g 17 7 _ rfl), bitAt_of_bits (g 24 1 _ rfl), bitAt_of_bits (g 31 1 _ rfl), if_true, and_self]
theorem fmax (e w d a b) : Statement (.fmax e w d a b) := by
  intro h v hv
  cases Option.some.inj hv
  refine decodeWord_of_raw (of_fields (P := fun W => decodeRaw W = some (.fmax e w d a b)) [(3, 5), (7, b.toNat), (7, a.toNat), (7, d.toNat), (1, w.toNat), (6, 23), (1, e.toNat)] ⟨by decide, b.isLt, a.isLt, d.isLt, Bool.toNat_lt w, by decide, Bool.toNat_lt e, trivial⟩ rfl (fun W g => ?_)) h
  refine (raw17 (g 25 6 23 rfl)).trans ?_
  simp only [decodeMajor17, fixedAt, g 0 3 5 rfl, field_of_bits (x := b) (g 3 7 _ rfl), field_of_bits (x := a) (g 10 7 _ rfl), field_of_bits (x := d) (g 17 7 _ rfl), bitAt_of_bits (g 24 1 _ rfl), bitAt_of_bits (g 31 1 _ rfl), if_true, and_self]
theorem fabs (e w d a b) : Statement (.fabs e w d a b) := by
  intro h v hv
  cases Option.some.inj hv
  refine decodeWord_of_raw (of_fields (P := fun W => decodeRaw W = some (.fabs e w d a b)) [(3, 6), (7, b.toNat), (7, a.toNat), (7, d.toNat), (1, w.toNat), (6, 23), (1, e.toNat)] ⟨by decide, b.isLt, a.isLt, d.isLt, Bool.toNat_lt w, by decide, Bool.toNat_lt e, trivial⟩ rfl (fun W g => ?_)) h
  refine (raw17 (g 25 6 23 rfl)).trans ?_
  simp only [decodeMajor17, fixedAt, g 0 3 6 rfl, field_of_bits (x := b) (g 3 7 _ rfl), field_of_bits (x := a) (g 10 7 _ rfl), field_of_bits (x := d) (g 17 7 _ rfl), bitAt_of_bits (g 24 1 _ rfl), bitAt_of_bits (g 31 1 _ rfl), if_true, and_self]
theorem fneg (e w d a b) : Statement (.fneg e w d a b) := by
  intro h v hv
  cases Option.some.inj hv
  refine decodeWord_of_raw (of_fields (P := fun W => decodeRaw W = some (.fneg e w d a b)) [(3, 7), (7, b.toNat), (7, a.toNat), (7, d.toNat), (1, w.toNat), (6, 23), (1, e.toNat)] ⟨by decide, b.isLt, a.isLt, d.isLt, Bool.toNat_lt w, by decide, Bool.toNat_lt e, trivial⟩ rfl (fun W g => ?_)) h
  refine (raw17 (g 25 6 23 rfl)).trans ?_
  simp only [decodeMajor17, fixedAt, g 0 3 7 rfl, field_of_bits (x := b) (g 3 7 _ rfl), field_of_bits (x := a) (g 10 7 _ rfl), field_of_bits (x := d) (g 17 7 _ rfl), bitAt_of_bits (g 24 1 _ rfl), bitAt_of_bits (g 31 1 _ rfl), if_true, and_self]
theorem fceq (e w d a b) : Statement (.fceq e w d a b) := by
  intro h v hv
  cases Option.some.inj hv
  refine decodeWord_of_raw (of_fields (P := fun W => decodeRaw W = some (.fceq e w d a b)) [(3, 0), (7, b.toNat), (7, a.toNat), (7, d.toNat), (1, w.toNat), (6, 24), (1, e.toNat)] ⟨by decide, b.isLt, a.isLt, d.isLt, Bool.toNat_lt w, by decide, Bool.toNat_lt e, trivial⟩ rfl (fun W g => ?_)) h
  refine (raw18 (g 25 6 24 rfl)).trans ?_
  simp only [decodeMajor18, fixedAt, g 0 3 0 rfl, field_of_bits (x := b) (g 3 7 _ rfl), field_of_bits (x := a) (g 10 7 _ rfl), field_of_bits (x := d) (g 17 7 _ rfl), bitAt_of_bits (g 24 1 _ rfl), bitAt_of_bits (g 31 1 _ rfl), if_true, and_self]
theorem fclt (e w d a b) : Statement (.fclt e w d a b) := by
  intro h v hv
  cases Option.some.inj hv
  refine decodeWord_of_raw (of_fields (P := fun W => decodeRaw W = some (.fclt e w d a b)) [(3, 1), (7, b.toNat), (7, a.toNat), (7, d.toNat), (1, w.toNat), (6, 24), (1, e.toNat)] ⟨by decide, b.isLt, a.isLt, d.isLt, Bool.toNat_lt w, by decide, Bool.toNat_lt e, trivial⟩ rfl (fun W g => ?_)) h
  refine (raw18 (g 25 6 24 rfl)).trans ?_
  simp only [decodeMajor18, fixedAt, g 0 3 1 rfl, field_of_bits (x := b) (g 3 7 _ rfl), field_of_bits (x := a) (g 10 7 _ rfl), field_of_bits (x := d) (g 17 7 _ rfl), bitAt_of_bits (g 24 1 _ rfl), bitAt_of_bits (g 31 1 _ rfl), if_true, and_self]
theorem fcle (e w d a b) : Statement (.fcle e w d a b) := by
  intro h v hv
  cases Option.some.inj hv
  refine decodeWord_of_raw (of_fields (P := fun W => decodeRaw W = some (.fcle e w d a b)) [(3, 2), (7, b.toNat), (7, a.toNat), (7, d.toNat), (1, w.toNat), (6, 24), (1, e.toNat)] ⟨by decide, b.isLt, a.isLt, d.isLt, Bool.toNat_lt w, by decide, Bool.toNat_lt e, trivial⟩ rfl (fun W g => ?_)) h
  refine (raw18 (g 25 6 24 rfl)).trans ?_
  simp only [decodeMajor18, fixedAt, g 0 3 2 rfl, field_of_bits (x := b) (g 3 7 _ rfl), field_of_bits (x := a) (g 10 7 _ rfl), field_of_bits (x := d) (g 17 7 _ rfl), bitAt_of_bits (g 24 1 _ rfl), bitAt_of_bits (g 31 1 _ rfl), if_true, and_self]
theorem fcun (e w d a b) : Statement (.fcun e w d a b) := by
  intro h v hv
  cases Option.some.inj hv
  refine decodeWord_of_raw (of_fields (P := fun W => decodeRaw W = some (.fcun e w d a b)) [(3, 3), (7, b.toNat), (7, a.toNat), (7, d.toNat), (1, w.toNat), (6, 24), (1, e.toNat)] ⟨by decide, b.isLt, a.isLt, d.isLt, Bool.toNat_lt w, by decide, Bool.toNat_lt e, trivial⟩ rfl (fun W g => ?_)) h
  refine (raw18 (g 25 6 24 rfl)).trans ?_
  simp only [decodeMajor18, fixedAt, g 0 3 3 rfl, field_of_bits (x := b) (g 3 7 _ rfl), field_of_bits (x := a) (g 10 7 _ rfl), field_of_bits (x := d) (g 17 7 _ rfl), bitAt_of_bits (g 24 1 _ rfl), bitAt_of_bits (g 31 1 _ rfl), if_true, and_self]
theorem fcpysgn (e w d a b) : Statement (.fcpysgn e w d a b) := by
  intro h v hv
  cases Option.some.inj hv
  refine decodeWord_of_raw (of_fields (P := fun W => decodeRaw W = some (.fcpysgn e w d a b)) [(3, 4), (7, b.toNat), (7, a.toNat), (7, d.toNat), (1, w.toNat), (6, 24), (1, e.toNat)] ⟨by decide, b.isLt, a.isLt, d.isLt, Bool.toNat_lt w, by decide, Bool.toNat_lt e, trivial⟩ rfl (fun W g => ?_)) h
  refine (raw18 (g 25 6 24 rfl)).trans ?_
  simp only [decodeMajor18, fixedAt, g 0 3 4 rfl, field_of_bits (x := b) (g 3 7 _ rfl), field_of_bits (x := a) (g 10 7 _ rfl), field_of_bits (x := d) (g 17 7 _ rfl), bitAt_of_bits (g 24 1 _ rfl), bitAt_of_bits (g 31 1 _ rfl), if_true, and_self]
theorem fclass (e w d a b) : Statement (.fclass e w d a b) := by
  intro h v hv
  cases Option.some.inj hv
  refine decodeWord_of_raw (of_fields (P := fun W => decodeRaw W = some (.fclass e w d a b)) [(3, 5), (7, b.toNat), (7, a.toNat), (7, d.toNat), (1, w.toNat), (6, 24), (1, e.toNat)] ⟨by decide, b.isLt, a.isLt, d.isLt, Bool.toNat_lt w, by decide, Bool.toNat_lt e, trivial⟩ rfl (fun W g => ?_)) h
  refine (raw18 (g 25 6 24 rfl)).trans ?_
  simp only [decodeMajor18, fixedAt, g 0 3 5 rfl, field_of_bits (x := b) (g 3 7 _ rfl), field_of_bits (x := a) (g 10 7 _ rfl), field_of_bits (x := d) (g 17 7 _ rfl), bitAt_of_bits (g 24 1 _ rfl), bitAt_of_bits (g 31 1 _ rfl), if_true, and_self]
theorem fscale (e w d a b) : Statement (.fscale e w d a b) := by
  intro h v hv
  cases Option.some.inj hv
  refine decodeWord_of_raw (of_fields (P := fun W => decodeRaw W = some (.fscale e w d a b)) [(3, 6), (7, b.toNat), (7, a.toNat), (7, d.toNat), (1, w.toNat), (6, 24), (1, e.toNat)] ⟨by decide, b.isLt, a.isLt, d.isLt, Bool.toNat_lt w, by decide, Bool.toNat_lt e, trivial⟩ rfl (fun W g => ?_)) h
  refine (raw18 (g 25 6 24 rfl)).trans ?_
  simp only [decodeMajor18, fixedAt, g 0 3 6 rfl, field_of_bits (x := b) (g 3 7 _ rfl), field_of_bits (x := a) (g 10 7 _ rfl), field_of_bits (x := d) (g 17 7 _ rfl), bitAt_of_bits (g 24 1 _ rfl), bitAt_of_bits (g 31 1 _ rfl), if_true, and_self]
theorem frnd (e w d a b) : Statement (.frnd e w d a b) := by
  intro h v hv
  cases Option.some.inj hv
  refine decodeWord_of_raw (of_fields (P := fun W => decodeRaw W = some (.frnd e w d a b)) [(3, 7), (7, b.toNat), (7, a.toNat), (7, d.toNat), (1, w.toNat), (6, 24), (1, e.toNat)] ⟨by decide, b.isLt, a.isLt, d.isLt, Bool.toNat_lt w, by decide, Bool.toNat_lt e, trivial⟩ rfl (fun W g => ?_)) h
  refine (raw18 (g 25 6 24 rfl)).trans ?_
  simp only [decodeMajor18, fixedAt, g 0 3 7 rfl, field_of_bits (x := b) (g 3 7 _ rfl), field_of_bits (x := a) (g 10 7 _ rfl), field_of_bits (x := d) (g 17 7 _ rfl), bitAt_of_bits (g 24 1 _ rfl), bitAt_of_bits (g 31 1 _ rfl), if_true, and_self]
theorem cvt (e w d a t s m) : Statement (.cvt e w d a t s m) := by
  intro h v hv
  cases Option.some.inj hv
  refine decodeWord_of_raw (of_fields (P := fun W => decodeRaw W = some (.cvt e w d a t s m)) [(3, m.toNat), (3, s.toNat), (4, t.toNat), (7, a.toNat), (7, d.toNat), (1, w.toNat), (6, 25), (1, e.toNat)] ⟨m.isLt, s.isLt, t.isLt, a.isLt, d.isLt, Bool.toNat_lt w, by decide, Bool.toNat_lt e, trivial⟩ rfl (fun W g => ?_)) h
  refine (raw19 (g 25 6 25 rfl)).trans ?_
  simp only [decodeMajor19, fixedAt, field_of_bits (x := m) (g 0 3 _ rfl), field_of_bits (x := s) (g 3 3 _ rfl), field_of_bits (x := t) (g 6 4 _ rfl), field_of_bits (x := a) (g 10 7 _ rfl), field_of_bits (x := d) (g 17 7 _ rfl), bitAt_of_bits (g 24 1 _ rfl), bitAt_of_bits (g 31 1 _ rfl), if_true, and_self]
theorem pk2 (e w d a b) : Statement (.pk2 e w d a b) := by
  intro h v hv
  cases Option.some.inj hv
  refine decodeWord_of_raw (of_fields (P := fun W => decodeRaw W = some (.pk2 e w d a b)) [(3, 0), (7, b.toNat), (7, a.toNat), (7, d.toNat), (1, w.toNat), (6, 26), (1, e.toNat)] ⟨by decide, b.isLt, a.isLt, d.isLt, Bool.toNat_lt w, by decide, Bool.toNat_lt e, trivial⟩ rfl (fun W g => ?_)) h
  refine (raw1A (g 25 6 26 rfl)).trans ?_
  simp only [decodeMajor1A, fixedAt, g 0 3 0 rfl, field_of_bits (x := b) (g 3 7 _ rfl), field_of_bits (x := a) (g 10 7 _ rfl), field_of_bits (x := d) (g 17 7 _ rfl), bitAt_of_bits (g 24 1 _ rfl), bitAt_of_bits (g 31 1 _ rfl), if_true, and_self]
theorem pk4 (e w d a b) : Statement (.pk4 e w d a b) := by
  intro h v hv
  cases Option.some.inj hv
  refine decodeWord_of_raw (of_fields (P := fun W => decodeRaw W = some (.pk4 e w d a b)) [(3, 1), (7, b.toNat), (7, a.toNat), (7, d.toNat), (1, w.toNat), (6, 26), (1, e.toNat)] ⟨by decide, b.isLt, a.isLt, d.isLt, Bool.toNat_lt w, by decide, Bool.toNat_lt e, trivial⟩ rfl (fun W g => ?_)) h
  refine (raw1A (g 25 6 26 rfl)).trans ?_
  simp only [decodeMajor1A, fixedAt, g 0 3 1 rfl, field_of_bits (x := b) (g 3 7 _ rfl), field_of_bits (x := a) (g 10 7 _ rfl), field_of_bits (x := d) (g 17 7 _ rfl), bitAt_of_bits (g 24 1 _ rfl), bitAt_of_bits (g 31 1 _ rfl), if_true, and_self]
theorem pk8 (e w d a b) : Statement (.pk8 e w d a b) := by
  intro h v hv
  cases Option.some.inj hv
  refine decodeWord_of_raw (of_fields (P := fun W => decodeRaw W = some (.pk8 e w d a b)) [(3, 2), (7, b.toNat), (7, a.toNat), (7, d.toNat), (1, w.toNat), (6, 26), (1, e.toNat)] ⟨by decide, b.isLt, a.isLt, d.isLt, Bool.toNat_lt w, by decide, Bool.toNat_lt e, trivial⟩ rfl (fun W g => ?_)) h
  refine (raw1A (g 25 6 26 rfl)).trans ?_
  simp only [decodeMajor1A, fixedAt, g 0 3 2 rfl, field_of_bits (x := b) (g 3 7 _ rfl), field_of_bits (x := a) (g 10 7 _ rfl), field_of_bits (x := d) (g 17 7 _ rfl), bitAt_of_bits (g 24 1 _ rfl), bitAt_of_bits (g 31 1 _ rfl), if_true, and_self]
theorem upk2 (e w d a b) : Statement (.upk2 e w d a b) := by
  intro h v hv
  cases Option.some.inj hv
  refine decodeWord_of_raw (of_fields (P := fun W => decodeRaw W = some (.upk2 e w d a b)) [(3, 3), (7, b.toNat), (7, a.toNat), (7, d.toNat), (1, w.toNat), (6, 26), (1, e.toNat)] ⟨by decide, b.isLt, a.isLt, d.isLt, Bool.toNat_lt w, by decide, Bool.toNat_lt e, trivial⟩ rfl (fun W g => ?_)) h
  refine (raw1A (g 25 6 26 rfl)).trans ?_
  simp only [decodeMajor1A, fixedAt, g 0 3 3 rfl, field_of_bits (x := b) (g 3 7 _ rfl), field_of_bits (x := a) (g 10 7 _ rfl), field_of_bits (x := d) (g 17 7 _ rfl), bitAt_of_bits (g 24 1 _ rfl), bitAt_of_bits (g 31 1 _ rfl), if_true, and_self]
theorem upk4 (e w d a b) : Statement (.upk4 e w d a b) := by
  intro h v hv
  cases Option.some.inj hv
  refine decodeWord_of_raw (of_fields (P := fun W => decodeRaw W = some (.upk4 e w d a b)) [(3, 4), (7, b.toNat), (7, a.toNat), (7, d.toNat), (1, w.toNat), (6, 26), (1, e.toNat)] ⟨by decide, b.isLt, a.isLt, d.isLt, Bool.toNat_lt w, by decide, Bool.toNat_lt e, trivial⟩ rfl (fun W g => ?_)) h
  refine (raw1A (g 25 6 26 rfl)).trans ?_
  simp only [decodeMajor1A, fixedAt, g 0 3 4 rfl, field_of_bits (x := b) (g 3 7 _ rfl), field_of_bits (x := a) (g 10 7 _ rfl), field_of_bits (x := d) (g 17 7 _ rfl), bitAt_of_bits (g 24 1 _ rfl), bitAt_of_bits (g 31 1 _ rfl), if_true, and_self]
theorem upk8 (e w d a b) : Statement (.upk8 e w d a b) := by
  intro h v hv
  cases Option.some.inj hv
  refine decodeWord_of_raw (of_fields (P := fun W => decodeRaw W = some (.upk8 e w d a b)) [(3, 5), (7, b.toNat), (7, a.toNat), (7, d.toNat), (1, w.toNat), (6, 26), (1, e.toNat)] ⟨by decide, b.isLt, a.isLt, d.isLt, Bool.toNat_lt w, by decide, Bool.toNat_lt e, trivial⟩ rfl (fun W g => ?_)) h
  refine (raw1A (g 25 6 26 rfl)).trans ?_
  simp only [decodeMajor1A, fixedAt, g 0 3 5 rfl, field_of_bits (x := b) (g 3 7 _ rfl), field_of_bits (x := a) (g 10 7 _ rfl), field_of_bits (x := d) (g 17 7 _ rfl), bitAt_of_bits (g 24 1 _ rfl), bitAt_of_bits (g 31 1 _ rfl), if_true, and_self]
theorem lshfl (e w d a o) : Statement (.lshfl e w d a o) := by
  intro h v hv
  cases Option.some.inj hv
  refine decodeWord_of_raw (of_fields (P := fun W => decodeRaw W = some (.lshfl e w d a o)) [(3, 0), (7, o.toNat), (7, a.toNat), (7, d.toNat), (1, w.toNat), (6, 27), (1, e.toNat)] ⟨by decide, o.isLt, a.isLt, d.isLt, Bool.toNat_lt w, by decide, Bool.toNat_lt e, trivial⟩ rfl (fun W g => ?_)) h
  refine (raw1B (g 25 6 27 rfl)).trans ?_
  simp only [decodeMajor1B, fixedAt, g 0 3 0 rfl, field_of_bits (x := o) (g 3 7 _ rfl), field_of_bits (x := a) (g 10 7 _ rfl), field_of_bits (x := d) (g 17 7 _ rfl), bitAt_of_bits (g 24 1 _ rfl), bitAt_of_bits (g 31 1 _ rfl), if_true, and_self]
theorem lbcast (e w d a b) : Statement (.lbcast e w d a b) := by
  intro h v hv
  cases Option.some.inj hv
  refine decodeWord_of_raw (of_fields (P := fun W => decodeRaw W = some (.lbcast e w d a b)) [(3, 1), (7, b.toNat), (7, a.toNat), (7, d.toNat), (1, w.toNat), (6, 27), (1, e.toNat)] ⟨by decide, b.isLt, a.isLt, d.isLt, Bool.toNat_lt w, by decide, Bool.toNat_lt e, trivial⟩ rfl (fun W g => ?_)) h
  refine (raw1B (g 25 6 27 rfl)).trans ?_
  simp only [decodeMajor1B, fixedAt, g 0 3 1 rfl, field_of_bits (x := b) (g 3 7 _ rfl), field_of_bits (x := a) (g 10 7 _ rfl), field_of_bits (x := d) (g 17 7 _ rfl), bitAt_of_bits (g 24 1 _ rfl), bitAt_of_bits (g 31 1 _ rfl), if_true, and_self]
theorem lsum (e w d a k) : Statement (.lsum e w d a k) := by
  intro h v hv
  cases Option.some.inj hv
  refine decodeWord_of_raw (of_fields (P := fun W => decodeRaw W = some (.lsum e w d a k)) [(3, 2), (7, k.toNat), (7, a.toNat), (7, d.toNat), (1, w.toNat), (6, 27), (1, e.toNat)] ⟨by decide, k.isLt, a.isLt, d.isLt, Bool.toNat_lt w, by decide, Bool.toNat_lt e, trivial⟩ rfl (fun W g => ?_)) h
  refine (raw1B (g 25 6 27 rfl)).trans ?_
  simp only [decodeMajor1B, fixedAt, g 0 3 2 rfl, field_of_bits (x := k) (g 3 7 _ rfl), field_of_bits (x := a) (g 10 7 _ rfl), field_of_bits (x := d) (g 17 7 _ rfl), bitAt_of_bits (g 24 1 _ rfl), bitAt_of_bits (g 31 1 _ rfl), if_true, and_self]
theorem lmin (e w d a k) : Statement (.lmin e w d a k) := by
  intro h v hv
  cases Option.some.inj hv
  refine decodeWord_of_raw (of_fields (P := fun W => decodeRaw W = some (.lmin e w d a k)) [(3, 3), (7, k.toNat), (7, a.toNat), (7, d.toNat), (1, w.toNat), (6, 27), (1, e.toNat)] ⟨by decide, k.isLt, a.isLt, d.isLt, Bool.toNat_lt w, by decide, Bool.toNat_lt e, trivial⟩ rfl (fun W g => ?_)) h
  refine (raw1B (g 25 6 27 rfl)).trans ?_
  simp only [decodeMajor1B, fixedAt, g 0 3 3 rfl, field_of_bits (x := k) (g 3 7 _ rfl), field_of_bits (x := a) (g 10 7 _ rfl), field_of_bits (x := d) (g 17 7 _ rfl), bitAt_of_bits (g 24 1 _ rfl), bitAt_of_bits (g 31 1 _ rfl), if_true, and_self]
theorem lmax (e w d a k) : Statement (.lmax e w d a k) := by
  intro h v hv
  cases Option.some.inj hv
  refine decodeWord_of_raw (of_fields (P := fun W => decodeRaw W = some (.lmax e w d a k)) [(3, 4), (7, k.toNat), (7, a.toNat), (7, d.toNat), (1, w.toNat), (6, 27), (1, e.toNat)] ⟨by decide, k.isLt, a.isLt, d.isLt, Bool.toNat_lt w, by decide, Bool.toNat_lt e, trivial⟩ rfl (fun W g => ?_)) h
  refine (raw1B (g 25 6 27 rfl)).trans ?_
  simp only [decodeMajor1B, fixedAt, g 0 3 4 rfl, field_of_bits (x := k) (g 3 7 _ rfl), field_of_bits (x := a) (g 10 7 _ rfl), field_of_bits (x := d) (g 17 7 _ rfl), bitAt_of_bits (g 24 1 _ rfl), bitAt_of_bits (g 31 1 _ rfl), if_true, and_self]
theorem lscan (e w d a k) : Statement (.lscan e w d a k) := by
  intro h v hv
  cases Option.some.inj hv
  refine decodeWord_of_raw (of_fields (P := fun W => decodeRaw W = some (.lscan e w d a k)) [(3, 5), (7, k.toNat), (7, a.toNat), (7, d.toNat), (1, w.toNat), (6, 27), (1, e.toNat)] ⟨by decide, k.isLt, a.isLt, d.isLt, Bool.toNat_lt w, by decide, Bool.toNat_lt e, trivial⟩ rfl (fun W g => ?_)) h
  refine (raw1B (g 25 6 27 rfl)).trans ?_
  simp only [decodeMajor1B, fixedAt, g 0 3 5 rfl, field_of_bits (x := k) (g 3 7 _ rfl), field_of_bits (x := a) (g 10 7 _ rfl), field_of_bits (x := d) (g 17 7 _ rfl), bitAt_of_bits (g 24 1 _ rfl), bitAt_of_bits (g 31 1 _ rfl), if_true, and_self]
theorem lvote (e w d a) : Statement (.lvote e w d a) := by
  intro h v hv
  cases Option.some.inj hv
  refine decodeWord_of_raw (of_fields (P := fun W => decodeRaw W = some (.lvote e w d a)) [(3, 6), (7, 112), (7, a.toNat), (7, d.toNat), (1, w.toNat), (6, 27), (1, e.toNat)] ⟨by decide, by decide, a.isLt, d.isLt, Bool.toNat_lt w, by decide, Bool.toNat_lt e, trivial⟩ rfl (fun W g => ?_)) h
  refine (raw1B (g 25 6 27 rfl)).trans ?_
  simp only [decodeMajor1B, fixedAt, g 0 3 6 rfl, g 3 7 112 rfl, field_of_bits (x := a) (g 10 7 _ rfl), field_of_bits (x := d) (g 17 7 _ rfl), bitAt_of_bits (g 24 1 _ rfl), bitAt_of_bits (g 31 1 _ rfl), if_true, and_self]
theorem lbfly (e w d a o) : Statement (.lbfly e w d a o) := by
  intro h v hv
  cases Option.some.inj hv
  refine decodeWord_of_raw (of_fields (P := fun W => decodeRaw W = some (.lbfly e w d a o)) [(3, 7), (7, o.toNat), (7, a.toNat), (7, d.toNat), (1, w.toNat), (6, 27), (1, e.toNat)] ⟨by decide, o.isLt, a.isLt, d.isLt, Bool.toNat_lt w, by decide, Bool.toNat_lt e, trivial⟩ rfl (fun W g => ?_)) h
  refine (raw1B (g 25 6 27 rfl)).trans ?_
  simp only [decodeMajor1B, fixedAt, g 0 3 7 rfl, field_of_bits (x := o) (g 3 7 _ rfl), field_of_bits (x := a) (g 10 7 _ rfl), field_of_bits (x := d) (g 17 7 _ rfl), bitAt_of_bits (g 24 1 _ rfl), bitAt_of_bits (g 31 1 _ rfl), if_true, and_self]
theorem rcp (e d a b) : Statement (.rcp e d a b) := by
  intro h v hv
  cases Option.some.inj hv
  refine decodeWord_of_raw (of_fields (P := fun W => decodeRaw W = some (.rcp e d a b)) [(3, 0), (7, b.toNat), (7, a.toNat), (7, d.toNat), (1, 0), (6, 28), (1, e.toNat)] ⟨by decide, b.isLt, a.isLt, d.isLt, by decide, by decide, Bool.toNat_lt e, trivial⟩ rfl (fun W g => ?_)) h
  refine (raw1C (g 25 6 28 rfl)).trans ?_
  simp only [decodeMajor1C, fixedAt, g 0 3 0 rfl, field_of_bits (x := b) (g 3 7 _ rfl), field_of_bits (x := a) (g 10 7 _ rfl), field_of_bits (x := d) (g 17 7 _ rfl), g 24 1 0 rfl, bitAt_of_bits (g 31 1 _ rfl), if_true, and_self]
theorem rsqrt (e d a b) : Statement (.rsqrt e d a b) := by
  intro h v hv
  cases Option.some.inj hv
  refine decodeWord_of_raw (of_fields (P := fun W => decodeRaw W = some (.rsqrt e d a b)) [(3, 1), (7, b.toNat), (7, a.toNat), (7, d.toNat), (1, 0), (6, 28), (1, e.toNat)] ⟨by decide, b.isLt, a.isLt, d.isLt, by decide, by decide, Bool.toNat_lt e, trivial⟩ rfl (fun W g => ?_)) h
  refine (raw1C (g 25 6 28 rfl)).trans ?_
  simp only [decodeMajor1C, fixedAt, g 0 3 1 rfl, field_of_bits (x := b) (g 3 7 _ rfl), field_of_bits (x := a) (g 10 7 _ rfl), field_of_bits (x := d) (g 17 7 _ rfl), g 24 1 0 rfl, bitAt_of_bits (g 31 1 _ rfl), if_true, and_self]
theorem sqrt (e d a b) : Statement (.sqrt e d a b) := by
  intro h v hv
  cases Option.some.inj hv
  refine decodeWord_of_raw (of_fields (P := fun W => decodeRaw W = some (.sqrt e d a b)) [(3, 2), (7, b.toNat), (7, a.toNat), (7, d.toNat), (1, 0), (6, 28), (1, e.toNat)] ⟨by decide, b.isLt, a.isLt, d.isLt, by decide, by decide, Bool.toNat_lt e, trivial⟩ rfl (fun W g => ?_)) h
  refine (raw1C (g 25 6 28 rfl)).trans ?_
  simp only [decodeMajor1C, fixedAt, g 0 3 2 rfl, field_of_bits (x := b) (g 3 7 _ rfl), field_of_bits (x := a) (g 10 7 _ rfl), field_of_bits (x := d) (g 17 7 _ rfl), g 24 1 0 rfl, bitAt_of_bits (g 31 1 _ rfl), if_true, and_self]
theorem exp2 (e d a b) : Statement (.exp2 e d a b) := by
  intro h v hv
  cases Option.some.inj hv
  refine decodeWord_of_raw (of_fields (P := fun W => decodeRaw W = some (.exp2 e d a b)) [(3, 3), (7, b.toNat), (7, a.toNat), (7, d.toNat), (1, 0), (6, 28), (1, e.toNat)] ⟨by decide, b.isLt, a.isLt, d.isLt, by decide, by decide, Bool.toNat_lt e, trivial⟩ rfl (fun W g => ?_)) h
  refine (raw1C (g 25 6 28 rfl)).trans ?_
  simp only [decodeMajor1C, fixedAt, g 0 3 3 rfl, field_of_bits (x := b) (g 3 7 _ rfl), field_of_bits (x := a) (g 10 7 _ rfl), field_of_bits (x := d) (g 17 7 _ rfl), g 24 1 0 rfl, bitAt_of_bits (g 31 1 _ rfl), if_true, and_self]
theorem log2 (e d a b) : Statement (.log2 e d a b) := by
  intro h v hv
  cases Option.some.inj hv
  refine decodeWord_of_raw (of_fields (P := fun W => decodeRaw W = some (.log2 e d a b)) [(3, 4), (7, b.toNat), (7, a.toNat), (7, d.toNat), (1, 0), (6, 28), (1, e.toNat)] ⟨by decide, b.isLt, a.isLt, d.isLt, by decide, by decide, Bool.toNat_lt e, trivial⟩ rfl (fun W g => ?_)) h
  refine (raw1C (g 25 6 28 rfl)).trans ?_
  simp only [decodeMajor1C, fixedAt, g 0 3 4 rfl, field_of_bits (x := b) (g 3 7 _ rfl), field_of_bits (x := a) (g 10 7 _ rfl), field_of_bits (x := d) (g 17 7 _ rfl), g 24 1 0 rfl, bitAt_of_bits (g 31 1 _ rfl), if_true, and_self]
theorem sin (e d a b) : Statement (.sin e d a b) := by
  intro h v hv
  cases Option.some.inj hv
  refine decodeWord_of_raw (of_fields (P := fun W => decodeRaw W = some (.sin e d a b)) [(3, 5), (7, b.toNat), (7, a.toNat), (7, d.toNat), (1, 0), (6, 28), (1, e.toNat)] ⟨by decide, b.isLt, a.isLt, d.isLt, by decide, by decide, Bool.toNat_lt e, trivial⟩ rfl (fun W g => ?_)) h
  refine (raw1C (g 25 6 28 rfl)).trans ?_
  simp only [decodeMajor1C, fixedAt, g 0 3 5 rfl, field_of_bits (x := b) (g 3 7 _ rfl), field_of_bits (x := a) (g 10 7 _ rfl), field_of_bits (x := d) (g 17 7 _ rfl), g 24 1 0 rfl, bitAt_of_bits (g 31 1 _ rfl), if_true, and_self]
theorem cos (e d a b) : Statement (.cos e d a b) := by
  intro h v hv
  cases Option.some.inj hv
  refine decodeWord_of_raw (of_fields (P := fun W => decodeRaw W = some (.cos e d a b)) [(3, 6), (7, b.toNat), (7, a.toNat), (7, d.toNat), (1, 0), (6, 28), (1, e.toNat)] ⟨by decide, b.isLt, a.isLt, d.isLt, by decide, by decide, Bool.toNat_lt e, trivial⟩ rfl (fun W g => ?_)) h
  refine (raw1C (g 25 6 28 rfl)).trans ?_
  simp only [decodeMajor1C, fixedAt, g 0 3 6 rfl, field_of_bits (x := b) (g 3 7 _ rfl), field_of_bits (x := a) (g 10 7 _ rfl), field_of_bits (x := d) (g 17 7 _ rfl), g 24 1 0 rfl, bitAt_of_bits (g 31 1 _ rfl), if_true, and_self]
theorem tanh (e d a b) : Statement (.tanh e d a b) := by
  intro h v hv
  cases Option.some.inj hv
  refine decodeWord_of_raw (of_fields (P := fun W => decodeRaw W = some (.tanh e d a b)) [(3, 7), (7, b.toNat), (7, a.toNat), (7, d.toNat), (1, 0), (6, 28), (1, e.toNat)] ⟨by decide, b.isLt, a.isLt, d.isLt, by decide, by decide, Bool.toNat_lt e, trivial⟩ rfl (fun W g => ?_)) h
  refine (raw1C (g 25 6 28 rfl)).trans ?_
  simp only [decodeMajor1C, fixedAt, g 0 3 7 rfl, field_of_bits (x := b) (g 3 7 _ rfl), field_of_bits (x := a) (g 10 7 _ rfl), field_of_bits (x := d) (g 17 7 _ rfl), g 24 1 0 rfl, bitAt_of_bits (g 31 1 _ rfl), if_true, and_self]
theorem badd2 (e w d a b) : Statement (.badd2 e w d a b) := by
  intro h v hv
  cases Option.some.inj hv
  refine decodeWord_of_raw (of_fields (P := fun W => decodeRaw W = some (.badd2 e w d a b)) [(3, 0), (7, b.toNat), (7, a.toNat), (7, d.toNat), (1, w.toNat), (6, 29), (1, e.toNat)] ⟨by decide, b.isLt, a.isLt, d.isLt, Bool.toNat_lt w, by decide, Bool.toNat_lt e, trivial⟩ rfl (fun W g => ?_)) h
  refine (raw1D (g 25 6 29 rfl)).trans ?_
  simp only [decodeMajor1D, fixedAt, g 0 3 0 rfl, field_of_bits (x := b) (g 3 7 _ rfl), field_of_bits (x := a) (g 10 7 _ rfl), field_of_bits (x := d) (g 17 7 _ rfl), bitAt_of_bits (g 24 1 _ rfl), bitAt_of_bits (g 31 1 _ rfl), if_true, and_self]
theorem bmul2 (e w d a b) : Statement (.bmul2 e w d a b) := by
  intro h v hv
  cases Option.some.inj hv
  refine decodeWord_of_raw (of_fields (P := fun W => decodeRaw W = some (.bmul2 e w d a b)) [(3, 1), (7, b.toNat), (7, a.toNat), (7, d.toNat), (1, w.toNat), (6, 29), (1, e.toNat)] ⟨by decide, b.isLt, a.isLt, d.isLt, Bool.toNat_lt w, by decide, Bool.toNat_lt e, trivial⟩ rfl (fun W g => ?_)) h
  refine (raw1D (g 25 6 29 rfl)).trans ?_
  simp only [decodeMajor1D, fixedAt, g 0 3 1 rfl, field_of_bits (x := b) (g 3 7 _ rfl), field_of_bits (x := a) (g 10 7 _ rfl), field_of_bits (x := d) (g 17 7 _ rfl), bitAt_of_bits (g 24 1 _ rfl), bitAt_of_bits (g 31 1 _ rfl), if_true, and_self]
theorem bfma2 (e w d a b) : Statement (.bfma2 e w d a b) := by
  intro h v hv
  cases Option.some.inj hv
  refine decodeWord_of_raw (of_fields (P := fun W => decodeRaw W = some (.bfma2 e w d a b)) [(3, 2), (7, b.toNat), (7, a.toNat), (7, d.toNat), (1, w.toNat), (6, 29), (1, e.toNat)] ⟨by decide, b.isLt, a.isLt, d.isLt, Bool.toNat_lt w, by decide, Bool.toNat_lt e, trivial⟩ rfl (fun W g => ?_)) h
  refine (raw1D (g 25 6 29 rfl)).trans ?_
  simp only [decodeMajor1D, fixedAt, g 0 3 2 rfl, field_of_bits (x := b) (g 3 7 _ rfl), field_of_bits (x := a) (g 10 7 _ rfl), field_of_bits (x := d) (g 17 7 _ rfl), bitAt_of_bits (g 24 1 _ rfl), bitAt_of_bits (g 31 1 _ rfl), if_true, and_self]
theorem hadd2 (e w d a b) : Statement (.hadd2 e w d a b) := by
  intro h v hv
  cases Option.some.inj hv
  refine decodeWord_of_raw (of_fields (P := fun W => decodeRaw W = some (.hadd2 e w d a b)) [(3, 3), (7, b.toNat), (7, a.toNat), (7, d.toNat), (1, w.toNat), (6, 29), (1, e.toNat)] ⟨by decide, b.isLt, a.isLt, d.isLt, Bool.toNat_lt w, by decide, Bool.toNat_lt e, trivial⟩ rfl (fun W g => ?_)) h
  refine (raw1D (g 25 6 29 rfl)).trans ?_
  simp only [decodeMajor1D, fixedAt, g 0 3 3 rfl, field_of_bits (x := b) (g 3 7 _ rfl), field_of_bits (x := a) (g 10 7 _ rfl), field_of_bits (x := d) (g 17 7 _ rfl), bitAt_of_bits (g 24 1 _ rfl), bitAt_of_bits (g 31 1 _ rfl), if_true, and_self]
theorem hmul2 (e w d a b) : Statement (.hmul2 e w d a b) := by
  intro h v hv
  cases Option.some.inj hv
  refine decodeWord_of_raw (of_fields (P := fun W => decodeRaw W = some (.hmul2 e w d a b)) [(3, 4), (7, b.toNat), (7, a.toNat), (7, d.toNat), (1, w.toNat), (6, 29), (1, e.toNat)] ⟨by decide, b.isLt, a.isLt, d.isLt, Bool.toNat_lt w, by decide, Bool.toNat_lt e, trivial⟩ rfl (fun W g => ?_)) h
  refine (raw1D (g 25 6 29 rfl)).trans ?_
  simp only [decodeMajor1D, fixedAt, g 0 3 4 rfl, field_of_bits (x := b) (g 3 7 _ rfl), field_of_bits (x := a) (g 10 7 _ rfl), field_of_bits (x := d) (g 17 7 _ rfl), bitAt_of_bits (g 24 1 _ rfl), bitAt_of_bits (g 31 1 _ rfl), if_true, and_self]
theorem hfma2 (e w d a b) : Statement (.hfma2 e w d a b) := by
  intro h v hv
  cases Option.some.inj hv
  refine decodeWord_of_raw (of_fields (P := fun W => decodeRaw W = some (.hfma2 e w d a b)) [(3, 5), (7, b.toNat), (7, a.toNat), (7, d.toNat), (1, w.toNat), (6, 29), (1, e.toNat)] ⟨by decide, b.isLt, a.isLt, d.isLt, Bool.toNat_lt w, by decide, Bool.toNat_lt e, trivial⟩ rfl (fun W g => ?_)) h
  refine (raw1D (g 25 6 29 rfl)).trans ?_
  simp only [decodeMajor1D, fixedAt, g 0 3 5 rfl, field_of_bits (x := b) (g 3 7 _ rfl), field_of_bits (x := a) (g 10 7 _ rfl), field_of_bits (x := d) (g 17 7 _ rfl), bitAt_of_bits (g 24 1 _ rfl), bitAt_of_bits (g 31 1 _ rfl), if_true, and_self]
theorem bmax2 (e w d a b) : Statement (.bmax2 e w d a b) := by
  intro h v hv
  cases Option.some.inj hv
  refine decodeWord_of_raw (of_fields (P := fun W => decodeRaw W = some (.bmax2 e w d a b)) [(3, 6), (7, b.toNat), (7, a.toNat), (7, d.toNat), (1, w.toNat), (6, 29), (1, e.toNat)] ⟨by decide, b.isLt, a.isLt, d.isLt, Bool.toNat_lt w, by decide, Bool.toNat_lt e, trivial⟩ rfl (fun W g => ?_)) h
  refine (raw1D (g 25 6 29 rfl)).trans ?_
  simp only [decodeMajor1D, fixedAt, g 0 3 6 rfl, field_of_bits (x := b) (g 3 7 _ rfl), field_of_bits (x := a) (g 10 7 _ rfl), field_of_bits (x := d) (g 17 7 _ rfl), bitAt_of_bits (g 24 1 _ rfl), bitAt_of_bits (g 31 1 _ rfl), if_true, and_self]
theorem bmin2 (e w d a b) : Statement (.bmin2 e w d a b) := by
  intro h v hv
  cases Option.some.inj hv
  refine decodeWord_of_raw (of_fields (P := fun W => decodeRaw W = some (.bmin2 e w d a b)) [(3, 7), (7, b.toNat), (7, a.toNat), (7, d.toNat), (1, w.toNat), (6, 29), (1, e.toNat)] ⟨by decide, b.isLt, a.isLt, d.isLt, Bool.toNat_lt w, by decide, Bool.toNat_lt e, trivial⟩ rfl (fun W g => ?_)) h
  refine (raw1D (g 25 6 29 rfl)).trans ?_
  simp only [decodeMajor1D, fixedAt, g 0 3 7 rfl, field_of_bits (x := b) (g 3 7 _ rfl), field_of_bits (x := a) (g 10 7 _ rfl), field_of_bits (x := d) (g 17 7 _ rfl), bitAt_of_bits (g 24 1 _ rfl), bitAt_of_bits (g 31 1 _ rfl), if_true, and_self]
theorem vmovi (e w d i) : Statement (.vmovi e w d i) := by
  intro h v hv
  cases Option.some.inj hv
  refine decodeWord_of_raw (of_fields (P := fun W => decodeRaw W = some (.vmovi e w d i)) [(17, i.toNat), (7, d.toNat), (1, w.toNat), (6, 30), (1, e.toNat)] ⟨i.isLt, d.isLt, Bool.toNat_lt w, by decide, Bool.toNat_lt e, trivial⟩ rfl (fun W g => ?_)) h
  refine (raw1E (g 25 6 30 rfl)).trans ?_
  simp only [decodeMajor1E, fixedAt, field_of_bits (x := i) (g 0 17 _ rfl), field_of_bits (x := d) (g 17 7 _ rfl), bitAt_of_bits (g 24 1 _ rfl), bitAt_of_bits (g 31 1 _ rfl), if_true, and_self]
theorem tmapAdd (e x y z) : Statement (.tmapAdd e x y z) := by
  intro h v hv
  cases Option.some.inj hv
  refine decodeWord_of_raw (of_fields (P := fun W => decodeRaw W = some (.tmapAdd e x y z)) [(3, 0), (7, z.toNat), (7, y.toNat), (7, x.toNat), (1, 0), (6, 31), (1, e.toNat)] ⟨by decide, z.isLt, y.isLt, x.isLt, by decide, by decide, Bool.toNat_lt e, trivial⟩ rfl (fun W g => ?_)) h
  refine (raw1F (g 25 6 31 rfl)).trans ?_
  simp only [decodeMajor1F, fixedAt, g 0 3 0 rfl, field_of_bits (x := z) (g 3 7 _ rfl), field_of_bits (x := y) (g 10 7 _ rfl), field_of_bits (x := x) (g 17 7 _ rfl), g 24 1 0 rfl, bitAt_of_bits (g 31 1 _ rfl), if_true, and_self]
theorem tmapMul (e x y z) : Statement (.tmapMul e x y z) := by
  intro h v hv
  cases Option.some.inj hv
  refine decodeWord_of_raw (of_fields (P := fun W => decodeRaw W = some (.tmapMul e x y z)) [(3, 1), (7, z.toNat), (7, y.toNat), (7, x.toNat), (1, 0), (6, 31), (1, e.toNat)] ⟨by decide, z.isLt, y.isLt, x.isLt, by decide, by decide, Bool.toNat_lt e, trivial⟩ rfl (fun W g => ?_)) h
  refine (raw1F (g 25 6 31 rfl)).trans ?_
  simp only [decodeMajor1F, fixedAt, g 0 3 1 rfl, field_of_bits (x := z) (g 3 7 _ rfl), field_of_bits (x := y) (g 10 7 _ rfl), field_of_bits (x := x) (g 17 7 _ rfl), g 24 1 0 rfl, bitAt_of_bits (g 31 1 _ rfl), if_true, and_self]
theorem tmapFma (e x y z) : Statement (.tmapFma e x y z) := by
  intro h v hv
  cases Option.some.inj hv
  refine decodeWord_of_raw (of_fields (P := fun W => decodeRaw W = some (.tmapFma e x y z)) [(3, 2), (7, z.toNat), (7, y.toNat), (7, x.toNat), (1, 0), (6, 31), (1, e.toNat)] ⟨by decide, z.isLt, y.isLt, x.isLt, by decide, by decide, Bool.toNat_lt e, trivial⟩ rfl (fun W g => ?_)) h
  refine (raw1F (g 25 6 31 rfl)).trans ?_
  simp only [decodeMajor1F, fixedAt, g 0 3 2 rfl, field_of_bits (x := z) (g 3 7 _ rfl), field_of_bits (x := y) (g 10 7 _ rfl), field_of_bits (x := x) (g 17 7 _ rfl), g 24 1 0 rfl, bitAt_of_bits (g 31 1 _ rfl), if_true, and_self]
theorem tmapMax (e x y z) : Statement (.tmapMax e x y z) := by
  intro h v hv
  cases Option.some.inj hv
  refine decodeWord_of_raw (of_fields (P := fun W => decodeRaw W = some (.tmapMax e x y z)) [(3, 3), (7, z.toNat), (7, y.toNat), (7, x.toNat), (1, 0), (6, 31), (1, e.toNat)] ⟨by decide, z.isLt, y.isLt, x.isLt, by decide, by decide, Bool.toNat_lt e, trivial⟩ rfl (fun W g => ?_)) h
  refine (raw1F (g 25 6 31 rfl)).trans ?_
  simp only [decodeMajor1F, fixedAt, g 0 3 3 rfl, field_of_bits (x := z) (g 3 7 _ rfl), field_of_bits (x := y) (g 10 7 _ rfl), field_of_bits (x := x) (g 17 7 _ rfl), g 24 1 0 rfl, bitAt_of_bits (g 31 1 _ rfl), if_true, and_self]
theorem tmapCvt (e x y z) : Statement (.tmapCvt e x y z) := by
  intro h v hv
  cases Option.some.inj hv
  refine decodeWord_of_raw (of_fields (P := fun W => decodeRaw W = some (.tmapCvt e x y z)) [(3, 4), (7, z.toNat), (7, y.toNat), (7, x.toNat), (1, 0), (6, 31), (1, e.toNat)] ⟨by decide, z.isLt, y.isLt, x.isLt, by decide, by decide, Bool.toNat_lt e, trivial⟩ rfl (fun W g => ?_)) h
  refine (raw1F (g 25 6 31 rfl)).trans ?_
  simp only [decodeMajor1F, fixedAt, g 0 3 4 rfl, field_of_bits (x := z) (g 3 7 _ rfl), field_of_bits (x := y) (g 10 7 _ rfl), field_of_bits (x := x) (g 17 7 _ rfl), g 24 1 0 rfl, bitAt_of_bits (g 31 1 _ rfl), if_true, and_self]
theorem tmapCpy (e x y z) : Statement (.tmapCpy e x y z) := by
  intro h v hv
  cases Option.some.inj hv
  refine decodeWord_of_raw (of_fields (P := fun W => decodeRaw W = some (.tmapCpy e x y z)) [(3, 5), (7, z.toNat), (7, y.toNat), (7, x.toNat), (1, 0), (6, 31), (1, e.toNat)] ⟨by decide, z.isLt, y.isLt, x.isLt, by decide, by decide, Bool.toNat_lt e, trivial⟩ rfl (fun W g => ?_)) h
  refine (raw1F (g 25 6 31 rfl)).trans ?_
  simp only [decodeMajor1F, fixedAt, g 0 3 5 rfl, field_of_bits (x := z) (g 3 7 _ rfl), field_of_bits (x := y) (g 10 7 _ rfl), field_of_bits (x := x) (g 17 7 _ rfl), g 24 1 0 rfl, bitAt_of_bits (g 31 1 _ rfl), if_true, and_self]
theorem itset (e n a) : Statement (.itset e n a) := by
  intro h v hv
  cases Option.some.inj hv
  refine decodeWord_of_raw (of_fields (P := fun W => decodeRaw W = some (.itset e n a)) [(3, 6), (7, 0), (7, a.toNat), (2, n.toNat), (6, 0), (6, 31), (1, e.toNat)] ⟨by decide, by decide, a.isLt, n.isLt, by decide, by decide, Bool.toNat_lt e, trivial⟩ rfl (fun W g => ?_)) h
  refine (raw1F (g 25 6 31 rfl)).trans ?_
  simp only [decodeMajor1F, fixedAt, g 0 3 6 rfl, g 3 7 0 rfl, field_of_bits (x := a) (g 10 7 _ rfl), field_of_bits (x := n) (g 17 2 _ rfl), g 19 6 0 rfl, bitAt_of_bits (g 31 1 _ rfl), if_true, and_self]
theorem ldg (e d a s k) : Statement (.ldg e d a s k) := by
  intro h v hv
  cases Option.some.inj hv
  refine decodeWord_of_raw (of_fields (P := fun W => decodeRaw W = some (.ldg e d a s k)) [(5, k.toNat), (6, s.toNat), (7, a.toNat), (7, d.toNat), (6, 32), (1, e.toNat)] ⟨k.isLt, s.isLt, a.isLt, d.isLt, by decide, Bool.toNat_lt e, trivial⟩ rfl (fun W g => ?_)) h
  refine (raw20 (g 25 6 32 rfl)).trans ?_
  simp only [decodeMajor20, fixedAt, field_of_bits (x := k) (g 0 5 _ rfl), field_of_bits (x := s) (g 5 6 _ rfl), field_of_bits (x := a) (g 11 7 _ rfl), field_of_bits (x := d) (g 18 7 _ rfl), bitAt_of_bits (g 31 1 _ rfl), if_true, and_self]
theorem stg (e d a s k) : Statement (.stg e d a s k) := by
  intro h v hv
  cases Option.some.inj hv
  refine decodeWord_of_raw (of_fields (P := fun W => decodeRaw W = some (.stg e d a s k)) [(5, k.toNat), (6, s.toNat), (7, a.toNat), (7, d.toNat), (6, 33), (1, e.toNat)] ⟨k.isLt, s.isLt, a.isLt, d.isLt, by decide, Bool.toNat_lt e, trivial⟩ rfl (fun W g => ?_)) h
  refine (raw21 (g 25 6 33 rfl)).trans ?_
  simp only [decodeMajor21, fixedAt, field_of_bits (x := k) (g 0 5 _ rfl), field_of_bits (x := s) (g 5 6 _ rfl), field_of_bits (x := a) (g 11 7 _ rfl), field_of_bits (x := d) (g 18 7 _ rfl), bitAt_of_bits (g 31 1 _ rfl), if_true, and_self]
theorem ldl (e d a s k) : Statement (.ldl e d a s k) := by
  intro h v hv
  cases Option.some.inj hv
  refine decodeWord_of_raw (of_fields (P := fun W => decodeRaw W = some (.ldl e d a s k)) [(5, k.toNat), (6, s.toNat), (7, a.toNat), (7, d.toNat), (6, 34), (1, e.toNat)] ⟨k.isLt, s.isLt, a.isLt, d.isLt, by decide, Bool.toNat_lt e, trivial⟩ rfl (fun W g => ?_)) h
  refine (raw22 (g 25 6 34 rfl)).trans ?_
  simp only [decodeMajor22, fixedAt, field_of_bits (x := k) (g 0 5 _ rfl), field_of_bits (x := s) (g 5 6 _ rfl), field_of_bits (x := a) (g 11 7 _ rfl), field_of_bits (x := d) (g 18 7 _ rfl), bitAt_of_bits (g 31 1 _ rfl), if_true, and_self]
theorem stl (e d a s k) : Statement (.stl e d a s k) := by
  intro h v hv
  cases Option.some.inj hv
  refine decodeWord_of_raw (of_fields (P := fun W => decodeRaw W = some (.stl e d a s k)) [(5, k.toNat), (6, s.toNat), (7, a.toNat), (7, d.toNat), (6, 35), (1, e.toNat)] ⟨k.isLt, s.isLt, a.isLt, d.isLt, by decide, Bool.toNat_lt e, trivial⟩ rfl (fun W g => ?_)) h
  refine (raw23 (g 25 6 35 rfl)).trans ?_
  simp only [decodeMajor23, fixedAt, field_of_bits (x := k) (g 0 5 _ rfl), field_of_bits (x := s) (g 5 6 _ rfl), field_of_bits (x := a) (g 11 7 _ rfl), field_of_bits (x := d) (g 18 7 _ rfl), bitAt_of_bits (g 31 1 _ rfl), if_true, and_self]
theorem ldt (e d a s k) : Statement (.ldt e d a s k) := by
  intro h v hv
  cases Option.some.inj hv
  refine decodeWord_of_raw (of_fields (P := fun W => decodeRaw W = some (.ldt e d a s k)) [(4, k.toNat), (1, 0), (6, s.toNat), (7, a.toNat), (7, d.toNat), (6, 36), (1, e.toNat)] ⟨k.isLt, by decide, s.isLt, a.isLt, d.isLt, by decide, Bool.toNat_lt e, trivial⟩ rfl (fun W g => ?_)) h
  refine (raw24 (g 25 6 36 rfl)).trans ?_
  simp only [decodeMajor24, fixedAt, field_of_bits (x := k) (g 0 4 _ rfl), g 4 1 0 rfl, field_of_bits (x := s) (g 5 6 _ rfl), field_of_bits (x := a) (g 11 7 _ rfl), field_of_bits (x := d) (g 18 7 _ rfl), bitAt_of_bits (g 31 1 _ rfl), if_true, and_self]
theorem stt (e d a s k) : Statement (.stt e d a s k) := by
  intro h v hv
  cases Option.some.inj hv
  refine decodeWord_of_raw (of_fields (P := fun W => decodeRaw W = some (.stt e d a s k)) [(4, k.toNat), (1, 1), (6, s.toNat), (7, a.toNat), (7, d.toNat), (6, 36), (1, e.toNat)] ⟨k.isLt, by decide, s.isLt, a.isLt, d.isLt, by decide, Bool.toNat_lt e, trivial⟩ rfl (fun W g => ?_)) h
  refine (raw24 (g 25 6 36 rfl)).trans ?_
  simp only [decodeMajor24, fixedAt, field_of_bits (x := k) (g 0 4 _ rfl), g 4 1 1 rfl, field_of_bits (x := s) (g 5 6 _ rfl), field_of_bits (x := a) (g 11 7 _ rfl), field_of_bits (x := d) (g 18 7 _ rfl), bitAt_of_bits (g 31 1 _ rfl), if_true, and_self]
theorem ldp (e d a s k) : Statement (.ldp e d a s k) := by
  intro h v hv
  cases Option.some.inj hv
  refine decodeWord_of_raw (of_fields (P := fun W => decodeRaw W = some (.ldp e d a s k)) [(5, k.toNat), (6, s.toNat), (7, a.toNat), (7, d.toNat), (6, 37), (1, e.toNat)] ⟨k.isLt, s.isLt, a.isLt, d.isLt, by decide, Bool.toNat_lt e, trivial⟩ rfl (fun W g => ?_)) h
  refine (raw25 (g 25 6 37 rfl)).trans ?_
  simp only [decodeMajor25, fixedAt, field_of_bits (x := k) (g 0 5 _ rfl), field_of_bits (x := s) (g 5 6 _ rfl), field_of_bits (x := a) (g 11 7 _ rfl), field_of_bits (x := d) (g 18 7 _ rfl), bitAt_of_bits (g 31 1 _ rfl), if_true, and_self]
theorem ldpr (e d a s k) : Statement (.ldpr e d a s k) := by
  intro h v hv
  cases Option.some.inj hv
  refine decodeWord_of_raw (of_fields (P := fun W => decodeRaw W = some (.ldpr e d a s k)) [(5, k.toNat), (6, s.toNat), (7, a.toNat), (7, d.toNat), (6, 38), (1, e.toNat)] ⟨k.isLt, s.isLt, a.isLt, d.isLt, by decide, Bool.toNat_lt e, trivial⟩ rfl (fun W g => ?_)) h
  refine (raw26 (g 25 6 38 rfl)).trans ?_
  simp only [decodeMajor26, fixedAt, field_of_bits (x := k) (g 0 5 _ rfl), field_of_bits (x := s) (g 5 6 _ rfl), field_of_bits (x := a) (g 11 7 _ rfl), field_of_bits (x := d) (g 18 7 _ rfl), bitAt_of_bits (g 31 1 _ rfl), if_true, and_self]
theorem stp (e d a s k) : Statement (.stp e d a s k) := by
  intro h v hv
  cases Option.some.inj hv
  refine decodeWord_of_raw (of_fields (P := fun W => decodeRaw W = some (.stp e d a s k)) [(5, k.toNat), (6, s.toNat), (7, a.toNat), (7, d.toNat), (6, 39), (1, e.toNat)] ⟨k.isLt, s.isLt, a.isLt, d.isLt, by decide, Bool.toNat_lt e, trivial⟩ rfl (fun W g => ?_)) h
  refine (raw27 (g 25 6 39 rfl)).trans ?_
  simp only [decodeMajor27, fixedAt, field_of_bits (x := k) (g 0 5 _ rfl), field_of_bits (x := s) (g 5 6 _ rfl), field_of_bits (x := a) (g 11 7 _ rfl), field_of_bits (x := d) (g 18 7 _ rfl), bitAt_of_bits (g 31 1 _ rfl), if_true, and_self]
theorem atom (e d a s k) : Statement (.atom e d a s k) := by
  intro h v hv
  cases Option.some.inj hv
  refine decodeWord_of_raw (of_fields (P := fun W => decodeRaw W = some (.atom e d a s k)) [(5, k.toNat), (6, s.toNat), (7, a.toNat), (7, d.toNat), (6, 40), (1, e.toNat)] ⟨k.isLt, s.isLt, a.isLt, d.isLt, by decide, Bool.toNat_lt e, trivial⟩ rfl (fun W g => ?_)) h
  refine (raw28 (g 25 6 40 rfl)).trans ?_
  simp only [decodeMajor28, fixedAt, field_of_bits (x := k) (g 0 5 _ rfl), field_of_bits (x := s) (g 5 6 _ rfl), field_of_bits (x := a) (g 11 7 _ rfl), field_of_bits (x := d) (g 18 7 _ rfl), bitAt_of_bits (g 31 1 _ rfl), if_true, and_self]
theorem atoml (e d a s k) : Statement (.atoml e d a s k) := by
  intro h v hv
  cases Option.some.inj hv
  refine decodeWord_of_raw (of_fields (P := fun W => decodeRaw W = some (.atoml e d a s k)) [(5, k.toNat), (6, s.toNat), (7, a.toNat), (7, d.toNat), (6, 41), (1, e.toNat)] ⟨k.isLt, s.isLt, a.isLt, d.isLt, by decide, Bool.toNat_lt e, trivial⟩ rfl (fun W g => ?_)) h
  refine (raw29 (g 25 6 41 rfl)).trans ?_
  simp only [decodeMajor29, fixedAt, field_of_bits (x := k) (g 0 5 _ rfl), field_of_bits (x := s) (g 5 6 _ rfl), field_of_bits (x := a) (g 11 7 _ rfl), field_of_bits (x := d) (g 18 7 _ rfl), bitAt_of_bits (g 31 1 _ rfl), if_true, and_self]
theorem rld (e d a s k) : Statement (.rld e d a s k) := by
  intro h v hv
  cases Option.some.inj hv
  refine decodeWord_of_raw (of_fields (P := fun W => decodeRaw W = some (.rld e d a s k)) [(5, k.toNat), (6, s.toNat), (7, a.toNat), (7, d.toNat), (6, 42), (1, e.toNat)] ⟨k.isLt, s.isLt, a.isLt, d.isLt, by decide, Bool.toNat_lt e, trivial⟩ rfl (fun W g => ?_)) h
  refine (raw2A (g 25 6 42 rfl)).trans ?_
  simp only [decodeMajor2A, fixedAt, field_of_bits (x := k) (g 0 5 _ rfl), field_of_bits (x := s) (g 5 6 _ rfl), field_of_bits (x := a) (g 11 7 _ rfl), field_of_bits (x := d) (g 18 7 _ rfl), bitAt_of_bits (g 31 1 _ rfl), if_true, and_self]
theorem rst (e d a s k) : Statement (.rst e d a s k) := by
  intro h v hv
  cases Option.some.inj hv
  refine decodeWord_of_raw (of_fields (P := fun W => decodeRaw W = some (.rst e d a s k)) [(5, k.toNat), (6, s.toNat), (7, a.toNat), (7, d.toNat), (6, 43), (1, e.toNat)] ⟨k.isLt, s.isLt, a.isLt, d.isLt, by decide, Bool.toNat_lt e, trivial⟩ rfl (fun W g => ?_)) h
  refine (raw2B (g 25 6 43 rfl)).trans ?_
  simp only [decodeMajor2B, fixedAt, field_of_bits (x := k) (g 0 5 _ rfl), field_of_bits (x := s) (g 5 6 _ rfl), field_of_bits (x := a) (g 11 7 _ rfl), field_of_bits (x := d) (g 18 7 _ rfl), bitAt_of_bits (g 31 1 _ rfl), if_true, and_self]
theorem ratom (e d a s k) : Statement (.ratom e d a s k) := by
  intro h v hv
  cases Option.some.inj hv
  refine decodeWord_of_raw (of_fields (P := fun W => decodeRaw W = some (.ratom e d a s k)) [(5, k.toNat), (6, s.toNat), (7, a.toNat), (7, d.toNat), (6, 44), (1, e.toNat)] ⟨k.isLt, s.isLt, a.isLt, d.isLt, by decide, Bool.toNat_lt e, trivial⟩ rfl (fun W g => ?_)) h
  refine (raw2C (g 25 6 44 rfl)).trans ?_
  simp only [decodeMajor2C, fixedAt, field_of_bits (x := k) (g 0 5 _ rfl), field_of_bits (x := s) (g 5 6 _ rfl), field_of_bits (x := a) (g 11 7 _ rfl), field_of_bits (x := d) (g 18 7 _ rfl), bitAt_of_bits (g 31 1 _ rfl), if_true, and_self]
theorem fence (e s o) : Statement (.fence e s o) := by
  intro h v hv
  cases Option.some.inj hv
  refine decodeWord_of_raw (of_fields (P := fun W => decodeRaw W = some (.fence e s o)) [(3, o.toNat), (3, s.toNat), (14, 0), (5, 0), (6, 45), (1, e.toNat)] ⟨o.isLt, s.isLt, by decide, by decide, by decide, Bool.toNat_lt e, trivial⟩ rfl (fun W g => ?_)) h
  refine (raw2D (g 25 6 45 rfl)).trans ?_
  simp only [decodeMajor2D, fixedAt, field_of_bits (x := o) (g 0 3 _ rfl), field_of_bits (x := s) (g 3 3 _ rfl), g 6 14 0 rfl, g 20 5 0 rfl, bitAt_of_bits (g 31 1 _ rfl), if_true, and_self]
theorem waitc (e s p) : Statement (.waitc e s p) := by
  intro h v hv
  cases Option.some.inj hv
  refine decodeWord_of_raw (of_fields (P := fun W => decodeRaw W = some (.waitc e s p)) [(3, p.toNat), (6, s.toNat), (11, 0), (5, 1), (6, 45), (1, e.toNat)] ⟨p.isLt, s.isLt, by decide, by decide, by decide, Bool.toNat_lt e, trivial⟩ rfl (fun W g => ?_)) h
  refine (raw2D (g 25 6 45 rfl)).trans ?_
  simp only [decodeMajor2D, fixedAt, field_of_bits (x := p) (g 0 3 _ rfl), field_of_bits (x := s) (g 3 6 _ rfl), g 9 11 0 rfl, g 20 5 1 rfl, bitAt_of_bits (g 31 1 _ rfl), if_true, and_self]
theorem bar (e) : Statement (.bar e) := by
  intro h v hv
  cases Option.some.inj hv
  refine decodeWord_of_raw (of_fields (P := fun W => decodeRaw W = some (.bar e)) [(20, 0), (5, 2), (6, 45), (1, e.toNat)] ⟨by decide, by decide, by decide, Bool.toNat_lt e, trivial⟩ rfl (fun W g => ?_)) h
  refine (raw2D (g 25 6 45 rfl)).trans ?_
  simp only [decodeMajor2D, fixedAt, g 0 20 0 rfl, g 20 5 2 rfl, bitAt_of_bits (g 31 1 _ rfl), if_true, and_self]
theorem barc (e) : Statement (.barc e) := by
  intro h v hv
  cases Option.some.inj hv
  refine decodeWord_of_raw (of_fields (P := fun W => decodeRaw W = some (.barc e)) [(20, 0), (5, 3), (6, 45), (1, e.toNat)] ⟨by decide, by decide, by decide, Bool.toNat_lt e, trivial⟩ rfl (fun W g => ?_)) h
  refine (raw2D (g 25 6 45 rfl)).trans ?_
  simp only [decodeMajor2D, fixedAt, g 0 20 0 rfl, g 20 5 3 rfl, bitAt_of_bits (g 31 1 _ rfl), if_true, and_self]
theorem cvpF32 (e w d a) : Statement (.cvpF32 e w d a) := by
  intro h v hv
  cases Option.some.inj hv
  refine decodeWord_of_raw (of_fields (P := fun W => decodeRaw W = some (.cvpF32 e w d a)) [(3, 0), (7, 0), (7, a.toNat), (7, d.toNat), (1, w.toNat), (6, 46), (1, e.toNat)] ⟨by decide, by decide, a.isLt, d.isLt, Bool.toNat_lt w, by decide, Bool.toNat_lt e, trivial⟩ rfl (fun W g => ?_)) h
  refine (raw2E (g 25 6 46 rfl)).trans ?_
  simp only [decodeMajor2E, fixedAt, g 0 3 0 rfl, g 3 7 0 rfl, field_of_bits (x := a) (g 10 7 _ rfl), field_of_bits (x := d) (g 17 7 _ rfl), bitAt_of_bits (g 24 1 _ rfl), bitAt_of_bits (g 31 1 _ rfl), if_true, and_self]
theorem cvpF32m (e w d a) : Statement (.cvpF32m e w d a) := by
  intro h v hv
  cases Option.some.inj hv
  refine decodeWord_of_raw (of_fields (P := fun W => decodeRaw W = some (.cvpF32m e w d a)) [(3, 1), (7, 0), (7, a.toNat), (7, d.toNat), (1, w.toNat), (6, 46), (1, e.toNat)] ⟨by decide, by decide, a.isLt, d.isLt, Bool.toNat_lt w, by decide, Bool.toNat_lt e, trivial⟩ rfl (fun W g => ?_)) h
  refine (raw2E (g 25 6 46 rfl)).trans ?_
  simp only [decodeMajor2E, fixedAt, g 0 3 1 rfl, g 3 7 0 rfl, field_of_bits (x := a) (g 10 7 _ rfl), field_of_bits (x := d) (g 17 7 _ rfl), bitAt_of_bits (g 24 1 _ rfl), bitAt_of_bits (g 31 1 _ rfl), if_true, and_self]
theorem cvpBf (e w d a) : Statement (.cvpBf e w d a) := by
  intro h v hv
  cases Option.some.inj hv
  refine decodeWord_of_raw (of_fields (P := fun W => decodeRaw W = some (.cvpBf e w d a)) [(3, 2), (7, 0), (7, a.toNat), (7, d.toNat), (1, w.toNat), (6, 46), (1, e.toNat)] ⟨by decide, by decide, a.isLt, d.isLt, Bool.toNat_lt w, by decide, Bool.toNat_lt e, trivial⟩ rfl (fun W g => ?_)) h
  refine (raw2E (g 25 6 46 rfl)).trans ?_
  simp only [decodeMajor2E, fixedAt, g 0 3 2 rfl, g 3 7 0 rfl, field_of_bits (x := a) (g 10 7 _ rfl), field_of_bits (x := d) (g 17 7 _ rfl), bitAt_of_bits (g 24 1 _ rfl), bitAt_of_bits (g 31 1 _ rfl), if_true, and_self]
theorem cvpBfm (e w d a) : Statement (.cvpBfm e w d a) := by
  intro h v hv
  cases Option.some.inj hv
  refine decodeWord_of_raw (of_fields (P := fun W => decodeRaw W = some (.cvpBfm e w d a)) [(3, 3), (7, 0), (7, a.toNat), (7, d.toNat), (1, w.toNat), (6, 46), (1, e.toNat)] ⟨by decide, by decide, a.isLt, d.isLt, Bool.toNat_lt w, by decide, Bool.toNat_lt e, trivial⟩ rfl (fun W g => ?_)) h
  refine (raw2E (g 25 6 46 rfl)).trans ?_
  simp only [decodeMajor2E, fixedAt, g 0 3 3 rfl, g 3 7 0 rfl, field_of_bits (x := a) (g 10 7 _ rfl), field_of_bits (x := d) (g 17 7 _ rfl), bitAt_of_bits (g 24 1 _ rfl), bitAt_of_bits (g 31 1 _ rfl), if_true, and_self]
theorem ptrd (e w d a) : Statement (.ptrd e w d a) := by
  intro h v hv
  cases Option.some.inj hv
  refine decodeWord_of_raw (of_fields (P := fun W => decodeRaw W = some (.ptrd e w d a)) [(3, 4), (7, 0), (7, a.toNat), (7, d.toNat), (1, w.toNat), (6, 46), (1, e.toNat)] ⟨by decide, by decide, a.isLt, d.isLt, Bool.toNat_lt w, by decide, Bool.toNat_lt e, trivial⟩ rfl (fun W g => ?_)) h
  refine (raw2E (g 25 6 46 rfl)).trans ?_
  simp only [decodeMajor2E, fixedAt, g 0 3 4 rfl, g 3 7 0 rfl, field_of_bits (x := a) (g 10 7 _ rfl), field_of_bits (x := d) (g 17 7 _ rfl), bitAt_of_bits (g 24 1 _ rfl), bitAt_of_bits (g 31 1 _ rfl), if_true, and_self]
theorem ptwr (e d a) : Statement (.ptwr e d a) := by
  intro h v hv
  cases Option.some.inj hv
  refine decodeWord_of_raw (of_fields (P := fun W => decodeRaw W = some (.ptwr e d a)) [(3, 5), (7, 0), (7, a.toNat), (7, d.toNat), (1, 0), (6, 46), (1, e.toNat)] ⟨by decide, by decide, a.isLt, d.isLt, by decide, by decide, Bool.toNat_lt e, trivial⟩ rfl (fun W g => ?_)) h
  refine (raw2E (g 25 6 46 rfl)).trans ?_
  simp only [decodeMajor2E, fixedAt, g 0 3 5 rfl, g 3 7 0 rfl, field_of_bits (x := a) (g 10 7 _ rfl), field_of_bits (x := d) (g 17 7 _ rfl), g 24 1 0 rfl, bitAt_of_bits (g 31 1 _ rfl), if_true, and_self]
theorem cpf2 (e a s) : Statement (.cpf2 e a s) := by
  intro h v hv
  cases Option.some.inj hv
  refine decodeWord_of_raw (of_fields (P := fun W => decodeRaw W = some (.cpf2 e a s)) [(5, 0), (6, s.toNat), (7, a.toNat), (7, 0), (6, 47), (1, e.toNat)] ⟨by decide, s.isLt, a.isLt, by decide, by decide, Bool.toNat_lt e, trivial⟩ rfl (fun W g => ?_)) h
  refine (raw2F (g 25 6 47 rfl)).trans ?_
  simp only [decodeMajor2F, fixedAt, g 0 5 0 rfl, field_of_bits (x := s) (g 5 6 _ rfl), field_of_bits (x := a) (g 11 7 _ rfl), g 18 7 0 rfl, bitAt_of_bits (g 31 1 _ rfl), if_true, and_self]
theorem cpf1 (e a s) : Statement (.cpf1 e a s) := by
  intro h v hv
  cases Option.some.inj hv
  refine decodeWord_of_raw (of_fields (P := fun W => decodeRaw W = some (.cpf1 e a s)) [(5, 1), (6, s.toNat), (7, a.toNat), (7, 0), (6, 47), (1, e.toNat)] ⟨by decide, s.isLt, a.isLt, by decide, by decide, Bool.toNat_lt e, trivial⟩ rfl (fun W g => ?_)) h
  refine (raw2F (g 25 6 47 rfl)).trans ?_
  simp only [decodeMajor2F, fixedAt, g 0 5 1 rfl, field_of_bits (x := s) (g 5 6 _ rfl), field_of_bits (x := a) (g 11 7 _ rfl), g 18 7 0 rfl, bitAt_of_bits (g 31 1 _ rfl), if_true, and_self]
theorem cef (e a s) : Statement (.cef e a s) := by
  intro h v hv
  cases Option.some.inj hv
  refine decodeWord_of_raw (of_fields (P := fun W => decodeRaw W = some (.cef e a s)) [(5, 2), (6, s.toNat), (7, a.toNat), (7, 0), (6, 47), (1, e.toNat)] ⟨by decide, s.isLt, a.isLt, by decide, by decide, Bool.toNat_lt e, trivial⟩ rfl (fun W g => ?_)) h
  refine (raw2F (g 25 6 47 rfl)).trans ?_
  simp only [decodeMajor2F, fixedAt, g 0 5 2 rfl, field_of_bits (x := s) (g 5 6 _ rfl), field_of_bits (x := a) (g 11 7 _ rfl), g 18 7 0 rfl, bitAt_of_bits (g 31 1 _ rfl), if_true, and_self]
theorem cel (e a s) : Statement (.cel e a s) := by
  intro h v hv
  cases Option.some.inj hv
  refine decodeWord_of_raw (of_fields (P := fun W => decodeRaw W = some (.cel e a s)) [(5, 3), (6, s.toNat), (7, a.toNat), (7, 0), (6, 47), (1, e.toNat)] ⟨by decide, s.isLt, a.isLt, by decide, by decide, Bool.toNat_lt e, trivial⟩ rfl (fun W g => ?_)) h
  refine (raw2F (g 25 6 47 rfl)).trans ?_
  simp only [decodeMajor2F, fixedAt, g 0 5 3 rfl, field_of_bits (x := s) (g 5 6 _ rfl), field_of_bits (x := a) (g 11 7 _ rfl), g 18 7 0 rfl, bitAt_of_bits (g 31 1 _ rfl), if_true, and_self]
theorem cnm (e a s) : Statement (.cnm e a s) := by
  intro h v hv
  cases Option.some.inj hv
  refine decodeWord_of_raw (of_fields (P := fun W => decodeRaw W = some (.cnm e a s)) [(5, 4), (6, s.toNat), (7, a.toNat), (7, 0), (6, 47), (1, e.toNat)] ⟨by decide, s.isLt, a.isLt, by decide, by decide, Bool.toNat_lt e, trivial⟩ rfl (fun W g => ?_)) h
  refine (raw2F (g 25 6 47 rfl)).trans ?_
  simp only [decodeMajor2F, fixedAt, g 0 5 4 rfl, field_of_bits (x := s) (g 5 6 _ rfl), field_of_bits (x := a) (g 11 7 _ rfl), g 18 7 0 rfl, bitAt_of_bits (g 31 1 _ rfl), if_true, and_self]
theorem ctrim (e t a s) : Statement (.ctrim e t a s) := by
  intro h v hv
  cases Option.some.inj hv
  refine decodeWord_of_raw (of_fields (P := fun W => decodeRaw W = some (.ctrim e t a s)) [(5, 5), (6, s.toNat), (7, a.toNat), (7, t.toNat), (6, 47), (1, e.toNat)] ⟨by decide, s.isLt, a.isLt, t.isLt, by decide, Bool.toNat_lt e, trivial⟩ rfl (fun W g => ?_)) h
  refine (raw2F (g 25 6 47 rfl)).trans ?_
  simp only [decodeMajor2F, fixedAt, g 0 5 5 rfl, field_of_bits (x := s) (g 5 6 _ rfl), field_of_bits (x := a) (g 11 7 _ rfl), field_of_bits (x := t) (g 18 7 _ rfl), bitAt_of_bits (g 31 1 _ rfl), if_true, and_self]
theorem cinv (e a s) : Statement (.cinv e a s) := by
  intro h v hv
  cases Option.some.inj hv
  refine decodeWord_of_raw (of_fields (P := fun W => decodeRaw W = some (.cinv e a s)) [(5, 6), (6, s.toNat), (7, a.toNat), (7, 0), (6, 47), (1, e.toNat)] ⟨by decide, s.isLt, a.isLt, by decide, by decide, Bool.toNat_lt e, trivial⟩ rfl (fun W g => ?_)) h
  refine (raw2F (g 25 6 47 rfl)).trans ?_
  simp only [decodeMajor2F, fixedAt, g 0 5 6 rfl, field_of_bits (x := s) (g 5 6 _ rfl), field_of_bits (x := a) (g 11 7 _ rfl), g 18 7 0 rfl, bitAt_of_bits (g 31 1 _ rfl), if_true, and_self]
theorem cwb (e a s) : Statement (.cwb e a s) := by
  intro h v hv
  cases Option.some.inj hv
  refine decodeWord_of_raw (of_fields (P := fun W => decodeRaw W = some (.cwb e a s)) [(5, 7), (6, s.toNat), (7, a.toNat), (7, 0), (6, 47), (1, e.toNat)] ⟨by decide, s.isLt, a.isLt, by decide, by decide, Bool.toNat_lt e, trivial⟩ rfl (fun W g => ?_)) h
  refine (raw2F (g 25 6 47 rfl)).trans ?_
  simp only [decodeMajor2F, fixedAt, g 0 5 7 rfl, field_of_bits (x := s) (g 5 6 _ rfl), field_of_bits (x := a) (g 11 7 _ rfl), g 18 7 0 rfl, bitAt_of_bits (g 31 1 _ rfl), if_true, and_self]
theorem cpyin (e x y z) : Statement (.cpyin e x y z) := by
  intro h v hv
  cases Option.some.inj hv
  refine decodeWord_of_raw (of_fields (P := fun W => decodeRaw W = some (.cpyin e x y z)) [(5, 0), (6, z.toNat), (7, y.toNat), (7, x.toNat), (6, 48), (1, e.toNat)] ⟨by decide, z.isLt, y.isLt, x.isLt, by decide, Bool.toNat_lt e, trivial⟩ rfl (fun W g => ?_)) h
  refine (raw30 (g 25 6 48 rfl)).trans ?_
  simp only [decodeMajor30, fixedAt, g 0 5 0 rfl, field_of_bits (x := z) (g 5 6 _ rfl), field_of_bits (x := y) (g 11 7 _ rfl), field_of_bits (x := x) (g 18 7 _ rfl), bitAt_of_bits (g 31 1 _ rfl), if_true, and_self]
theorem cpyout (e x y z) : Statement (.cpyout e x y z) := by
  intro h v hv
  cases Option.some.inj hv
  refine decodeWord_of_raw (of_fields (P := fun W => decodeRaw W = some (.cpyout e x y z)) [(5, 1), (6, z.toNat), (7, y.toNat), (7, x.toNat), (6, 48), (1, e.toNat)] ⟨by decide, z.isLt, y.isLt, x.isLt, by decide, Bool.toNat_lt e, trivial⟩ rfl (fun W g => ?_)) h
  refine (raw30 (g 25 6 48 rfl)).trans ?_
  simp only [decodeMajor30, fixedAt, g 0 5 1 rfl, field_of_bits (x := z) (g 5 6 _ rfl), field_of_bits (x := y) (g 11 7 _ rfl), field_of_bits (x := x) (g 18 7 _ rfl), bitAt_of_bits (g 31 1 _ rfl), if_true, and_self]
theorem cpyp (e x y z) : Statement (.cpyp e x y z) := by
  intro h v hv
  cases Option.some.inj hv
  refine decodeWord_of_raw (of_fields (P := fun W => decodeRaw W = some (.cpyp e x y z)) [(5, 2), (6, z.toNat), (7, y.toNat), (7, x.toNat), (6, 48), (1, e.toNat)] ⟨by decide, z.isLt, y.isLt, x.isLt, by decide, Bool.toNat_lt e, trivial⟩ rfl (fun W g => ?_)) h
  refine (raw30 (g 25 6 48 rfl)).trans ?_
  simp only [decodeMajor30, fixedAt, g 0 5 2 rfl, field_of_bits (x := z) (g 5 6 _ rfl), field_of_bits (x := y) (g 11 7 _ rfl), field_of_bits (x := x) (g 18 7 _ rfl), bitAt_of_bits (g 31 1 _ rfl), if_true, and_self]
theorem gath (e x y z) : Statement (.gath e x y z) := by
  intro h v hv
  cases Option.some.inj hv
  refine decodeWord_of_raw (of_fields (P := fun W => decodeRaw W = some (.gath e x y z)) [(5, 3), (6, z.toNat), (7, y.toNat), (7, x.toNat), (6, 48), (1, e.toNat)] ⟨by decide, z.isLt, y.isLt, x.isLt, by decide, Bool.toNat_lt e, trivial⟩ rfl (fun W g => ?_)) h
  refine (raw30 (g 25 6 48 rfl)).trans ?_
  simp only [decodeMajor30, fixedAt, g 0 5 3 rfl, field_of_bits (x := z) (g 5 6 _ rfl), field_of_bits (x := y) (g 11 7 _ rfl), field_of_bits (x := x) (g 18 7 _ rfl), bitAt_of_bits (g 31 1 _ rfl), if_true, and_self]
theorem scat (e x y z) : Statement (.scat e x y z) := by
  intro h v hv
  cases Option.some.inj hv
  refine decodeWord_of_raw (of_fields (P := fun W => decodeRaw W = some (.scat e x y z)) [(5, 4), (6, z.toNat), (7, y.toNat), (7, x.toNat), (6, 48), (1, e.toNat)] ⟨by decide, z.isLt, y.isLt, x.isLt, by decide, Bool.toNat_lt e, trivial⟩ rfl (fun W g => ?_)) h
  refine (raw30 (g 25 6 48 rfl)).trans ?_
  simp only [decodeMajor30, fixedAt, g 0 5 4 rfl, field_of_bits (x := z) (g 5 6 _ rfl), field_of_bits (x := y) (g 11 7 _ rfl), field_of_bits (x := x) (g 18 7 _ rfl), bitAt_of_bits (g 31 1 _ rfl), if_true, and_self]
theorem cpyc (e x y z) : Statement (.cpyc e x y z) := by
  intro h v hv
  cases Option.some.inj hv
  refine decodeWord_of_raw (of_fields (P := fun W => decodeRaw W = some (.cpyc e x y z)) [(5, 5), (6, z.toNat), (7, y.toNat), (7, x.toNat), (6, 48), (1, e.toNat)] ⟨by decide, z.isLt, y.isLt, x.isLt, by decide, Bool.toNat_lt e, trivial⟩ rfl (fun W g => ?_)) h
  refine (raw30 (g 25 6 48 rfl)).trans ?_
  simp only [decodeMajor30, fixedAt, g 0 5 5 rfl, field_of_bits (x := z) (g 5 6 _ rfl), field_of_bits (x := y) (g 11 7 _ rfl), field_of_bits (x := x) (g 18 7 _ rfl), bitAt_of_bits (g 31 1 _ rfl), if_true, and_self]
theorem cpyr (e x y z) : Statement (.cpyr e x y z) := by
  intro h v hv
  cases Option.some.inj hv
  refine decodeWord_of_raw (of_fields (P := fun W => decodeRaw W = some (.cpyr e x y z)) [(5, 6), (6, z.toNat), (7, y.toNat), (7, x.toNat), (6, 48), (1, e.toNat)] ⟨by decide, z.isLt, y.isLt, x.isLt, by decide, Bool.toNat_lt e, trivial⟩ rfl (fun W g => ?_)) h
  refine (raw30 (g 25 6 48 rfl)).trans ?_
  simp only [decodeMajor30, fixedAt, g 0 5 6 rfl, field_of_bits (x := z) (g 5 6 _ rfl), field_of_bits (x := y) (g 11 7 _ rfl), field_of_bits (x := x) (g 18 7 _ rfl), bitAt_of_bits (g 31 1 _ rfl), if_true, and_self]
theorem tbinit (e s) : Statement (.tbinit e s) := by
  intro h v hv
  cases Option.some.inj hv
  refine decodeWord_of_raw (of_fields (P := fun W => decodeRaw W = some (.tbinit e s)) [(5, 0), (6, s.toNat), (14, 0), (6, 49), (1, e.toNat)] ⟨by decide, s.isLt, by decide, by decide, Bool.toNat_lt e, trivial⟩ rfl (fun W g => ?_)) h
  refine (raw31 (g 25 6 49 rfl)).trans ?_
  simp only [decodeMajor31, fixedAt, g 0 5 0 rfl, field_of_bits (x := s) (g 5 6 _ rfl), g 11 14 0 rfl, bitAt_of_bits (g 31 1 _ rfl), if_true, and_self]
theorem tbarr (e a s) : Statement (.tbarr e a s) := by
  intro h v hv
  cases Option.some.inj hv
  refine decodeWord_of_raw (of_fields (P := fun W => decodeRaw W = some (.tbarr e a s)) [(5, 1), (6, s.toNat), (7, a.toNat), (7, 0), (6, 49), (1, e.toNat)] ⟨by decide, s.isLt, a.isLt, by decide, by decide, Bool.toNat_lt e, trivial⟩ rfl (fun W g => ?_)) h
  refine (raw31 (g 25 6 49 rfl)).trans ?_
  simp only [decodeMajor31, fixedAt, g 0 5 1 rfl, field_of_bits (x := s) (g 5 6 _ rfl), field_of_bits (x := a) (g 11 7 _ rfl), g 18 7 0 rfl, bitAt_of_bits (g 31 1 _ rfl), if_true, and_self]
theorem tbexp (e a s) : Statement (.tbexp e a s) := by
  intro h v hv
  cases Option.some.inj hv
  refine decodeWord_of_raw (of_fields (P := fun W => decodeRaw W = some (.tbexp e a s)) [(5, 2), (6, s.toNat), (7, a.toNat), (7, 0), (6, 49), (1, e.toNat)] ⟨by decide, s.isLt, a.isLt, by decide, by decide, Bool.toNat_lt e, trivial⟩ rfl (fun W g => ?_)) h
  refine (raw31 (g 25 6 49 rfl)).trans ?_
  simp only [decodeMajor31, fixedAt, g 0 5 2 rfl, field_of_bits (x := s) (g 5 6 _ rfl), field_of_bits (x := a) (g 11 7 _ rfl), g 18 7 0 rfl, bitAt_of_bits (g 31 1 _ rfl), if_true, and_self]
theorem tbwait (e a s) : Statement (.tbwait e a s) := by
  intro h v hv
  cases Option.some.inj hv
  refine decodeWord_of_raw (of_fields (P := fun W => decodeRaw W = some (.tbwait e a s)) [(5, 3), (6, s.toNat), (7, a.toNat), (7, 0), (6, 49), (1, e.toNat)] ⟨by decide, s.isLt, a.isLt, by decide, by decide, Bool.toNat_lt e, trivial⟩ rfl (fun W g => ?_)) h
  refine (raw31 (g 25 6 49 rfl)).trans ?_
  simp only [decodeMajor31, fixedAt, g 0 5 3 rfl, field_of_bits (x := s) (g 5 6 _ rfl), field_of_bits (x := a) (g 11 7 _ rfl), g 18 7 0 rfl, bitAt_of_bits (g 31 1 _ rfl), if_true, and_self]
theorem tbtest (e d a s) : Statement (.tbtest e d a s) := by
  intro h v hv
  cases Option.some.inj hv
  refine decodeWord_of_raw (of_fields (P := fun W => decodeRaw W = some (.tbtest e d a s)) [(5, 4), (6, s.toNat), (7, a.toNat), (7, d.toNat), (6, 49), (1, e.toNat)] ⟨by decide, s.isLt, a.isLt, d.isLt, by decide, Bool.toNat_lt e, trivial⟩ rfl (fun W g => ?_)) h
  refine (raw31 (g 25 6 49 rfl)).trans ?_
  simp only [decodeMajor31, fixedAt, g 0 5 4 rfl, field_of_bits (x := s) (g 5 6 _ rfl), field_of_bits (x := a) (g 11 7 _ rfl), field_of_bits (x := d) (g 18 7 _ rfl), bitAt_of_bits (g 31 1 _ rfl), if_true, and_self]
theorem mma (e f x y z) : Statement (.mma e f x y z) := by
  intro h v hv
  cases Option.some.inj hv
  refine decodeWord_of_raw (of_fields (P := fun W => decodeRaw W = some (.mma e f x y z)) [(6, z.toNat), (7, y.toNat), (7, x.toNat), (5, f.toNat), (6, 50), (1, e.toNat)] ⟨z.isLt, y.isLt, x.isLt, f.isLt, by decide, Bool.toNat_lt e, trivial⟩ rfl (fun W g => ?_)) h
  refine (raw32 (g 25 6 50 rfl)).trans ?_
  simp only [decodeMajor32, fixedAt, field_of_bits (x := z) (g 0 6 _ rfl), field_of_bits (x := y) (g 6 7 _ rfl), field_of_bits (x := x) (g 13 7 _ rfl), field_of_bits (x := f) (g 20 5 _ rfl), bitAt_of_bits (g 31 1 _ rfl), if_true, and_self]
theorem mdr (e f x y z) : Statement (.mdr e f x y z) := by
  intro h v hv
  cases Option.some.inj hv
  refine decodeWord_of_raw (of_fields (P := fun W => decodeRaw W = some (.mdr e f x y z)) [(5, z.toNat), (1, 0), (7, y.toNat), (7, x.toNat), (5, f.toNat), (6, 51), (1, e.toNat)] ⟨z.isLt, by decide, y.isLt, x.isLt, f.isLt, by decide, Bool.toNat_lt e, trivial⟩ rfl (fun W g => ?_)) h
  refine (raw33 (g 25 6 51 rfl)).trans ?_
  simp only [decodeMajor33, fixedAt, field_of_bits (x := z) (g 0 5 _ rfl), g 5 1 0 rfl, field_of_bits (x := y) (g 6 7 _ rfl), field_of_bits (x := x) (g 13 7 _ rfl), field_of_bits (x := f) (g 20 5 _ rfl), bitAt_of_bits (g 31 1 _ rfl), if_true, and_self]
theorem wbl (e f x y p) : Statement (.wbl e f x y p) := by
  intro h v hv
  cases Option.some.inj hv
  refine decodeWord_of_raw (of_fields (P := fun W => decodeRaw W = some (.wbl e f x y p)) [(1, p.toNat), (5, 0), (7, y.toNat), (7, x.toNat), (5, f.toNat), (6, 52), (1, e.toNat)] ⟨Bool.toNat_lt p, by decide, y.isLt, x.isLt, f.isLt, by decide, Bool.toNat_lt e, trivial⟩ rfl (fun W g => ?_)) h
  refine (raw34 (g 25 6 52 rfl)).trans ?_
  simp only [decodeMajor34, fixedAt, bitAt_of_bits (g 0 1 _ rfl), g 1 5 0 rfl, field_of_bits (x := y) (g 6 7 _ rfl), field_of_bits (x := x) (g 13 7 _ rfl), field_of_bits (x := f) (g 20 5 _ rfl), bitAt_of_bits (g 31 1 _ rfl), if_true, and_self]
theorem ttr (e x y) : Statement (.ttr e x y) := by
  intro h v hv
  cases Option.some.inj hv
  refine decodeWord_of_raw (of_fields (P := fun W => decodeRaw W = some (.ttr e x y)) [(6, 0), (7, y.toNat), (7, x.toNat), (5, 0), (6, 53), (1, e.toNat)] ⟨by decide, y.isLt, x.isLt, by decide, by decide, Bool.toNat_lt e, trivial⟩ rfl (fun W g => ?_)) h
  refine (raw35 (g 25 6 53 rfl)).trans ?_
  simp only [decodeMajor35, fixedAt, g 0 6 0 rfl, field_of_bits (x := y) (g 6 7 _ rfl), field_of_bits (x := x) (g 13 7 _ rfl), g 20 5 0 rfl, bitAt_of_bits (g 31 1 _ rfl), if_true, and_self]
theorem tscale (e x y) : Statement (.tscale e x y) := by
  intro h v hv
  cases Option.some.inj hv
  refine decodeWord_of_raw (of_fields (P := fun W => decodeRaw W = some (.tscale e x y)) [(6, 0), (7, y.toNat), (7, x.toNat), (5, 1), (6, 53), (1, e.toNat)] ⟨by decide, y.isLt, x.isLt, by decide, by decide, Bool.toNat_lt e, trivial⟩ rfl (fun W g => ?_)) h
  refine (raw35 (g 25 6 53 rfl)).trans ?_
  simp only [decodeMajor35, fixedAt, g 0 6 0 rfl, field_of_bits (x := y) (g 6 7 _ rfl), field_of_bits (x := x) (g 13 7 _ rfl), g 20 5 1 rfl, bitAt_of_bits (g 31 1 _ rfl), if_true, and_self]
theorem tzero (e x y) : Statement (.tzero e x y) := by
  intro h v hv
  cases Option.some.inj hv
  refine decodeWord_of_raw (of_fields (P := fun W => decodeRaw W = some (.tzero e x y)) [(6, 0), (7, y.toNat), (7, x.toNat), (5, 2), (6, 53), (1, e.toNat)] ⟨by decide, y.isLt, x.isLt, by decide, by decide, Bool.toNat_lt e, trivial⟩ rfl (fun W g => ?_)) h
  refine (raw35 (g 25 6 53 rfl)).trans ?_
  simp only [decodeMajor35, fixedAt, g 0 6 0 rfl, field_of_bits (x := y) (g 6 7 _ rfl), field_of_bits (x := x) (g 13 7 _ rfl), g 20 5 2 rfl, bitAt_of_bits (g 31 1 _ rfl), if_true, and_self]
theorem tzeroAcc (e x y n) : Statement (.tzeroAcc e x y n) := by
  intro h v hv
  cases Option.some.inj hv
  refine decodeWord_of_raw (of_fields (P := fun W => decodeRaw W = some (.tzeroAcc e x y n)) [(2, n.toNat), (4, 1), (7, y.toNat), (7, x.toNat), (5, 2), (6, 53), (1, e.toNat)] ⟨n.isLt, by decide, y.isLt, x.isLt, by decide, by decide, Bool.toNat_lt e, trivial⟩ rfl (fun W g => ?_)) h
  have z : bitsAt W 0 6 ≠ 0 := by
    have p := g 2 4 1 rfl
    unfold bitsAt at p ⊢
    omega
  refine (raw35 (g 25 6 53 rfl)).trans ?_
  simp only [decodeMajor35, fixedAt, field_of_bits (x := n) (g 0 2 _ rfl), g 2 4 1 rfl, field_of_bits (x := y) (g 6 7 _ rfl), field_of_bits (x := x) (g 13 7 _ rfl), g 20 5 2 rfl, bitAt_of_bits (g 31 1 _ rfl), if_neg z, if_true, and_self]
theorem tcvt (e x y) : Statement (.tcvt e x y) := by
  intro h v hv
  cases Option.some.inj hv
  refine decodeWord_of_raw (of_fields (P := fun W => decodeRaw W = some (.tcvt e x y)) [(6, 0), (7, y.toNat), (7, x.toNat), (5, 3), (6, 53), (1, e.toNat)] ⟨by decide, y.isLt, x.isLt, by decide, by decide, Bool.toNat_lt e, trivial⟩ rfl (fun W g => ?_)) h
  refine (raw35 (g 25 6 53 rfl)).trans ?_
  simp only [decodeMajor35, fixedAt, g 0 6 0 rfl, field_of_bits (x := y) (g 6 7 _ rfl), field_of_bits (x := x) (g 13 7 _ rfl), g 20 5 3 rfl, bitAt_of_bits (g 31 1 _ rfl), if_true, and_self]
theorem tadd (e x y) : Statement (.tadd e x y) := by
  intro h v hv
  cases Option.some.inj hv
  refine decodeWord_of_raw (of_fields (P := fun W => decodeRaw W = some (.tadd e x y)) [(6, 0), (7, y.toNat), (7, x.toNat), (5, 4), (6, 53), (1, e.toNat)] ⟨by decide, y.isLt, x.isLt, by decide, by decide, Bool.toNat_lt e, trivial⟩ rfl (fun W g => ?_)) h
  refine (raw35 (g 25 6 53 rfl)).trans ?_
  simp only [decodeMajor35, fixedAt, g 0 6 0 rfl, field_of_bits (x := y) (g 6 7 _ rfl), field_of_bits (x := x) (g 13 7 _ rfl), g 20 5 4 rfl, bitAt_of_bits (g 31 1 _ rfl), if_true, and_self]
theorem tmov (e x y) : Statement (.tmov e x y) := by
  intro h v hv
  cases Option.some.inj hv
  refine decodeWord_of_raw (of_fields (P := fun W => decodeRaw W = some (.tmov e x y)) [(6, 0), (7, y.toNat), (7, x.toNat), (5, 5), (6, 53), (1, e.toNat)] ⟨by decide, y.isLt, x.isLt, by decide, by decide, Bool.toNat_lt e, trivial⟩ rfl (fun W g => ?_)) h
  refine (raw35 (g 25 6 53 rfl)).trans ?_
  simp only [decodeMajor35, fixedAt, g 0 6 0 rfl, field_of_bits (x := y) (g 6 7 _ rfl), field_of_bits (x := x) (g 13 7 _ rfl), g 20 5 5 rfl, bitAt_of_bits (g 31 1 _ rfl), if_true, and_self]
theorem pqry (e x y n) : Statement (.pqry e x y n) := by
  intro h v hv
  cases Option.some.inj hv
  refine decodeWord_of_raw (of_fields (P := fun W => decodeRaw W = some (.pqry e x y n)) [(2, n.toNat), (4, 0), (7, y.toNat), (7, x.toNat), (5, 0), (6, 54), (1, e.toNat)] ⟨n.isLt, by decide, y.isLt, x.isLt, by decide, by decide, Bool.toNat_lt e, trivial⟩ rfl (fun W g => ?_)) h
  refine (raw36 (g 25 6 54 rfl)).trans ?_
  simp only [decodeMajor36, fixedAt, field_of_bits (x := n) (g 0 2 _ rfl), g 2 4 0 rfl, field_of_bits (x := y) (g 6 7 _ rfl), field_of_bits (x := x) (g 13 7 _ rfl), g 20 5 0 rfl, bitAt_of_bits (g 31 1 _ rfl), if_true, and_self]
theorem pdot (e x y n) : Statement (.pdot e x y n) := by
  intro h v hv
  cases Option.some.inj hv
  refine decodeWord_of_raw (of_fields (P := fun W => decodeRaw W = some (.pdot e x y n)) [(2, n.toNat), (4, 0), (7, y.toNat), (7, x.toNat), (5, 1), (6, 54), (1, e.toNat)] ⟨n.isLt, by decide, y.isLt, x.isLt, by decide, by decide, Bool.toNat_lt e, trivial⟩ rfl (fun W g => ?_)) h
  refine (raw36 (g 25 6 54 rfl)).trans ?_
  simp only [decodeMajor36, fixedAt, field_of_bits (x := n) (g 0 2 _ rfl), g 2 4 0 rfl, field_of_bits (x := y) (g 6 7 _ rfl), field_of_bits (x := x) (g 13 7 _ rfl), g 20 5 1 rfl, bitAt_of_bits (g 31 1 _ rfl), if_true, and_self]
theorem pdotr (e x y n) : Statement (.pdotr e x y n) := by
  intro h v hv
  cases Option.some.inj hv
  refine decodeWord_of_raw (of_fields (P := fun W => decodeRaw W = some (.pdotr e x y n)) [(2, n.toNat), (4, 0), (7, y.toNat), (7, x.toNat), (5, 2), (6, 54), (1, e.toNat)] ⟨n.isLt, by decide, y.isLt, x.isLt, by decide, by decide, Bool.toNat_lt e, trivial⟩ rfl (fun W g => ?_)) h
  refine (raw36 (g 25 6 54 rfl)).trans ?_
  simp only [decodeMajor36, fixedAt, field_of_bits (x := n) (g 0 2 _ rfl), g 2 4 0 rfl, field_of_bits (x := y) (g 6 7 _ rfl), field_of_bits (x := x) (g 13 7 _ rfl), g 20 5 2 rfl, bitAt_of_bits (g 31 1 _ rfl), if_true, and_self]
theorem pbnd (e x y n) : Statement (.pbnd e x y n) := by
  intro h v hv
  cases Option.some.inj hv
  refine decodeWord_of_raw (of_fields (P := fun W => decodeRaw W = some (.pbnd e x y n)) [(2, n.toNat), (4, 0), (7, y.toNat), (7, x.toNat), (5, 3), (6, 54), (1, e.toNat)] ⟨n.isLt, by decide, y.isLt, x.isLt, by decide, by decide, Bool.toNat_lt e, trivial⟩ rfl (fun W g => ?_)) h
  refine (raw36 (g 25 6 54 rfl)).trans ?_
  simp only [decodeMajor36, fixedAt, field_of_bits (x := n) (g 0 2 _ rfl), g 2 4 0 rfl, field_of_bits (x := y) (g 6 7 _ rfl), field_of_bits (x := x) (g 13 7 _ rfl), g 20 5 3 rfl, bitAt_of_bits (g 31 1 _ rfl), if_true, and_self]
theorem selk (e x y) : Statement (.selk e x y) := by
  intro h v hv
  cases Option.some.inj hv
  refine decodeWord_of_raw (of_fields (P := fun W => decodeRaw W = some (.selk e x y)) [(6, 0), (7, y.toNat), (7, x.toNat), (5, 0), (6, 55), (1, e.toNat)] ⟨by decide, y.isLt, x.isLt, by decide, by decide, Bool.toNat_lt e, trivial⟩ rfl (fun W g => ?_)) h
  refine (raw37 (g 25 6 55 rfl)).trans ?_
  simp only [decodeMajor37, fixedAt, g 0 6 0 rfl, field_of_bits (x := y) (g 6 7 _ rfl), field_of_bits (x := x) (g 13 7 _ rfl), g 20 5 0 rfl, bitAt_of_bits (g 31 1 _ rfl), if_true, and_self]
theorem selkx (e x y) : Statement (.selkx e x y) := by
  intro h v hv
  cases Option.some.inj hv
  refine decodeWord_of_raw (of_fields (P := fun W => decodeRaw W = some (.selkx e x y)) [(6, 0), (7, y.toNat), (7, x.toNat), (5, 1), (6, 55), (1, e.toNat)] ⟨by decide, y.isLt, x.isLt, by decide, by decide, Bool.toNat_lt e, trivial⟩ rfl (fun W g => ?_)) h
  refine (raw37 (g 25 6 55 rfl)).trans ?_
  simp only [decodeMajor37, fixedAt, g 0 6 0 rfl, field_of_bits (x := y) (g 6 7 _ rfl), field_of_bits (x := x) (g 13 7 _ rfl), g 20 5 1 rfl, bitAt_of_bits (g 31 1 _ rfl), if_true, and_self]
theorem psel (e x y) : Statement (.psel e x y) := by
  intro h v hv
  cases Option.some.inj hv
  refine decodeWord_of_raw (of_fields (P := fun W => decodeRaw W = some (.psel e x y)) [(6, 0), (7, y.toNat), (7, x.toNat), (5, 2), (6, 55), (1, e.toNat)] ⟨by decide, y.isLt, x.isLt, by decide, by decide, Bool.toNat_lt e, trivial⟩ rfl (fun W g => ?_)) h
  refine (raw37 (g 25 6 55 rfl)).trans ?_
  simp only [decodeMajor37, fixedAt, g 0 6 0 rfl, field_of_bits (x := y) (g 6 7 _ rfl), field_of_bits (x := x) (g 13 7 _ rfl), g 20 5 2 rfl, bitAt_of_bits (g 31 1 _ rfl), if_true, and_self]
theorem lmerge (e x y) : Statement (.lmerge e x y) := by
  intro h v hv
  cases Option.some.inj hv
  refine decodeWord_of_raw (of_fields (P := fun W => decodeRaw W = some (.lmerge e x y)) [(6, 0), (7, y.toNat), (7, x.toNat), (5, 3), (6, 55), (1, e.toNat)] ⟨by decide, y.isLt, x.isLt, by decide, by decide, Bool.toNat_lt e, trivial⟩ rfl (fun W g => ?_)) h
  refine (raw37 (g 25 6 55 rfl)).trans ?_
  simp only [decodeMajor37, fixedAt, g 0 6 0 rfl, field_of_bits (x := y) (g 6 7 _ rfl), field_of_bits (x := x) (g 13 7 _ rfl), g 20 5 3 rfl, bitAt_of_bits (g 31 1 _ rfl), if_true, and_self]
theorem lsort (e x y q) : Statement (.lsort e x y q) := by
  intro h v hv
  cases Option.some.inj hv
  refine decodeWord_of_raw (of_fields (P := fun W => decodeRaw W = some (.lsort e x y q)) [(1, q.toNat), (5, 0), (7, y.toNat), (7, x.toNat), (5, 4), (6, 55), (1, e.toNat)] ⟨Bool.toNat_lt q, by decide, y.isLt, x.isLt, by decide, by decide, Bool.toNat_lt e, trivial⟩ rfl (fun W g => ?_)) h
  refine (raw37 (g 25 6 55 rfl)).trans ?_
  simp only [decodeMajor37, fixedAt, bitAt_of_bits (g 0 1 _ rfl), g 1 5 0 rfl, field_of_bits (x := y) (g 6 7 _ rfl), field_of_bits (x := x) (g 13 7 _ rfl), g 20 5 4 rfl, bitAt_of_bits (g 31 1 _ rfl), if_true, and_self]
theorem ssrch (e x y l k) : Statement (.ssrch e x y l k) := by
  intro h v hv
  cases Option.some.inj hv
  refine decodeWord_of_raw (of_fields (P := fun W => decodeRaw W = some (.ssrch e x y l k)) [(2, k.toNat), (1, l.toNat), (3, 0), (7, y.toNat), (7, x.toNat), (5, 5), (6, 55), (1, e.toNat)] ⟨k.isLt, Bool.toNat_lt l, by decide, y.isLt, x.isLt, by decide, by decide, Bool.toNat_lt e, trivial⟩ rfl (fun W g => ?_)) h
  refine (raw37 (g 25 6 55 rfl)).trans ?_
  simp only [decodeMajor37, fixedAt, field_of_bits (x := k) (g 0 2 _ rfl), bitAt_of_bits (g 2 1 _ rfl), g 3 3 0 rfl, field_of_bits (x := y) (g 6 7 _ rfl), field_of_bits (x := x) (g 13 7 _ rfl), g 20 5 5 rfl, bitAt_of_bits (g 31 1 _ rfl), if_true, and_self]
theorem tspawn (e d a b) : Statement (.tspawn e d a b) := by
  intro h v hv
  cases Option.some.inj hv
  refine decodeWord_of_raw (of_fields (P := fun W => decodeRaw W = some (.tspawn e d a b)) [(3, 0), (7, b.toNat), (7, a.toNat), (7, d.toNat), (1, 0), (6, 56), (1, e.toNat)] ⟨by decide, b.isLt, a.isLt, d.isLt, by decide, by decide, Bool.toNat_lt e, trivial⟩ rfl (fun W g => ?_)) h
  refine (raw38 (g 25 6 56 rfl)).trans ?_
  simp only [decodeMajor38, fixedAt, g 0 3 0 rfl, field_of_bits (x := b) (g 3 7 _ rfl), field_of_bits (x := a) (g 10 7 _ rfl), field_of_bits (x := d) (g 17 7 _ rfl), g 24 1 0 rfl, bitAt_of_bits (g 31 1 _ rfl), if_true, and_self]
theorem sdec (e d a) : Statement (.sdec e d a) := by
  intro h v hv
  cases Option.some.inj hv
  refine decodeWord_of_raw (of_fields (P := fun W => decodeRaw W = some (.sdec e d a)) [(3, 1), (7, 0), (7, a.toNat), (7, d.toNat), (1, 0), (6, 56), (1, e.toNat)] ⟨by decide, by decide, a.isLt, d.isLt, by decide, by decide, Bool.toNat_lt e, trivial⟩ rfl (fun W g => ?_)) h
  refine (raw38 (g 25 6 56 rfl)).trans ?_
  simp only [decodeMajor38, fixedAt, g 0 3 1 rfl, g 3 7 0 rfl, field_of_bits (x := a) (g 10 7 _ rfl), field_of_bits (x := d) (g 17 7 _ rfl), g 24 1 0 rfl, bitAt_of_bits (g 31 1 _ rfl), if_true, and_self]
theorem tqry (e d a) : Statement (.tqry e d a) := by
  intro h v hv
  cases Option.some.inj hv
  refine decodeWord_of_raw (of_fields (P := fun W => decodeRaw W = some (.tqry e d a)) [(3, 2), (7, 0), (7, a.toNat), (7, d.toNat), (1, 0), (6, 56), (1, e.toNat)] ⟨by decide, by decide, a.isLt, d.isLt, by decide, by decide, Bool.toNat_lt e, trivial⟩ rfl (fun W g => ?_)) h
  refine (raw38 (g 25 6 56 rfl)).trans ?_
  simp only [decodeMajor38, fixedAt, g 0 3 2 rfl, g 3 7 0 rfl, field_of_bits (x := a) (g 10 7 _ rfl), field_of_bits (x := d) (g 17 7 _ rfl), g 24 1 0 rfl, bitAt_of_bits (g 31 1 _ rfl), if_true, and_self]
theorem fres (e d a b) : Statement (.fres e d a b) := by
  intro h v hv
  cases Option.some.inj hv
  refine decodeWord_of_raw (of_fields (P := fun W => decodeRaw W = some (.fres e d a b)) [(3, 0), (7, b.toNat), (7, a.toNat), (7, d.toNat), (1, 0), (6, 57), (1, e.toNat)] ⟨by decide, b.isLt, a.isLt, d.isLt, by decide, by decide, Bool.toNat_lt e, trivial⟩ rfl (fun W g => ?_)) h
  refine (raw39 (g 25 6 57 rfl)).trans ?_
  simp only [decodeMajor39, fixedAt, g 0 3 0 rfl, field_of_bits (x := b) (g 3 7 _ rfl), field_of_bits (x := a) (g 10 7 _ rfl), field_of_bits (x := d) (g 17 7 _ rfl), g 24 1 0 rfl, bitAt_of_bits (g 31 1 _ rfl), if_true, and_self]
theorem freg (e d a b) : Statement (.freg e d a b) := by
  intro h v hv
  cases Option.some.inj hv
  refine decodeWord_of_raw (of_fields (P := fun W => decodeRaw W = some (.freg e d a b)) [(3, 1), (7, b.toNat), (7, a.toNat), (7, d.toNat), (1, 0), (6, 57), (1, e.toNat)] ⟨by decide, b.isLt, a.isLt, d.isLt, by decide, by decide, Bool.toNat_lt e, trivial⟩ rfl (fun W g => ?_)) h
  refine (raw39 (g 25 6 57 rfl)).trans ?_
  simp only [decodeMajor39, fixedAt, g 0 3 1 rfl, field_of_bits (x := b) (g 3 7 _ rfl), field_of_bits (x := a) (g 10 7 _ rfl), field_of_bits (x := d) (g 17 7 _ rfl), g 24 1 0 rfl, bitAt_of_bits (g 31 1 _ rfl), if_true, and_self]
theorem fget (e d a b) : Statement (.fget e d a b) := by
  intro h v hv
  cases Option.some.inj hv
  refine decodeWord_of_raw (of_fields (P := fun W => decodeRaw W = some (.fget e d a b)) [(3, 2), (7, b.toNat), (7, a.toNat), (7, d.toNat), (1, 0), (6, 57), (1, e.toNat)] ⟨by decide, b.isLt, a.isLt, d.isLt, by decide, by decide, Bool.toNat_lt e, trivial⟩ rfl (fun W g => ?_)) h
  refine (raw39 (g 25 6 57 rfl)).trans ?_
  simp only [decodeMajor39, fixedAt, g 0 3 2 rfl, field_of_bits (x := b) (g 3 7 _ rfl), field_of_bits (x := a) (g 10 7 _ rfl), field_of_bits (x := d) (g 17 7 _ rfl), g 24 1 0 rfl, bitAt_of_bits (g 31 1 _ rfl), if_true, and_self]
theorem msend (e d a) : Statement (.msend e d a) := by
  intro h v hv
  cases Option.some.inj hv
  refine decodeWord_of_raw (of_fields (P := fun W => decodeRaw W = some (.msend e d a)) [(3, 0), (7, 0), (7, a.toNat), (7, d.toNat), (1, 0), (6, 58), (1, e.toNat)] ⟨by decide, by decide, a.isLt, d.isLt, by decide, by decide, Bool.toNat_lt e, trivial⟩ rfl (fun W g => ?_)) h
  refine (raw3A (g 25 6 58 rfl)).trans ?_
  simp only [decodeMajor3A, fixedAt, g 0 3 0 rfl, g 3 7 0 rfl, field_of_bits (x := a) (g 10 7 _ rfl), field_of_bits (x := d) (g 17 7 _ rfl), g 24 1 0 rfl, bitAt_of_bits (g 31 1 _ rfl), if_true, and_self]
theorem mpost (e d a) : Statement (.mpost e d a) := by
  intro h v hv
  cases Option.some.inj hv
  refine decodeWord_of_raw (of_fields (P := fun W => decodeRaw W = some (.mpost e d a)) [(3, 1), (7, 0), (7, a.toNat), (7, d.toNat), (1, 0), (6, 58), (1, e.toNat)] ⟨by decide, by decide, a.isLt, d.isLt, by decide, by decide, Bool.toNat_lt e, trivial⟩ rfl (fun W g => ?_)) h
  refine (raw3A (g 25 6 58 rfl)).trans ?_
  simp only [decodeMajor3A, fixedAt, g 0 3 1 rfl, g 3 7 0 rfl, field_of_bits (x := a) (g 10 7 _ rfl), field_of_bits (x := d) (g 17 7 _ rfl), g 24 1 0 rfl, bitAt_of_bits (g 31 1 _ rfl), if_true, and_self]
theorem mprobe (e d a) : Statement (.mprobe e d a) := by
  intro h v hv
  cases Option.some.inj hv
  refine decodeWord_of_raw (of_fields (P := fun W => decodeRaw W = some (.mprobe e d a)) [(3, 2), (7, 0), (7, a.toNat), (7, d.toNat), (1, 0), (6, 58), (1, e.toNat)] ⟨by decide, by decide, a.isLt, d.isLt, by decide, by decide, Bool.toNat_lt e, trivial⟩ rfl (fun W g => ?_)) h
  refine (raw3A (g 25 6 58 rfl)).trans ?_
  simp only [decodeMajor3A, fixedAt, g 0 3 2 rfl, g 3 7 0 rfl, field_of_bits (x := a) (g 10 7 _ rfl), field_of_bits (x := d) (g 17 7 _ rfl), g 24 1 0 rfl, bitAt_of_bits (g 31 1 _ rfl), if_true, and_self]
theorem mcancel (e d a) : Statement (.mcancel e d a) := by
  intro h v hv
  cases Option.some.inj hv
  refine decodeWord_of_raw (of_fields (P := fun W => decodeRaw W = some (.mcancel e d a)) [(3, 3), (7, 0), (7, a.toNat), (7, d.toNat), (1, 0), (6, 58), (1, e.toNat)] ⟨by decide, by decide, a.isLt, d.isLt, by decide, by decide, Bool.toNat_lt e, trivial⟩ rfl (fun W g => ?_)) h
  refine (raw3A (g 25 6 58 rfl)).trans ?_
  simp only [decodeMajor3A, fixedAt, g 0 3 3 rfl, g 3 7 0 rfl, field_of_bits (x := a) (g 10 7 _ rfl), field_of_bits (x := d) (g 17 7 _ rfl), g 24 1 0 rfl, bitAt_of_bits (g 31 1 _ rfl), if_true, and_self]
theorem mtest (e d a) : Statement (.mtest e d a) := by
  intro h v hv
  cases Option.some.inj hv
  refine decodeWord_of_raw (of_fields (P := fun W => decodeRaw W = some (.mtest e d a)) [(3, 4), (7, 0), (7, a.toNat), (7, d.toNat), (1, 0), (6, 58), (1, e.toNat)] ⟨by decide, by decide, a.isLt, d.isLt, by decide, by decide, Bool.toNat_lt e, trivial⟩ rfl (fun W g => ?_)) h
  refine (raw3A (g 25 6 58 rfl)).trans ?_
  simp only [decodeMajor3A, fixedAt, g 0 3 4 rfl, g 3 7 0 rfl, field_of_bits (x := a) (g 10 7 _ rfl), field_of_bits (x := d) (g 17 7 _ rfl), g 24 1 0 rfl, bitAt_of_bits (g 31 1 _ rfl), if_true, and_self]
theorem mpostRa (e d a) : Statement (.mpostRa e d a) := by
  intro h v hv
  cases Option.some.inj hv
  refine decodeWord_of_raw (of_fields (P := fun W => decodeRaw W = some (.mpostRa e d a)) [(3, 5), (7, 0), (7, a.toNat), (7, d.toNat), (1, 0), (6, 58), (1, e.toNat)] ⟨by decide, by decide, a.isLt, d.isLt, by decide, by decide, Bool.toNat_lt e, trivial⟩ rfl (fun W g => ?_)) h
  refine (raw3A (g 25 6 58 rfl)).trans ?_
  simp only [decodeMajor3A, fixedAt, g 0 3 5 rfl, g 3 7 0 rfl, field_of_bits (x := a) (g 10 7 _ rfl), field_of_bits (x := d) (g 17 7 _ rfl), g 24 1 0 rfl, bitAt_of_bits (g 31 1 _ rfl), if_true, and_self]
theorem car (e d a b) : Statement (.car e d a b) := by
  intro h v hv
  cases Option.some.inj hv
  refine decodeWord_of_raw (of_fields (P := fun W => decodeRaw W = some (.car e d a b)) [(3, 0), (7, b.toNat), (7, a.toNat), (7, d.toNat), (1, 0), (6, 59), (1, e.toNat)] ⟨by decide, b.isLt, a.isLt, d.isLt, by decide, by decide, Bool.toNat_lt e, trivial⟩ rfl (fun W g => ?_)) h
  refine (raw3B (g 25 6 59 rfl)).trans ?_
  simp only [decodeMajor3B, fixedAt, g 0 3 0 rfl, field_of_bits (x := b) (g 3 7 _ rfl), field_of_bits (x := a) (g 10 7 _ rfl), field_of_bits (x := d) (g 17 7 _ rfl), g 24 1 0 rfl, bitAt_of_bits (g 31 1 _ rfl), if_true, and_self]
theorem cbc (e d a b) : Statement (.cbc e d a b) := by
  intro h v hv
  cases Option.some.inj hv
  refine decodeWord_of_raw (of_fields (P := fun W => decodeRaw W = some (.cbc e d a b)) [(3, 1), (7, b.toNat), (7, a.toNat), (7, d.toNat), (1, 0), (6, 59), (1, e.toNat)] ⟨by decide, b.isLt, a.isLt, d.isLt, by decide, by decide, Bool.toNat_lt e, trivial⟩ rfl (fun W g => ?_)) h
  refine (raw3B (g 25 6 59 rfl)).trans ?_
  simp only [decodeMajor3B, fixedAt, g 0 3 1 rfl, field_of_bits (x := b) (g 3 7 _ rfl), field_of_bits (x := a) (g 10 7 _ rfl), field_of_bits (x := d) (g 17 7 _ rfl), g 24 1 0 rfl, bitAt_of_bits (g 31 1 _ rfl), if_true, and_self]
theorem cbar (e d a) : Statement (.cbar e d a) := by
  intro h v hv
  cases Option.some.inj hv
  refine decodeWord_of_raw (of_fields (P := fun W => decodeRaw W = some (.cbar e d a)) [(3, 2), (7, 0), (7, a.toNat), (7, d.toNat), (1, 0), (6, 59), (1, e.toNat)] ⟨by decide, by decide, a.isLt, d.isLt, by decide, by decide, Bool.toNat_lt e, trivial⟩ rfl (fun W g => ?_)) h
  refine (raw3B (g 25 6 59 rfl)).trans ?_
  simp only [decodeMajor3B, fixedAt, g 0 3 2 rfl, g 3 7 0 rfl, field_of_bits (x := a) (g 10 7 _ rfl), field_of_bits (x := d) (g 17 7 _ rfl), g 24 1 0 rfl, bitAt_of_bits (g 31 1 _ rfl), if_true, and_self]
theorem rgive (e k) : Statement (.rgive e k) := by
  intro h v hv
  cases Option.some.inj hv
  refine decodeWord_of_raw (of_fields (P := fun W => decodeRaw W = some (.rgive e k)) [(4, k.toNat), (4, 0), (2, 0), (15, 0), (6, 60), (1, e.toNat)] ⟨k.isLt, by decide, by decide, by decide, by decide, Bool.toNat_lt e, trivial⟩ rfl (fun W g => ?_)) h
  refine (raw3C (g 25 6 60 rfl)).trans ?_
  simp only [decodeMajor3C, fixedAt, field_of_bits (x := k) (g 0 4 _ rfl), g 4 4 0 rfl, g 8 2 0 rfl, g 10 15 0 rfl, bitAt_of_bits (g 31 1 _ rfl), if_true, and_self]
theorem rclaim (e w d k) : Statement (.rclaim e w d k) := by
  intro h v hv
  cases Option.some.inj hv
  refine decodeWord_of_raw (of_fields (P := fun W => decodeRaw W = some (.rclaim e w d k)) [(4, k.toNat), (4, 0), (2, 1), (7, 0), (7, d.toNat), (1, w.toNat), (6, 60), (1, e.toNat)] ⟨k.isLt, by decide, by decide, by decide, d.isLt, Bool.toNat_lt w, by decide, Bool.toNat_lt e, trivial⟩ rfl (fun W g => ?_)) h
  refine (raw3C (g 25 6 60 rfl)).trans ?_
  simp only [decodeMajor3C, fixedAt, field_of_bits (x := k) (g 0 4 _ rfl), g 4 4 0 rfl, g 8 2 1 rfl, g 10 7 0 rfl, field_of_bits (x := d) (g 17 7 _ rfl), bitAt_of_bits (g 24 1 _ rfl), bitAt_of_bits (g 31 1 _ rfl), if_true, and_self]
theorem rcnt (e w d) : Statement (.rcnt e w d) := by
  intro h v hv
  cases Option.some.inj hv
  refine decodeWord_of_raw (of_fields (P := fun W => decodeRaw W = some (.rcnt e w d)) [(8, 0), (2, 2), (7, 0), (7, d.toNat), (1, w.toNat), (6, 60), (1, e.toNat)] ⟨by decide, by decide, by decide, d.isLt, Bool.toNat_lt w, by decide, Bool.toNat_lt e, trivial⟩ rfl (fun W g => ?_)) h
  refine (raw3C (g 25 6 60 rfl)).trans ?_
  simp only [decodeMajor3C, fixedAt, g 0 8 0 rfl, g 8 2 2 rfl, g 10 7 0 rfl, field_of_bits (x := d) (g 17 7 _ rfl), bitAt_of_bits (g 24 1 _ rfl), bitAt_of_bits (g 31 1 _ rfl), if_true, and_self]
theorem rdsr (e d n) : Statement (.rdsr e d n) := by
  intro h v hv
  cases Option.some.inj hv
  refine decodeWord_of_raw (of_fields (P := fun W => decodeRaw W = some (.rdsr e d n)) [(8, n.toNat), (5, 0), (7, d.toNat), (5, 0), (6, 61), (1, e.toNat)] ⟨n.isLt, by decide, d.isLt, by decide, by decide, Bool.toNat_lt e, trivial⟩ rfl (fun W g => ?_)) h
  refine (raw3D (g 25 6 61 rfl)).trans ?_
  simp only [decodeMajor3D, fixedAt, field_of_bits (x := n) (g 0 8 _ rfl), g 8 5 0 rfl, field_of_bits (x := d) (g 13 7 _ rfl), g 20 5 0 rfl, bitAt_of_bits (g 31 1 _ rfl), if_true, and_self]
theorem wrsr (e a n) : Statement (.wrsr e a n) := by
  intro h v hv
  cases Option.some.inj hv
  refine decodeWord_of_raw (of_fields (P := fun W => decodeRaw W = some (.wrsr e a n)) [(8, n.toNat), (5, 0), (7, a.toNat), (5, 1), (6, 61), (1, e.toNat)] ⟨n.isLt, by decide, a.isLt, by decide, by decide, Bool.toNat_lt e, trivial⟩ rfl (fun W g => ?_)) h
  refine (raw3D (g 25 6 61 rfl)).trans ?_
  simp only [decodeMajor3D, fixedAt, field_of_bits (x := n) (g 0 8 _ rfl), g 8 5 0 rfl, field_of_bits (x := a) (g 13 7 _ rfl), g 20 5 1 rfl, bitAt_of_bits (g 31 1 _ rfl), if_true, and_self]
theorem sret (e) : Statement (.sret e) := by
  intro h v hv
  cases Option.some.inj hv
  refine decodeWord_of_raw (of_fields (P := fun W => decodeRaw W = some (.sret e)) [(20, 0), (5, 2), (6, 61), (1, e.toNat)] ⟨by decide, by decide, by decide, Bool.toNat_lt e, trivial⟩ rfl (fun W g => ?_)) h
  refine (raw3D (g 25 6 61 rfl)).trans ?_
  simp only [decodeMajor3D, fixedAt, g 0 20 0 rfl, g 20 5 2 rfl, bitAt_of_bits (g 31 1 _ rfl), if_true, and_self]
theorem rwld (e a b) : Statement (.rwld e a b) := by
  intro h v hv
  cases Option.some.inj hv
  refine decodeWord_of_raw (of_fields (P := fun W => decodeRaw W = some (.rwld e a b)) [(6, 0), (7, b.toNat), (7, a.toNat), (5, 3), (6, 61), (1, e.toNat)] ⟨by decide, b.isLt, a.isLt, by decide, by decide, Bool.toNat_lt e, trivial⟩ rfl (fun W g => ?_)) h
  refine (raw3D (g 25 6 61 rfl)).trans ?_
  simp only [decodeMajor3D, fixedAt, g 0 6 0 rfl, field_of_bits (x := b) (g 6 7 _ rfl), field_of_bits (x := a) (g 13 7 _ rfl), g 20 5 3 rfl, bitAt_of_bits (g 31 1 _ rfl), if_true, and_self]
theorem rwctl (e k) : Statement (.rwctl e k) := by
  intro h v hv
  cases Option.some.inj hv
  refine decodeWord_of_raw (of_fields (P := fun W => decodeRaw W = some (.rwctl e k)) [(3, k.toNat), (17, 0), (5, 4), (6, 61), (1, e.toNat)] ⟨k.isLt, by decide, by decide, by decide, Bool.toNat_lt e, trivial⟩ rfl (fun W g => ?_)) h
  refine (raw3D (g 25 6 61 rfl)).trans ?_
  simp only [decodeMajor3D, fixedAt, field_of_bits (x := k) (g 0 3 _ rfl), g 3 17 0 rfl, g 20 5 4 rfl, bitAt_of_bits (g 31 1 _ rfl), if_true, and_self]
theorem tinv (e a b) : Statement (.tinv e a b) := by
  intro h v hv
  cases Option.some.inj hv
  refine decodeWord_of_raw (of_fields (P := fun W => decodeRaw W = some (.tinv e a b)) [(6, 0), (7, b.toNat), (7, a.toNat), (5, 5), (6, 61), (1, e.toNat)] ⟨by decide, b.isLt, a.isLt, by decide, by decide, Bool.toNat_lt e, trivial⟩ rfl (fun W g => ?_)) h
  refine (raw3D (g 25 6 61 rfl)).trans ?_
  simp only [decodeMajor3D, fixedAt, g 0 6 0 rfl, field_of_bits (x := b) (g 6 7 _ rfl), field_of_bits (x := a) (g 13 7 _ rfl), g 20 5 5 rfl, bitAt_of_bits (g 31 1 _ rfl), if_true, and_self]
theorem kvapp (e a v d) : Statement (.kvapp e a v d) := by
  intro h v hv
  cases Option.some.inj hv
  refine decodeWord_of_raw (of_fields (P := fun W => decodeRaw W = some (.kvapp e a v d)) [(6, d.toNat), (7, v.toNat), (7, a.toNat), (5, 6), (6, 61), (1, e.toNat)] ⟨d.isLt, v.isLt, a.isLt, by decide, by decide, Bool.toNat_lt e, trivial⟩ rfl (fun W g => ?_)) h
  refine (raw3D (g 25 6 61 rfl)).trans ?_
  simp only [decodeMajor3D, fixedAt, field_of_bits (x := d) (g 0 6 _ rfl), field_of_bits (x := v) (g 6 7 _ rfl), field_of_bits (x := a) (g 13 7 _ rfl), g 20 5 6 rfl, bitAt_of_bits (g 31 1 _ rfl), if_true, and_self]
theorem orderlyWritebackEnd : Statement .orderlyWritebackEnd := fun _ _ h => by cases h
theorem droopRecovery : Statement .droopRecovery := fun _ _ h => by cases h
theorem configurationRequest : Statement .configurationRequest := fun _ _ h => by cases h
theorem portRetrainComplete : Statement .portRetrainComplete := fun _ _ h => by cases h

end Sys2Proof.Laws.RoundTrip
end

