-- ==== Sys2Proof/Safety.lean ====
section
/-! DEFINITION. What counts as a safe run: the machine answers a next state, and every byte memory keeps its canonical form. -/

namespace Sys2Proof

/-- A step that moves the machine on: neither a fault nor a refusal. -/
def Completes (o : Host.Outcome Machine.State Machine.Fault Machine.Refusal) : Prop := ∃ t, o = .next t

/-- A byte memory in its canonical form. -/
abbrev Canonical (m : List Host.Cell) : Prop := Machine.Memory.wf m = true

/-- Every byte memory of the state is canonical: storage with the blocks of its cache layer and their victims, host memory, the key record of the
key window, the local memories and the instruction frames of the cores, and those saved with a swapped-out partition. -/
def MemInv (s : Machine.State) : Prop :=
  Canonical s.hbm.store ∧ (∀ e ∈ s.hbm.layer, ∀ b ∈ e.2, Canonical b.data) ∧ (∀ v ∈ s.hbm.victims, Canonical v.2.data) ∧
  Canonical s.hostMem ∧ Canonical s.fab.kwrec ∧
  (∀ k ∈ s.cores, Canonical k.2.lmem ∧ ∀ f ∈ k.2.frames, Canonical f.code) ∧
  (∀ p ∈ s.parts, ∀ v ∈ p.2.saved, Canonical v.lmem ∧ ∀ f ∈ v.frames, Canonical f.code)

end Sys2Proof
end

