-- ==== Sys2Proof/Certificates/Slice0/Obligations.lean ====
section
/-! DEFINITION. The statements of this model for the provers, and the terms they are written in. -/

namespace Sys2Proof.Slice0

open Sys2Proof.Machine

/-! ### Terms -/

/-- An outcome that is a next state. -/
abbrev Next (t : State) : Host.Outcome State Fault Refusal := .next t

/-- The group and the unit that issue at `s`, as a state `t` holds them. -/
def grp (s t : State) : Group := t.group s.cur.1 s.cur.2.1
def unit (s t : State) : IUnit := (grp s t).iunit s.cur.2.2

/-- The clocks run, no orderly reset writes back (R15), and no self-test holds a resource (R10). -/
def runs (s : State) : Prop := s.pkg.clocksStopped = false ∧ s.pkg.phase ≠ .writeBack ∧ s.pkg.windows = []

/-- The unit that issues is a unit of its group, and it is ready. -/
def ready (s : State) : Prop := (grp s s).iunits.any (fun u => u.uid == s.cur.2.2) = true ∧ (unit s s).wait = .ready

/-- Nothing of R251 stops the instruction at decode: fields, mode, run boundary, latches, pending registers. -/
def clean (x : Issue) (s : State) : Prop := decodeTrap x s.ictx.g s.ictx.u = none

/-- The next address in order, with the step of the loop that ends here (R266), is resident (R130). -/
def nextIn (s : State) : Prop := nextResident s s.cur.1 s.cur.2.1 s.cur.2.2 .seq .ready

/-- An address is resident, or in the segment the unit is in (R130). -/
def targetIn (s : State) (va : Va) : Prop := nextResident s s.cur.1 s.cur.2.1 s.cur.2.2 (.to va) .ready

/-- An instruction issues and its run goes on in order. -/
def issues (x : Issue) (s : State) : Prop := ready s ∧ clean x s ∧ nextIn s

/-- A fixed-latency write that has not landed names a register. -/
def dueS (s : State) (n : Nat) : Prop := ∃ w ∈ (unit s s).due, w.w.namesS n = true
def dueV (s : State) (n : Nat) : Prop := ∃ w ∈ (unit s s).due, w.w.namesV n = true

/-- The two states differ in the issuing unit, the registers of its group, and one cycle of its core's clock, and in nothing
else. -/
def onlyUnit (s t : State) : Prop :=
  t = { s with cores := t.cores } ∧
  (∀ c, c ≠ s.cur.1 → t.core c = s.core c) ∧
  t.core s.cur.1 = { s.core s.cur.1 with groups := (t.core s.cur.1).groups, clk := (s.core s.cur.1).clk + 1 } ∧
  (∀ sl, sl ≠ s.cur.2.1 → t.group s.cur.1 sl = s.group s.cur.1 sl) ∧
  grp s t = { grp s s with sregs := (grp s t).sregs, vregs := (grp s t).vregs, iunits := (grp s t).iunits } ∧
  (∀ uid, uid ≠ s.cur.2.2 → (grp s t).iunit uid = (grp s s).iunit uid)

/-- As `onlyUnit`, and further fields of the group may differ: those that `f` resets to their values in `s`. -/
def onlyUnitBut (f : Group → Group → Group) (s t : State) : Prop :=
  t = { s with cores := t.cores } ∧
  (∀ c, c ≠ s.cur.1 → t.core c = s.core c) ∧
  t.core s.cur.1 = { s.core s.cur.1 with groups := (t.core s.cur.1).groups, clk := (s.core s.cur.1).clk + 1 } ∧
  (∀ sl, sl ≠ s.cur.2.1 → t.group s.cur.1 sl = s.group s.cur.1 sl) ∧
  f (grp s s) (grp s t) = { grp s s with sregs := (grp s t).sregs, vregs := (grp s t).vregs, iunits := (grp s t).iunits } ∧
  (∀ uid, uid ≠ s.cur.2.2 → (grp s t).iunit uid = (grp s s).iunit uid)

/-- The registers that no write in flight and no destination of the instruction names hold what they held. -/
def keepsS (s t : State) (d : Nat → Prop) : Prop := ∀ n, ¬ d n → ¬ dueS s n → (grp s t).sreg n = (grp s s).sreg n
def keepsV (s t : State) (d : Nat → Prop) : Prop := ∀ n, ¬ d n → ¬ dueV s n → (grp s t).vreg n = (grp s s).vreg n

/-- Where a unit stands after an instruction of a run that goes on in order (R112, R114, R266): the program counter and the
loops step, the position moves or the run ends. -/
def inOrder (s t : State) (e : Bool) : Prop :=
  (unit s t).pc = (loopStep (unit s s).pc (unit s s).loops).1 ∧ (unit s t).loops = (loopStep (unit s s).pc (unit s s).loops).2 ∧
  (unit s t).pos = (if e then 0 else (unit s s).pos + 1) ∧ (unit s t).wait = .ready

/-! ### Scalar results -/

/-- What a scalar-result instruction is: its boundary bit, W, its destination, its fields, its latency and its result. -/
structure SForm where
  e : Bool
  w : Bool
  d : BitVec 7
  fields : List Field
  lat : Nat
  value : Ictx → Dword

def s2 (e w : Bool) (d a b : BitVec 7) (f : Dword → Dword → Dword) : Option SForm :=
  some ⟨e, w, d, [sDstF d, sSrcF a, sSrcF b], 1, fun x => f (x.readS a) (x.readS b)⟩
def s1 (e w : Bool) (d a : BitVec 7) (f : Dword → Dword) : Option SForm :=
  some ⟨e, w, d, [sDstF d, sSrcF a], 1, fun x => f (x.readS a)⟩

/-- The conditions of R258, by their fn codes. -/
def condTable {w : Nat} (c : BitVec 3) (x y : BitVec w) : Bool :=
  match c.toNat with
  | 0 => decide (x = y)
  | 1 => decide (x ≠ y)
  | 2 => decide (x.toInt < y.toInt)
  | 3 => decide (x.toInt ≤ y.toInt)
  | 4 => decide (x.toNat < y.toNat)
  | 5 => decide (x.toNat ≤ y.toNat)
  | _ => decide (x &&& y ≠ 0)

/-- The results of the scalar families (R256 to R260), of `rcnt` (R270), `ptrd` (R300) and `rdsr` (R351). -/
def scalarSpec : Instr → Option SForm
  | .sadd e w d a b => s2 e w d a b (fun x y => x + y)
  | .ssub e w d a b => s2 e w d a b (fun x y => x - y)
  | .smul e w d a b => s2 e w d a b (fun x y => x * y)
  | .smulh e w d a b => s2 e w d a b (fun x y => ((x.signExtend 128 * y.signExtend 128) >>> 64).setWidth 64)
  | .sand e w d a b => s2 e w d a b (fun x y => x &&& y)
  | .sor e w d a b => s2 e w d a b (fun x y => x ||| y)
  | .sxor e w d a b => s2 e w d a b (fun x y => x ^^^ y)
  | .sandn e w d a b => s2 e w d a b (fun x y => x &&& ~~~y)
  | .sshl e w d a b => s2 e w d a b (fun x y => x <<< (y.toNat % 64))
  | .sshr e w d a b => s2 e w d a b (fun x y => x >>> (y.toNat % 64))
  | .ssra e w d a b => s2 e w d a b (fun x y => x.sshiftRight (y.toNat % 64))
  | .smin e w d a b => s2 e w d a b (fun x y => if x.toInt ≤ y.toInt then x else y)
  | .smax e w d a b => s2 e w d a b (fun x y => if x.toInt ≤ y.toInt then y else x)
  | .sminu e w d a b => s2 e w d a b (fun x y => if x.toNat ≤ y.toNat then x else y)
  | .smaxu e w d a b => s2 e w d a b (fun x y => if x.toNat ≤ y.toNat then y else x)
  | .sclz e w d a => s1 e w d a (fun x => d64 ((List.range 64).takeWhile (fun i => !x.getLsbD (63 - i))).length)
  | .saddi e w d a i => s1 e w d a (fun x => x + i.signExtend 64)
  | .sandi e w d a i => s1 e w d a (fun x => x &&& i.signExtend 64)
  | .sori e w d a i => s1 e w d a (fun x => x ||| i.signExtend 64)
  | .sxori e w d a i => s1 e w d a (fun x => x ^^^ i.signExtend 64)
  | .sshli e w d a n => s1 e w d a (fun x => x <<< n.toNat)
  | .sshri e w d a n => s1 e w d a (fun x => x >>> n.toNat)
  | .ssrai e w d a n => s1 e w d a (fun x => x.sshiftRight n.toNat)
  | .sroti e w d a n => s1 e w d a (fun x => x.rotateRight n.toNat)
  | .scmp e w d a b c => s2 e w d a b (fun x y => if condTable c x y then 1 else 0)
  | .smov e w d a => s1 e w d a id
  | .sfromv e w d a b => some ⟨e, w, d, [sDstF d, vSrcF a, sSrcF b], 6, fun x => d64 ((x.readV a).getD ((x.readS b).toNat % 32) 0).toNat⟩
  | .ssel e w d a b => some ⟨e, w, d, [sDstF d, sSrcF a, sSrcF b], 1, fun x => if x.g.sreg d.toNat = 0 then x.readS b else x.readS a⟩
  | .sext e w d a b => s2 e w d a b (fun x y => (x <<< (63 - y.toNat % 64)).sshiftRight (63 - y.toNat % 64))
  | .spopc e w d a => s1 e w d a (fun x => d64 ((List.range 64).filter (fun i => x.getLsbD i)).length)
  | .smovi e w d i => some ⟨e, w, d, [sDstF d], 1, fun _ => i.signExtend 64⟩
  | .rcnt e w d => some ⟨e, w, d, [sDstF d], 1, fun x => d64 x.g.units⟩
  | .ptrd e w d a => some ⟨e, w, d, [sDstF d, vSrcF a], 1, fun x => d64 (x.g.readTag x.u a.toNat).toNat⟩
  | .rdsr e d n => some ⟨e, false, d, [sDstF d], 1, fun x => x.readSys n.toNat⟩
  | _ => none

/-- Where a scalar result of a latency is after the instruction: a one-slot result in its register, a longer one due; at a run
boundary it has landed; with W there is no register write; the latch holds it whatever W is. -/
def scalarLeft (s t : State) (f : SForm) (v : Dword) : Prop :=
  (f.w = false → f.lat = 1 → (f.e = true → ¬ dueS s f.d.toNat) → (grp s t).sreg f.d.toNat = v) ∧
  (f.w = false → f.lat ≠ 1 → f.e = false → { left := f.lat - 1, w := .s f.d.toNat v } ∈ (unit s t).due) ∧
  (f.w = false → f.e = true → ¬ dueS s f.d.toNat → (grp s t).sreg f.d.toNat = v) ∧
  (f.e = false → (unit s t).chain.head? = some { lat := f.lat, vec := false, val := v }) ∧
  (f.e = true → (unit s t).due = [] ∧ (unit s t).chain = [])

end Sys2Proof.Slice0

open Sys2Proof Sys2Proof.Machine Sys2Proof.Slice0

/-! ### Encoding and stepping -/

/-- Decoding the word of a legal instruction gives it back, for every instruction and every operand value (R238 to R250). -/
def Obligations.RoundTrip : Prop := ∀ i, Laws.RoundTrip.Statement i

/-- A word that decodes to an instruction is the word of that instruction: every bit of a legal word is used (R238, R251). -/
def Obligations.WordIsUnique : Prop := ∀ w i, decodeWord w = .ok i → encode i = some w

/-- A step with an issue turn runs the instruction that the chosen unit's word decodes to (R102, R251): what settles on the core
settles, what stalled units wait for goes on, the unit is chosen, and its word is executed. -/
def Sys2Proof.Slice0.stepRunsDecodedPart : Prop :=
  ∀ (s s' : State) (c q : Nat) (ts : List Turn) (w : Word) (i : Instr),
    runs s → s.turns = .issue c q :: ts → (({ s with turns := ts }.settle c).progress c q).select c q = some (s', some w) →
    decodeWord w = .ok i → step s = exec i s'

/-- With no turn scheduled the focus issues (log 1). -/
def Sys2Proof.Slice0.stepRunsFocusPart : Prop :=
  ∀ (s s' : State) (w : Word) (i : Instr),
    runs s → s.turns = [] → ((s.settle s.focus.1).progress s.focus.1 s.focus.2).select s.focus.1 s.focus.2 = some (s', some w) →
    decodeWord w = .ok i → step s = exec i s'

/-- A step with an event turn is the event, with its operands (log 1). -/
def Sys2Proof.Slice0.stepRunsEventPart : Prop :=
  ∀ (s : State) (i : Instr) (a : EventArgs) (ts : List Turn),
    s.pkg.clocksStopped = false → s.pkg.windows = [] → s.turns = .event i a :: ts → encode i = none → step s = exec i { s with turns := ts, args := a }

/-- A turn that another one of its own order comes before (R44, R72). -/
def Sys2Proof.Slice0.comesBehind (t u : Turn) : Bool := t.line.isSome && u.line == t.line

/-- Nothing issues while an orderly reset writes back (R15), nor on a core that a self-test holds; an event that would reach a resource that is out of
service, a packet on a lane that is, stalls and comes again, nothing lost, packets of one port and BAR accesses of one function in their order (R10, R44, R72, log 100). -/
def Sys2Proof.Slice0.stepStallsPart : Prop :=
  (∀ (s : State) (c q : Nat) (ts : List Turn), s.pkg.clocksStopped = false → s.turns = .issue c q :: ts →
    (s.pkg.phase = .writeBack → step s = Next { s with turns := ts }) ∧
    (s.pkg.phase ≠ .writeBack → s.coreOut c = true → step s = Next ({ s with turns := ts }.cycle c))) ∧
  (∀ (s t : State) (i : Instr) (a : EventArgs) (ts : List Turn), s.pkg.clocksStopped = false → s.pkg.windows ≠ [] → s.turns = .event i a :: ts → encode i = none →
    -- it comes again after the others, but before those of its own order: packets of its port, BAR accesses of its function
    let again := Next { s with turns := ts.filter (fun u => !comesBehind (.event i a) u) ++ .event i a :: ts.filter (comesBehind (.event i a)) }
    let held := isCoreEvent i = true ∧ s.coreOut a.core = true ∨ ∃ port, (Turn.event i a).arrivesOn = some port ∧ s.laneOut port = true
    (held → step s = again) ∧
    (¬ held → exec i { s with turns := ts, args := a, hbm := { s.hbm with touched := [] } } = Next t →
      (t.reachedOut s.pkg.windows = true → step s = again) ∧
      (t.reachedOut s.pkg.windows = false → step s = Next { t with hbm := { t.hbm with touched := [] } }))) ∧
  (∀ (s t : State) (c q : Nat) (ts : List Turn), s.pkg.clocksStopped = false → s.pkg.phase ≠ .writeBack → s.pkg.windows ≠ [] → s.coreOut c = false → s.turns = .issue c q :: ts →
    issueOn c q { s with turns := ts, hbm := { s.hbm with touched := [] } } = Next t →
    (t.reachedOut s.pkg.windows = true → step s = Next ({ s with turns := ts }.cycle c)) ∧
    (t.reachedOut s.pkg.windows = false → step s = Next { t with hbm := { t.hbm with touched := [] } }))

/-- With all clocks stopped nothing moves the device but a cold reset (R8). -/
def Obligations.StoppedClocks : Prop :=
  ∀ s : State, s.pkg.clocksStopped = true →
    (s.turns = [] → step s = .fault .powerOff) ∧
    (∀ t ts, s.turns = t :: ts → t.isColdReset = false → step s = .fault .powerOff) ∧
    (∀ a ts, s.turns = .event .coldReset a :: ts → step s = exec .coldReset { s with turns := ts, args := a })

/-- A step that issues this word takes ILLEGAL_ENCODING at the word's own address, with a TRX that the issuing group gives. -/
def Sys2Proof.Slice0.trapsIllegal (w : Word) (trx : Group → Dword) : Prop :=
  ∀ (s s' : State) (c q : Nat) (ts : List Turn),
    runs s → s.turns = .issue c q :: ts → (({ s with turns := ts }.settle c).progress c q).select c q = some (s', some w) →
    step s = .next (s'.trapNow s'.cur.1 s'.cur.2.1 s'.cur.2.2 0x01 (trx s'.ictx.g) s'.ictx.u.pc s'.ictx.u.pc)

/-- A word that is no instruction traps ILLEGAL_ENCODING (R251). TRX is the word, but where a field of it names a vector register that the group lacks, and none before that field
is illegal by itself, it is that field's value (R131); that such a field comes before a defect of the word's other bits is log 122. -/
def Obligations.IllegalWordTraps : Prop :=
  (∀ (w : Word) (e : DecodeError), decodeWord w = .error e → trapsIllegal w (fun g => illegalTrx g w)) ∧
  (∀ (g : Group) (w : Word), illegalTrx g w = d64 w.toNat ∨ ∃ i, (decodeRaw w = some i ∨ decodeRaw w = none ∧ decodeRaw (w &&& ~~~0x3F8) = some i) ∧
    ∃ pre f post, vectorFields i = pre ++ f :: post ∧ (∀ x ∈ pre, x.bad = false) ∧ f.bad = false ∧ f.isVReg = true ∧ 8 * g.units < f.code + f.regs ∧
      illegalTrx g w = d64 f.code) ∧
  (∀ (g : Group) (w : Word), decodeRaw w = none → decodeRaw (w &&& ~~~0x3F8) = none → illegalTrx g w = d64 w.toNat)

/-! ### Scalar families -/

/-- Every scalar-result instruction completes with the result of its rule, and changes nothing else (R256 to R260, R270, R300,
R351). -/
def Obligations.ScalarResults : Prop :=
  (∀ (i : Instr) (f : SForm) (s : State), scalarSpec i = some f → issues { i := i, e := f.e, fields := f.fields } s →
    ∃ t, exec i s = Next t ∧ scalarLeft s t f (f.value s.ictx) ∧ inOrder s t f.e ∧ onlyUnit s t ∧
      keepsS s t (fun n => f.w = false ∧ n = f.d.toNat) ∧ keepsV s t (fun _ => False)) ∧
  (∀ w : Word, bitsAt w 25 6 = 0x06 → bitsAt w 0 3 = 7 → trapsIllegal w (fun _ => d64 w.toNat))

namespace Sys2Proof.Slice0

open Sys2Proof.Machine

/-! ### Vector results -/

/-- What a vector-result instruction is: boundary bit, W, destination, fields, latency, lanes, ptag, and for a rounding one the format
whose events it counts with its roundings. -/
structure VForm where
  e : Bool
  w : Bool
  d : BitVec 7
  fields : List Field
  lat : Nat
  value : Ictx → List Word
  tag : Ictx → BitVec 16 := fun _ => 0
  evs : Option (Nat × (Ictx → List FpR)) := none

def v2 (e w : Bool) (d a b : BitVec 7) (f : Word → Word → Word) : Option VForm :=
  some { e := e, w := w, d := d, fields := [vDstF d, vSrcF a, vSrcF b], lat := 1, value := fun x => List.zipWith f (x.readV a) (x.readV b) }
def v1 (e w : Bool) (d a : BitVec 7) (f : Word → Word) : Option VForm :=
  some { e := e, w := w, d := d, fields := [vDstF d, vSrcF a], lat := 1, value := fun x => (x.readV a).map f }
/-- Three sources: D is the third. -/
def v3 (e w : Bool) (d a b : BitVec 7) (f : Word → Word → Word → Word) : Option VForm :=
  some { e := e, w := w, d := d, fields := [vDstF d, vSrcF a, vSrcF b], lat := 1,
         value := fun x => List.zipWith (fun p c => f p.1 p.2 c) (List.zip (x.readV a) (x.readV b)) (x.g.vreg d.toNat).lanes }
/-- A rounding instruction: its lanes are its roundings' codes, its events those of the roundings. -/
def vf (e w : Bool) (d : BitVec 7) (fields : List Field) (lat fmt : Nat) (rs : Ictx → List FpR) : Option VForm :=
  some { e := e, w := w, d := d, fields := fields, lat := lat, value := fun x => (rs x).map (fun r => w32 r.1), evs := some (fmt, rs) }
def f2 (e w : Bool) (d a b : BitVec 7) (f : Nat → Machine.Num → Machine.Num → FpR) : Option VForm :=
  vf e w d [vDstF d, vSrcF a, vSrcF b] 4 0 (fun x => List.zipWith (fun p q => f x.mode (f32 p) (f32 q)) (x.readV a) (x.readV b))
/-- A result of a latency that counts no event. -/
def vq (e w : Bool) (d a : BitVec 7) (more : List Field) (lat : Nat) (f : Ictx → List Word → List Word) : Option VForm :=
  some { e := e, w := w, d := d, fields := [vDstF d, vSrcF a] ++ more, lat := lat, value := fun x => f x (x.readV a) }
def vq2 (e w : Bool) (d a b : BitVec 7) (lat : Nat) (f : Word → Word → Nat) : Option VForm :=
  some { e := e, w := w, d := d, fields := [vDstF d, vSrcF a, vSrcF b], lat := lat,
         value := fun x => List.zipWith (fun p q => w32 (f p q)) (x.readV a) (x.readV b) }
/-- Both halves of packed lanes, with the roundings of the low halves and of the high halves. -/
def packedHalf (x : Ictx) (f : FFmt) (op : Nat → Machine.Num → Machine.Num → Machine.Num → FpR) (d a b : BitVec 7) (j : Nat) : List FpR :=
  List.zipWith (fun p c => op x.mode (f.readPlain (laneHalf p.1 j)) (f.readPlain (laneHalf p.2 j)) (f.readPlain (laneHalf c j)))
    (List.zip (x.readV a) (x.readV b)) (x.g.vreg d.toNat).lanes

/-- The results of the vector families (R272 to R282) but for the pairs, of `cvp` (R300), and of the packed maxima (R285). -/
def vectorSpec : Instr → Option VForm
  | .vadd e w d a b => v2 e w d a b (fun x y => x + y)
  | .vsub e w d a b => v2 e w d a b (fun x y => x - y)
  | .vmul e w d a b => v2 e w d a b (fun x y => x * y)
  | .vmulh e w d a b => v2 e w d a b (fun x y => ((x.signExtend 64 * y.signExtend 64) >>> 32).setWidth 32)
  | .vmulhu e w d a b => v2 e w d a b (fun x y => ((x.setWidth 64 * y.setWidth 64) >>> 32).setWidth 32)
  | .vabsd e w d a b => v2 e w d a b (fun x y => if x.toInt ≤ y.toInt then y - x else x - y)
  | .vmin e w d a b => v2 e w d a b (fun x y => if x.toInt ≤ y.toInt then x else y)
  | .vmax e w d a b => v2 e w d a b (fun x y => if x.toInt ≤ y.toInt then y else x)
  | .vminu e w d a b => v2 e w d a b (fun x y => if x.toNat ≤ y.toNat then x else y)
  | .vmaxu e w d a b => v2 e w d a b (fun x y => if x.toNat ≤ y.toNat then y else x)
  | .vand e w d a b => v2 e w d a b (fun x y => x &&& y)
  | .vor e w d a b => v2 e w d a b (fun x y => x ||| y)
  | .vxor e w d a b => v2 e w d a b (fun x y => x ^^^ y)
  | .vandn e w d a b => v2 e w d a b (fun x y => x &&& ~~~y)
  | .vshl e w d a b => v2 e w d a b (fun x y => x <<< (y.toNat % 32))
  | .vshr e w d a b => v2 e w d a b (fun x y => x >>> (y.toNat % 32))
  | .vsra e w d a b => v2 e w d a b (fun x y => x.sshiftRight (y.toNat % 32))
  | .vbfe e w d a b => v2 e w d a b (fun x y =>
      let o := y.toNat % 32
      let n := min (min (y.toNat / 32 % 64) 32) (32 - o)
      (x >>> o) &&& w32 (2 ^ n - 1))
  | .vmad e w d a b => v3 e w d a b (fun x y z => x * y + z)
  | .vsel e w d a b => v3 e w d a b (fun x y z => if z = 0 then y else x)
  | .vclz e w d a _ => v1 e w d a (fun x => w32 ((List.range 32).takeWhile (fun i => !x.getLsbD (31 - i))).length)
  | .vpopc e w d a _ => v1 e w d a (fun x => w32 ((List.range 32).filter (fun i => x.getLsbD i)).length)
  | .vbrev e w d a _ => v1 e w d a (fun x => x.reverse)
  | .vmov e w d a _ => some { e := e, w := w, d := d, fields := [vDstF d, vSrcF a], lat := 1, value := fun x => x.readV a, tag := fun x => x.g.readTag x.u a.toNat }
  | .vaddi e w d a i => v1 e w d a (fun x => x + i.signExtend 32)
  | .vandi e w d a i => v1 e w d a (fun x => x &&& i.signExtend 32)
  | .vori e w d a i => v1 e w d a (fun x => x ||| i.signExtend 32)
  | .vxori e w d a i => v1 e w d a (fun x => x ^^^ i.signExtend 32)
  | .vshli e w d a i => v1 e w d a (fun x => x <<< i.toNat)
  | .vshri e w d a i => v1 e w d a (fun x => x >>> i.toNat)
  | .vsrai e w d a i => v1 e w d a (fun x => x.sshiftRight i.toNat)
  | .vroti e w d a i => v1 e w d a (fun x => x.rotateRight i.toNat)
  | .vmovi e w d i => some { e := e, w := w, d := d, fields := [vDstF d], lat := 1, value := fun _ => List.replicate 32 (i.signExtend 32) }
  | .vcmp e w d a b c => v2 e w d a b (fun x y => if condTable c x y then 1 else 0)
  | .fadd e w d a b => f2 e w d a b (fun m p q => fp32.addR m p q)
  | .fsub e w d a b => f2 e w d a b (fun m p q => fp32.addR m p q.neg)
  | .fmul e w d a b => f2 e w d a b (fun m p q => fp32.mulR m p q)
  | .ffma e w d a b => vf e w d [vDstF d, vSrcF a, vSrcF b] 4 0 (fun x => List.zipWith (fun p c => fp32.fmaR x.mode (f32 p.1) (f32 p.2) (f32 c))
      (List.zip (x.readV a) (x.readV b)) (x.g.vreg d.toNat).lanes)
  | .fscale e w d a b => vf e w d [vDstF d, vSrcF a, vSrcF b] 4 0 (fun x => List.zipWith (fun p q => fscaleBits x.mode p.toNat q.toInt) (x.readV a) (x.readV b))
  | .fmin e w d a b => vq2 e w d a b 4 (fun p q => fp32.minBits p.toNat q.toNat)
  | .fmax e w d a b => vq2 e w d a b 4 (fun p q => fp32.maxBits p.toNat q.toNat)
  | .fabs e w d a _ => vq e w d a [] 4 (fun _ v => v.map (fun p => if (f32 p).isNan then 0x7FC00000 else p &&& 0x7FFFFFFF))
  | .fneg e w d a _ => vq e w d a [] 4 (fun _ v => v.map (fun p => if (f32 p).isNan then 0x7FC00000 else p ^^^ 0x80000000))
  | .fceq e w d a b => vq2 e w d a b 4 (fun p q => if (f32 p).eq (f32 q) then 1 else 0)
  | .fclt e w d a b => vq2 e w d a b 4 (fun p q => if (f32 p).lt (f32 q) then 1 else 0)
  | .fcle e w d a b => vq2 e w d a b 4 (fun p q => if (f32 p).le (f32 q) then 1 else 0)
  | .fcun e w d a b => vq2 e w d a b 4 (fun p q => if (f32 p).isNan || (f32 q).isNan then 1 else 0)
  | .fcpysgn e w d a b => some { e := e, w := w, d := d, fields := [vDstF d, vSrcF a, vSrcF b], lat := 4, value := fun x => List.zipWith (fun p q => if (f32 p).isNan then 0x7FC00000 else (p &&& 0x7FFFFFFF) ||| (q &&& 0x80000000)) (x.readV a) (x.readV b) }
  | .fclass e w d a _ => vq e w d a [] 4 (fun _ v => v.map (fun p => w32 (fclassBits p.toNat)))
  | .frnd e w d a _ => vq e w d a [] 4 (fun x v => v.map (fun p => w32 (frndBits x.mode p.toNat)))
  | .pk2 e w d a b => some { e := e, w := w, d := d, fields := [vDstF d, vSrcF a, vSrcF b], lat := 6, value := fun x => List.zipWith (fun (p q : Word) => (p &&& 0xFFFF) ||| (q <<< 16)) (x.readV a) (x.readV b) }
  | .pk4 e w d a b => vq2 e w d a b 6 (fun p q => laneByte p 0 + laneByte p 2 * 256 + laneByte q 0 * 65536 + laneByte q 2 * 16777216)
  | .pk8 e w d a b => vq2 e w d a b 6 (fun p q => (List.range 4).foldl (fun n j => n + laneNib p (2 * j) * 16 ^ j + laneNib q (2 * j) * 16 ^ (4 + j)) 0)
  | .lshfl e w d a o => vq e w d a [] 6 (fun _ v => (List.range 32).map (fun (i : Nat) => v.getD (((i : Int) + offsetOf o) % 32).toNat 0))
  | .lbfly e w d a o => vq e w d a [] 6 (fun _ v => (List.range 32).map (fun i => v.getD (i ^^^ (offsetOf o).natAbs) 0))
  | .lbcast e w d a b => vq e w d a [vSrcF b] 6 (fun x v => (x.readV b).map (fun j => v.getD (j.toNat % 32) 0))
  | .lvote e w d a => vq e w d a [] 6 (fun x v => List.replicate 32 (w32 ((laneList x.active).foldl (fun n i => if v.getD i 0 != 0 then n + 2 ^ i else n) 0)))
  | .lmin e w d a k => if k.toNat = 2 then vq e w d a [] 6 (fun x v => List.replicate 32 (reduceLanes x.active (fun p q => w32 (fp32.minBits p.toNat q.toNat)) (v.map canonLane)))
      else vq e w d a [] 6 (fun x v => List.replicate 32 (reduceLanes x.active (fun p q => if k.toNat = 1 then (if p.ult q then p else q) else (if p.slt q then p else q)) v))
  | .lmax e w d a k => if k.toNat = 2 then vq e w d a [] 6 (fun x v => List.replicate 32 (reduceLanes x.active (fun p q => w32 (fp32.maxBits p.toNat q.toNat)) (v.map canonLane)))
      else vq e w d a [] 6 (fun x v => List.replicate 32 (reduceLanes x.active (fun p q => if k.toNat = 1 then (if p.ult q then q else p) else (if p.slt q then q else p)) v))
  | .lsum e w d a k => if k.toNat = 2 then vf e w d [vDstF d, vSrcF a] 6 0 (fun x => List.replicate 32 ((treeSum x.mode (laneInputs x.active true (x.readV a))).getD 0 (0, 0)))
      else vq e w d a [] 6 (fun x v => List.replicate 32 (w32 ((laneInputs x.active false v).foldl (fun n r => n + r.1) 0)))
  | .lscan e w d a k => if k.toNat = 2 then vf e w d [vDstF d, vSrcF a] 6 0 (fun x => scanSum x.mode (laneInputs x.active true (x.readV a)))
      else vq e w d a [] 6 (fun x v => (List.range 32).map (fun i => w32 (((laneInputs x.active false v).take (i + 1)).foldl (fun n r => n + r.1) 0)))
  | .cvt e w d a t k m => if t.toNat = 13 then none
      else if t.toNat ≤ 5 then vf e w d [(vDstF d).many 1, vSrcF a] 6 t.toNat (fun x => (x.readV a).map (fun p => convertTo t.toNat m.toNat x.xv x.u.hints.xvq (cvtSource k.toNat x.xv p)))
      else vq e w d a [] 6 (fun x v => v.map (fun p =>
        let r := (convertTo t.toNat m.toNat x.xv x.u.hints.xvq (cvtSource k.toNat x.xv p)).1
        if t.toNat = 10 then w32 r else wInt (readInt t.toNat r)))
  | .cvpF32 e w d a => vf e w d [vDstF d, vSrcF a] 6 0 (fun x => (x.readV a).map (fun p => fp32.round 0 (planarValue (x.g.readTag x.u a.toNat) false p)))
  | .cvpF32m e w d a => vf e w d [vDstF d, vSrcF a] 6 0 (fun x => (x.readV a).map (fun p => fp32.round 0 (planarValue (x.g.readTag x.u a.toNat) true p)))
  | .cvpBf e w d a => vf e w d [vDstF d, vSrcF a] 6 1 (fun x => (x.readV a).map (fun p => bf16.round 0 (planarValue (x.g.readTag x.u a.toNat) false p)))
  | .cvpBfm e w d a => vf e w d [vDstF d, vSrcF a] 6 1 (fun x => (x.readV a).map (fun p => bf16.round 0 (planarValue (x.g.readTag x.u a.toNat) true p)))
  | .bmax2 e w d a b => vq2 e w d a b 4 (fun p q => bf16.maxBits (laneHalf p 0) (laneHalf q 0) + bf16.maxBits (laneHalf p 1) (laneHalf q 1) * 65536)
  | .bmin2 e w d a b => vq2 e w d a b 4 (fun p q => bf16.minBits (laneHalf p 0) (laneHalf q 0) + bf16.minBits (laneHalf p 1) (laneHalf q 1) * 65536)
  | _ => none

/-- The packed arithmetic of R285: format, and the operation of one half. -/
def packedSpec : Instr → Option (Bool × Bool × BitVec 7 × BitVec 7 × BitVec 7 × FFmt × (Nat → Machine.Num → Machine.Num → Machine.Num → FpR))
  | .badd2 e w d a b => some (e, w, d, a, b, bf16, fun m p q _ => bf16.addR m p q)
  | .bmul2 e w d a b => some (e, w, d, a, b, bf16, fun m p q _ => bf16.mulR m p q)
  | .bfma2 e w d a b => some (e, w, d, a, b, bf16, fun m p q c => bf16.fmaR m p q c)
  | .hadd2 e w d a b => some (e, w, d, a, b, fp16, fun m p q _ => fp16.addR m p q)
  | .hmul2 e w d a b => some (e, w, d, a, b, fp16, fun m p q _ => fp16.mulR m p q)
  | .hfma2 e w d a b => some (e, w, d, a, b, fp16, fun m p q c => fp16.fmaR m p q c)
  | _ => none

/-- A register holds `v` in the lanes active at `s`, what it held in the others, and the ptag. -/
def lanesAre (s t : State) (d : Nat) (v : List Word) (tag : BitVec 16) : Prop :=
  (∀ i, i < 32 → s.ictx.active.getLsbD i = true → ((grp s t).vreg d).lanes.getD i 0 = v.getD i 0) ∧
  (∀ i, i < 32 → s.ictx.active.getLsbD i = false → ((grp s t).vreg d).lanes.getD i 0 = ((grp s s).vreg d).lanes.getD i 0) ∧
  ((grp s t).vreg d).ptag = tag

/-- Where a vector result of a latency is after the instruction (R114, R115, R120, R125, R271): as a scalar one, in the active lanes; with no lane
active nothing is written. -/
def vectorLeft (s t : State) (e w : Bool) (d lat : Nat) (v : List Word) (tag : BitVec 16) : Prop :=
  (w = false → s.ictx.active ≠ 0 → lat = 1 → ¬ dueV s d → lanesAre s t d v tag) ∧
  (w = false → s.ictx.active ≠ 0 → lat ≠ 1 → e = false → { left := lat - 1, w := .v d s.ictx.active v tag false } ∈ (unit s t).due) ∧
  (w = false → s.ictx.active ≠ 0 → e = true → ¬ dueV s d → lanesAre s t d v tag) ∧
  (e = false → (unit s t).chain.head? =
    some { lat := lat, vec := true, lanes := blend s.ictx.active v ((grp s s).vreg d).lanes, ptag := (if s.ictx.active = 0 then ((grp s s).vreg d).ptag else tag), low := lowLane s.ictx.active }) ∧
  (e = true → (unit s t).due = [] ∧ (unit s t).chain = [])

/-- Only the issuing unit, its registers and its counts of exceptional events differ. -/
def onlyUnitFx (s t : State) : Prop := onlyUnitBut (fun g h => { h with fxAdds := g.fxAdds }) s t

/-! ### Hints -/

/-- What a hint does to the pending fields of its unit (R243, R244). -/
def hintSpec : Instr → Option (Bool × (Hints → Hints))
  | .nop e => some (e, id)
  | .hintIl e i => some (e, fun h => { h with imm := some (i.signExtend 32) })
  | .hintIh e i => some (e, fun h => { h with imm := some (((h.imm.getD 0) &&& 0x1FFFFF) ||| (i.setWidth 32 <<< 21)) })
  | .hintRnd e x n m => some (e, fun h => { h with rnd := some m.toNat, xvn := n.toNat, xvq := x })
  | .hintMo e sc o => some (e, fun h => { h with mo := some (o.toNat, sc.toNat) })
  | .hintCp e d k p => some (e, fun h => { h with cp := some (p.toNat, k.toNat, d.toNat) })
  | .hintAo e o => some (e, fun h => { h with ao := some o.toNat })
  | .hintRw e => some (e, fun h => { h with rw := true })
  | _ => none

/-! ### Instructions at a flush point -/

/-- The state after the Reckoner window is flushed, which is where an instruction at a flush point acts (R142). -/
def flushed (s : State) : State := s.flush s.cur.1 s.cur.2.1

/-- The scoreboard has room for every command of the window: an instruction at a flush point finds the window empty (R133, R142). -/
def roomy (s : State) : Prop := (flushed s).windowLeft s.cur.1 s.cur.2.1 = false

/-- An instruction at a flush point issues: it passes decode, no TILE_FAULT waits for its group (R153), and the window can be flushed. -/
def issuesFlush (x : Issue) (s : State) : Prop := ready s ∧ clean x s ∧ (grp s s).tileFault = none ∧ roomy s

/-- The unit goes on at an address, its run over: position 0, latches gone, every write landed, nothing pending (R112, R115, R119,
R244). -/
def jumped (s t : State) (va : Va) (loops : List Loop) : Prop :=
  (unit s t).pc = va ∧ (unit s t).loops = loops ∧ (unit s t).pos = 0 ∧ (unit s t).chain = [] ∧ (unit s t).due = [] ∧ (unit s t).hints = {} ∧
  (unit s t).wait = .ready

/-- A target of a displacement in words (R238). -/
def disp {w : Nat} (s : State) (p : BitVec w) : Va := (unit s s).pc + (p.signExtend 57 <<< 2)
/-- A target through a register (R264). -/
def regTarget (s : State) (r : BitVec 7) (p : BitVec 15) : Va := (s.ictx.readS r).setWidth 57 + (p.signExtend 57 <<< 2)

/-- What a jump through a register is: boundary bit, register, displacement, whether it links, whether it waits for a segment. -/
def jumpSpec : Instr → Option (Bool × BitVec 7 × BitVec 15 × Bool)
  | .jmpr e r p => some (e, r, p, false)
  | .callr e r p => some (e, r, p, true)
  | .ret e r => some (e, r, 0, false)
  | .jmpf e r p => some (e, r, p, false)
  | .callf e r p => some (e, r, p, true)
  | _ => none

/-- Bits of `new` in the lanes of the issuing unit, of `old` elsewhere. -/
def unitLanes (s : State) (new old : Word) : Word := (new &&& lanesOf (unit s s).slices) ||| (old &&& ~~~lanesOf (unit s s).slices)
/-- Bit i is lane i of a list. -/
def nonZeroLanes (v : List Word) : Word := w32 ((List.range 32).foldl (fun a i => if v.getD i 0 != 0 then a + 2 ^ i else a) 0)

/-- No streak of another unit of the group has ended without its stamp renewed (R102). -/
def steady (s : State) : Prop :=
  ∀ u ∈ (grp s s).iunits, u.uid ≠ s.cur.2.2 → (16 ≤ u.streak ∨ u.yielded = true) → u.ended = true ∨ u.pos ≠ 0

/-- Only the issuing unit, its registers, and one named field of the group differ. -/
def onlyMasks (s t : State) : Prop := onlyUnitBut (fun g h => { h with masks := g.masks }) s t

end Sys2Proof.Slice0

open Sys2Proof Sys2Proof.Machine Sys2Proof.Slice0

/-! ### Vector families -/

/-- Every vector-result instruction of one destination completes with the lanes of its rule, counts the events of its active lanes, and
changes nothing else (R271 to R282, R285, R300). -/
def Obligations.VectorResults : Prop :=
  (∀ (i : Instr) (f : VForm) (s : State), vectorSpec i = some f → issues { i := i, e := f.e, fields := f.fields } s →
    ∃ t, exec i s = Next t ∧ vectorLeft s t f.e f.w f.d.toNat f.lat (f.value s.ictx) (f.tag s.ictx) ∧ inOrder s t f.e ∧
      (match f.evs with
        | none => onlyUnit s t
        | some (fmt, rs) => onlyUnitFx s t ∧ (grp s t).fxAdds = ((grp s s).countEvents fmt (activeEvents s.ictx.active (rs s.ictx))).fxAdds) ∧
      keepsS s t (fun _ => False) ∧ keepsV s t (fun n => f.w = false ∧ s.ictx.active ≠ 0 ∧ n = f.d.toNat)) ∧
  (∀ w : Word, bitsAt w 25 6 = 0x16 → bitsAt w 0 3 = 7 → trapsIllegal w (fun _ => d64 w.toNat))

/-- Packed 16-bit arithmetic: both halves of each lane rounded once, the events of both halves of each active lane counted (R285). -/
def Obligations.PackedResults : Prop :=
  ∀ (i : Instr) (e w : Bool) (d a b : BitVec 7) (f : FFmt) (op : Nat → Machine.Num → Machine.Num → Machine.Num → FpR) (s : State),
    packedSpec i = some (e, w, d, a, b, f, op) → issues { i := i, e := e, fields := [vDstF d, vSrcF a, vSrcF b] } s →
    ∃ t, exec i s = Next t ∧
      vectorLeft s t e w d.toNat 4 (List.zipWith (fun p q => w32 (p.1 + q.1 * 65536)) (packedHalf s.ictx f op d a b 0) (packedHalf s.ictx f op d a b 1)) 0 ∧
      inOrder s t e ∧ onlyUnitFx s t ∧
      (grp s t).fxAdds = ((grp s s).countEvents f.code (activeEvents s.ictx.active (packedHalf s.ictx f op d a b 0) ++
        activeEvents s.ictx.active (packedHalf s.ictx f op d a b 1))).fxAdds ∧
      keepsS s t (fun _ => False) ∧ keepsV s t (fun n => w = false ∧ s.ictx.active ≠ 0 ∧ n = d.toNat)

/-- The unpacks and `cvt` to I64 write an aligned pair, low part in D, high part in D + 1 (R276, R277). -/
def Obligations.PairResults : Prop :=
  ∀ (e w : Bool) (d a b : BitVec 7) (k m : BitVec 3) (s : State) (i : Instr) (lo hi : List Word),
    (i, lo, hi) ∈ ([
      (Instr.upk2 e w d a b, (s.ictx.readV a).map (fun (p : Word) => p &&& 0xFFFF), (s.ictx.readV a).map (fun (p : Word) => p >>> 16)),
      (.upk4 e w d a b, (s.ictx.readV a).map (fun p => w32 (laneByte p 0 + laneByte p 1 * 65536)), (s.ictx.readV a).map (fun p => w32 (laneByte p 2 + laneByte p 3 * 65536))),
      (.upk8 e w d a b, (s.ictx.readV a).map (fun p => w32 (laneNib p 0 + laneNib p 1 * 256 + laneNib p 2 * 65536 + laneNib p 3 * 16777216)),
        (s.ictx.readV a).map (fun p => w32 (laneNib p 4 + laneNib p 5 * 256 + laneNib p 6 * 65536 + laneNib p 7 * 16777216))),
      (.cvt e w d a 13 k m, (s.ictx.readV a).map (fun p => w32 (convertTo 13 m.toNat s.ictx.xv s.ictx.u.hints.xvq (cvtSource k.toNat s.ictx.xv p)).1),
        (s.ictx.readV a).map (fun p => w32 ((convertTo 13 m.toNat s.ictx.xv s.ictx.u.hints.xvq (cvtSource k.toNat s.ictx.xv p)).1 / 2 ^ 32)))] : List (Instr × List Word × List Word)) →
    issues { i := i, e := e, fields := [(vDstF d).many 2, vSrcF a] } s →
    ∃ t, exec i s = Next t ∧ vectorLeft s t e w d.toNat 6 lo 0 ∧
      (w = false → s.ictx.active ≠ 0 → e = false → { left := 5, w := .v (d.toNat + 1) s.ictx.active hi 0 false } ∈ (unit s t).due) ∧
      (w = false → s.ictx.active ≠ 0 → e = true → ¬ dueV s (d.toNat + 1) → lanesAre s t (d.toNat + 1) hi 0) ∧
      inOrder s t e ∧ onlyUnit s t ∧ keepsS s t (fun _ => False) ∧
      keepsV s t (fun n => w = false ∧ s.ictx.active ≠ 0 ∧ (n = d.toNat ∨ n = d.toNat + 1))

/-- `ptwr` writes a ptag and leaves the lanes; `itset` writes all eight words of an iterator and nothing else (R287, R300). -/
def Obligations.TagsAndIterators : Prop :=
  (∀ (e : Bool) (d a : BitVec 7) (s : State), issues { i := .ptwr e d a, e := e, fields := [vDstF d, sSrcF a] } s → ¬ dueV s d.toNat →
    ∃ t, exec (.ptwr e d a) s = Next t ∧ (grp s t).vreg d.toNat = { (grp s s).vreg d.toNat with ptag := ((s.ictx.readS a).setWidth 16) &&& 0x7FFF } ∧
      inOrder s t e ∧ onlyUnit s t ∧ keepsS s t (fun _ => False) ∧ keepsV s t (fun n => n = d.toNat)) ∧
  (∀ (e : Bool) (n : BitVec 2) (a : BitVec 7) (s : State), issues { i := .itset e n a, e := e, fields := [(sSrcF a).many 8] } s →
    ∃ t, exec (.itset e n a) s = Next t ∧
      (∀ m, m < 8 → (mget [] (grp s t).iters n.toNat).getD m 0 = (grp s s).sreg (a.toNat + m)) ∧
      (∀ k, k ≠ n.toNat → mget [] (grp s t).iters k = mget [] (grp s s).iters k) ∧
      inOrder s t e ∧ onlyUnitBut (fun g h => { h with iters := g.iters, itGens := g.itGens }) s t ∧
      keepsS s t (fun _ => False) ∧ keepsV s t (fun _ => False))

/-- Every hint changes the pending fields of its unit and nothing else; at a run boundary they clear (R243, R244, R255). -/
def Obligations.HintResults : Prop :=
  ∀ (i : Instr) (e : Bool) (f : Hints → Hints) (s : State), hintSpec i = some (e, f) → issues { i := i, e := e, hint := true } s →
    ∃ t, exec i s = Next t ∧ (unit s t).hints = (if e then {} else f (unit s s).hints) ∧ inOrder s t e ∧ onlyUnit s t ∧
      keepsS s t (fun _ => False) ∧ keepsV s t (fun _ => False)

/-! ### Control -/

/-- `br`, `call` and `brc`: where the unit goes on, and the link register (R261, R262). -/
def Sys2Proof.Slice0.branchesPart : Prop :=
  (∀ (e : Bool) (p : BitVec 21) (s : State), issuesFlush { i := .br e p, e := e, mustEnd := true, flush := true } s → targetIn s (disp s p) →
    ∃ t, exec (.br e p) s = Next t ∧ jumped s t (disp s p) (unit s s).loops ∧ onlyUnit (flushed s) t ∧
      keepsS s t (fun _ => False) ∧ keepsV s t (fun _ => False)) ∧
  (∀ (e : Bool) (p : BitVec 21) (s : State), issuesFlush { i := .call e p, e := e, fields := [linkF], mustEnd := true, flush := true } s →
    targetIn s (disp s p) → ¬ dueS s 63 →
    ∃ t, exec (.call e p) s = Next t ∧ jumped s t (disp s p) (unit s s).loops ∧ (grp s t).sreg 63 = ((unit s s).pc + 4).setWidth 64 ∧ onlyUnit (flushed s) t ∧
      keepsS s t (fun n => n = 63) ∧ keepsV s t (fun _ => False)) ∧
  (∀ (e : Bool) (c : BitVec 3) (r : BitVec 7) (p : BitVec 15) (s : State),
    issuesFlush { i := .brc e c r p, e := e, fields := [sSrcF r], mustEnd := true, flush := true } s → targetIn s (disp s p) → nextIn s →
    ∃ t, exec (.brc e c r p) s = Next t ∧ onlyUnit (flushed s) t ∧ keepsS s t (fun _ => False) ∧ keepsV s t (fun _ => False) ∧
      (brcTaken c.toNat (s.ictx.readS r) = true → jumped s t (disp s p) (unit s s).loops) ∧
      (brcTaken c.toNat (s.ictx.readS r) = false → jumped s t (loopStep (unit s s).pc (unit s s).loops).1 (loopStep (unit s s).pc (unit s s).loops).2))

/-- Jumps through a register: an aligned target is where the unit goes on, and a call links (R264); another target traps MISALIGN with TRX the
target. -/
def Sys2Proof.Slice0.registerJumpsPart : Prop :=
  ∀ (i : Instr) (e : Bool) (r : BitVec 7) (p : BitVec 15) (link : Bool) (s : State), jumpSpec i = some (e, r, p, link) →
    issuesFlush { i := i, e := e, fields := (if link then [sSrcF r, linkF] else [sSrcF r]), mustEnd := true, flush := true } s →
    ((regTarget s r p).toNat % 4 = 0 → targetIn s (regTarget s r p) → (link = true → ¬ dueS s 63) →
      ∃ t, exec i s = Next t ∧ jumped s t (regTarget s r p) (unit s s).loops ∧ (link = true → (grp s t).sreg 63 = ((unit s s).pc + 4).setWidth 64) ∧
        onlyUnit (flushed s) t ∧ keepsS s t (fun n => link = true ∧ n = 63) ∧ keepsV s t (fun _ => False)) ∧
    ((regTarget s r p).toNat % 4 ≠ 0 →
      exec i s = Next (((flushed s).takeTrap s.cur.1 s.cur.2.1 s.cur.2.2 0x09 ((regTarget s r p).setWidth 64) (unit s s).pc (unit s s).pc).cycle s.cur.1))

/-- A vector branch: with no slice taking it the unit falls through; with all it jumps; else the slices that take it leave it as a new unit at the
target, and the unit goes on with the others (R109, R263). -/
def Obligations.VectorBranches : Prop :=
  ∀ (e all : Bool) (tst : BitVec 2) (r : BitVec 7) (p : BitVec 15) (s : State) (i : Instr),
    i = (if all then .brvAll e tst r p else .brvAny e tst r p) →
    issuesFlush { i := i, e := e, fields := [vSrcF r], mustEnd := true, flush := true } s → targetIn s (disp s p) → nextIn s →
    let take := slicesTaking all tst.toNat s.ictx.active (unit s s).slices (s.ictx.readV r)
    ∃ t, exec i s = Next t ∧
      (take = 0 → jumped s t (loopStep (unit s s).pc (unit s s).loops).1 (loopStep (unit s s).pc (unit s s).loops).2 ∧ onlyUnit (flushed s) t) ∧
      (take ≠ 0 → take = (unit s s).slices → jumped s t (disp s p) (unit s s).loops ∧ onlyUnit (flushed s) t) ∧
      (take ≠ 0 → take ≠ (unit s s).slices → (∀ u ∈ (grp s s).iunits, u.uid < (grp s s).nextUid) →
        jumped s t (loopStep (unit s s).pc (unit s s).loops).1 (loopStep (unit s s).pc (unit s s).loops).2 ∧
        (unit s t).slices = (unit s s).slices &&& ~~~take ∧
        (let v := (grp s t).iunit (grp s s).nextUid
         v.slices = take ∧ v.pc = disp s p ∧ v.pos = 0 ∧ v.chain = [] ∧ v.hints = {} ∧ v.loops = (unit s s).loops ∧ v.stamp = (unit s s).stamp ∧ v.wait = .ready))

/-- `loop` opens a level, or skips the body on a count of 0; `lbrk` closes the innermost level and goes on after its end, or after itself where none is open (R265, R266). -/
def Obligations.Loops : Prop :=
  (∀ (e : Bool) (r : BitVec 7) (p : BitVec 15) (s : State), issuesFlush { i := .loop e r p, e := e, fields := [sSrcF r], mustEnd := true, flush := true } s →
    let last := (unit s s).pc + (p.setWidth 57 <<< 2)
    ((unit s s).loops.length < 3 → s.ictx.readS r ≠ 0 → targetIn s ((unit s s).pc + 4) →
      ∃ t, exec (.loop e r p) s = Next t ∧ onlyUnit (flushed s) t ∧ keepsS s t (fun _ => False) ∧ keepsV s t (fun _ => False) ∧
        jumped s t ((unit s s).pc + 4) ({ count := (s.ictx.readS r).toNat, start := (unit s s).pc + 4, last := last } :: (unit s s).loops)) ∧
    ((unit s s).loops.length < 3 → s.ictx.readS r = 0 → targetIn s (last + 4) →
      ∃ t, exec (.loop e r p) s = Next t ∧ onlyUnit (flushed s) t ∧ keepsS s t (fun _ => False) ∧ keepsV s t (fun _ => False) ∧
        jumped s t (last + 4) (unit s s).loops) ∧
    (3 ≤ (unit s s).loops.length →
      exec (.loop e r p) s = Next (((flushed s).takeTrap s.cur.1 s.cur.2.1 s.cur.2.2 0x07 0 (unit s s).pc (unit s s).pc).cycle s.cur.1))) ∧
  (∀ (e : Bool) (s : State) (l : Loop) (ls : List Loop), issuesFlush { i := .lbrk e, e := e, mustEnd := true, flush := true } s → (unit s s).loops = l :: ls →
    targetIn s (l.last + 4) →
    ∃ t, exec (.lbrk e) s = Next t ∧ jumped s t (l.last + 4) ls ∧ onlyUnit (flushed s) t ∧ keepsS s t (fun _ => False) ∧ keepsV s t (fun _ => False)) ∧
  -- with no level open it only ends its run
  (∀ (e : Bool) (s : State), issuesFlush { i := .lbrk e, e := e, mustEnd := true, flush := true } s → (unit s s).loops = [] → targetIn s ((unit s s).pc + 4) →
    ∃ t, exec (.lbrk e) s = Next t ∧ jumped s t ((unit s s).pc + 4) [] ∧ onlyUnit (flushed s) t ∧ keepsS s t (fun _ => False) ∧ keepsV s t (fun _ => False))

/-- The mask instructions, in the lanes of the issuing unit only (R268). -/
def Obligations.MaskOps : Prop :=
  ∀ (e : Bool) (n : BitVec 2) (s : State), (grp s s).masks.length = 4 →
    let m := fun (k : Nat) => (grp s s).masks.getD k 0
    let keep := fun (t : State) => inOrder s t e ∧ onlyMasks s t ∧ keepsS s t (fun _ => False) ∧ keepsV s t (fun _ => False)
    (issues { i := .emset e n, e := e, fields := [{ vec := true, code := 96 }] } s →
      ∃ t, exec (.emset e n) s = Next t ∧ keep t ∧
        (grp s t).masks.getD 0 0 = unitLanes s (m 0 &&& nonZeroLanes ((grp s s).readV (unit s s) 96)) (m 0) ∧
        (∀ k, 1 ≤ k → k < 4 → (grp s t).masks.getD k 0 = if k = n.toNat then unitLanes s (m 0) (m k) else m k)) ∧
    (issues { i := .emsave e n, e := e } s →
      ∃ t, exec (.emsave e n) s = Next t ∧ keep t ∧ (∀ k, k < 4 → (grp s t).masks.getD k 0 = if k = n.toNat then unitLanes s (m 0) (m k) else m k)) ∧
    (issues { i := .emload e n, e := e } s →
      ∃ t, exec (.emload e n) s = Next t ∧ keep t ∧ (∀ k, k < 4 → (grp s t).masks.getD k 0 = if k = 0 then unitLanes s (m n.toNat) (m 0) else m k))

/-- `yield` ends the unit's streak; `safe` notes which registers are dead when the group is asked to stop (R102, R104, R267). -/
def Sys2Proof.Slice0.yieldAndSafePart : Prop :=
  (∀ (e : Bool) (s : State), issues { i := .yield e, e := e, mustEnd := true } s →
    ∃ t, exec (.yield e) s = Next t ∧ (unit s t).yielded = true ∧ inOrder s t e ∧ onlyUnit s t ∧ keepsS s t (fun _ => False) ∧ keepsV s t (fun _ => False)) ∧
  (∀ (e : Bool) (o : BitVec 8) (u : BitVec 12) (s : State), issuesFlush { i := .safe e o u, e := e, flush := true } s → nextIn s →
    ∃ t, exec (.safe e o u) s = Next t ∧ inOrder s t e ∧ onlyUnitBut (fun g h => { h with preempt := g.preempt }) (flushed s) t ∧
      ((grp s s).preempt = .requested → (grp s t).preempt = .stopping u o) ∧
      ((grp s s).preempt = .none → (grp s t).preempt = .none) ∧ keepsS s t (fun _ => False) ∧ keepsV s t (fun _ => False))

/-- The units of a group that wait at `regang`, but for the issuing one. -/
def Sys2Proof.Slice0.ganged (s : State) : List IUnit := (grp s s).iunits.filter (fun u => u.uid != s.cur.2.2 && u.wait == .regang)
/-- Some units have merged (R110): one unit goes on for each of their addresses and loop states, with all their slices and no other. -/
def Sys2Proof.Slice0.merged (s t : State) (us : List IUnit) : Prop :=
  (∀ v ∈ (grp s t).live, v.wait = .ready) ∧ (grp s t).live.Pairwise (fun v w => v.pc ≠ w.pc ∨ v.loops ≠ w.loops) ∧
  (∀ u ∈ us, ∃ v ∈ (grp s t).live, v.pc = u.pc ∧ v.loops = u.loops ∧ ∀ b, u.slices.getLsbD b = true → v.slices.getLsbD b = true) ∧
  (∀ v ∈ (grp s t).live, ∀ b, v.slices.getLsbD b = true → ∃ u ∈ us, u.pc = v.pc ∧ u.loops = v.loops ∧ u.slices.getLsbD b = true)

/-- `exit`: the slices of the unit issue nothing more; `regang`: the unit waits, and when no other live unit of the group is elsewhere the wait ends
with every unit of one address and loop state merged (R110, R267). -/
def Sys2Proof.Slice0.unitEndsPart : Prop :=
  (∀ (e : Bool) (s : State), issuesFlush { i := .exit e, e := e, mustEnd := true, flush := true } s →
    (∃ u ∈ (grp s s).iunits, u.uid ≠ s.cur.2.2 ∧ u.wait ≠ .exited ∧ u.wait ≠ .regang) → steady s →
    ∃ t, exec (.exit e) s = Next t ∧ (unit s t).wait = .exited ∧ (unit s t).loops = [] ∧ (unit s t).due = [] ∧ onlyUnit (flushed s) t ∧
      keepsS s t (fun _ => False) ∧ keepsV s t (fun _ => False)) ∧
  (∀ (e : Bool) (s : State), issuesFlush { i := .exit e, e := e, mustEnd := true, flush := true } s →
    (∀ u ∈ (grp s s).iunits, u.uid ≠ s.cur.2.2 → u.wait = .exited) →
    ∃ t, exec (.exit e) s = Next t ∧ (grp s t).live = []) ∧
  (∀ (e : Bool) (s : State), issues { i := .regang e, e := e, mustEnd := true } s → targetIn s ((unit s s).pc + 4) →
    (∃ u ∈ (grp s s).iunits, u.uid ≠ s.cur.2.2 ∧ u.wait ≠ .exited ∧ u.wait ≠ .regang) → steady s →
    ∃ t, exec (.regang e) s = Next t ∧ (unit s t).wait = .regang ∧ (unit s t).pc = (unit s s).pc + 4 ∧ onlyUnit s t) ∧
  (∀ (e : Bool) (s : State), issues { i := .regang e, e := e, mustEnd := true } s → targetIn s ((unit s s).pc + 4) → (grp s s).iunits = [unit s s] →
    ∃ t, exec (.regang e) s = Next t ∧ jumped s t ((unit s s).pc + 4) (unit s s).loops ∧ onlyUnit s t) ∧
  -- every other live unit waits at a `regang`: with the last that comes there, or with the last elsewhere that exits, they merge
  (∀ (e : Bool) (s : State), ((grp s s).iunits.map (·.uid)).Nodup → (∀ u ∈ (grp s s).iunits, u.uid ≠ s.cur.2.2 → u.wait = .exited ∨ u.wait = .regang) →
    (issues { i := .regang e, e := e, mustEnd := true } s → targetIn s ((unit s s).pc + 4) →
      ∃ t, exec (.regang e) s = Next t ∧ merged s t (ganged s ++ [{ unit s s with pc := (unit s s).pc + 4 }])) ∧
    (issuesFlush { i := .exit e, e := e, mustEnd := true, flush := true } s → ∃ t, exec (.exit e) s = Next t ∧ merged s t (ganged s)))

/-- `trap` takes SW_TRAP after it executes: TRX is its payload, TRA its address, and the unit resumes after it (R267, R220). -/
def Obligations.SoftwareTrap : Prop :=
  ∀ (e : Bool) (v : BitVec 20) (s : State), issues { i := .trap e v, e := e, mustEnd := true } s → roomy s → statInTrapBit (grp s s).stat = false → (grp s s).trv ≠ 0 →
    (((s.core s.cur.1).resident (grp s s).part (segOf (b57 ((grp s s).trv.toNat + 64 * 0x20)))).isSome) →
    ∃ t, exec (.trap e v) s = Next t ∧ (grp s t).trc = 0x20 ∧ (grp s t).trx = v.setWidth 64 ∧ (grp s t).tra = (unit s s).pc.setWidth 64 ∧
      (grp s t).stat = (grp s s).stat ||| 3 ∧ (unit s t).pc = b57 ((grp s s).trv.toNat + 64 * 0x20) ∧ (unit s t).pos = 0 ∧
      (grp s t).save.map (fun x => x.resume) = some (loopStep (unit s s).pc (unit s s).loops).1 ∧
      (grp s t).save.map (fun x => x.stat) = some (grp s s).stat

/-- `rgive` gives the top k units to the quarter's pool, which serves the free slots that lack units first; `rclaim` takes k zeroed units or none and answers how many (R131, R132, R270). -/
def Obligations.RegisterUnits : Prop :=
  (∀ (e : Bool) (k : BitVec 4) (s : State), issues { i := .rgive e k, e := e } s → k.toNat < (grp s s).units → s.cur.2.1 < 64 →
    (∀ r, 8 * ((grp s s).units - k.toNat) ≤ r → r < 8 * (grp s s).units → (grp s s).vPending r = false) →
    ∃ t, exec (.rgive e k) s = Next t ∧ (grp s t).units = (grp s s).units - k.toNat ∧
      (let q := (s.core s.cur.1).quarter (quarterOf s.cur.2.1)
       (t.core s.cur.1).quarter (quarterOf s.cur.2.1) = Quarter.fillShort { q with pool := q.pool + k.toNat } ∧
       (q.short = [] → ((t.core s.cur.1).quarter (quarterOf s.cur.2.1)).pool = q.pool + k.toNat)) ∧ inOrder s t e ∧
      keepsS s t (fun _ => False) ∧ keepsV s t (fun _ => False)) ∧
  -- not more units than it has above one: k of n or more is no encoding, whatever else the word breaks (R251, R270)
  (∀ (e : Bool) (k : BitVec 4) (s : State), ready s → (grp s s).units ≤ k.toNat → exec (.rgive e k) s = Next (s.trapNow s.cur.1 s.cur.2.1 s.cur.2.2 0x01 (d64 ((encode (.rgive e k)).getD 0).toNat) (unit s s).pc (unit s s).pc)) ∧
  -- the lowest register of the given units that is pending traps (R270)
  (∀ (e : Bool) (k : BitVec 4) (s : State) (r : Nat), ready s → clean { i := .rgive e k, e := e } s → k.toNat < (grp s s).units →
    8 * ((grp s s).units - k.toNat) ≤ r → r < 8 * (grp s s).units → (grp s s).vPending r = true →
    (∀ q, 8 * ((grp s s).units - k.toNat) ≤ q → q < r → (grp s s).vPending q = false) → exec (.rgive e k) s = Next (s.trapNow s.cur.1 s.cur.2.1 s.cur.2.2 0x04 (d64 r) (unit s s).pc (unit s s).pc)) ∧
  (∀ (e w : Bool) (d : BitVec 7) (k : BitVec 4) (s : State), issues { i := .rclaim e w d k, e := e, fields := [sDstF d] } s → s.cur.2.1 < 64 →
    k.toNat ≤ ((s.core s.cur.1).quarter (quarterOf s.cur.2.1)).pool → (grp s s).units + k.toNat ≤ 12 →
    ∃ t, exec (.rclaim e w d k) s = Next t ∧ (grp s t).units = (grp s s).units + k.toNat ∧
      ((t.core s.cur.1).quarter (quarterOf s.cur.2.1)).pool = ((s.core s.cur.1).quarter (quarterOf s.cur.2.1)).pool - k.toNat ∧
      (∀ r, 8 * (grp s s).units ≤ r → r < 8 * ((grp s s).units + k.toNat) → ¬ dueV s r → (grp s t).vreg r = {}) ∧
      (w = false → (e = true → ¬ dueS s d.toNat) → (grp s t).sreg d.toNat = k.setWidth 64)) ∧
  (∀ (e w : Bool) (d : BitVec 7) (k : BitVec 4) (s : State), issues { i := .rclaim e w d k, e := e, fields := [sDstF d] } s → s.cur.2.1 < 64 →
    (((s.core s.cur.1).quarter (quarterOf s.cur.2.1)).pool < k.toNat ∨ 12 < (grp s s).units + k.toNat) →
    ∃ t, exec (.rclaim e w d k) s = Next t ∧ onlyUnit s t ∧ (w = false → (e = true → ¬ dueS s d.toNat) → (grp s t).sreg d.toNat = 0))

namespace Sys2Proof.Slice0

open Sys2Proof.Machine

/-! ### Asynchronous operations -/

/-- An operation enters its group: next number, address of its instruction, level (R121, R122). -/
def enteredRaw (x : Ictx) (s : State) (o : Op) : State :=
  { s.setGroup x.c x.sl { s.group x.c x.sl with ops := (s.group x.c x.sl).ops ++ [{ o with seq := s.seq, pc := x.u.pc, priv := (s.group x.c x.sl).privileged }] } with
    seq := s.seq + 1 }
/-- As `enteredRaw`, with the pending hints (R244). -/
def entered (x : Ictx) (s : State) (o : Op) : State := enteredRaw x s (o.withHints x.u.hints)
/-- The operation is no release that has to wait for an earlier access which a write-protected page holds (R216). -/
def unheld (x : Ictx) (s : State) (o : Op) : Prop := s.heldBack x.c x.sl (o.withHints x.u.hints) = none

/-- As `entered`; it is performed at once where `now` says so (R202, R210, R333). -/
def enteredNow (x : Ictx) (s : State) (now : Bool) (o : Op) : State :=
  if now || o.so then (entered x s o).performSeq x.c x.sl s.seq else entered x s o

/-- Fewer than 63 operations are in flight on a path (R122). -/
def room (s : State) (path : Nat) : Prop := (grp s s).inFlight path < 63

/-- The instruction has turned `s` into `s1`, and its run goes on in order with no value in its latch (R112, R114, R119). -/
def goesOn (x : Issue) (s s1 : State) : State := completed x s s1 {} [] .seq .ready
/-- The next address is resident once the machine is at `s1` (R130). -/
def nextAt (s s1 : State) : Prop := nextResident s1 s.cur.1 s.cur.2.1 s.cur.2.2 .seq .ready

/-- The instruction traps precisely: nothing of it is done (R220). -/
def trapped (s : State) (cause : Nat) (trx : Dword) : State :=
  s.trapNow s.cur.1 s.cur.2.1 s.cur.2.2 cause trx (unit s s).pc (unit s s).pc

/-- A lane access: its boundary bit, fields, kind, path, width code or operation, bytes per lane, destination, address operands, and
the registers of data it captures. -/
structure LForm where
  e : Bool
  fields : List Field
  kind : OpKind
  path : Nat
  k : Nat
  n : Nat
  d : Nat
  dn : Nat
  a : BitVec 7
  b : BitVec 6
  data : Ictx → List (List Word)

/-- Global accesses (R293, R301). -/
def globalForm : Instr → Option LForm
  | .ldg e d a b k => some ⟨e, [(vDstF d).many (widthRegs k.toNat), vSrcF a, sRegF b], .ldg, 1, k.toNat, widthBytes k.toNat, d.toNat, widthRegs k.toNat, a, b, fun _ => []⟩
  | .stg e d a b k => some ⟨e, [(vSrcF d).many (widthRegs k.toNat), vSrcF a, sRegF b], .stg, 2, k.toNat, widthBytes k.toNat, 0, 0, a, b,
      fun x => x.dataRegs d.toNat (widthRegs k.toNat)⟩
  | .atom e d a b k => some ⟨e, [(vDstF d).many (max (atomReads k.toNat) (atomWrites k.toNat)), vSrcF a, sRegF b], .atom, 2, k.toNat, atomBytes k.toNat, d.toNat,
      atomWrites k.toNat, a, b, fun x => x.dataRegs d.toNat (atomReads k.toNat)⟩
  | _ => none

/-- Local accesses (R294, R301). -/
def localForm : Instr → Option LForm
  | .ldl e d a b k => some ⟨e, [(vDstF d).many (widthRegs k.toNat), vSrcF a, sRegF b], .ldl, 0, k.toNat, widthBytes k.toNat, d.toNat, widthRegs k.toNat, a, b, fun _ => []⟩
  | .stl e d a b k => some ⟨e, [(vSrcF d).many (widthRegs k.toNat), vSrcF a, sRegF b], .stl, 0, k.toNat, widthBytes k.toNat, 0, 0, a, b,
      fun x => x.dataRegs d.toNat (widthRegs k.toNat)⟩
  | .atoml e d a b k => some ⟨e, [(vDstF d).many (atomReads k.toNat), vSrcF a, sRegF b], .atoml, 0, k.toNat, 4, d.toNat, 1, a, b,
      fun x => x.dataRegs d.toNat (atomReads k.toNat)⟩
  | _ => none

/-- Per-thread accesses (R295). -/
def threadForm : Instr → Option LForm
  | .ldt e d a b k => some ⟨e, [(vDstF d).many (widthRegs k.toNat), vSrcF a, sRegF b], .ldt, 1, k.toNat, widthBytes k.toNat, d.toNat, widthRegs k.toNat, a, b, fun _ => []⟩
  | .stt e d a b k => some ⟨e, [(vSrcF d).many (widthRegs k.toNat), vSrcF a, sRegF b], .stt, 2, k.toNat, widthBytes k.toNat, 0, 0, a, b,
      fun x => x.dataRegs d.toNat (widthRegs k.toNat)⟩
  | _ => none

/-- Plane accesses (R296 to R299): `k` is the depth. -/
def planeForm : Instr → Option LForm
  | .ldp e d a b k => some ⟨e, [vDstF d, vSrcF a, (sRegF b).many 2], .ldp, 1, k.toNat, 4, d.toNat, 1, a, b, fun _ => []⟩
  | .ldpr e d a b k => some ⟨e, [vDstF d, vSrcF a, (sRegF b).many 2], .ldpr, 1, k.toNat, 4, d.toNat, 1, a, b, fun x => [(x.g.vreg d.toNat).lanes]⟩
  | .stp e d a b k => some ⟨e, [vSrcF d, vSrcF a, (sRegF b).many 2], .stp, 2, k.toNat, 4, 0, 0, a, b, fun x => [x.readV d]⟩
  | _ => none

/-- The addresses of a form's active lanes: register plus lane, in w bits (R290). -/
def laneAddrs (s : State) (w : Nat) (f : LForm) : List (Nat × Nat) :=
  (laneList s.ictx.active).map (fun i => (i, addOff w ((grp s s).sreg f.b.toNat).toNat ((s.ictx.readV f.a).getD i 0)))

/-- The issue of an access in its form. -/
def LForm.issue (f : LForm) (i : Instr) : Issue := { i := i, e := f.e, fields := f.fields }

/-- A global access as it enters: one request for each 128 B line, or for each location of an atomic (R162, R291, R301). -/
def globalOp (x : Ictx) (f : LForm) (ias : List (Nat × Nat)) (so : List Bool) : Op :=
  { seq := 0, path := f.path, pc := 0, kind := f.kind, k := f.k, d := f.d, dn := f.dn, mask := x.active, addrs := x.sums 57 f.a f.b, ias := spread 32 ias,
    reqs := (groupLanes (requestKey (if f.kind == .atom then 1 else 128) (spread 32 ias)) (laneList x.active)).map (fun l => (0, l)),
    data := f.data x, so := so.contains true, sors := spreadSor 32 ias so }

/-- A local access as it enters: one request for each 128 B line, or for each location of an atomic (R291). -/
def localOp (x : Ictx) (f : LForm) : Op :=
  { seq := 0, path := 0, pc := 0, kind := f.kind, k := f.k, d := f.d, dn := f.dn, mask := x.active, addrs := x.sums 32 f.a f.b,
    reqs := (groupLanes (fun i => if f.kind == .atoml then (x.sums 32 f.a f.b).getD i 0 else (x.sums 32 f.a f.b).getD i 0 / 128) (laneList x.active)).map (fun l => (0, l)),
    data := f.data x }

/-- The places of a per-thread access: lane by piece, each word of 8 and 16 bytes in the next line (R161, R295). -/
def threadAt (s : State) (f : LForm) : List (Nat × Nat) :=
  (laneList s.ictx.active).flatMap (fun i => (List.range (widthRegs f.k)).map (fun q =>
    (i * widthRegs f.k + q, vaMod (threadVa (s.part (grp s s).part) s.cur.1 s.cur.2.1 i ((s.ictx.sums 32 f.a f.b).getD i 0) + 128 * q))))
def threadOp (s : State) (f : LForm) (ias : List (Nat × Nat)) (so : List Bool) : Op :=
  let n := widthRegs f.k
  let ia := spread (32 * n) ias
  { seq := 0, path := f.path, pc := 0, kind := f.kind, k := f.k, d := f.d, dn := f.dn, mask := s.ictx.active,
    addrs := (List.range 32).map (fun i => threadVa (s.part (grp s s).part) s.cur.1 s.cur.2.1 i ((s.ictx.sums 32 f.a f.b).getD i 0)), ias := ia,
    reqs := (List.range n).flatMap (fun q => (groupLanes (fun i => requestKey 128 ia (i * n + q)) (laneList s.ictx.active)).map (fun l => (q, l))),
    data := f.data s.ictx, so := so.contains true, sors := spreadSor (32 * n) ias so }

/-- The block that a plane access names, through its lowest active lane, and the addresses of its words (R296). -/
def planeVa (s : State) (f : LForm) : Nat := (s.ictx.sums 57 f.a f.b).getD (lowLane s.ictx.active) 0
def planeStride (s : State) (f : LForm) : Nat := ((grp s s).sreg (f.b.toNat + 1)).toNat
def planeAt (s : State) (f : LForm) : List (Nat × Nat) := (List.range (f.k + 2)).map (fun w => (w, vaMod (planeVa s f + w * planeStride s f)))
def planeOp (s : State) (f : LForm) (tag : BitVec 16) (ias : List (Nat × Nat)) (so : List Bool) : Op :=
  { seq := 0, path := f.path, pc := 0, kind := f.kind, k := f.k, d := f.d, dn := f.dn, mask := s.ictx.active, addrs := [planeVa s f], ias := ias.map (·.2),
    reqs := [(0, laneList s.ictx.active)], data := f.data s.ictx, ptag := tag, vals := [d64 (planeStride s f)], so := so.contains true, sors := so }
/-- The ptag that `ldpr` refines and `stp` stores. -/
def planeTag (s : State) : Instr → BitVec 16
  | .ldpr _ d _ _ _ => ((grp s s).vreg d.toNat).ptag
  | .stp _ d _ _ _ => (grp s s).readTag (unit s s) d.toNat
  | _ => 0

/-- The needs of an access of its range register (R209). -/
def LForm.need (f : LForm) : Need := { rd := f.kind.reads, wr := f.kind.writes }

/-- A task's store finds its lines free (R219). -/
def unpinned (s : State) (f : LForm) (lines : List Nat) : Prop :=
  f.kind = .stg ∨ f.kind = .stt ∨ f.kind = .stp → (grp s s).isTask = true →
    pinCheck (s.core s.cur.1) s.cur.2.1 (grp s s) lines = .free ∧ (grp s s).pinStall = false

/-- Task and future operations (R334 to R340): boundary bit, fields, kind, destination registers, address with its size and needs, captured values. -/
structure FForm where
  e : Bool
  fields : List Field
  kind : OpKind
  d : BitVec 7
  dn : Nat
  va : Ictx → Option (Nat × Nat × Need)
  vals : Ictx → List Dword

def futureForm : Instr → Option FForm
  | .tspawn e d a b => some ⟨e, [sDstF d, (sSrcF a).many 8, sSrcF b], .tspawn, d, 1, fun _ => none,
      fun x => (List.range 8).map (fun j => x.g.sreg (a.toNat + j)) ++ [x.readS b]⟩
  | .sdec e d a => some ⟨e, [sDstF d, sSrcF a], .sdec, d, 1, fun x => some (vaMod (x.readS a).toNat, 64, { rd := true }), fun _ => []⟩
  | .tqry e d a => some ⟨e, [sDstF d, sSrcF a], .tqry, d, 1, fun _ => none, fun x => [x.readS a]⟩
  | .fres e d a b => some ⟨e, [sDstF d, sSrcF a, sSrcF b], .fres, d, 1, fun x => some (vaMod (x.readS a).toNat / 16 * 16, 16, { rd := true, wr := true }),
      fun x => [x.readS a, x.readS b]⟩
  | .freg e d a b => some ⟨e, [sDstF d, sSrcF a, sSrcF b], .freg, d, 1, fun x => some (vaMod (x.readS a).toNat, 16, { rd := true, wr := true }),
      fun x => [d64 (x.readS b).toNat]⟩
  | .fget e d a b => some ⟨e, [(sDstF d).many 2, sSrcF a, sSrcF b], .fget, d, 2, fun x => some (vaMod (x.readS a).toNat, 16, { rd := true }), fun x => [x.readS b]⟩
  | _ => none

/-- The issuing unit without its pending order: these instructions drop `hint.mo` (R333). -/
def noOrder (x : Ictx) : Ictx := { x with u := { x.u with hints := { x.u.hints with mo := none } } }

/-- Where a task or future operation's address translates: none needed, or aligned and granted. -/
def futurePlace (s : State) (f : FForm) (addr ia : Nat) (so : Bool) : Prop :=
  match f.va s.ictx with
  | none => addr = 0 ∧ ia = 0 ∧ so = false
  | some (a, n, need) => addr = a ∧ a % n = 0 ∧ (s.part (grp s s).part).xlate a n { need with user := !(grp s s).privileged } = .ok (ia, so)

/-- What a waiter's record address must be (R339). -/
def recordOk (s : State) : Instr → Prop
  | .freg _ _ _ b => (s.ictx.readS b).toNat % 64 = 0 ∧ 64 ≤ (s.ictx.readS b).toNat
  | _ => True

/-- The address of the record that a `freg` names. -/
def recordVa (s : State) : Instr → Nat
  | .freg _ _ _ b => vaMod (s.ictx.readS b).toNat
  | _ => 0

def futureOpOf (s : State) (f : FForm) (addr ia : Nat) (so : Bool) : Op :=
  { seq := 0, path := 2, pc := 0, kind := f.kind, d := f.d.toNat, dn := f.dn, dvec := false, addrs := [addr], ias := [ia], reqs := [(0, [])],
    vals := f.vals s.ictx, so := so }

/-- The SFU's functions (R284): a lane's result code and events, by rounding mode. -/
def sfuSpec : Instr → Option (Bool × BitVec 7 × BitVec 7 × (Nat → Nat → FpR))
  | .rcp e d a _ => some (e, d, a, sfuRcp)
  | .rsqrt e d a _ => some (e, d, a, sfuRsqrt)
  | .sqrt e d a _ => some (e, d, a, sfuSqrt)
  | .exp2 e d a _ => some (e, d, a, sfuExp2)
  | .log2 e d a _ => some (e, d, a, sfuLog2)
  | .sin e d a _ => some (e, d, a, sfuSin)
  | .cos e d a _ => some (e, d, a, sfuCos)
  | .tanh e d a _ => some (e, d, a, sfuTanh)
  | _ => none

/-- The priority that a cache hint gives a line (R171, R305). -/
def prioSpec : Instr → Option (Bool × BitVec 7 × BitVec 6 × Nat)
  | .cef e a b => some (e, a, b, 0)
  | .cnm e a b => some (e, a, b, 1)
  | .cel e a b => some (e, a, b, 2)
  | _ => none

/-- The IAs that the active lanes of a cache instruction name: those that a register grants to a read (R305). -/
def hintIas (s : State) (a : BitVec 7) (b : BitVec 6) : List Nat :=
  (laneList s.ictx.active).filterMap (fun i =>
    match (s.part (grp s s).part).xlate ((s.ictx.sums 57 a b).getD i 0) 1 { rd := true, user := !(grp s s).privileged } with
    | .ok (ia, _) => some ia
    | .error _ => none)

/-- A line that an IA names: the ordinary line it lies in, or the plane line of the block that starts there (R305). -/
def namedBy (p : Nat) (ias : List Nat) (l : Line) : Bool :=
  l.part == p && ias.any (fun ia => (!l.plane && l.ia == ia / 128 * 128) || (l.plane && l.ia == ia))

/-- What one active lane of `cpf2` or `cpf1` brings: nothing where no register grants the read (R305). -/
def prefetchLane (one : Bool) (s : State) (a : BitVec 7) (b : BitVec 6) (t : State) (i : Nat) : State :=
  match (t.part (grp s s).part).xlate ((s.ictx.sums 57 a b).getD i 0) 1 { rd := true, user := !(grp s s).privileged } with
  | .ok (ia, so) => prefetchLine one t s.ictx ia so
  | .error _ => t

/-- The ordinary line of an IA, as far as it is of the issuing partition. -/
def ordinaryOf (s : State) (ia : Nat) (l : Line) : Bool := l.part == (grp s s).part && l.ia == ia / 128 * 128 && !l.plane

/-- What the core's L1 holds of the ordinary line of an IA goes, dirty per-thread lines after write-back (R161, R305). -/
def leftL1 (s t : State) (ia : Nat) : State :=
  let t := t.l1Clean s.cur.1 (grp s s).part ia
  if (t.core s.cur.1).l1.any (ordinaryOf s ia) then
    t.setCore s.cur.1 { t.core s.cur.1 with l1 := (t.core s.cur.1).l1.filter (fun l => !ordinaryOf s ia l) } else t
/-- How a cache control instruction asks memory: by the class, deadline and policy of its pending `hint.cp`, by its core as the requester (R30, R243, R244). -/
def asksOf (s t : State) : Acc :=
  let cp := (unit s s).hints.cp.getD (0, 1, 0)
  { part := (grp s s).part, die := dieOf s.cur.1, core := some s.cur.1, pol := cp.1, cls := cp.2.1, stamp := stampFor t.pkg.tick cp.2.2, requester := s.cur.1,
    user := !(grp s s).privileged }
/-- `cinv` of a line: it goes from the core's L1 and from L2, written back (R305). -/
def dropped (s t : State) (ia : Nat) : State := (leftL1 s t ia).invalidate (asksOf s t) s.cur.1 ia
/-- `cwb` of a line: what L1 and L2 have dirty of the lines that the IA names is written back; they stay (R305). -/
def writtenBack (s t : State) (ia : Nat) : State :=
  ((t.l1Clean s.cur.1 (grp s s).part ia).reachSlice (asksOf s t) ia).cleanWhere (namedBy (grp s s).part [ia]) (asksOf s t).forBack
/-- `ctrim` of a plane line to n planes, in L2 and in the core's L1; n = 0 drops it, and the ordinary line (R305). -/
def trimmed (n : BitVec 7) (s t : State) (ia : Nat) : State :=
  let p := (grp s s).part
  let how := (asksOf s t).forBack
  let t := t.l2Trim (asksOf s t) ia n.toNat
  let t := match (t.core s.cur.1).l1Find p ia true none with
    | none => t
    | some l => if n = 0 then t.l1Drop s.cur.1 p ia true
      else if n.toNat < l.depth then t.setCore s.cur.1 ((t.core s.cur.1).l1Put { l with depth := n.toNat }) else t
  if n = 0 then (leftL1 s t ia).flushWhere (ordinaryOf s ia) how else t

/-- The cache control instructions that check ranges: boundary bit, operands, and what they do to a named line. -/
def lineSpec : Instr → Option (Bool × BitVec 7 × BitVec 6 × (State → State → Nat → State))
  | .cinv e a b => some (e, a, b, dropped)
  | .cwb e a b => some (e, a, b, writtenBack)
  | .ctrim e n a b => some (e, a, b, trimmed n)
  | _ => none

end Sys2Proof.Slice0

open Sys2Proof Sys2Proof.Machine Sys2Proof.Slice0

/-! ### Memory -/

/-- Translation (R209): the lowest-numbered valid register whose range holds the unit of a VA serves it, if it grants the access
and holds the last byte too; the IA is the VA moved by the register's offset. -/
def Obligations.Translation : Prop :=
  ∀ (p : Part) (k : Nat) (va n : Nat) (need : Need), k < 16 → va < 2 ^ 57 → 0 < n → n ≤ 65536 →
    let r := mget {} p.ranges k
    (∀ j, j < k → (mget {} p.ranges j).covers va = false) → r.covers va = true →
    (r.grants need = false → p.xlate va n need = .error va) ∧
    (r.grants need = true → vaUnit (va + n - 1) = vaUnit va →
      p.xlate va n need = .ok ((nbits r.off.toNat 16 36 * 65536 + va + 2 ^ 52 * 32 - nbits r.base.toNat 16 41 * 65536) % 2 ^ 52, r.attr.getLsbD 4))

/-- Global loads, stores and atomics enter with every lane's address translated and aligned (R290, R291, R293, R301); a task's stores
and atomics are performed as they issue (R202). -/
def Obligations.GlobalAccesses : Prop :=
  ∀ (i : Instr) (f : LForm) (s : State) (ias : List (Nat × Nat)) (so : List Bool), globalForm i = some f → badOrder (unit s s) f.kind = false →
    ready s → clean (f.issue i) s → s.ictx.active ≠ 0 → room s f.path →
    s.xlateAll (grp s s) f.need f.n (laneAddrs s 57 f) = .ok (ias, so) → (∀ v ∈ laneAddrs s 57 f, v.2 % f.n = 0) →
    unpinned s f ((groupLanes (fun i => (spread 32 ias).getD i 0 / 128) (laneList s.ictx.active)).map (fun l => (spread 32 ias).getD (l.headD 0) 0 / 128)) →
    let s1 := enteredNow s.ictx s ((grp s s).isTask && f.kind != .ldg) (globalOp s.ictx f ias so)
    unheld s.ictx s (globalOp s.ictx f ias so) → nextAt s s1 → exec i s = Next (goesOn (f.issue i) s s1)

/-- Local accesses enter when every lane lies in the window and is aligned (R87, R294); the Reckoner window is flushed first where they
meet it, where no TILE_FAULT waits (R142, R153). -/
def Obligations.LocalAccesses : Prop :=
  ∀ (i : Instr) (f : LForm) (s : State), localForm i = some f → badOrder (unit s s) f.kind = false →
    ready s → clean (f.issue i) s → s.ictx.active ≠ 0 → room s 0 →
    (∀ v ∈ laneAddrs s 32 f, v.2 + f.n ≤ (grp s s).localSize ∧ v.2 % f.n = 0) →
    let meets := (grp s s).windowMeets (s.ictx.sums 32 f.a f.b) (laneList s.ictx.active) f.n
    let s0 := if meets then flushed s else s
    let s1 := entered s.ictx s0 (localOp s.ictx f)
    (meets = true → (grp s s).tileFault = none ∧ roomy s) → unheld s.ictx s0 (localOp s.ictx f) → nextAt s s1 → exec i s = Next (goesOn (f.issue i) s s1)

/-- Per-thread accesses enter at the words of the lanes' own arrays (R161, R295). -/
def Sys2Proof.Slice0.threadAccessesPart : Prop :=
  ∀ (i : Instr) (f : LForm) (s : State) (ias : List (Nat × Nat)) (so : List Bool), threadForm i = some f → badOrder (unit s s) f.kind = false →
    ready s → clean (f.issue i) s → s.ictx.active ≠ 0 → room s f.path →
    (∀ v ∈ laneAddrs s 32 f, v.2 + f.n ≤ 4 * min (s.part (grp s s).part).ptms 16384 ∧ v.2 % f.n = 0) →
    s.xlateAll (grp s s) f.need (if 1 < widthRegs f.k then 4 else f.n) (threadAt s f) = .ok (ias, so) →
    unpinned s f ((threadOp s f ias so).reqs.map (fun r => (threadOp s f ias so).ias.getD (r.2.headD 0 * widthRegs f.k + r.1) 0 / 128)) →
    let s1 := enteredNow s.ictx s ((grp s s).isTask && f.kind == .stt) (threadOp s f ias so)
    (∀ i ∈ laneList s.ictx.active, s.mixesRR (grp s s).part ((List.range (widthRegs f.k)).map (fun q => (threadOp s f ias so).ias.getD (i * widthRegs f.k + q) 0)) = false) →
    unheld s.ictx s (threadOp s f ias so) → nextAt s s1 → exec i s = Next (goesOn (f.issue i) s s1)

/-- Plane accesses enter at the words of the block that the lowest active lane names (R296 to R299). -/
def Sys2Proof.Slice0.planeAccessesPart : Prop :=
  ∀ (i : Instr) (f : LForm) (s : State) (ias : List (Nat × Nat)) (so : List Bool), planeForm i = some f → badOrder (unit s s) f.kind = false →
    ready s → clean (f.issue i) s → s.ictx.active ≠ 0 → room s f.path →
    s.xlateAll (grp s s) f.need 4 (planeAt s f) = .ok (ias, so) →
    planeVa s f % 4 = 0 → planeStride s f ≠ 0 → planeStride s f % 4 = 0 →
    unpinned s f (((ias.map (·.2)).map (· / 128)).eraseDups) →
    let s1 := enteredNow s.ictx s ((grp s s).isTask && f.kind == .stp) (planeOp s f (planeTag s i) ias so)
    s.mixesRR (grp s s).part (ias.map (·.2)) = false → unheld s.ictx s (planeOp s f (planeTag s i) ias so) → nextAt s s1 → exec i s = Next (goesOn (f.issue i) s s1)

/-- With no lane active a lane access does nothing (R125); an address that no register grants traps RANGE_FAULT, a local one beyond its
window LOCAL_RANGE, and a misaligned one MISALIGN, each with TRX the address of the lowest failing lane (R290). -/
def Obligations.AccessTraps : Prop :=
  (∀ (i : Instr) (f : LForm) (s : State), (globalForm i = some f ∨ localForm i = some f ∨ threadForm i = some f ∨ planeForm i = some f) →
    badOrder (unit s s) f.kind = false → issues (f.issue i) s → s.ictx.active = 0 → exec i s = Next (goesOn (f.issue i) s s)) ∧
  (∀ (i : Instr) (f : LForm) (s : State), globalForm i = some f → badOrder (unit s s) f.kind = false → ready s → clean (f.issue i) s → s.ictx.active ≠ 0 →
    (∀ v, s.xlateAll (grp s s) f.need f.n (laneAddrs s 57 f) = .error v → exec i s = Next (trapped s 0x08 (d64 v))) ∧
    (∀ ias so v, s.xlateAll (grp s s) f.need f.n (laneAddrs s 57 f) = .ok (ias, so) → (laneAddrs s 57 f).find? (fun v => v.2 % f.n != 0) = some v →
      exec i s = Next (trapped s 0x09 (d64 v.2)))) ∧
  (∀ (i : Instr) (f : LForm) (s : State) (v : Nat × Nat), localForm i = some f → badOrder (unit s s) f.kind = false → ready s → clean (f.issue i) s →
    s.ictx.active ≠ 0 →
    ((laneAddrs s 32 f).find? (fun v => decide ((grp s s).localSize < v.2 + f.n)) = some v → exec i s = Next (trapped s 0x0A (d64 v.2))) ∧
    ((∀ v ∈ laneAddrs s 32 f, v.2 + f.n ≤ (grp s s).localSize) → (laneAddrs s 32 f).find? (fun v => v.2 % f.n != 0) = some v →
      exec i s = Next (trapped s 0x09 (d64 v.2)))) ∧
  -- per-thread: an offset beyond the array, or a word that no register grants, of the lowest failing lane; then a misaligned lane's first word (R161, R295)
  (∀ (i : Instr) (f : LForm) (s : State), threadForm i = some f → badOrder (unit s s) f.kind = false → ready s → clean (f.issue i) s → s.ictx.active ≠ 0 →
    let fails := fun (v : Nat × Nat) => 4 * min (s.part (grp s s).part).ptms 16384 < v.2 + f.n
    let granted := fun (v : Nat × Nat) => ∃ r, s.xlateAll (grp s s) f.need (if 1 < widthRegs f.k then 4 else f.n) ((List.range (widthRegs f.k)).map (fun q =>
      (q, vaMod (threadVa (s.part (grp s s).part) s.cur.1 s.cur.2.1 v.1 v.2 + 128 * q)))) = .ok r
    (∀ pre v post, laneAddrs s 32 f = pre ++ v :: post → (∀ w ∈ pre, ¬ fails w ∧ granted w) → fails v → exec i s = Next (trapped s 0x08 (d64 v.2))) ∧
    (∀ pre v post a, laneAddrs s 32 f = pre ++ v :: post → (∀ w ∈ pre, ¬ fails w ∧ granted w) → ¬ fails v →
      s.xlateAll (grp s s) f.need (if 1 < widthRegs f.k then 4 else f.n) ((List.range (widthRegs f.k)).map (fun q =>
        (q, vaMod (threadVa (s.part (grp s s).part) s.cur.1 s.cur.2.1 v.1 v.2 + 128 * q)))) = .error a → exec i s = Next (trapped s 0x08 (d64 a))) ∧
    (∀ v, (∀ w ∈ laneAddrs s 32 f, ¬ fails w ∧ granted w) → widthRegs f.k = 1 → (laneAddrs s 32 f).find? (fun w => w.2 % f.n != 0) = some v →
      exec i s = Next (trapped s 0x09 (d64 (threadVa (s.part (grp s s).part) s.cur.1 s.cur.2.1 v.1 (v.2 / 4 * 4)))))) ∧
  -- per-thread, at every width: the first lane whose offset is not aligned, or whose words lie in an RR page and in one of another kind (R200, R295)
  (∀ (i : Instr) (f : LForm) (s : State) (ias : List (Nat × Nat)) (so : List Bool) (pre : List (Nat × Nat)) (v : Nat × Nat) (post : List (Nat × Nat)),
    threadForm i = some f → badOrder (unit s s) f.kind = false → ready s → clean (f.issue i) s → s.ictx.active ≠ 0 →
    (∀ w ∈ laneAddrs s 32 f, w.2 + f.n ≤ 4 * min (s.part (grp s s).part).ptms 16384) →
    s.xlateAll (grp s s) f.need (if 1 < widthRegs f.k then 4 else f.n) (threadAt s f) = .ok (ias, so) →
    let wrong := fun (w : Nat × Nat) => w.2 % f.n ≠ 0 ∨
      s.mixesRR (grp s s).part ((List.range (widthRegs f.k)).map (fun q => (threadOp s f ias so).ias.getD (w.1 * widthRegs f.k + q) 0)) = true
    laneAddrs s 32 f = pre ++ v :: post → (∀ w ∈ pre, ¬ wrong w) → wrong v →
    exec i s = Next (trapped s 0x09 (d64 (threadVa (s.part (grp s s).part) s.cur.1 s.cur.2.1 v.1 (v.2 / 4 * 4))))) ∧
  -- plane accesses: a word that no register grants; then a block that is not aligned, a stride that is 0 or not aligned, or words in an RR page and in one of another kind (R200, R296)
  (∀ (i : Instr) (f : LForm) (s : State), planeForm i = some f → badOrder (unit s s) f.kind = false → ready s → clean (f.issue i) s → s.ictx.active ≠ 0 →
    (∀ v, s.xlateAll (grp s s) f.need 4 (planeAt s f) = .error v → exec i s = Next (trapped s 0x08 (d64 v))) ∧
    (∀ ias so, s.xlateAll (grp s s) f.need 4 (planeAt s f) = .ok (ias, so) →
      planeVa s f % 4 ≠ 0 ∨ planeStride s f = 0 ∨ planeStride s f % 4 ≠ 0 ∨ s.mixesRR (grp s s).part (ias.map (·.2)) = true →
      exec i s = Next (trapped s 0x09 (d64 (planeVa s f)))))

/-- A local load, store or atomic performed (R294, R301): a store of lanes that do not meet writes each lane's bytes little-endian and no other byte;
a load of bytes that are not poisoned gives each lane its own; nothing else of the machine changes. -/
def Sys2Proof.Slice0.localPerformedPart : Prop :=
  ∀ (s : State) (c sl : Nat) (g : Group) (o : Op) (lanes : List Nat),
    (o.kind = .stl → Memory.wf (s.core c).lmem = true → (∀ i ∈ lanes, ∀ j ∈ lanes, i ≠ j → ∀ p < widthBytes o.k, ∀ q < widthBytes o.k,
        g.localPhys (o.addrs.getD i 0 + p) ≠ g.localPhys (o.addrs.getD j 0 + q)) → lanes.Nodup →
      (∀ i ∈ lanes, ∀ p < widthBytes o.k, ∀ q < widthBytes o.k, p ≠ q → g.localPhys (o.addrs.getD i 0 + p) ≠ g.localPhys (o.addrs.getD i 0 + q)) →
      ∃ t, localReq s c sl g o lanes = (t, .done [] []) ∧ t = { s with cores := t.cores } ∧ (∀ k, k ≠ c → t.core k = s.core k) ∧
        t.core c = { s.core c with lmem := (t.core c).lmem, lpoison := (t.core c).lpoison } ∧
        (∀ i ∈ lanes, ∀ p < widthBytes o.k, memByte (t.core c).lmem (g.localPhys (o.addrs.getD i 0 + p)) = (o.laneBytes i 0).getD p 0) ∧
        (∀ a, (∀ i ∈ lanes, ∀ p < widthBytes o.k, a ≠ g.localPhys (o.addrs.getD i 0 + p)) → memByte (t.core c).lmem a = memByte (s.core c).lmem a)) ∧
    (o.kind = .ldl → lanes ≠ [] → (∀ i ∈ lanes, (s.core c).lbad g (o.addrs.getD i 0) (widthBytes o.k) = false) →
      localReq s c sl g o lanes = (s, .done (laneWrites o.d o.dn (lanes.map (fun i => (i, loadWords o.k ((s.core c).lread g (o.addrs.getD i 0) (widthBytes o.k))))) 0 false) [])) ∧
    (o.kind = .atoml → (s.core c).lbad g (o.addrs.getD (lanes.headD 0) 0) 4 = false → (s.group c sl).fxb = 0 →
      let r := atomRun o.k (lanes.map (fun i => (i, o.data.map (fun w => w.getD i 0)))) (leNat ((s.core c).lread g (o.addrs.getD (lanes.headD 0) 0) 4))
      ∃ t, localReq s c sl g o lanes = (t, .done (laneWrites o.d 1 r.2.1 0 false) []) ∧
        (t.core c).lmem = ((s.core c).lwrite g (o.addrs.getD (lanes.headD 0) 0) (leBytes 4 r.1)).lmem)

/-- A write at the home slice of a line that L2 holds (R193): the bytes written read back, every other byte of the line and every other line stands. -/
def Sys2Proof.Slice0.homeWritePerformedPart : Prop :=
  ∀ (s : State) (a : Acc) (l : Line) (ia : Nat) (bs : List Byte), s.l2Find a.part (ia / 128 * 128) false = some l → l.data.length = 128 → l.bad = [] →
    l.writable = true → l.wp = false → (l.ord = 0 ∨ l.ord = 2) → ia % 128 + bs.length ≤ 128 → s.dead a.part (ia / 128 * 128) = false →
    ∃ t m, s.homeWrite a ia bs [] = (t, .ok ()) ∧ t.l2Find a.part (ia / 128 * 128) false = some m ∧ m.data.length = 128 ∧
      (∀ j, j < bs.length → m.data.getD (ia % 128 + j) 0 = bs.getD j 0) ∧
      (∀ j, (j < ia % 128 ∨ ia % 128 + bs.length ≤ j) → m.data.getD j 0 = l.data.getD j 0) ∧
      (∀ p ib, (p ≠ a.part ∨ ib ≠ ia / 128 * 128) → t.l2Find p ib false = s.l2Find p ib false) ∧ (∀ p ib, t.l2Find p ib true = s.l2Find p ib true) ∧
      t.hbm = { s.hbm with touched := t.hbm.touched } ∧ t.hostMem = s.hostMem ∧ t.cores = s.cores

/-- A line of 128 B at a home slice that a write can change at once: cached, clean of poison, writable, not held, of neither SO nor RR page. -/
def openLine (s : State) (p base : Nat) (l : Line) : Prop :=
  s.dead p base = false ∧ s.l2Find p base false = some l ∧ l.data.length = 128 ∧ l.bad = [] ∧ l.writable = true ∧ l.wp = false ∧ (l.ord = 0 ∨ l.ord = 2)
/-- Byte j of a line whose bytes some lanes of an operation write: the highest lane's that covers it, else the old one (R193, R293, R295). -/
def stored (o : Op) (piece : Nat) (lanes : List Nat) (old : List Byte) (j : Nat) : Byte :=
  match lanes.reverse.find? (fun i => decide (o.laneIa i piece % 128 ≤ j) && decide (j < o.laneIa i piece % 128 + (o.laneBytes i piece).length)) with
  | some i => (o.laneBytes i piece).getD (j - o.laneIa i piece % 128) 0
  | none => old.getD j 0
/-- What a load gives a lane from the bytes of its line, those that its task has buffered over them (R202, R292, R295). -/
def loaded (g : Group) (o : Op) (piece : Nat) (l : Line) (i : Nat) : List Word :=
  let bs := overlay g.tbuf (o.laneIa i piece) (bytesAt l.data (o.laneIa i piece % 128) o.spanBytes)
  if 1 < o.pieces then [w32 (leNat bs)] else loadWords o.k bs
/-- Whether a lane reads poison that its task has not buffered over (R34, R202). -/
def readsPoison (g : Group) (o : Op) (piece : Nat) (l : Line) (i : Nat) : Bool :=
  l.bad.contains (o.laneIa i piece % 128 / 64) && !bufCovers g.tbuf (o.laneIa i piece) o.spanBytes
/-- The line that a load sees in L1, its per-thread line for a per-thread load; or, L1 and the far copies holding none, the line in L2, which has what per-thread stores of the
core had left dirty of it (R160, R161, R193, R194). -/
def seenLine (s : State) (c sl : Nat) (g : Group) (o : Op) (base : Nat) (l : Line) : Prop :=
  let own := if o.kind = .ldt then some sl else none
  s.dead g.part base = false ∧ ((s.core c).l1Find g.part base false own = some l ∨
    ((s.core c).l1Find g.part base false own = none ∧ (s.l1Evict c g.part base).dead g.part base = false ∧
      (s.l1Evict c g.part base).far.find? (fun f => f.die == dieOf c && f.part == g.part && f.ia == base) = none ∧
      (s.l1Evict c g.part base).l2Find g.part base false = some l ∧ l.ord ≠ 1))

/-- A global or per-thread load performed (R293, R295): each lane's registers take its bytes from the line that the group sees; poison reaches them as
MEM_POISON; a page that is missing parks the request, and one with no translation reads 0 and reports MEM_FATAL. -/
def Sys2Proof.Slice0.loadsPerformedPart : Prop :=
  ∀ (s : State) (c sl : Nat) (g : Group) (o : Op) (piece : Nat) (lanes : List Nat), (o.kind = .ldg ∨ o.kind = .ldt) → o.dvec = true →
    let base := o.laneIa (lanes.headD 0) piece / 128 * 128
    let r := o.regsOf piece
    (∀ l, seenLine s c sl g o base l → (∀ i ∈ lanes, readsPoison g o piece l i = false) →
      ∃ t, loadReq s c sl g o piece lanes = (t, .done (laneWrites r.1 r.2 (lanes.map (fun i => (i, loaded g o piece l i))) 0 false) [])) ∧
    (∀ l, seenLine s c sl g o base l → (∃ i ∈ lanes, readsPoison g o piece l i = true) →
      ∃ (t : State) (v : Nat → List Word), loadReq s c sl g o piece lanes = (t, .done (laneWrites r.1 r.2 (lanes.map (fun i => (i, v i))) 0 true) [o.report 0x11 (o.laneVa (lanes.headD 0) piece)])) ∧
    (∀ l own, own = (if o.kind = .ldt then some sl else none) → s.dead g.part base = false → (s.core c).l1Find g.part base false own = some l →
      (∀ i ∈ lanes, readsPoison g o piece l i = false) →
      let t := (loadReq s c sl g o piece lanes).1
      t = { s with cores := t.cores, lru := t.lru } ∧ ∀ k, k ≠ c → t.core k = s.core k) ∧
    (∀ own, own = (if o.kind = .ldt then some sl else none) → s.dead g.part base = false → (s.core c).l1Find g.part base false own = none →
      let s0 := s.l1Evict c g.part base
      s0.dead g.part base = false → s0.far.find? (fun f => f.die == dieOf c && f.part == g.part && f.ia == base) = none → s0.l2Find g.part base false = none →
      ((s0.walk g.part base false).2 = .page → (loadReq s c sl g o piece lanes).2 = .page (o.laneIa (lanes.headD 0) piece)) ∧
      ((s0.walk g.part base false).2 = .fatal → (loadReq s c sl g o piece lanes).2 =
        .done (laneWrites r.1 r.2 (lanes.map (fun i => (i, []))) 0 false) [o.report 0x10 (o.laneVa (lanes.headD 0) piece)]))

/-- A global store of a group performed at the home slice (R193, R200, R293), after what earlier per-thread stores of the core left dirty of the line: each byte of the line is the
highest storing lane's, every other byte stands, and the core's L1 copy follows. A task's store is buffered, and changes nothing else (R202). A per-thread store writes its line in L1, whose written chunks are
dirty, and L2 stands (R161, R295). -/
def Sys2Proof.Slice0.storesPerformedPart : Prop :=
  ∀ (s : State) (c sl : Nat) (g : Group) (o : Op) (piece : Nat) (lanes : List Nat),
    let base := o.laneIa (lanes.headD 0) piece / 128 * 128
    let inLine := ∀ i ∈ lanes, o.laneIa i piece / 128 * 128 = base ∧ o.laneIa i piece % 128 + (o.laneBytes i piece).length ≤ 128
    (g.isTask = true → (o.kind = .stg ∨ o.kind = .stt) → ∃ bufs, bufs.length = lanes.length ∧
      (∀ n < lanes.length, ∃ so, bufs[n]? = some (.bytes (o.laneIa (lanes.getD n 0) piece) (o.laneBytes (lanes.getD n 0) piece) so o.ask)) ∧
      storeReq s c sl g o piece lanes = (s.setGroup c sl { g with tbuf := g.tbuf ++ bufs }, .done [] []) ∧
      threadStoreReq s c sl g o piece lanes = storeReq s c sl g o piece lanes) ∧
    (∀ l, g.isTask = false → o.kind = .stg → lanes ≠ [] → inLine → let s0 := s.l1Clean c g.part base
      openLine s0 g.part base l →
      ∃ t m, storeReq s c sl g o piece lanes = (t, .done [] []) ∧ t.l2Find g.part base false = some m ∧ m.data.length = 128 ∧
        (∀ j < 128, m.data.getD j 0 = stored o piece lanes l.data j) ∧ (∀ p ib, (p ≠ g.part ∨ ib ≠ base) → t.l2Find p ib false = s0.l2Find p ib false) ∧
        (∀ p ib, t.l2Find p ib true = s0.l2Find p ib true) ∧ t.hbm = { s0.hbm with touched := t.hbm.touched } ∧ t.hostMem = s0.hostMem ∧
        (∀ k, k ≠ c → t.core k = s0.core k) ∧ t.core c = { s0.core c with l1 := (t.core c).l1 } ∧
        (∀ x, (s0.core c).l1.find? (fun y => y.holdsIa g.part base) = some x → x.data.length = 128 → x.bad = [] →
          ∃ y, (t.core c).l1.find? (fun y => y.holdsIa g.part base) = some y ∧ y.owner = x.owner ∧ ∀ j < 128, y.data.getD j 0 = stored o piece lanes x.data j)) ∧
    (∀ s1 x l, g.isTask = false → o.kind = .stt → lanes ≠ [] → inLine → s.walk g.part base true = (s1, .ok x) → x.wp = false → s1.dead g.part base = false →
      (s1.core c).l1Find g.part base false (some sl) = some l → l.data.length = 128 → l.bad = [] →
      ∃ t m, threadStoreReq s c sl g o piece lanes = (t, .done [] []) ∧ (t.core c).l1Find g.part base false (some sl) = some m ∧
        (∀ j < 128, m.data.getD j 0 = stored o piece lanes l.data j) ∧
        (∀ b < 8, m.dirty.getLsbD b = (l.dirty.getLsbD b || lanes.any (fun i => o.laneIa i piece % 128 / 16 == b))) ∧
        t = { s1 with cores := t.cores, lru := t.lru } ∧ ∀ k, k ≠ c → t.core k = s1.core k)

/-- A global atomic of one location performed at its home slice (R162, R301): the lanes' operations in ascending order change the location and no other byte,
each lane reads what it found, and what the core's own L1 holds of the line goes, after what per-thread stores left dirty of it is written back (R193). -/
def Sys2Proof.Slice0.atomPerformedPart : Prop :=
  ∀ (s : State) (c sl : Nat) (g : Group) (o : Op) (lanes : List Nat) (l : Line), o.kind = .atom →
    let ia := o.laneIa (lanes.headD 0) 0
    let s0 := s.l1Evict c g.part ia
    openLine s0 g.part (ia / 128 * 128) l → ia % 128 + atomBytes o.k ≤ 128 →
    let r := atomRun o.k (lanes.map (fun i => (i, o.data.map (fun w => w.getD i 0)))) (recField l.data (ia % 128) (atomBytes o.k))
    ∃ t m, atomReq s c sl g o lanes = (t, .done (laneWrites o.d (atomWrites o.k) r.2.1 0 false) []) ∧ t.l2Find g.part (ia / 128 * 128) false = some m ∧
      m.data.length = 128 ∧ (∀ j < atomBytes o.k, m.data.getD (ia % 128 + j) 0 = (leBytes (atomBytes o.k) r.1).getD j 0) ∧
      (∀ j, (j < ia % 128 ∨ ia % 128 + atomBytes o.k ≤ j) → m.data.getD j 0 = l.data.getD j 0) ∧
      (∀ p ib, (p ≠ g.part ∨ ib ≠ ia / 128 * 128) → t.l2Find p ib false = s0.l2Find p ib false) ∧ (∀ p ib, t.l2Find p ib true = s0.l2Find p ib true) ∧
      t.hbm = { s0.hbm with touched := t.hbm.touched } ∧ (∀ y ∈ (t.core c).l1, y.holdsIa g.part ia = false) ∧ ∀ k, k ≠ c → t.core k = s0.core k

/-- A plane load or refine of a block that the core's L1 holds deep enough, and a plane store of one that L2 holds (R168, R174, R176, R297 to R299). -/
def Sys2Proof.Slice0.planesPerformedPart : Prop :=
  ∀ (s : State) (c sl : Nat) (g : Group) (o : Op) (lanes : List Nat),
    let h0 := o.ias.getD 0 0
    let pstr := (o.vals.getD 0 0).toNat
    (∀ l, (o.kind = .ldp ∨ o.kind = .ldpr) → (o.ias.take (max 1 o.k + 2)).any (s.dead g.part) = false → (s.core c).l1Find g.part h0 true none = some l →
      l.pstr = pstr → o.k ≤ l.depth → 1 ≤ l.depth →
      let word := planeWord g.tbuf o.ias l
      let h := word 0
      let n := min o.k (hV h)
      let same := o.ptag.getLsbD 13 = true ∧ h % 256 = o.ptag.toNat % 256 ∧ nbit h 13 = o.ptag.getLsbD 14 ∧ tagDepth o.ptag ≤ hV h
      let clean := fun (reads : Nat → Prop) => ∀ w ∈ l.bad, (w = 0 ∨ w < n + 2 ∧ reads w) → bufCovers g.tbuf (o.ias.getD w 0) 4 = true
      ∃ t, t = { s with cores := t.cores, lru := t.lru } ∧ (∀ k, k ≠ c → t.core k = s.core k) ∧
        ((o.kind = .ldp ∨ ¬ same) → clean (fun _ => True) → planeReq s c sl g o lanes =
          (t, .done (laneWrites o.d 1 (lanes.map (fun i => (i, [planarLane word n i]))) (planarTag h n) false) [])) ∧
        (o.kind = .ldpr → same → o.k ≤ tagDepth o.ptag → clean (fun _ => False) → planeReq s c sl g o lanes = (t, .done [] [])) ∧
        -- a refine reads H and the planes that D lacks; poison of no other word concerns it
        (o.kind = .ldpr → same → tagDepth o.ptag < o.k → clean (fun w => tagDepth o.ptag + 2 ≤ w) → ∃ (val : Nat → Word) (tag : BitVec 16), planeReq s c sl g o lanes =
            (t, .done (laneWrites o.d 1 (lanes.map (fun i => (i, [val i]))) tag false) []) ∧ tagDepth tag = max (tagDepth o.ptag) n ∧
          tag.getLsbD 13 = true ∧ tag.getLsbD 14 = o.ptag.getLsbD 14 ∧ tag.toNat % 256 = o.ptag.toNat % 256 ∧
          ∀ i b, b < 32 → (val i).getLsbD b = (((o.data.getD 0 []).getD i (0 : Word)).getLsbD b ||
            (decide (b ≤ 23) && decide (tagDepth o.ptag ≤ 23 - b) && decide (23 - b < n) && nbit (word (25 - b)) i)))) ∧
    (o.kind = .stp →
      let ws := planeWords o.k o.ptag o.mask (o.data.getD 0 [])
      (g.isTask = true → planeReq s c sl g o lanes = (s.setGroup c sl { g with tbuf := g.tbuf ++ [.plane o.ias pstr ws o.sors o.ask] }, .done [] [])) ∧
      (∀ s1 xs l, g.isTask = false → (s.reachSlice (o.acc c sl g true s.pkg.tick) h0).walkWords (o.acc c sl g true s.pkg.tick) 0 (o.ias.take (o.k + 2)) [] = (s1, .ok xs) →
        (∀ x ∈ xs, x.ord ≠ 3) → s1.l2Find g.part h0 true = some l → l.pstr = pstr → o.k ≤ l.depth → o.k ≤ 24 → l.data.length = 104 → l.bad = [] →
        ∃ t m, planeReq s c sl g o lanes = (t, .done [] []) ∧ t.l2Find g.part h0 true = some m ∧ m.depth = o.k ∧ m.pstr = pstr ∧
          (∀ w < o.k + 2, m.word w = ((ws.getD w 0).toNat)) ∧
          (∀ k, k ≠ c → t.core k = s1.core k) ∧
          (∀ x, (s1.core c).l1Find g.part h0 true none = some x → x.pstr = pstr → o.k ≤ x.depth → x.data.length = 104 →
            ∃ y, (t.core c).l1Find g.part h0 true none = some y ∧ y.depth = o.k ∧ ∀ w < o.k + 2, y.word w = (ws.getD w 0).toNat)))

/-- Spawns, joins, queries and futures enter on path 2 (R333 to R340); a task performs them as they issue. An address that no register grants traps RANGE_FAULT, one that is not
aligned, or a waiter's record that is not, MISALIGN (R333, R336, R339, R340). -/
def Obligations.FutureOps : Prop :=
  (∀ (i : Instr) (f : FForm) (s : State) (a n : Nat) (need : Need), futureForm i = some f → ready s → clean { i := i, e := f.e, fields := f.fields } s → f.va s.ictx = some (a, n, need) →
    let x := (s.part (grp s s).part).xlate a n { need with user := !(grp s s).privileged }
    (∀ v, x = .error v → exec i s = Next (trapped s 0x08 (d64 v))) ∧
    (∀ r, x = .ok r → a % n ≠ 0 → exec i s = Next (trapped s 0x09 (d64 a))) ∧
    (∀ r, x = .ok r → a % n = 0 → ¬ recordOk s i → exec i s = Next (trapped s 0x09 (d64 (recordVa s i))))) ∧
  ∀ (i : Instr) (f : FForm) (s : State) (addr ia : Nat) (so : Bool), futureForm i = some f → ready s → clean { i := i, e := f.e, fields := f.fields } s → room s 2 →
    futurePlace s f addr ia so → recordOk s i → unheld (noOrder s.ictx) s (futureOpOf s f addr ia so) →
    let s1 := enteredNow (noOrder s.ictx) s (grp s s).isTask (futureOpOf s f addr ia so)
    nextAt s s1 → exec i s = Next (goesOn { i := i, e := f.e, fields := f.fields } s s1)

/-- `cfetch` enters a load of the 4 KiB segment that its register and displacement name; a segment that no register grants traps (R129, R269). -/
def Obligations.CodeFetch : Prop :=
  ∀ (e : Bool) (r : BitVec 7) (p : BitVec 15) (s : State), ready s → clean { i := .cfetch e r p, e := e, fields := [sSrcF r] } s → room s 5 →
    let t := ((s.ictx.readS r).setWidth 57 + ((p.signExtend 57 : Va) <<< 12)).toNat / 4096 * 4096
    (∀ ia so, (s.part (grp s s).part).xlate t 4096 { rd := true, user := !(grp s s).privileged } = .ok (ia, so) →
      let o : Op := { seq := 0, path := 5, pc := 0, kind := .cfetch, dvec := false, addrs := [t], ias := [ia], reqs := [(0, [])], so := so }
      let s1 := enteredNow s.ictx s false o
      unheld s.ictx s o → nextAt s s1 → exec (.cfetch e r p) s = Next (goesOn { i := .cfetch e r p, e := e, fields := [sSrcF r] } s s1)) ∧
    (∀ v, (s.part (grp s s).part).xlate t 4096 { rd := true, user := !(grp s s).privileged } = .error v → exec (.cfetch e r p) s = Next (trapped s 0x08 (d64 t)))

/-- An SFU instruction takes an entry in its quarter's queue, with the results of its active lanes, and counts their events (R126, R283, R284); with no
lane active it does nothing. -/
def Sys2Proof.Slice0.sfuOpsPart : Prop :=
  ∀ (i : Instr) (e : Bool) (d a : BitVec 7) (f : Nat → Nat → FpR) (s : State), sfuSpec i = some (e, d, a, f) →
    ready s → clean { i := i, e := e, fields := [vDstF d, vSrcF a] } s →
    let q := (s.core s.cur.1).quarter (quarterOf s.cur.2.1)
    let rs := (s.ictx.readV a).map (fun v => f s.ictx.mode v.toNat)
    let o : Op := { seq := s.seq, path := 6, pc := (unit s s).pc, kind := .sfu, d := d.toNat, dn := 1, mask := s.ictx.active, status := .performed,
                    priv := (grp s s).privileged, out := [.v d.toNat s.ictx.active (rs.map (fun r => w32 r.1)) 0 false] }
    let g1 := ({ grp s s with ops := (grp s s).ops ++ [o] }).countEvents 0 (activeEvents s.ictx.active rs)
    (s.ictx.active = 0 → nextIn s → exec i s = Next (goesOn { i := i, e := e, fields := [vDstF d, vSrcF a] } s s)) ∧
    (s.ictx.active ≠ 0 → q.sfu.length < 16 → room s 6 → nextIn s →
      ∃ t, exec i s = Next t ∧ t.seq = s.seq + 1 ∧ (grp s t).ops = g1.ops ∧ (grp s t).fxAdds = g1.fxAdds ∧
        ((t.core s.cur.1).quarter (quarterOf s.cur.2.1)).sfu = q.sfu ++ [(s.cur.2.1, s.seq)] ∧
        (∀ n, n ≠ quarterOf s.cur.2.1 → (t.core s.cur.1).quarter n = (s.core s.cur.1).quarter n) ∧ (∀ c, c ≠ s.cur.1 → t.core c = s.core c) ∧
        inOrder s t e ∧ keepsS s t (fun _ => False) ∧ keepsV s t (fun _ => False))

/-- The oldest entry of a quarter's SFU completes: its register is written, it leaves queue and group (R126). -/
def Sys2Proof.Slice0.sfuCompletesPart : Prop :=
  ∀ (s : State) (n : Nat) (sl : Nat) (rest : List (Nat × Nat)) (o : Op),
    ((s.core s.args.core).quarter s.args.quarter).sfu = (sl, n) :: rest → (s.group s.args.core sl).op n = some o →
    ∃ t, exec .sfuEntryComplete s = Next t ∧ ((t.core s.args.core).quarter s.args.quarter).sfu = rest ∧
      t.group s.args.core sl = (s.group s.args.core sl).retireOp o ∧
      (∀ k, k ≠ sl → t.group s.args.core k = s.group s.args.core k) ∧ (∀ c, c ≠ s.args.core → t.core c = s.core c) ∧ t = { s with cores := t.cores }

/-- `cef`, `cnm` and `cel` set the priority of the lines that the active lanes name, at the home slices and in L1, but an evict-last line stays one; nothing faults (R171,
R305). -/
def Sys2Proof.Slice0.cachePrioritiesPart : Prop :=
  ∀ (i : Instr) (e : Bool) (a : BitVec 7) (b : BitVec 6) (v : Nat) (s : State), prioSpec i = some (e, a, b, v) →
    issues { i := i, e := e, fields := [vSrcF a, sRegF b] } s →
    ∃ t, exec i s = Next t ∧ inOrder s t e ∧
      t.l2 = s.l2.map (fun l => if namedBy (grp s s).part (hintIas s a b) l then { l with prio := if l.prio = 2 then 2 else v } else l) ∧
      (t.core s.cur.1).l1 = (s.core s.cur.1).l1.map (fun l => if namedBy (grp s s).part (hintIas s a b) l then { l with prio := if l.prio = 2 then 2 else v } else l) ∧
      t.hbm = { s.hbm with touched := t.hbm.touched } ∧ (∀ c, c ≠ s.cur.1 → t.core c = s.core c) ∧ keepsS s t (fun _ => False) ∧ keepsV s t (fun _ => False)

/-- `cpf2` and `cpf1` bring the lines that the active lanes name, as far as a register grants them, to the home slices or into L1, lane by lane; nothing faults (R305). -/
def Sys2Proof.Slice0.prefetchesPart : Prop :=
  ∀ (i : Instr) (e one : Bool) (a : BitVec 7) (b : BitVec 6) (s : State), (i = .cpf2 e a b ∧ one = false ∨ i = .cpf1 e a b ∧ one = true) →
    ready s → clean { i := i, e := e, fields := [vSrcF a, sRegF b] } s →
    let s1 := (laneList s.ictx.active).foldl (prefetchLane one s a b) s
    nextAt s s1 → exec i s = Next (goesOn { i := i, e := e, fields := [vSrcF a, sRegF b] } s s1)

/-- `ctrim`, `cinv` and `cwb` act on the lines that the active lanes name, once the group's earlier accesses are performed, and trap RANGE_FAULT for an address that no
register lets be read (R305); with no lane active they do nothing (R125). -/
def Sys2Proof.Slice0.cacheLinesPart : Prop :=
  ∀ (i : Instr) (e : Bool) (a : BitVec 7) (b : BitVec 6) (f : State → State → Nat → State) (s : State), lineSpec i = some (e, a, b, f) →
    ready s → clean { i := i, e := e, fields := [vSrcF a, sRegF b] } s →
    let named := s.xlateAll (grp s s) { rd := true } 1 ((laneList s.ictx.active).map (fun i => (i, (s.ictx.sums 57 a b).getD i 0)))
    (∀ v, named = .error v → exec i s = Next (trapped s 0x08 (d64 v))) ∧
    (s.ictx.active = 0 → nextIn s → exec i s = Next (goesOn { i := i, e := e, fields := [vSrcF a, sRegF b] } s s)) ∧
    (∀ ias so, named = .ok (ias, so) → s.ictx.active ≠ 0 →
      let s0 := s.performAll s.cur.1 s.cur.2.1
      let ahead := fun (o : Op) => o.kind.isMem = true ∧ o.status ≠ .performed ∧ ∃ t ∈ o.touched, ∃ v ∈ ias, v.2 / 128 = t / 128
      let s1 := (ias.map (·.2)).foldl (f s) s0
      ((∀ o ∈ (grp s s0).ops, ¬ ahead o) → nextAt s s1 → exec i s = Next (goesOn { i := i, e := e, fields := [vSrcF a, sRegF b] } s s1)) ∧
      -- an earlier access to one of the lines that waits is waited for (R214, R216, R311); the unit notes which lines
      ((∃ o ∈ (grp s s0).ops, ahead o) →
        exec i s = Next ((s0.setGroup s.cur.1 s.cur.2.1 ((grp s s0).setUnit { unit s s0 with awaits := ias.map (fun v => v.2 / 128) })).cycle s.cur.1)))

namespace Sys2Proof.Slice0

open Sys2Proof.Machine

/-! ### System -/

/-- Bits hi to lo of a value, in place. -/
def field (v : Dword) (hi lo : Nat) : Dword := d64 (v.toNat / 2 ^ lo % 2 ^ (hi + 1 - lo) * 2 ^ lo)

/-- What `wrsr` leaves in the group (R221, R252): register n takes its writable fields from v; every other number names a read-only register. -/
def sysWritten (g : Group) (n : Nat) (v : Dword) : Group :=
  if n = 1 then { g with trc := field v 7 0 }
  else if n = 2 then { g with tra := field v 56 0, save := g.save.map (fun t => { t with traWritten := true }) }
  else if n = 3 then { g with trx := v }
  else if n = 4 then { g with trv := field v 56 12 }
  else if n = 7 then { g with rwp := v.setWidth 3 }
  else if n = 8 then { g with rws := field v 56 6 }
  else if n = 9 then { g with fxb := field v 56 8 }
  else if n = 10 then { g with fxt := field v 31 0 }
  else if n = 16 then { g with xvs := g.xvs.set 0 (v.setWidth 16) }
  else if n = 17 then { g with xvs := g.xvs.set 1 (v.setWidth 16) }
  else if n = 18 then { g with xvs := g.xvs.set 2 (v.setWidth 16) }
  else if n = 19 then { g with xvs := g.xvs.set 3 (v.setWidth 16) }
  else g

/-- No add of the register that `wrsr` is about to change waits for a fault record. -/
def addsLanded (t s : State) (n : Nat) : Prop :=
  ((n = 9 ∨ n = 10) → (grp s t).fxAdds = []) ∧ (n = 8 → (grp s t).rwAdds = [])

/-- What is counted and waits for a register that `wrsr` is about to change is added first (R155, R223). -/
def countsAdded (s : State) (n : Nat) : State :=
  if n = 9 ∨ n = 10 then s.flushFx s.cur.1 s.cur.2.1 else if n = 8 then s.flushRw s.cur.1 s.cur.2.1 else s

/-- A write that lands after the next instruction issues, or at once at a boundary. -/
def dueNext (w : RegWrite) : DueWrite := { left := 1, w := w }

/-- The group that `takeTrap` finds: its window flushed, its SFU entries complete (R127, R142). -/
def settledGroup (s : State) (c sl : Nat) : Group := (drainSfu ((s.flush c sl).core c) sl ((s.flush c sl).group c sl)).2

end Sys2Proof.Slice0

open Sys2Proof Sys2Proof.Machine Sys2Proof.Slice0

/-! ### Traps -/

/-- The decode traps and their order (R251): ILLEGAL_ENCODING, PRIV, BAD_RUN, LATCH_EARLY, PENDING_READ; an instruction that takes one does
nothing else. -/
def Obligations.DecodeTraps : Prop :=
  (∀ (x : Issue) (g : Group) (u : IUnit),
    let word : Dword := d64 ((encode x.i).getD 0).toNat
    (x.illegal = true → illegalField g u word x.fields = none → decodeTrap x g u = some (0x01, word)) ∧
    (∀ v, illegalField g u word x.fields = some v → decodeTrap x g u = some (0x01, v)) ∧
    (∀ f fs, x.fields = f :: fs → f.isVReg = true → 8 * g.units < f.code + f.regs → decodeTrap x g u = some (0x01, d64 f.code)) ∧
    (x.illegal = false → illegalField g u word x.fields = none →
      (x.priv = true → g.stat.getLsbD 0 = false → decodeTrap x g u = some (0x05, word)) ∧
      ((x.priv = true → g.stat.getLsbD 0 = true) →
        (badRun x u = true → decodeTrap x g u = some (0x02, 0)) ∧
        (∀ v, badRun x u = false → earlyField u x.fields = some v → decodeTrap x g u = some (0x03, v)) ∧
        (∀ v, badRun x u = false → earlyField u x.fields = none → pendingField g x.fields = some v → decodeTrap x g u = some (0x04, v)) ∧
        (badRun x u = false → earlyField u x.fields = none → pendingField g x.fields = none → decodeTrap x g u = none)))) ∧
  (∀ (x : Issue) (s : State) (body : Ictx → State → Done) (cause : Nat) (v : Dword),
    ready s → decodeTrap x (grp s s) (unit s s) = some (cause, v) → issue x s body = Next (trapped s cause v))

/-- Taking a trap (R220, R118): TRC, TRA and TRX, PRIV and INTRAP set, what is captured, the registers of the due writes among it, and the handler's address; without a resident
handler, or inside one, the group ends, its units stop, and the management engine is told. A trap is taken in the cycle in which the whole window fits on the scoreboard; until then its unit
stalls (R133, R142). -/
def Obligations.TrapEntry : Prop :=
  (∀ (s : State) (c sl uid cause : Nat) (trx : Dword) (tra resume : Va) (inst : Option Nat),
    ((s.flush c sl).windowLeft c sl = false → s.trapNow c sl uid cause trx tra resume inst = ((s.flush c sl).takeTrap c sl uid cause trx tra resume inst).cycle c) ∧
    ((s.flush c sl).windowLeft c sl = true → s.trapNow c sl uid cause trx tra resume inst = (s.flush c sl).cycle c)) ∧
  ∀ (s : State) (c sl uid cause : Nat) (trx : Dword) (tra resume : Va) (inst : Option Nat),
    let g := settledGroup s c sl
    let t := s.takeTrap c sl uid cause trx tra resume inst
    let u := g.iunit uid
    let target := b57 (g.trv.toNat + 64 * cause)
    let handled := statInTrapBit g.stat = false ∧ g.trv ≠ 0 ∧ ((s.core c).resident g.part (segOf target)).isSome = true
    (t.group c sl).trc = d64 cause ∧ (t.group c sl).tra = tra.setWidth 64 ∧ (t.group c sl).trx = trx ∧
    (t.group c sl).sregs = g.sregs ∧ (t.group c sl).vregs = g.vregs ∧
    (handled → (∃ v ∈ g.iunits, v.uid = uid) → u.uid = uid →
      (t.group c sl).stat = g.stat ||| 3 ∧
      (t.group c sl).iunit uid = { u with pc := target, loops := [], pos := 0, chain := [], hints := {}, due := [], wait := .ready, arrived := false, passed := false, awaits := [] } ∧
      ∃ v, (t.group c sl).save = some v ∧ v.stat = g.stat ∧ v.uid = uid ∧ v.pos = u.pos ∧ v.chain = u.chain ∧ v.hints = u.hints ∧ v.due = u.due ∧ v.loops = u.loops ∧ v.resume = resume ∧
        v.inst = inst ∧ v.arrived = u.arrived ∧ v.passed = u.passed ∧ v.traWritten = false ∧
        -- the contents at entry of the registers that the due writes name, in their order
        v.old.length = u.due.length ∧
        (∀ (j : Nat) (w : DueWrite), u.due[j]? = some w → (∀ n x, w.w = .s n x → v.old[j]? = some (.s n (g.sreg n))) ∧
          (∀ n m ls tag p, w.w = .v n m ls tag p → v.old[j]? = some (.v n 0xFFFFFFFF (g.vreg n).lanes (g.vreg n).ptag (g.vreg n).poison)) ∧
          (∀ n tag, w.w = .tag n tag → v.old[j]? = some (.tag n (g.vreg n).ptag)))) ∧
    (¬ handled → (t.group c sl).ended = some 5 ∧ (∀ v ∈ (t.group c sl).iunits, v.wait = .exited) ∧ (t.group c sl).save = none ∧
      t.pkg.events = s.pkg.events ++ [.trapUnresumed c sl])

/-- The issuing unit's due writes have landed, and its run has counted in its streak, as `sret` leaves them to the trap state (R115, R102). -/
def Sys2Proof.Slice0.dueLanded (s s0 : State) : State :=
  s0.setGroup s.cur.1 s.cur.2.1 ((landAll (grp s s0) (unit s s0).due).setUnit { unit s s0 with due := [], streak := (unit s s).streak + 1 })

/-- `sret` (R352, R118): STAT, run position, latches, hints, open loops and due writes are those at entry, the registers of those writes hold what they held then,
and the unit goes on at the resume point, or at TRA when the handler wrote it; a target in another segment that is not resident traps SEG_ABSENT (R130). -/
def Obligations.TrapReturns : Prop :=
  (∀ (e : Bool) (s : State) (v : TrapSave), issuesFlush { i := .sret e, e := e, priv := true, mustEnd := true, flush := true } s →
    (grp s s).save = some v →
    let target : Va := if v.traWritten then (grp s s).tra.setWidth 57 else v.resume
    (segOf target ≠ segOf (unit s s).pc → (s.core s.cur.1).resident (grp s s).part (segOf target) = none →
      exec (.sret e) s = Next (trapped (flushed s) 0x06 (d64 target.toNat))) ∧
    (v.inst = none → (segOf target = segOf (unit s s).pc ∨ ((s.core s.cur.1).resident (grp s s).part (segOf target)).isSome = true) →
    ∃ t, exec (.sret e) s = Next t ∧ (grp s t).stat = v.stat ∧ (grp s t).save = none ∧
      (unit s t).pc = target ∧ (unit s t).loops = v.loops ∧ (unit s t).pos = v.pos ∧ (unit s t).chain = v.chain ∧
      (unit s t).hints = v.hints ∧ (unit s t).wait = .ready ∧ (unit s t).arrived = v.arrived ∧ (unit s t).passed = v.passed ∧ (v.pos ≠ 0 → (unit s t).due = v.due) ∧ (v.pos = 0 → (unit s t).due = []) ∧
      (grp s t).trc = (grp s s).trc ∧ (grp s t).tra = (grp s s).tra ∧ (grp s t).trx = (grp s s).trx ∧ (grp s t).trv = (grp s s).trv ∧
      (∀ n, ¬ dueS s n → (∀ w ∈ v.old, w.namesS n = false) → (∀ w ∈ v.due, w.w.namesS n = false) → (grp s t).sreg n = (grp s s).sreg n) ∧
      (∀ n, ¬ dueV s n → (∀ w ∈ v.old, w.namesV n = false) → (∀ w ∈ v.due, w.w.namesV n = false) → (grp s t).vreg n = (grp s s).vreg n) ∧
      -- within a run every register that a captured write names holds what it held at entry
      (v.pos ≠ 0 → ∀ pre w post, v.old = pre ++ w :: post →
        (∀ n x, w = .s n x → (∀ q ∈ post, q.namesS n = false) → (grp s t).sreg n = x) ∧
        (∀ n ls tag p, w = .v n 0xFFFFFFFF ls tag p → ls.length = 32 → (∀ q ∈ post, q.namesV n = false) →
          (grp s t).vreg n = { lanes := ls, ptag := tag, poison := p }) ∧
        (∀ n tag, w = .tag n tag → (∀ q ∈ post, q.namesV n = false) → ((grp s t).vreg n).ptag = tag)) ∧
      t.hbm = s.hbm ∧ t.l2 = s.l2) ∧
    -- from a TILE_FAULT of KIND 3: the faulted instance's originals enter, or, while the scoreboard has no room for them beside others, stall the unit (R133, R154, log 39)
    (∀ id i, v.inst = some id → (grp s (flushed s)).instances.find? (fun j => j.id == id) = some i →
      (segOf target = segOf (unit s s).pc ∨ ((s.core s.cur.1).resident (grp s s).part (segOf target)).isSome = true) →
      let k := (flushed s).core s.cur.1
      (i.originals = [] ∨ k.onBoard = 0 ∨ k.onBoard + i.originals.length ≤ 64 →
        exec (.sret e) s = Next ((((dueLanded s (flushed s)).replay s.cur.1 s.cur.2.1 id v.cut).trapReturn s.cur.1 s.cur.2.1 s.cur.2.2).cycle s.cur.1)) ∧
      (i.originals ≠ [] → k.onBoard ≠ 0 → 64 < k.onBoard + i.originals.length → exec (.sret e) s = Next (((flushed s).boardMoves s.cur.1).cycle s.cur.1)))) ∧
  -- what enters (R154): each original unrewritten with its captured values, behind everything entered before, counted on path 4; it holds the group's unstarted commands of between that it overlaps
  (∀ (s : State) (c sl id cut : Nat) (i : Instance), (s.group c sl).instances.find? (fun j => j.id == id) = some i →
    let s1 := s.setGroup c sl ({ s.group c sl with instances := (s.group c sl).instances.filter (fun j => j.id != id) }.countRw 64)
    let k := s1.core c
    let t := s.replay c sl id cut
    ∃ new : List Op, (t.group c sl).ops = (s.group c sl).ops ++ new ∧ new.length = i.originals.length ∧ (t.core c).entries = (s.core c).entries + i.originals.length ∧
      (∀ j ∈ (t.group c sl).instances, j.id ≠ id) ∧
      ∀ (n : Nat) (o : Op) (m : Cmd), new[n]? = some o → i.originals[n]? = some m → o.path = 4 ∧ o.kind = .engine ∧ o.status = .issued ∧
        ∃ q, o.cmd = some q ∧ q.stage = .entered ∧ q.entry = (s.core c).entries + n ∧ q.inst = none ∧ q.word = m.word ∧ q.addr = m.addr ∧ q.x = m.x ∧ q.y = m.y ∧ q.z = m.z ∧
          q.record = m.record ∧ q.iter = m.iter ∧ q.posted = copyPosts m (s.group c sl).localSize ∧
          ∀ y ∈ k.entered, y.sl = sl → y.m.stage = .entered → i.fault.getD 0 < y.m.entry → y.m.entry < cut →
            clash k { sl := sl, op := o, m := { q with holds := m.holds } } y = true → y.op.seq ∈ q.holds)

/-! ### System instructions -/

/-- `wrsr` changes the writable fields of its register and nothing else (R221, R252, R351), stalling while an add of the old register waits for its page (R155,
R214); at user level the privileged registers trap. -/
def Obligations.RegisterWrites : Prop :=
  ∀ (e : Bool) (a : BitVec 7) (n : BitVec 8) (s : State), ready s →
    (clean { i := .wrsr e a n, e := e, fields := [sSrcF a], priv := sysPriv n.toNat } s →
      let s0 := countsAdded s n.toNat
      let s1 := s0.setGroup s.cur.1 s.cur.2.1 (sysWritten (s0.group s.cur.1 s.cur.2.1) n.toNat (s.ictx.readS a))
      (¬ addsLanded s0 s n.toNat → exec (.wrsr e a n) s = Next (s0.cycle s.cur.1)) ∧
      (addsLanded s0 s n.toNat → nextAt s s1 → exec (.wrsr e a n) s = Next (goesOn { i := .wrsr e a n, e := e, fields := [sSrcF a], priv := sysPriv n.toNat } s s1))) ∧
    ((grp s s).stat.getLsbD 0 = false → (n.toNat = 1 ∨ n.toNat = 2 ∨ n.toNat = 3 ∨ n.toNat = 4 ∨ n.toNat = 7 ∨ n.toNat = 8 ∨ n.toNat = 9 ∨ n.toNat = 10) →
      illegalField (grp s s) (unit s s) (d64 ((encode (.wrsr e a n)).getD 0).toNat) [sSrcF a] = none →
      exec (.wrsr e a n) s = Next (trapped s 0x05 (d64 ((encode (.wrsr e a n)).getD 0).toNat)))

/-- The read of a rule image, as a pending `hint.cp` asks (R244, R353). -/
def Sys2Proof.Slice0.ruleRead (s s1 : State) (ia : Nat) (so : Bool) : State × MemRes (List Byte × Bool) :=
  let cp := (unit s s).hints.cp.getD (0, 1, 0)
  s1.homeRead { part := (grp s s).part, die := dieOf s.cur.1, pol := cp.1, cls := cp.2.1, stamp := stampFor s1.pkg.tick cp.2.2, requester := s.cur.1, sor := so,
                user := !(grp s s).privileged } ia 64

/-- `rwctl` narrows RWP; `rwld` loads a legal rule into its entry, clears it for an image that is not valid, and traps RULE_INVALID for an illegal one (R150, R152,
R353). -/
def Obligations.RuleLoads : Prop :=
  (∀ (e : Bool) (k : BitVec 3) (s : State), issuesFlush { i := .rwctl e k, e := e, priv := s.rwPriv, flush := true } s →
    let s1 := (flushed s).setGroup s.cur.1 s.cur.2.1 { (flushed s).group s.cur.1 s.cur.2.1 with rwp := (grp s s).rwp &&& k }
    nextAt s s1 → exec (.rwctl e k) s = Next (goesOn { i := .rwctl e k, e := e, priv := s.rwPriv, flush := true } s s1)) ∧
  (∀ (e : Bool) (a b : BitVec 7) (s t : State) (ia : Nat) (so : Bool) (img : List Byte),
    let x : Issue := { i := .rwld e a b, e := e, fields := [sSrcF a, sSrcF b], priv := s.rwPriv, flush := true }
    let va := vaMod (s.ictx.readS a).toNat
    let n := s.ictx.readS b
    issuesFlush x s → (s.part (grp s s).part).xlate va 64 { rd := true, user := !(grp s s).privileged } = .ok (ia, so) → va % 64 = 0 → n.toNat ≤ 63 →
    (grp s s).waitRec = none →
    let s1 := (flushed s).performAll s.cur.1 s.cur.2.1
    s1.comesFirst s.cur.1 s.cur.2.1 ia 64 so = none → ruleRead s (s1.l1Land s.cur.1) ia so = (t, .ok (img, false)) →
    let p := t.part (grp s s).part
    (ruleValid img = false → nextAt s (t.setPart (grp s s).part { p with rules := mdel p.rules n.toNat }) →
      exec (.rwld e a b) s = Next (goesOn x s (t.setPart (grp s s).part { p with rules := mdel p.rules n.toNat }))) ∧
    (ruleValid img = true → ruleOk img = true → nextAt s (t.setPart (grp s s).part { p with rules := mput p.rules n.toNat img }) →
      exec (.rwld e a b) s = Next (goesOn x s (t.setPart (grp s s).part { p with rules := mput p.rules n.toNat img }))) ∧
    (ruleValid img = true → ruleOk img = false → exec (.rwld e a b) s = Next (trapped (flushed s) 0x18 n))) ∧
  -- its checks, in their order: an address that no register grants, one that is not 64 B aligned, a slot above 63; then an image that cannot be read, and what comes first
  (∀ (e : Bool) (a b : BitVec 7) (s : State),
    let x : Issue := { i := .rwld e a b, e := e, fields := [sSrcF a, sSrcF b], priv := s.rwPriv, flush := true }
    let va := vaMod (s.ictx.readS a).toNat
    let n := s.ictx.readS b
    let r := (s.part (grp s s).part).xlate va 64 { rd := true, user := !(grp s s).privileged }
    issuesFlush x s →
    (∀ v, r = .error v → exec (.rwld e a b) s = Next (trapped (flushed s) 0x08 (s.ictx.readS a))) ∧
    (∀ y, r = .ok y → va % 64 ≠ 0 → exec (.rwld e a b) s = Next (trapped (flushed s) 0x09 (s.ictx.readS a))) ∧
    (∀ y, r = .ok y → va % 64 = 0 → 63 < n.toNat → exec (.rwld e a b) s = Next (trapped (flushed s) 0x18 n)) ∧
    (∀ ia so, r = .ok (ia, so) → va % 64 = 0 → n.toNat ≤ 63 → (grp s s).waitRec = none →
      let s1 := (flushed s).performAll s.cur.1 s.cur.2.1
      let read := ruleRead s (s1.l1Land s.cur.1) ia so
      let who : Faulter := { core := s.cur.1, slot := s.cur.2.1, iaddr := (unit s s).pc.toNat }
      let invalid := fun (t : State) => t.trapNow s.cur.1 s.cur.2.1 s.cur.2.2 0x18 n (unit s s).pc (unit s s).pc
      (∀ o, s1.comesFirst s.cur.1 s.cur.2.1 ia 64 so = some o → exec (.rwld e a b) s = Next ((s1.completePath s.cur.1 s.cur.2.1 o.path).cycle s.cur.1)) ∧
      (s1.comesFirst s.cur.1 s.cur.2.1 ia 64 so = none →
        (∀ t img, read = (t, .ok (img, true)) → exec (.rwld e a b) s = Next (invalid t)) ∧
        (∀ t, read = (t, .fatal) → exec (.rwld e a b) s = Next (invalid (t.fault (grp s s).part ia false true who).1)) ∧
        (∀ t, read = (t, .page) → (grp s s).isTask = false → let f := t.fault (grp s s).part ia false false who
          exec (.rwld e a b) s = Next ((f.1.setGroup s.cur.1 s.cur.2.1 { grp s f.1 with waitRec := some (f.2, false), waitIa := (ia, false) }).cycle s.cur.1))))) ∧
  (∀ (e : Bool) (a : BitVec 7) (s : State), ready s → clean { i := .wrsr e a 7, e := e, fields := [sSrcF a], priv := true } s →
    let s0 := countsAdded s 7
    let s1 := s0.setGroup s.cur.1 s.cur.2.1 { s0.group s.cur.1 s.cur.2.1 with rwp := (s.ictx.readS a).setWidth 3 }
    nextAt s s1 → exec (.wrsr e a 7) s = Next (goesOn { i := .wrsr e a 7, e := e, fields := [sSrcF a], priv := true } s s1)) ∧
  (∀ (e : Bool) (k : BitVec 3) (a b : BitVec 7) (s : State), ready s → (grp s s).stat.getLsbD 0 = false →
    (s.part (grp s s).part).userrw = false →
    exec (.rwctl e k) s = Next (trapped s 0x05 (d64 ((encode (.rwctl e k)).getD 0).toNat)) ∧
    (illegalField (grp s s) (unit s s) (d64 ((encode (.rwld e a b)).getD 0).toNat) [sSrcF a, sSrcF b] = none →
      exec (.rwld e a b) s = Next (trapped s 0x05 (d64 ((encode (.rwld e a b)).getD 0).toNat))))

/-- `kvapp` writes its status to D, and to the key registers the ptags of the blocks, for the next instruction to read (R191, R355). -/
def Sys2Proof.Slice0.kvAppendsPart : Prop :=
  ∀ (e : Bool) (a v : BitVec 7) (d : BitVec 6) (s t : State) (n : Nat) (heads : List Nat),
    let x : Issue := { i := .kvapp e a v d, e := e, fields := [{ sRegF d with wr := true }, sSrcF a, (vSrcF v).many 16] }
    let lane := fun (r ch : Nat) => (((grp s s).vreg (v.toNat + r + ch / 32)).lanes.getD (ch % 32) 0).toNat
    let cp := (unit s s).hints.cp.getD (0, 1, 0)
    let acc : Acc := { part := (grp s s).part, die := dieOf s.cur.1, pol := cp.1, cls := cp.2.1, stamp := stampFor s.pkg.tick cp.2.2, requester := s.cur.1,
                       user := !(grp s s).privileged, who := { core := s.cur.1, slot := s.cur.2.1, iaddr := (unit s s).pc.toNat } }
    let s1 := s.performAll s.cur.1 s.cur.2.1
    let r := (s1.l1Land s.cur.1).kvAppend s.cur.1 s.cur.2.1 acc (s.ictx.readS a) (lane 0) (lane 8)
    ready s → clean x s → (grp s s).waitRec = none →
    -- an acquire of the group that is outstanding comes first (R197, R349)
    (∀ pre o post, (grp s s1).ops = pre ++ o :: post → (∀ q ∈ pre, q.status = .performed ∨ q.acquires = false) → o.status ≠ .performed → o.acquires = true →
      exec (.kvapp e a v d) s = Next ((s1.completePath s.cur.1 s.cur.2.1 o.path).cycle s.cur.1)) ∧
    ((∀ o ∈ (grp s s1).ops, o.status = .performed ∨ o.acquires = false) →
    (r = (t, .status n heads) → nextAt s t →
      exec (.kvapp e a v d) s = Next (completed x s t {} (dueNext (.s d.toNat (d64 n)) ::
        ((List.range 8).filter (fun j => decide (32 * j < heads.length))).map (fun j => dueNext (.tag (v.toNat + j) (appendTag (heads.getD (32 * j) 0))))) .seq .ready)) ∧
    -- a block in an RR page and another kind of page traps, as a plane store there does (R200)
    (∀ ia, r = (t, .straddles ia) → exec (.kvapp e a v d) s = Next (trapped s 0x09 (d64 ia))))

/-- The status of an append that writes nothing (R191): a sequence number above 32 bits, or one beyond the table. -/
def Sys2Proof.Slice0.kvAppendRefusesPart : Prop :=
  ∀ (s : State) (c sl : Nat) (a : Acc) (seq : Dword) (key val : Nat → Nat),
    (2 ^ 32 ≤ seq.toNat → s.kvAppend c sl a seq key val = (s, .status 2 [])) ∧
    (seq.toNat < 2 ^ 32 → (s.part a.part).kvtn.toNat % 2 ^ 16 ≤ seq.toNat → s.kvAppend c sl a seq key val = (s, .status 4 []))

/-- `tinv` of no unit does nothing but wait for the group's earlier accesses; else it writes back and drops the range, and releases what write-protected pages hold (R354,
R216). With an earlier access that cannot be performed yet it stalls; a length above 36 bits is illegal. -/
def Obligations.TranslationInvalidate : Prop :=
  ∀ (e : Bool) (a b : BitVec 7) (s : State),
    let x : Issue := { i := .tinv e a b, e := e, fields := [sSrcF a, sSrcF b], priv := true }
    ready s → clean x s →
    let lo := nbits (s.ictx.readS a).toNat 16 36 * 65536
    let n := s.ictx.readS b
    let s0 := s.performAll s.cur.1 s.cur.2.1
    let open_ := fun (o : Op) => o.status ≠ .performed ∧ (o.kind.isMem = true ∨ o.path = 3)
    (2 ^ 36 ≤ n.toNat → exec (.tinv e a b) s = Next (trapped s 0x01 (d64 ((encode (.tinv e a b)).getD 0).toNat))) ∧
    (n.toNat < 2 ^ 36 → (∀ o ∈ (grp s s0).ops, ¬ open_ o) →
      let s1 := if n = 0 then s0.landFar else (s0.landFar.invalidateRange (grp s s).part lo (n.toNat * 65536)).releaseHeld (grp s s).part
      nextAt s s1 → exec (.tinv e a b) s = Next (goesOn x s s1)) ∧
    (∀ pre o post, n.toNat < 2 ^ 36 → (grp s s0).ops = pre ++ o :: post → (∀ p ∈ pre, ¬ open_ p) → open_ o →
      exec (.tinv e a b) s = Next ((if o.path = 3 then s0.pathOn s.cur.1 s.cur.2.1 o.seq else s0).cycle s.cur.1))

namespace Sys2Proof.Slice0

open Sys2Proof.Machine

/-! ### Fences -/

/-- The machine once a fence of an order has performed what it waits for (R197): every memory operation of the group that is outstanding, of an acquire those that read. -/
def fencePerformed (s s0 : State) (order : Nat) : State :=
  (((grp s s0).ops.filter (fun o => o.kind.isMem && (order != 1 || o.kind.reads))).map (·.seq)).foldl (fun t n => t.performSeq s.cur.1 s.cur.2.1 n) s0

/-- A fence of an order and scope still waits for an operation (R197, R198): a memory operation, or at fabric scope and wider a remote one. -/
def notYet (order scope : Nat) (o : Op) : Prop :=
  o.status ≠ .performed ∧ ((o.kind.isMem = true ∧ (order ≠ 1 ∨ o.kind.reads = true)) ∨ (o.path = 3 ∧ 4 ≤ scope))

/-- How a fence of an order and scope from `s0` ends (R197, R198, R203): without an order it goes on; with everything it waits for performed it goes on from the state in which a release has
landed what its scope needs and an acquire of cluster scope or wider has emptied the core's L1 of clean lines; else the unit stalls, and the operations of path 3 up to a remote one
that is waited for go on (log 38). -/
def fenceEnds (s s0 : State) (order scope : Nat) (r : Host.Outcome State Fault Refusal) (okAt : State → Prop) (go : State → State) : Prop :=
  let s1 := fencePerformed s s0 order
  let s2 := if order ≠ 1 then s1.landFrom s.cur.1 scope else s1
  let s3 := if order ≠ 2 ∧ 2 ≤ scope then s2.l1Acquire s.cur.1 else s2
  (order = 0 → okAt s0 → r = Next (go s0)) ∧
  (order ≠ 0 → (∀ o ∈ (grp s s1).ops, ¬ notYet order scope o) → okAt s3 → r = Next (go s3)) ∧
  (∀ pre o post, order ≠ 0 → (grp s s1).ops = pre ++ o :: post → (∀ p ∈ pre, ¬ notYet order scope p) → notYet order scope o →
    r = Next ((if o.path = 3 then s1.pathOn s.cur.1 s.cur.2.1 o.seq else s1).cycle s.cur.1))

/-- The unit waits at a barrier, having arrived. -/
def waitsAt (w : Wait) (s s1 : State) : State :=
  (s1.setGroup s.cur.1 s.cur.2.1 ((grp s s1).setUnit { unit s s1 with wait := w, arrived := true })).cycle s.cur.1

end Sys2Proof.Slice0

open Sys2Proof Sys2Proof.Machine Sys2Proof.Slice0

/-! ### Ordering and waiting -/

/-- A fence (R197, R198, R203): no order does nothing; else it waits for the group's earlier accesses, a release at its scope and, from cluster scope on, an acquire; while one of them cannot be performed it stalls in its step and is tried again
(log 38). -/
def Obligations.Fences : Prop :=
  ∀ (e : Bool) (sc o : BitVec 3) (s : State),
    let x : Issue := { i := .fence e sc o, e := e, flush := true }
    issuesFlush x s → fenceEnds s (flushed s) o.toNat sc.toNat (exec (.fence e sc o) s) (nextAt s) (goesOn x s)

/-- `waitc`, on path 4 after a flush of the window (R142): with few enough operations in flight and nothing to report on the path it goes on; the first report of the path traps there, with its
cause and TRX; with more in flight the unit stalls while the oldest operation of the path completes (R124, R222). -/
def Obligations.Waits : Prop :=
  ∀ (e : Bool) (n : BitVec 6) (p : BitVec 3) (s : State),
    let x : Issue := { i := .waitc e n p, e := e }
    let s0 := if p = 4 then flushed s else s
    let g := grp s s0
    let mine := g.reports.filter (fun r => r.path == p.toNat && !(statInTrapBit g.stat && r.cause == 0x14))
    ready s → clean x s →
    ((p = 4 → roomy s) → g.inFlight p.toNat ≤ n.toNat → firstReport mine = none → nextAt s s0 → exec (.waitc e n p) s = Next (goesOn x s s0)) ∧
    (∀ r, roomy s → g.inFlight p.toNat ≤ n.toNat → firstReport mine = some r →
      exec (.waitc e n p) s = Next ((s0.setGroup s.cur.1 s.cur.2.1 (g.dropReport r)).trapNow s.cur.1 s.cur.2.1 s.cur.2.2 r.cause r.trx (r.tra.getD (unit s s).pc)
        (unit s s).pc r.inst)) ∧
    (n.toNat < g.inFlight p.toNat → exec (.waitc e n p) s = Next ((s0.completePath s.cur.1 s.cur.2.1 p.toNat).cycle s.cur.1))

/-- `bar` and `barc`: a task's completes at once, as a fence of both orders at its scope, which flushes the window (R142); a group's unit arrives, a release, and waits; when the barrier has
completed it goes on, an acquire at cluster scope (R303). -/
def Sys2Proof.Slice0.barriersPart : Prop :=
  ∀ (e : Bool) (s : State) (i : Instr) (w : Wait) (scope : Nat), (i = .bar e ∧ w = .bar ∧ scope = 1 ∨ i = .barc e ∧ w = .barc ∧ scope = 2) →
    let I : Issue := { i := i, e := e, flush := (grp s s).isTask }
    ((grp s s).isTask = true → issuesFlush I s →
      fenceEnds s (flushed s) 3 scope (exec i s) (nextAt s) (goesOn I s) ∧
      -- with no access outstanding and nothing in the window it goes on
      ((grp s s).windowOps = [] → (∀ o ∈ (grp s s).ops, o.kind.isMem = false) →
        let s1 := if scope = 2 then (s.landFrom s.cur.1 scope).l1Acquire s.cur.1 else s
        nextAt s s1 → exec i s = Next (goesOn I s s1))) ∧
    ((grp s s).isTask = false → ready s → clean I s → (unit s s).passed = true →
      let s1 := if 2 ≤ scope then s.l1Acquire s.cur.1 else s
      nextAt s s1 → exec i s = Next (goesOn I s s1)) ∧
    ((grp s s).isTask = false → ready s → clean I s → (unit s s).passed = false →
      exec i s = Next (waitsAt w s ((s.performAll s.cur.1 s.cur.2.1).landFrom s.cur.1 scope)))

/-- A barrier completes when every group that meets there has arrived or is gone: every unit that waits goes on, in each of them, and one more barrier is passed; until then nothing
moves, and no other group moves (R303). -/
def Sys2Proof.Slice0.barrierCompletesPart : Prop :=
  (∀ (s : State) (c sl : Nat) (w : Wait), w = .bar ∨ w = .barc → let ps := s.partners c sl w
    ((∃ p ∈ ps, (s.group p.1 p.2).atBar w = false ∧ (s.group p.1 p.2).gone = false) → s.releaseBar c sl w = s) ∧
    ((∀ p ∈ ps, (s.group p.1 p.2).atBar w = true ∨ (s.group p.1 p.2).gone = true) → s.releaseBar c sl w = { s with cores := (s.releaseBar c sl w).cores } ∧
      (∀ d k, (d, k) ∈ ps → (s.group d k).atBar w = true → (s.releaseBar c sl w).group d k = (s.group d k).passBar w) ∧
      (∀ d k, (d, k) ∉ ps ∨ (s.group d k).atBar w = false → (s.releaseBar c sl w).group d k = s.group d k))) ∧
  (∀ (g : Group) (w : Wait), w = .bar ∨ w = .barc → let h := g.passBar w
    h.iunits = g.iunits.map (fun u => if u.wait = w then { u with wait := .ready, passed := true } else u) ∧
    (w = .bar → h.bars = g.bars + 1 ∧ h.barcs = g.barcs) ∧ (w = .barc → h.bars = g.bars ∧ h.barcs = g.barcs + 1) ∧
    h.sregs = g.sregs ∧ h.vregs = g.vregs ∧ h.ops = g.ops)

namespace Sys2Proof.Slice0

open Sys2Proof.Machine

/-! ### Engine commands -/

/-- Commands of majors 0x32 to 0x37: boundary bit, X and Y. -/
def tlSpec : Instr → Option (Bool × BitVec 7 × BitVec 7)
  | .mma e _ x y _ => some (e, x, y)
  | .mdr e _ x y _ => some (e, x, y)
  | .wbl e _ x y _ => some (e, x, y)
  | .ttr e x y => some (e, x, y)
  | .tscale e x y => some (e, x, y)
  | .tzero e x y => some (e, x, y)
  | .tzeroAcc e x y _ => some (e, x, y)
  | .tcvt e x y => some (e, x, y)
  | .tadd e x y => some (e, x, y)
  | .tmov e x y => some (e, x, y)
  | .pqry e x y _ => some (e, x, y)
  | .pdot e x y _ => some (e, x, y)
  | .pdotr e x y _ => some (e, x, y)
  | .pbnd e x y _ => some (e, x, y)
  | .selk e x y => some (e, x, y)
  | .selkx e x y => some (e, x, y)
  | .psel e x y => some (e, x, y)
  | .lmerge e x y => some (e, x, y)
  | .lsort e x y _ => some (e, x, y)
  | .ssrch e x y _ _ => some (e, x, y)
  | _ => none

/-- Sweeps: boundary bit, X, Y and Z. -/
def sweepSpec : Instr → Option (Bool × BitVec 7 × BitVec 7 × BitVec 7)
  | .tmapAdd e x y z => some (e, x, y, z)
  | .tmapMul e x y z => some (e, x, y, z)
  | .tmapFma e x y z => some (e, x, y, z)
  | .tmapMax e x y z => some (e, x, y, z)
  | .tmapCvt e x y z => some (e, x, y, z)
  | .tmapCpy e x y z => some (e, x, y, z)
  | _ => none

/-- Copies: boundary bit, X, Y and the first register of the layout record. -/
def copySpec : Instr → Option (Bool × BitVec 7 × BitVec 7 × BitVec 6)
  | .cpyin e x y z => some (e, x, y, z)
  | .cpyout e x y z => some (e, x, y, z)
  | .cpyp e x y z => some (e, x, y, z)
  | .gath e x y z => some (e, x, y, z)
  | .scat e x y z => some (e, x, y, z)
  | .cpyc e x y z => some (e, x, y, z)
  | .cpyr e x y z => some (e, x, y, z)
  | _ => none

/-- A command as its instruction captures it (R137): the word without its boundary bit, the address, the slot values, the extra value, policy and
rewrite count of the pending hints. -/
def captured (s : State) (i : Instr) (x y z : Option Dword) (record iter : List Dword) (gen : Nat) : Cmd :=
  { word := ((encode i).getD 0) &&& 0x7FFFFFFF, addr := (unit s s).pc, x := x, y := y, z := z, record := record, iter := iter, itGen := gen,
    xv := s.ictx.xv, xvq := (unit s s).hints.xvq, cp := (unit s s).hints.cp, count := if (unit s s).hints.rw then 3 else 0, priv := (grp s s).privileged }

/-- A command enters the scoreboard directly (R313), or the Reckoner window, whose match steps then run (R137, R138); the sectors it is to move are
added to the goals of its barriers (R183). -/
def cmdEntered (s : State) (direct : Bool) (m : Cmd) : State :=
  let k := s.core s.cur.1
  let m := { m with stage := if direct then .entered else .window, entry := if direct then k.entries else 0 }
  let m := { m with posted := copyPosts m (grp s s).localSize, wr := if direct then [] else m.writes k (grp s s), rd := if direct then [] else m.reads k (grp s s) }
  let t := entered s.ictx s { seq := 0, path := 4, pc := 0, kind := .engine, dvec := false, cmd := some m }
  let t := t.postSectors s.cur.1 (grp s t) m.posted
  if direct then t.setCore s.cur.1 { t.core s.cur.1 with entries := k.entries + 1 } else t.windowEntered s.ictx

/-- The scoreboard has a place, or, for a command that need not enter it yet, the window (R133, R137). -/
def boardRoom (s : State) (direct : Bool) : Prop := (s.core s.cur.1).entered.length < 64 ∨ (direct = false ∧ (grp s s).windowOps.length < 8)

/-- The unit stalls on a full scoreboard: its instruction does nothing, and the commands of the scoreboard run as far as they can (R133, log 7). -/
def stallsFull (s : State) (r : Host.Outcome State Fault Refusal) : Prop := r = Next ((s.boardMoves s.cur.1).cycle s.cur.1)

/-- The core is the follower of a matrix pair, and holds a team: without one it acts as an unpaired core (R316, R357). -/
def isFollower (s : State) : Prop :=
  (∃ l a b, (s.core s.cur.1).pair = .follower l a b) ∧ ∃ e ∈ (s.core s.cur.1).groups, e.2.holder = .group

/-! ### Transaction barriers -/

/-- The operation that counts a transaction barrier instruction on path 4: it is performed as it enters. -/
def tbOp : Op := { seq := 0, path := 4, pc := 0, kind := .engine, dvec := false, status := .performed }
/-- It is counted on path 4 as it issues, and its count falls at once where no older operation of the path is outstanding (R122, R310). -/
def tbCounted (s s0 : State) (o : Op) : State := (enteredRaw s.ictx s0 o).tbFall s.cur.1 s.cur.2.1
/-- The barrier's address. -/
def tbAt (s : State) (b : BitVec 6) : Nat := ((grp s s).sreg b.toNat).toNat % 2 ^ 19
/-- It lies in the window and is aligned (R310). -/
def tbOk (s : State) (b : BitVec 6) : Prop := tbAt s b + 16 ≤ (grp s s).localSize ∧ tbAt s b % 16 = 0
def tbIssue (i : Instr) (e fl : Bool) (fs : List Field) (b : BitVec 6) : Issue := { i := i, e := e, fields := fs ++ [sRegF b], flush := fl }

/-! ### Remote accesses, collectives and messages -/

/-- Remote lane instructions (R302): form, bytes per lane, rank operand. -/
def remoteForm (s : State) : Instr → Option (LForm × BitVec 5)
  | .rld e d a b k => some (⟨e, [vDstF d, vSrcF a, sRegF b, { vec := true, code := k.toNat }], .rld, 3, 0, 4, d.toNat, 1, a, b, fun _ => []⟩, k)
  | .rst e d a b k => some (⟨e, [vSrcF d, vSrcF a, sRegF b, { vec := true, code := k.toNat }], .rst, 3, 0, 4, 0, 0, a, b, fun x => [x.readV d]⟩, k)
  | .ratom e d a b k =>
    match (unit s s).hints.ao with
    | some n => if atomGroup n d then
        some (⟨e, [(vDstF d).many (max (atomReads n) (atomWrites n)), vSrcF a, sRegF b, { vec := true, code := k.toNat }], .ratom, 3, n, atomBytes n, d.toNat, atomWrites n,
          a, b, fun x => x.dataRegs d.toNat (atomReads n)⟩, k)
      else none
    | none => none
  | _ => none

/-- The peers that lanes name, and whether the capability rows allow the access to each (R53). -/
def ranksOf (s : State) (k : BitVec 5) : List Nat := ((grp s s).readV (unit s s) k.toNat).map (fun w => w.toNat % 4096)
def rowsAllow (s : State) (f : LForm) (k : BitVec 5) : Prop :=
  s.fab.drank ≠ 4095 ∧ ∀ i ∈ laneList s.ictx.active, rowPeer (s.fab.row ((ranksOf s k).getD i 0)) = true ∧
    (f.kind = .ratom → rowAop (s.fab.row ((ranksOf s k).getD i 0)) f.k = true)

/-- The operation of a remote lane instruction as it enters. -/
def remoteOp (s : State) (f : LForm) (k : BitVec 5) (ias : List (Nat × Nat)) (so : List Bool) : Op :=
  { seq := 0, path := 3, pc := 0, kind := f.kind, k := f.k, d := f.d, dn := f.dn, mask := s.ictx.active, addrs := s.ictx.sums 57 f.a f.b,
    ias := spread 32 ias, ranks := ranksOf s k, data := f.data s.ictx, so := so.contains true, sors := spreadSor 32 ias so }

/-- Collective instructions (R347 to R349): boundary bit, fields, kind, D, parameter, address with its size and alignment, whether the parameters are legal for a
group of a count, whether this member is the root, captured values. -/
structure CForm where
  e : Bool
  fields : List Field
  kind : OpKind
  d : BitVec 7
  p : Nat
  va : Option (Nat × Nat × Nat)
  bad : Nat → Bool
  root : Coll → Bool
  vals : List Dword

def collForm (s : State) : Instr → Option CForm
  | .car e d a b => some ⟨e, [sDstF d, sSrcF a, sSrcF b], .car, d, (s.ictx.readS b).toNat,
      some (vaMod (s.ictx.readS a).toNat, nbits (s.ictx.readS b).toNat 12 7, 16), carBad (s.ictx.readS b).toNat, fun _ => false, [s.ictx.readS b]⟩
  | .cbc e d a b => some ⟨e, [sDstF d, sSrcF a, sSrcF b], .cbc, d, (s.ictx.readS b).toNat,
      some (vaMod (s.ictx.readS a).toNat, nbits (s.ictx.readS b).toNat 24 12 + 1, 256), fun _ => (s.ictx.readS b).toNat / 2 ^ 36 != 0,
      fun u => u.index == nbits (s.ictx.readS b).toNat 12 12, [s.ictx.readS b]⟩
  | .cbar e d a => some ⟨e, [sDstF d, sSrcF a], .cbar, d, (s.ictx.readS a).toNat, none, fun _ => (s.ictx.readS a).toNat / 2 ^ 12 != 0, fun _ => false, [0]⟩
  | _ => none

/-- The group a collective names. -/
def CForm.group (f : CForm) : Nat := f.p % 4096
/-- Where its address translates, aligned. -/
def CForm.place (f : CForm) (s : State) (a ia : Nat) (so : Bool) : Prop :=
  match f.va with
  | none => a = 0 ∧ ia = 0 ∧ so = false
  | some (v, n, al) => a = v ∧ v % al = 0 ∧ (s.part (grp s s).part).xlate v n { rd := true, user := !(grp s s).privileged } = .ok (ia, so)
/-- The operation of a collective as it enters. -/
def collOp (s : State) (f : CForm) (a ia : Nat) (so : Bool := false) : Op :=
  { ({ seq := 0, path := 3, pc := 0, kind := f.kind, d := f.d.toNat, dn := 1, dvec := false, vals := d64 f.group :: f.vals } : Op).withHints
      { (unit s s).hints with mo := none } with
    rnd := 0, k := if f.root (s.fab.coll f.group) then 1 else 0, addrs := [a], ias := [ia], so := so }

/-- Message instructions that name a descriptor (R343, R344): boundary bit, fields, kind, D, registers, address operand. -/
def descSpec : Instr → Option (Bool × List Field × OpKind × BitVec 7 × Nat × BitVec 7)
  | .mpost e d a => some (e, [sDstF d, sSrcF a], .mpost, d, 1, a)
  | .mprobe e d a => some (e, [(sDstF d).many 2, sSrcF a], .mprobe, d, 2, a)
  | _ => none
/-- Message instructions that name a handle (R343, R345), with the form of `mpost.ra`. -/
def handleSpec : Instr → Option (Bool × OpKind × Nat × BitVec 7 × BitVec 7)
  | .mpostRa e d a => some (e, .mpost, 1, d, a)
  | .mcancel e d a => some (e, .mcancel, 0, d, a)
  | .mtest e d a => some (e, .mtest, 0, d, a)
  | _ => none
/-- A message operation as it enters. -/
def messageOp (s : State) (kind : OpKind) (k : Nat) (d : BitVec 7) (dn : Nat) (addrs ias : List Nat) (a : Dword) (so : Bool) : Op :=
  { ({ seq := 0, path := 3, pc := 0, kind := kind, k := k, d := d.toNat, dn := dn, addrs := addrs, ias := ias, vals := [a, d64 (grp s s).part], so := so } : Op).withHints
      (unit s s).hints with path := 3, dvec := false, mo := 0 }

end Sys2Proof.Slice0

open Sys2Proof Sys2Proof.Machine Sys2Proof.Slice0

/-! ### Engines -/

/-- Matrix, tile, plane-dot and selection commands are captured whole: the last two enter the scoreboard at once, the others the Reckoner window (R133, R137,
R313); with the scoreboard full, and the window too for one that enters it, the unit stalls while its commands run (R133, log 7); a matrix command of a follower that holds a team traps (R135, R357). -/
def Obligations.UnitCommands : Prop :=
  ∀ (i : Instr) (e : Bool) (x y : BitVec 7) (s : State), tlSpec i = some (e, x, y) →
    let I : Issue := { i := i, e := e, fields := [sSrcF x, sSrcF y] }
    let w := ((encode i).getD 0).toNat
    let m := captured s i (some (s.ictx.readS x)) (some (s.ictx.readS y)) (some ((grp s s).sreg (w % 64))) [] [] 0
    ready s → clean I s →
    (boardRoom s (decide (0x36 ≤ w / 2 ^ 25 % 64)) → room s 4 → (m.unit = 2 → ¬ isFollower s) → nextAt s (cmdEntered s (decide (0x36 ≤ w / 2 ^ 25 % 64)) m) →
      exec i s = Next (goesOn I s (cmdEntered s (decide (0x36 ≤ w / 2 ^ 25 % 64)) m))) ∧
    (¬ boardRoom s (decide (0x36 ≤ w / 2 ^ 25 % 64)) → (m.unit = 2 → ¬ isFollower s) → stallsFull s (exec i s)) ∧
    (m.unit = 2 → isFollower s → exec i s = Next (trapped s 0x14 1))

/-- Sweeps capture the iterator that Z names (R287, R288); copies their layout record of eight registers (R306); both enter the window, or stall on a full
scoreboard (R133). A `cpyr` whose peer's row does not allow it traps (R53). -/
def Obligations.SweepsAndCopies : Prop :=
  (∀ (i : Instr) (e : Bool) (x y z : BitVec 7) (s : State), sweepSpec i = some (e, x, y, z) →
    let I : Issue := { i := i, e := e, fields := [sSrcF x, sSrcF y, sSrcF z] }
    let it := (grp s s).iterOf (s.ictx.readS z).toNat
    let s1 := cmdEntered s false (captured s i (some (s.ictx.readS x)) (some (s.ictx.readS y)) (some (s.ictx.readS z)) [] it.1 it.2)
    ready s → clean I s → (boardRoom s false → room s 4 → nextAt s s1 → exec i s = Next (goesOn I s s1)) ∧ (¬ boardRoom s false → stallsFull s (exec i s))) ∧
  (∀ (i : Instr) (e : Bool) (x y : BitVec 7) (z : BitVec 6) (s : State), copySpec i = some (e, x, y, z) →
    let I : Issue := { i := i, e := e, fields := [sSrcF x, sSrcF y, (sRegF z).many 8] }
    let record := (List.range 8).map (fun j => (grp s s).sreg (z.toNat + j))
    let m := captured s i (some (s.ictx.readS x)) (some (s.ictx.readS y)) (record[0]?) record [] 0
    let row := s.fab.row m.peer
    let allowed := s.fab.drank ≠ 4095 ∧ rowPeer row = true ∧ (m.fmt12 = true → rowPwr row = true)
    ready s → clean I s →
    (boardRoom s false → room s 4 → (m.fn = 6 → allowed) → nextAt s (cmdEntered s false m) → exec i s = Next (goesOn I s (cmdEntered s false m))) ∧
    (¬ boardRoom s false → (m.fn = 6 → allowed) → stallsFull s (exec i s)) ∧
    (m.fn = 6 → ¬ allowed → exec i s = Next (trapped s 0x12 (d64 ((record.getD 0 0).toNat % 2 ^ 57 + 3 * 2 ^ 57)))))

/-- A command starts when no older one that it depends on or that holds its unit is in the scoreboard, and its checks pass (R133, R313); one that fails a check ends with its fault (R309, R313); one
that may not start, or whose array segment a self-test holds (R10), stays. -/
def Sys2Proof.Slice0.commandStartsPart : Prop :=
  ∀ (s : State) (x : Live) (o : Op) (m : Cmd), (s.core s.args.core).entryOf s.args.id = some x → (s.group s.args.core x.sl).op x.op.seq = some o → o.seq = x.op.seq →
    o.cmd = some m → m.stage = .entered → o.status = .issued →
    let started : Cmd := { m with stage := .started, began := (s.core s.args.core).clk.toNat }
    let t := s.setGroup s.args.core x.sl ((s.group s.args.core x.sl).setOp { o with cmd := some started })
    let may := (s.core s.args.core).mayStart { sl := x.sl, op := o, m := m } && !s.segmentOut s.args.core m
    let fault := started.startFault (s.core s.args.core) (s.group s.args.core x.sl)
    (may = false → exec .engineCommandStart s = Next s) ∧
    (may = true → fault = none → exec .engineCommandStart s = Next t) ∧
    (∀ a, may = true → fault = some a →
      exec .engineCommandStart s = Next (t.finishCmd s.args.core x.sl { o with cmd := some started } started (some a)))

/-- A started command that stays in the core runs to its end and is performed (R313, R331). -/
def Sys2Proof.Slice0.commandRunsPart : Prop :=
  ∀ (s : State) (x : Live) (o : Op) (m : Cmd) (k : Core), (s.core s.args.core).entryOf s.args.id = some x → (s.group s.args.core x.sl).op x.op.seq = some o → o.seq = x.op.seq →
    o.cmd = some m → m.stage = .started → o.status = .issued → s.segmentOut s.args.core m = false → m.isCopy = false → m.posted = [] → m.inst = none →
    runLocal (s.core s.args.core) x.sl m = (k, none) → (k.group x.sl).ops = (s.group s.args.core x.sl).ops →
    ∃ t, exec .engineCommandComplete s = Next t ∧ (t.core s.args.core).lmem = k.lmem ∧ (t.core s.args.core).matrix = k.matrix ∧
      (t.core s.args.core).queries = k.queries ∧ ((t.group s.args.core x.sl).op x.op.seq).map (fun o => o.status) = some .performed ∧ t.hbm = s.hbm ∧ t.l2 = s.l2 ∧
      (∀ c, c ≠ s.args.core → t.core c = s.core c)

/-- What `tzero.acc` and `pqry` leave (R320, R321): the accumulator empty, and the query slot with the weights and the scale. -/
def Sys2Proof.Slice0.localCommandsPart : Prop :=
  ∀ (k : Core) (sl : Nat) (m : Cmd),
    (m.word.toNat / 2 ^ 25 % 64 = 0x35 → m.accZero = true →
      runLocal k sl m = ({ k with matrix := { k.matrix with acc := mput k.matrix.acc (m.word.toNat % 64 % 4) (.zero, []) } }, none)) ∧
    (m.word.toNat / 2 ^ 25 % 64 = 0x36 → m.word.toNat / 2 ^ 20 % 32 = 0 →
      runLocal k sl m = ({ k with queries := mput k.queries (m.word.toNat % 64 % 4) { weights := (k.lread (k.group sl) ((m.x.getD 0).toNat % 2 ^ 19) ((m.y.getD 0).toNat % 256 + 1)).map (fun b => b.toInt), q := (m.y.getD 0).toNat / 2 ^ 32 } }, none))

/-- A matrix pair whose command has not retired for 2^24 cycles is reset: its queued and running commands leave their groups and the scoreboard, with their counts on path 4, the matrix state of both cores is empty, each of their groups has a report of MATRIX_RESET, the management
engine is told, and the segment is put to the self-test; a pair that is not late stays (R136, R10). -/
def Obligations.PairResets : Prop :=
  ∀ s : State,
    let c := (s.core s.args.core).leaderOf s.args.core
    let late := (s.core c).entered.any (fun x => x.m.unit == 2 && x.m.stage == .started && decide (x.m.began + 2 ^ 24 ≤ (s.core c).clk.toNat))
    let ofPair := fun (d : Nat) => d = c ∨ ∃ a b, (s.core c).pair = .leader d a b
    (late = false → exec .pairReset s = Next s) ∧
    (late = true → ∃ t, exec .pairReset s = Next t ∧ t.pkg.events = s.pkg.events ++ [.matrixReset c] ∧ s.resetSegment c ∈ t.pkg.tests ∧ t.hbm = s.hbm ∧
      (∀ d, ofPair d → (t.core d).matrix = {} ∧
        (∀ x ∈ (s.core d).entered, x.m.unit = 2 → ∃ r ∈ (t.group d x.sl).reports, r.path = 4 ∧ r.cause = 0x15 ∧ r.trx = 0) ∧
        -- the matrix commands in the scoreboard are gone from it and from their groups, whose counts on path 4 have fallen for them; no other operation has gone
        (∀ sl, ∀ o ∈ (t.group d sl).ops, ∀ m, o.cmd = some m → m.unit = 2 → m.stage ≠ .entered ∧ m.stage ≠ .started) ∧
        (∀ sl, let lost := fun (o : Op) => (s.core d).entered.any (fun x => x.sl == sl && x.m.unit == 2 && x.op.seq == o.seq)
          (t.group d sl).ops.map (fun o => (o.seq, o.path)) = ((s.group d sl).ops.filter (fun o => !lost o)).map (fun o => (o.seq, o.path)) ∧
          (t.group d sl).inFlight 4 = ((s.group d sl).ops.filter (fun o => !lost o && o.path == 4)).length)) ∧
      (∀ d, ¬ ofPair d → t.core d = s.core d))

/-! ### Transaction barriers -/

/-- `tbinit`, `tbarr`, `tbexp` step the barrier as they issue, `tbwait` goes on when its condition holds and waits otherwise, `tbtest` answers the counts (R182, R310). -/
def Sys2Proof.Slice0.transactionBarriersPart : Prop :=
  (∀ (e : Bool) (b : BitVec 6) (s : State), ready s → clean (tbIssue (.tbinit e b) e false [] b) s → tbOk s b → room s 4 →
    let s1 := (tbCounted s s tbOp).tbStep s.cur.1 (grp s s) (tbAt s b) (fun _ => { goal := 0, done := 0, err := false, pois := false, flt := false })
    nextAt s s1 → exec (.tbinit e b) s = Next (goesOn (tbIssue (.tbinit e b) e false [] b) s s1)) ∧
  (∀ (e : Bool) (a : BitVec 7) (b : BitVec 6) (s : State), ready s → clean (tbIssue (.tbarr e a b) e false [sSrcF a] b) s → tbOk s b →
    -- a release at cluster scope: earlier accesses are performed first
    let s0 := (s.performAll s.cur.1 s.cur.2.1).landFrom s.cur.1 2
    ((∀ o ∈ (grp s s0).ops, o.kind.isMem = true → o.status = .performed) → (grp s s0).inFlight 4 < 63 →
      let s1 := (tbCounted s s0 tbOp).tbStep s.cur.1 (grp s s) (tbAt s b) (fun t => { t with done := t.done + (s.ictx.readS a).setWidth 32 })
      nextAt s s1 → exec (.tbarr e a b) s = Next (goesOn (tbIssue (.tbarr e a b) e false [sSrcF a] b) s s1)) ∧
    (∀ o ∈ (grp s s0).ops, o.kind.isMem = true → o.status ≠ .performed → exec (.tbarr e a b) s = Next (s0.cycle s.cur.1))) ∧
  (∀ (e : Bool) (a : BitVec 7) (b : BitVec 6) (s : State), ready s → clean (tbIssue (.tbexp e a b) e false [sSrcF a] b) s → tbOk s b → room s 4 →
    let s1 := (tbCounted s s tbOp).tbStep s.cur.1 (grp s s) (tbAt s b) (fun t => { t with goal := t.goal + (s.ictx.readS a).setWidth 32 })
    nextAt s s1 → exec (.tbexp e a b) s = Next (goesOn (tbIssue (.tbexp e a b) e false [sSrcF a] b) s s1)) ∧
  (∀ (e : Bool) (a : BitVec 7) (b : BitVec 6) (s : State), let I := tbIssue (.tbwait e a b) e true [sSrcF a] b
    issuesFlush I s → tbOk s b → room s 4 →
    (TBar.holds ((s.core s.cur.1).tbar (grp s s) (tbAt s b)) (s.ictx.readS a) = true →
      let s1 := (tbCounted s (flushed s) tbOp).l1Acquire s.cur.1
      nextAt s s1 → exec (.tbwait e a b) s = Next (goesOn I s s1)) ∧
    (TBar.holds ((s.core s.cur.1).tbar (grp s s) (tbAt s b)) (s.ictx.readS a) = false →
      ∃ t, exec (.tbwait e a b) s = Next t ∧ (unit s t).wait = .tbwait (tbAt s b) (s.ictx.readS a) ∧ (unit s t).pc = (unit s s).pc ∧ onlyUnit (flushed s) t)) ∧
  (∀ (e : Bool) (d a : BitVec 7) (b : BitVec 6) (s : State), let I := tbIssue (.tbtest e d a b) e true [(sDstF d).many 2, sSrcF a] b
    issuesFlush I s → tbOk s b → room s 4 →
    let t := (s.core s.cur.1).tbar (grp s s) (tbAt s b)
    let ok := TBar.holds t (s.ictx.readS a)
    let flags := (if ok then 1 else 0) + (if t.err then 2 else 0) + (if t.pois then 4 else 0) + (if t.flt then 8 else 0)
    let out : List RegWrite := [.s d.toNat (d64 (t.goal.toNat + t.done.toNat * 2 ^ 32)), .s (d.toNat + 1) (d64 flags)]
    let s1 := tbCounted s (flushed s) { tbOp with d := d.toNat, dn := 2, out := out }
    let s2 := if ok then s1.l1Acquire s.cur.1 else s1
    nextAt s s2 → exec (.tbtest e d a b) s = Next (goesOn I s s2)) ∧
  -- the count: with an older operation of path 4 it stands until that one's has fallen; else it has fallen and the results are written
  (∀ (s s0 : State) (o : Op), o.path = 4 → o.status = .performed →
    (∀ q ∈ (grp s s0).ops, q.path = 4 → tbCounted s s0 o = enteredRaw s.ictx s0 o) ∧
    ((∀ q ∈ (grp s s0).ops, q.path ≠ 4 ∧ q.seq ≠ s0.seq) → (grp s (tbCounted s s0 o)).ops = (grp s s0).ops ∧ (grp s (tbCounted s s0 o)).inFlight 4 = 0 ∧
      (grp s (tbCounted s s0 o)).sregs = (o.out.foldl Group.apply (grp s s0)).sregs))

/-- A barrier written reads back, with ERR set when DONE passes GOAL (R182, R183); the condition of a wait (R310). -/
def Sys2Proof.Slice0.barrierFieldsPart : Prop :=
  (∀ (k : Core) (g : Group) (a : Nat) (b : TBar), a % 16 = 0 → Memory.wf k.lmem = true →
    (k.setTbar g a b).tbar g a = { b with err := b.err || decide (2 ^ 31 ≤ (b.goal - b.done).toNat) }) ∧
  (∀ (b : TBar) (v : Dword), (v.getLsbD 32 = true → (b.holds v = true ↔ b.goal = b.done)) ∧
    (v.getLsbD 32 = false → (b.holds v = true ↔ (b.done - v.setWidth 32).toNat < 2 ^ 31)))

/-! ### Remote accesses, collectives, messages -/

/-- Remote loads, stores and atomics: with every lane's address granted and aligned and every peer's row allowing it, the operation enters and its requests leave (R302); with no tag free the
unit stalls (R41), and a row that does not allow it traps REMOTE_UNSUP with its TRX (R53). An address that no register grants traps RANGE_FAULT, one that is not aligned MISALIGN (R290). -/
def Obligations.RemoteAccesses : Prop :=
  (∀ (i : Instr) (f : LForm) (k : BitVec 5) (s : State), remoteForm s i = some (f, k) → badOrder (unit s s) f.kind = false → ready s → clean (f.issue i) s → s.ictx.active ≠ 0 →
    (∀ v, s.xlateAll (grp s s) f.need f.n (laneAddrs s 57 f) = .error v → exec i s = Next (trapped s 0x08 (d64 v))) ∧
    (∀ ias so v, s.xlateAll (grp s s) f.need f.n (laneAddrs s 57 f) = .ok (ias, so) → (laneAddrs s 57 f).find? (fun v => v.2 % f.n != 0) = some v →
      exec i s = Next (trapped s 0x09 (d64 v.2)))) ∧
  ∀ (i : Instr) (f : LForm) (k : BitVec 5) (s : State), remoteForm s i = some (f, k) → badOrder (unit s s) f.kind = false → ready s → clean (f.issue i) s → s.ictx.active ≠ 0 →
    ∀ (ias : List (Nat × Nat)) (so : List Bool), s.xlateAll (grp s s) f.need f.n (laneAddrs s 57 f) = .ok (ias, so) → (∀ v ∈ laneAddrs s 57 f, v.2 % f.n = 0) →
    (rowsAllow s f k → unheld s.ictx s (remoteOp s f k ias so) →
      (room s 3 → s.fab.full 1 = false →
      let s1 := (entered s.ictx s (remoteOp s f k ias so)).sendOp s.cur.1 s.cur.2.1 s.seq
      nextAt s s1 → exec i s = Next (goesOn (f.issue i) s s1)) ∧
      (s.fab.full 1 = true → exec i s = Next (s.cycle s.cur.1))) ∧
    (∀ l, (laneList s.ictx.active).find? (fun l => s.fab.drank == 4095 || !rowPeer (s.fab.row ((ranksOf s k).getD l 0)) ||
        (f.kind == .ratom && !rowAop (s.fab.row ((ranksOf s k).getD l 0)) f.k)) = some l →
      exec i s = Next (trapped s 0x12 (d64 ((s.ictx.sums 57 f.a f.b).getD l 0 + 3 * 2 ^ 57))))

/-- A collective on a group that is valid, free and not broken, with legal parameters, enters, holds its group, and sends (R346 to R349); with the group busy, broken or the parameters
illegal, D is 3, 2 or 4 when it completes; an invalid group traps, and any on a device without a rank (R38). -/
def Obligations.Collectives : Prop :=
  ∀ (i : Instr) (f : CForm) (s : State), collForm s i = some f → ready s → clean { i := i, e := f.e, fields := f.fields } s →
    let u := s.fab.coll f.group
    let I : Issue := { i := i, e := f.e, fields := f.fields }
    let answered := fun (n : Nat) => enteredRaw s.ictx s { collOp s f 0 0 with k := 0, addrs := [], ias := [], status := .performed, out := [.s f.d.toNat (d64 n)] }
    ((s.fab.drank = 4095 ∨ u.valid = false ∨ u.count = 0) → exec i s = Next (trapped s 0x12 (d64 ((f.va.map (·.1)).getD 0 + 3 * 2 ^ 57)))) ∧
    (s.fab.drank ≠ 4095 → u.valid = true → u.count ≠ 0 → room s 3 →
      (f.bad u.count = true → nextAt s (answered 4) → exec i s = Next (goesOn I s (answered 4))) ∧
      (f.bad u.count = false → ∀ a ia so, f.place s a ia so →
        (u.busy.isSome = true → nextAt s (answered 3) → exec i s = Next (goesOn I s (answered 3))) ∧
        (u.busy = none → u.broken = true → nextAt s (answered 2) → exec i s = Next (goesOn I s (answered 2))) ∧
        (u.busy = none → u.broken = false →
          let s1 := ((enteredRaw s.ictx s (collOp s f a ia so)).onColl f.group (fun u => { u with busy := some (s.cur.1, s.cur.2.1, s.seq), failed := false })).collSend
            s.cur.1 s.cur.2.1 s.seq
          nextAt s s1 → exec i s = Next (goesOn I s s1))))

/-- `mpost` and `mprobe` with a descriptor that is granted and aligned, and `mpost.ra`, `mcancel` and `mtest` with a handle, go to the match memory (R58, R343 to R345). -/
def Sys2Proof.Slice0.messageOpsPart : Prop :=
  (∀ (i : Instr) (e : Bool) (fs : List Field) (kind : OpKind) (d : BitVec 7) (dn : Nat) (a : BitVec 7) (s : State) (ia : Nat) (so : Bool),
    descSpec i = some (e, fs, kind, d, dn, a) → ready s → clean { i := i, e := e, fields := fs } s → room s 3 →
    let va := vaMod (s.ictx.readS a).toNat
    (s.part (grp s s).part).xlate va 64 { rd := true, user := !(grp s s).privileged } = .ok (ia, so) → va % 64 = 0 →
    let s1 := (enteredRaw s.ictx s (messageOp s kind 0 d dn [va] [ia] (s.ictx.readS a) so)).cairnOp s.cur.1 s.cur.2.1 s.seq
    nextAt s s1 → exec i s = Next (goesOn { i := i, e := e, fields := fs } s s1)) ∧
  (∀ (i : Instr) (e : Bool) (kind : OpKind) (k : Nat) (d a : BitVec 7) (s : State), handleSpec i = some (e, kind, k, d, a) →
    ready s → clean { i := i, e := e, fields := [sDstF d, sSrcF a] } s → room s 3 →
    let s1 := (enteredRaw s.ictx s (messageOp s kind k d 1 [] [] (s.ictx.readS a) false)).cairnOp s.cur.1 s.cur.2.1 s.seq
    nextAt s s1 → exec i s = Next (goesOn { i := i, e := e, fields := [sDstF d, sSrcF a] } s s1))

/-- What the match memory answers (R61, R341, R344, R345): a handle tested gives whether it is unarmed and whether a message of it is landing; a handle cancelled frees its entry; a disabled
Cairn answers its code. -/
def Sys2Proof.Slice0.matchMemoryPart : Prop :=
  ∀ (s : State) (c sl seq : Nat) (o : Op), (s.group c sl).op seq = some o → o.seq = seq → o.status = .issued → o.vals.length = 2 → (o.vals.getD 1 0).toNat = (s.group c sl).part →
    let p := (s.group c sl).part
    let k := s.cairn p
    let h := (o.vals.getD 0 0).toNat / 2 ^ 32
    let t := s.cairnOp c sl seq
    let out := ((t.group c sl).op seq).map (fun x => (x.status, x.out))
    (o.kind = .mtest → k.enabled = false → out = some (.performed, [.s o.d 2])) ∧
    (o.kind = .mtest → k.enabled = true → ∀ e, k.entry h = some e → k.landings = [] →
      out = some (.performed, [.s o.d (if e.armed then 0 else 1)]) ∧ t.cairn p = k) ∧
    (o.kind = .mcancel → k.enabled = true → k.entry h = none → out = some (.performed, [.s o.d 5]) ∧ t.cairn p = k) ∧
    (o.kind = .mcancel → k.enabled = true → ∀ e, k.entry h = some e → e.armed = false →
      out = some (.performed, [.s o.d 6]) ∧ (∀ x ∈ (t.cairn p).posted, x.index ≠ e.index) ∧ (t.cairn p).gen e.index = (k.gen e.index + 1) % 65536) ∧
    -- a message of the handle is landing, whether its entry is there or not
    (o.kind = .mtest → k.enabled = true → (∃ m ∈ k.landings, m.handle = some h) →
      (∀ e, k.entry h = some e → out = some (.performed, [.s o.d (if e.armed then 4 else 5)]) ∧ t.cairn p = k) ∧
      (k.entry h = none → out = some (.performed, [.s o.d 6]) ∧ t.cairn p = k)) ∧
    (o.kind = .mtest → k.enabled = true → k.entry h = none → (∀ m ∈ k.landings, m.handle ≠ some h) → out = some (.performed, [.s o.d 2]) ∧ t.cairn p = k) ∧
    -- an armed entry that is cancelled is removed, and its future resolved with STATUS 4 and length 0
    (o.kind = .mcancel → k.enabled = true → ∀ e, k.entry h = some e → e.armed = true →
      let s1 := (s.onCairn p (fun k => k.free e.index)).msgResolve p { cairnAgent with pol := o.pol, cls := o.cls, rel := o.deadline, who := { core := c, slot := sl, req := 2 } }
        (descFut e.desc) (msgWord 4 0 0 0) 0
      t = s1.setGroup c sl ((s1.group c sl).setOp { o with status := .performed, out := [.s o.d 0], reports := [] })) ∧
    (o.kind = .mpost → o.k = 0 → k.enabled = false → out = some (.performed, [.s o.d 4])) ∧
    (o.kind = .mprobe → k.enabled = false → o.dn = 2 → out = some (.performed, [.s o.d 0, .s (o.d + 1) 0]))

/-- `msend` (R342, R358, R360): a row that does not allow it traps; a disabled Cairn, an illegal record or 1,024 sends in progress answer 4, 3 or 2; else the message takes the next send number and
is recorded to be sent. -/
def Obligations.MessageSends : Prop :=
  ∀ (e : Bool) (d a : BitVec 7) (s : State), let I : Issue := { i := .msend e d a, e := e, fields := [sDstF d, (sSrcF a).many 8] }
    ready s → clean I s →
    let r := sendRec (fun j => ((grp s s).sreg (a.toNat + j)).toNat)
    let p := (grp s s).part
    let k := s.cairn p
    let row := s.fab.row r.dst
    let allowed := s.fab.drank ≠ 4095 ∧ rowPeer row = true ∧ rowMsg row = true ∧ (r.pds ≠ 0 → rowPwr row = true)
    let o := ({ seq := 0, path := 3, pc := 0, kind := .msend, d := d.toNat, dn := 1, dvec := false } : Op).withHints { (unit s s).hints with mo := none }
    let answered := fun (n : Nat) => enteredRaw s.ictx s { o with status := .performed, out := [.s d.toNat (d64 n)] }
    (¬ allowed → exec (.msend e d a) s = Next (trapped s 0x12 (d64 (r.buf + 3 * 2 ^ 57)))) ∧
    (allowed → room s 3 →
      (k.enabled = false → nextAt s (answered 4) → exec (.msend e d a) s = Next (goesOn I s (answered 4))) ∧
      (k.enabled = true → r.bad = true → nextAt s (answered 3) → exec (.msend e d a) s = Next (goesOn I s (answered 3))) ∧
      (k.enabled = true → r.bad = false → (s.part p).sendFault r (!(grp s s).privileged) = none →
        (1024 ≤ k.sends.length → nextAt s (answered 2) → exec (.msend e d a) s = Next (goesOn I s (answered 2))) ∧
        -- a task's payload is read as it issues
        (k.sends.length < 1024 → (grp s s).isTask = true → ∃ m : OutMsg,
          m.sid = k.sid ∧ m.dst = r.dst ∧ m.buf = r.buf ∧ m.fut = r.fut ∧ m.pstr = r.pstr ∧ m.rel = o.deadline ∧ m.pol = o.pol ∧ m.user = !(grp s s).privileged ∧
            m.core = s.cur.1 ∧ m.slot = s.cur.2.1 ∧ m.seq = s.seq ∧ m.hdr.msg.mlen = w32 r.len ∧ m.hdr.msg.mtag = w32 r.tag ∧ m.hdr.msg.ctx = BitVec.ofNat 16 r.ctx ∧
          (let s1 := (enteredRaw s.ictx s { o with vals := [d64 k.sid], out := [.s d.toNat (d64 (k.sid * 2 ^ 32))] }).onCairn p (fun k => { k with sid := (k.sid + 1) % 65536, sends := k.sends ++ [m] })
           nextAt s (s1.sendRead p m) → exec (.msend e d a) s = Next (goesOn I s (s1.sendRead p m)))) ∧
        (k.sends.length < 1024 → (grp s s).isTask = false → nextIn s →
          ∃ t m, exec (.msend e d a) s = Next t ∧ (t.cairn p).sends = k.sends ++ [m] ∧ (t.cairn p).sid = (k.sid + 1) % 65536 ∧ m.sid = k.sid ∧ m.dst = r.dst ∧ m.buf = r.buf ∧
            m.fut = r.fut ∧ m.pstr = r.pstr ∧ m.rel = o.deadline ∧ m.pol = o.pol ∧ m.user = !(grp s s).privileged ∧ m.hdr.msg.mlen = w32 r.len ∧ m.hdr.msg.mtag = w32 r.tag ∧ m.hdr.msg.ctx = BitVec.ofNat 16 r.ctx ∧
            (∃ q, (grp s t).ops = (grp s s).ops ++ [q] ∧ q.kind = .msend ∧ q.out = [.s d.toNat (d64 (k.sid * 2 ^ 32))] ∧ q.status = .issued) ∧
            inOrder s t e ∧ keepsS s t (fun _ => False) ∧ keepsV s t (fun _ => False))))

namespace Sys2Proof.Slice0

open Sys2Proof.Machine

/-! ### Resets -/

/-- Cores, caches, partitions, fabric and the offsets of the host window are as after power-on (R16). -/
def blank (t : State) : Prop := t.cores = [] ∧ t.l2 = [] ∧ t.far = [] ∧ t.parts = [] ∧ t.b2off = [] ∧ t.fab = {}

/-- What a write of a BAR0 register does: in recovery mode nothing but an Unsupported Request (R13), else what `P` says. -/
def onBar0 (i : Instr) (s : State) (off : Nat) (P : Prop) : Prop :=
  (s.pkg.recov = true → exec i s = Next (s.postMgmt (.unsupported (fnIndex s.args.fn) off))) ∧ (s.pkg.recov = false → P)

/-- A cold reset (R12 to R18): everything but the two flash images is lost; the first slot that verifies is taken and copied, with its repair section where a key vouches for it, and
with no slot the device is in recovery mode. Self-tests that were pending are unclassified (R11), and LASTRST stays until the reset ends. -/
def coldResets : Prop :=
  ∀ s : State, ∃ t, exec .coldReset s = Next t ∧ blank t ∧ t.hbm.store = [] ∧ t.pkg.flashA = s.pkg.flashA ∧ t.pkg.flashB = s.pkg.flashB ∧
    t.pkg.ready = false ∧ t.pkg.clocksStopped = false ∧ t.pkg.phase = .retraining ∧ t.pkg.kind = 0 ∧ t.pkg.tests = [] ∧ t.pkg.windows = [] ∧
    (∀ img slot, (s.pkg.flashA.vendorOk = true ∧ img = s.pkg.flashA ∧ slot = false ∨
        s.pkg.flashA.vendorOk = false ∧ s.pkg.flashB.vendorOk = true ∧ img = s.pkg.flashB ∧ slot = true) →
      t.pkg.recov = false ∧ t.pkg.imgok = true ∧ t.pkg.imgslot = slot ∧ t.pkg.image = some img ∧ t.pkg.idok = s.args.idOk ∧ t.pkg.lastrst = s.pkg.lastrst ∧
      (img.repair = .absent → t.pkg.repair = img.factory ∧ t.pkg.events = s.pkg.tests.map .unclassified) ∧
      (img.repair = .bad → t.pkg.repair = img.factory ∧ t.pkg.events = s.pkg.tests.map .unclassified ++ [.repbad]) ∧
      (∀ m, img.repair = .good m → s.args.idOk = true → t.pkg.repair = img.factory ++ m ∧ t.pkg.events = s.pkg.tests.map .unclassified)) ∧
    (s.pkg.flashA.vendorOk = false → s.pkg.flashB.vendorOk = false → t.pkg.recov = true ∧ t.pkg.imgok = false ∧ t.pkg.image = none ∧ t.pkg.lastrst = 0)

/-- A request for a warm reset is no register access in recovery mode (R13). -/
def resetAsked (s : State) : Prop := ∀ fn, s.args.src = .reg fn → s.pkg.recov = false

/-- An orderly warm reset (R15): who may ask for it while the device runs stops issue and abandons groups, tasks and what is still to be launched; L2 keeps its lines for the
write-back, and pending self-tests are unclassified (R11). During a reset the request is ignored. -/
def orderlyResets : Prop :=
  ∀ s : State,
    (resetAsked s → mayReset s.args.src = true → s.pkg.phase = .running →
      ∃ t, exec .orderlyWarmReset s = Next t ∧ t.pkg.phase = .writeBack ∧ t.pkg.ready = false ∧ (∀ c, (t.core c).groups = [] ∧ (t.core c).tasks = []) ∧ t.l2 = s.l2 ∧
        t.hbm = s.hbm ∧ t.parts = s.parts.map (fun e => (e.1, { e.2 with launches := [], graphs := [], deferred := [], reservation := none })) ∧
        t.pkg.tests = [] ∧ t.pkg.windows = [] ∧ t.pkg.events = s.pkg.events ++ s.pkg.tests.map .unclassified) ∧
    (resetAsked s → mayReset s.args.src = false ∨ s.pkg.phase ≠ .running → exec .orderlyWarmReset s = Next s) ∧
    (∀ fn, s.args.src = .reg fn → s.pkg.recov = true →
      exec .orderlyWarmReset s = Next (s.postMgmt (.unsupported (fnIndex fn) 0x1008)) ∧ exec .forcedWarmReset s = Next (s.postMgmt (.unsupported (fnIndex fn) 0x1008)))

/-- The write-back ends, or runs out of time: what L2 had dirty is in memory, all of it or as far as it came, and the state is cleared; LASTRST is to be 1 or 2 (R15, R16,
R18). -/
def orderlyEnds : Prop :=
  ∀ s : State,
    (s.pkg.phase = .writeBack →
      (∃ t, exec .orderlyWritebackEnd s = Next t ∧ blank t ∧ t.hbm.store = s.cleanAll.hbm.store ∧ t.hbm.mgs = s.cleanAll.hbm.mgs ∧ t.hbm.disabled = s.cleanAll.hbm.disabled ∧
        t.pkg.phase = .retraining ∧ t.pkg.kind = 1) ∧
      (∃ t, exec .orderlyResetTimeout s = Next t ∧ blank t ∧ t.hbm.store = (s.cleanSome s.args.n).hbm.store ∧ t.pkg.phase = .retraining ∧ t.pkg.kind = 2 ∧ t.pkg.tests = [])) ∧
    (s.pkg.phase ≠ .writeBack → exec .orderlyWritebackEnd s = Next s ∧ exec .orderlyResetTimeout s = Next s)

/-- A forced warm reset clears at once, in an orderly one too, whose write-back then stands as far as it came; it is ignored during a forced or a cold one, and from a virtual function
(R15). Storage, its poison, the interleave scheme and a disabled cache layer survive (R16, R22, R26). -/
def forcedResets : Prop :=
  ∀ s : State, resetAsked s →
    (mayReset s.args.src = true → s.pkg.phase ≠ .retraining ∨ s.pkg.kind = 1 →
      let s0 := if s.pkg.phase = .writeBack then s.cleanSome s.args.n else s
      ∃ t, exec .forcedWarmReset s = Next t ∧ blank t ∧ t.hbm.store = s0.hbm.store ∧ t.hbm.poison = s0.hbm.poison ∧ t.hbm.mgs = s0.hbm.mgs ∧ t.hbm.disabled = s0.hbm.disabled ∧
        t.pkg.ready = false ∧ t.pkg.phase = .retraining ∧ t.pkg.kind = 2 ∧ t.pkg.flashA = s.pkg.flashA ∧ t.pkg.flashB = s.pkg.flashB ∧ t.pkg.tests = [] ∧
        (s.pkg.phase = .running → t.pkg.events = s.pkg.events ++ s.pkg.tests.map .unclassified)) ∧
    (mayReset s.args.src = false → exec .forcedWarmReset s = Next s) ∧
    (s.pkg.phase = .retraining → s.pkg.kind ≠ 1 → exec .forcedWarmReset s = Next s)

/-- The retrains end: the saddle links first, or both; READY, the trained bits and LASTRST, and queues enabled before are watched (R17, R18, R77); in recovery mode, or before an image has been
accepted, the device stays as it is (R12, R13). -/
def retrains : Prop :=
  ∀ s : State,
    (s.pkg.phase = .retraining → s.pkg.recov = false → s.pkg.imgok = true →
      (s.args.saddleOnly = true → exec .retrainComplete s = Next { s with pkg := { s.pkg with sadtr := true } }) ∧
      (s.args.saddleOnly = false → exec .retrainComplete s = Next
        ({ s with pkg := { s.pkg with ready := true, hbmtr := true, sadtr := true, phase := .running, lastrst := s.pkg.kind } }).watchQueues)) ∧
    (s.pkg.phase ≠ .retraining ∨ s.pkg.recov = true ∨ s.pkg.imgok = false → exec .retrainComplete s = Next s)

/-! ### Power and health -/

/-- Operating points (R7, R8): a step down of 10 mV, never below 600 mV, with its cause; a step back up, and no cause once both dies are back. -/
def operatingPoints : Prop :=
  ∀ s : State, s.args.die < 2 → s.pkg.opPoint.length = 2 → s.pkg.lowered.length = 2 →
    let d := s.args.die
    let v := s.pkg.opPoint.getD d 0
    let n := s.pkg.lowered.getD d 0
    (∃ t, exec .operatingPointLower s = Next t ∧ t = { s with pkg := t.pkg } ∧ t.pkg.throt = s.args.cause ∧
      (600 < v → t.pkg.opPoint = s.pkg.opPoint.set d (v - 10) ∧ t.pkg.lowered = s.pkg.lowered.set d (n + 1)) ∧
      (v ≤ 600 → t.pkg.opPoint = s.pkg.opPoint ∧ t.pkg.lowered = s.pkg.lowered)) ∧
    (n = 0 → exec .operatingPointRaise s = Next s) ∧
    (n ≠ 0 → ∃ t, exec .operatingPointRaise s = Next t ∧ t = { s with pkg := t.pkg } ∧ t.pkg.opPoint = s.pkg.opPoint.set d (v + 10) ∧ t.pkg.lowered = s.pkg.lowered.set d (n - 1) ∧
      ((∀ m ∈ s.pkg.lowered.set d (n - 1), m = 0) → t.pkg.throt = .none) ∧ ((∃ m ∈ s.pkg.lowered.set d (n - 1), m ≠ 0) → t.pkg.throt = s.pkg.throt))

/-- A thermal shutdown stops all clocks (R8); a droop trip stretches the clock of one core, and more than 64 within a millisecond are a throttle cause (R9). -/
def clocks : Prop :=
  ∀ s : State,
    exec .thermalShutdown s = Next { s with pkg := { s.pkg with clocksStopped := true } } ∧
    (let c := s.args.core
     let recent := (s.core c).trips.filter (fun t => decide (s.pkg.tick < t + 125000))
     ∃ t, exec .droopTrip s = Next t ∧ t.core c = { s.core c with drooping := true, trips := recent ++ [s.pkg.tick] } ∧ (∀ d, d ≠ c → t.core d = s.core d) ∧
       (64 ≤ recent.length → t.pkg = { s.pkg with throt := .droop }) ∧ (recent.length < 64 → t.pkg = s.pkg)) ∧
    (∃ t, exec .droopRecovery s = Next t ∧ t.core s.args.core = { s.core s.args.core with drooping := false } ∧ (∀ d, d ≠ s.args.core → t.core d = s.core d) ∧ t.pkg = s.pkg)

/-- Self-tests (R10, R11): one error makes one test pending, later ones join it; the window takes the resource out of service; the result classifies it. -/
def selfTests : Prop :=
  ∀ s : State, let r := s.args.res
    (r ∈ s.pkg.tests → exec .targetedSelfTest s = Next s) ∧
    (r ∉ s.pkg.tests → exec .targetedSelfTest s = Next { s with pkg := { s.pkg with tests := s.pkg.tests ++ [r] } }) ∧
    (r ∈ s.pkg.tests → r ∉ s.pkg.windows → exec .selfTestForcedWindow s = Next { s with pkg := { s.pkg with windows := s.pkg.windows ++ [r] } }) ∧
    (r ∉ s.pkg.tests → exec .selfTestForcedWindow s = Next s ∧ exec .selfTestResult s = Next s) ∧
    (r ∈ s.pkg.tests → ∃ t, exec .selfTestResult s = Next t ∧ t = { s with pkg := t.pkg } ∧ t.pkg.tests = s.pkg.tests.erase r ∧ t.pkg.windows = s.pkg.windows.erase r ∧
      (s.args.pass = true → t.pkg.events = s.pkg.events ++ [.transient r] ∧ t.pkg.repair = s.pkg.repair ∧ t.pkg.degraded = s.pkg.degraded) ∧
      (s.args.pass = false → s.args.spare = true → t.pkg.events = s.pkg.events ++ [.retired r] ∧ t.pkg.repair = s.pkg.repair ++ [r]) ∧
      (s.args.pass = false → s.args.spare = false → t.pkg.events = s.pkg.events ++ [.noSpare r] ∧ r ∈ t.pkg.degraded ∧ t.pkg.repair = s.pkg.repair))

/-- What the management engine answers (R12 to R14, R17), and a written image slot. -/
def management : Prop :=
  ∀ s : State,
    let answered := fun (a : Answer) => { s with pkg := { s.pkg with answers := s.pkg.answers ++ [a] } }
    exec .repairExport s = Next (answered (.repair (Config.repairSection s.pkg.repair) (Config.sign (Config.repairSection s.pkg.repair)))) ∧
    (let written := fun (old : Image) => if s.args.repairOnly then { old with repair := s.args.img.repair } else s.args.img
     (s.args.slotB = false → exec .signedImageWrite s = Next { s with pkg := { s.pkg with flashA := written s.pkg.flashA } }) ∧
     (s.args.slotB = true → exec .signedImageWrite s = Next { s with pkg := { s.pkg with flashB := written s.pkg.flashB } })) ∧
    (s.pkg.idok = false ∨ s.pkg.image = none → exec .spdmRequest s = Next (answered .spdmError)) ∧
    (∀ img, s.pkg.idok = true → s.pkg.image = some img →
      exec .spdmRequest s = Next (answered (.measurements (Config.measure img s.pkg.repair) (Config.sign (Config.measure img s.pkg.repair))))) ∧
    ((s.pkg.ready = true ∨ s.pkg.recov = true) → exec .configurationRequest s = Next (answered .configuration)) ∧
    (s.pkg.ready = false → s.pkg.recov = false → exec .configurationRequest s = Next (answered .retryStatus))

/-! ### Main memory -/

/-- A request that is aligned, inside storage and at its own channel waits in that channel's queue in order of arrival (R25, R28). -/
def requestsArrive : Prop :=
  ∀ s : State, let r := s.args.req
    let g := (s.hbm.chanOf r.pa).1
    (s.pkg.ready = true → r.pa % (if r.big then 128 else 64) = 0 → r.pa < memEnd → g = s.args.chan →
      exec .memoryRequest s = Next { s with hbm := { s.hbm with
        queues := mput s.hbm.queues g (mget [] s.hbm.queues g ++ [{ id := s.hbm.nextReq, req := r, place := s.hbm.sectorOf r.pa, arrived := s.pkg.tick }]), nextReq := s.hbm.nextReq + 1 } }) ∧
    ((s.pkg.ready = false ∨ r.pa % (if r.big then 128 else 64) ≠ 0 ∨ memEnd ≤ r.pa ∨ g ≠ s.args.chan) → exec .memoryRequest s = Next s)

/-- The scheduler serves a request of the highest effective rank, and of those the first to arrive (R28, R29), at the place its address had when it came (R22), after what the error code finds
(R33). -/
def schedulerChooses : Prop :=
  (∀ s : State, chooseReq (mget [] s.hbm.queues s.args.chan) = none → exec .channelSchedule s = Next (s.touchChan s.args.chan)) ∧
  (∀ (s : State) (q : QReq) (h : Hbm) (bs : List Byte) (p : Bool), chooseReq (mget [] s.hbm.queues s.args.chan) = some q →
    let s1 := (s.touchChan s.args.chan).eccOutcome q.place.1 (q.place.2 + q.req.pa % 128) s.args.ecc
    s1.hbm.serve q = (h, bs, p) →
    exec .channelSchedule s = Next { s1 with hbm := { h with queues := mput h.queues s.args.chan ((mget [] s.hbm.queues s.args.chan).filter (fun x => x.id != q.id)), done := h.done ++ [(s.args.chan, q, bs, p)] } }) ∧
  (∀ (qs : List QReq) (q : QReq), chooseReq qs = some q → ∃ r, (q, r) ∈ effRanks qs ∧ ∀ y ∈ effRanks qs, Rank.lt y.2 r = false)

/-- A request older than 500 ticks is promoted (R28); a served one completes, and counts as missed only with a stamp that is past (R30). -/
def requestsEnd : Prop :=
  (∀ s : State, let qs := mget [] s.hbm.queues s.args.chan
    let late := fun (q : QReq) => q.id = s.args.id ∧ q.arrived + 500 < s.pkg.tick
    ((∃ q ∈ qs, late q) → exec .promotion s = Next { s with hbm := { s.hbm with queues := mput s.hbm.queues s.args.chan (qs.map (fun q => if late q then { q with promoted := true } else q)) } }) ∧
    ((∀ q ∈ qs, ¬ late q) → exec .promotion s = Next s)) ∧
  (∀ (s : State) (d : Nat × QReq × List Byte × Bool), s.hbm.done.find? (fun d => d.2.1.id == s.args.id) = some d →
    let left := s.hbm.done.filter (fun d => d.2.1.id != s.args.id)
    let missed := d.2.1.req.stamp ≠ 0 ∧ stampPast s.pkg.tick d.2.1.req.stamp.toNat = true
    (¬ missed → exec .memoryRequestComplete s = Next { s with hbm := { s.hbm with done := left } }) ∧
    (missed → exec .memoryRequestComplete s = Next { s with hbm := { s.hbm with done := left, missed := mput s.hbm.missed d.2.1.req.requester (min (mget 0 s.hbm.missed d.2.1.req.requester + 1) 0xFFFFFFFF) } })) ∧
  (∀ s : State, s.hbm.done.find? (fun d => d.2.1.id == s.args.id) = none → exec .memoryRequestComplete s = Next s)

/-- Ticks that requests to a bank waited on refresh are added to its count, which stops at its greatest value (R32). -/
def waited (m : Map Nat) (key n : Nat) : Map Nat := if n = 0 then m else mput m key (min (mget 0 m key + n) 0xFFFFFFFF)

/-- The oldest victim of a channel is written back (R25). A refresh is postponed while requests wait, at most eight times; the ninth forces an all-bank refresh, which settles all; one that is
performed settles one that is owed (R31, R32; which requests wait for a bank is the model's choice of log 86). -/
def upkeep : Prop :=
  (∀ s : State, (∀ v ∈ s.hbm.victims, v.1 ≠ s.args.chan) → exec .victimWriteback s = Next s) ∧
  (∀ (s : State) (b : CBlock) (us vs : List (Nat × CBlock)), s.hbm.victims = us ++ (s.args.chan, b) :: vs → (∀ v ∈ us, v.1 ≠ s.args.chan) →
    let s1 := s.touchChan s.args.chan
    exec .victimWriteback s = Next { s1 with hbm := { s1.hbm.writeBlock s.args.chan b with victims := us ++ vs } }) ∧
  (∀ s : State, s.args.chan < 384 → s.args.bank < 48 →
    let key := s.args.chan * 48 + s.args.bank
    let owed := mget 0 s.hbm.postponed key
    let postpones := s.args.postpone = true ∧ mget [] s.hbm.queues s.args.chan ≠ []
    (postpones → owed < 8 → exec .perBankRefresh s = Next { s with hbm := { s.hbm with postponed := mput s.hbm.postponed key (owed + 1) } }) ∧
    (postpones → 8 ≤ owed → ∃ t, exec .perBankRefresh s = Next t ∧ t = { s with hbm := { s.hbm with postponed := t.hbm.postponed, mcref := t.hbm.mcref, mcfab := t.hbm.mcfab } } ∧
      t.hbm.mcfab = mput s.hbm.mcfab s.args.chan (min (mget 0 s.hbm.mcfab s.args.chan + 1) 0xFFFFFFFF) ∧
      t.hbm.postponed = (List.range 48).foldl (fun m i => mdel m (s.args.chan * 48 + i)) s.hbm.postponed ∧
      t.hbm.mcref = (List.range 48).foldl (fun m i => waited m (s.args.chan * 48 + i) (s.args.waits.getD i 0)) s.hbm.mcref) ∧
    (¬ postpones → exec .perBankRefresh s = Next { s with hbm := { s.hbm with
      postponed := if owed = 0 then s.hbm.postponed else mput s.hbm.postponed key (owed - 1), mcref := waited s.hbm.mcref key s.args.n } })) ∧
  (∀ s : State, 384 ≤ s.args.chan ∨ 48 ≤ s.args.bank → exec .perBankRefresh s = Next s)

/-- The cache layer of a stack is disabled only after a lost tag, and empty then (R26); a scrub posts and poisons what it cannot correct, and starts a self-test for what it
can (R33, R35). -/
def scrubs : Prop :=
  ∀ s : State,
    ((∀ e ∈ s.pkg.events, ∀ k, e ≠ .tagloss s.args.stack k) → exec .cacheLayerDisable s = Next s) ∧
    (∀ k, .tagloss s.args.stack k ∈ s.pkg.events → s.args.stack ∉ s.hbm.disabled →
      ∃ t, exec .cacheLayerDisable s = Next t ∧ t.hbm.disabled = s.hbm.disabled ++ [s.args.stack] ∧ (∀ e ∈ t.hbm.layer, e.1 / 4096 % 12 ≠ s.args.stack) ∧
        (∀ v ∈ t.hbm.victims, v.1 % 12 ≠ s.args.stack)) ∧
    (s.pkg.ready = true → s.args.pa < memEnd →
      let g := (s.hbm.chanOf s.args.pa).1
      let x := (s.hbm.chanOf s.args.pa).2
      -- its read has arrived at the channel, in class 3 and with no deadline
      let s1 := { s.touchChan g with hbm := (s.touchChan g).hbm.arriveFirst (s.touchChan g).pkg.tick (s.args.pa / 64 * 64) 64 3 0 }
      (s.args.ecc = .clean → exec .patrolScrub s = Next s1) ∧
      (s.args.ecc = .corrected → exec .patrolScrub s = Next (s1.errorOn (.hbmRow g x))) ∧
      (s.args.ecc = .uncorrectable → ∃ t, exec .patrolScrub s = Next t ∧ t.hbm = s1.hbm.poisonPlace g (x / 64 * 64) ∧
        t.pkg.events = s.pkg.events ++ [.patrolPoison (s.args.pa / 64 * 64)]))

/-- The invalidation of stale far copies of a line lands (R194); one cache demotes its evict-last lines to normal (R171). -/
def cacheEvents : Prop :=
  ∀ s : State,
    exec .farCopyInvalidation s = Next { s with far := s.far.filter (fun f => !(f.stale && f.part == s.args.part && f.ia == s.args.line)) } ∧
    (∀ k, s.args.cache = .l2 k → exec .evictLastDemotion s = Next { s.touchChan (sliceMark k) with l2 := s.l2.map (fun l => if homeSlice l.ia == k && l.prio == 2 then { l with prio := 1 } else l) }) ∧
    (∀ c, s.args.cache = .l1 c → ∃ t, exec .evictLastDemotion s = Next t ∧ (t.core c).l1 = (s.core c).l1.map (fun l => if l.prio == 2 then { l with prio := 1 } else l) ∧
      (∀ d, d ≠ c → t.core d = s.core d) ∧ t.l2 = s.l2)

/-! ### Keys, links, checkpoints -/

/-- The key window (R50): GO takes the record as it stands, from the physical function only and not while one is being installed; it ends with the key on every port, or
with a failure code; each management command that waits is answered with how it ended (log 98). -/
def keyWindow : Prop :=
  (∀ s : State,
    let taken := fun (r : List Byte) (n : Nat) => { s with fab := { s.fab with kwState := 1, kwCode := 0, kwBusy := r, kwMctp := n } }
    onBar0 .keyWindowGo s 0x251C0
      ((s.args.fn = .pf → s.fab.kwState ≠ 1 → exec .keyWindowGo s = Next (taken (memBytes s.fab.kwrec 0 192) 0)) ∧
       (s.args.fn ≠ .pf ∨ s.fab.kwState = 1 → exec .keyWindowGo s = Next s)) ∧
    (s.fab.kwState ≠ 1 → exec .keyInstall s = Next (taken (bytesAt s.args.data 0 192) 1)) ∧
    (s.fab.kwState = 1 → exec .keyInstall s = Next { s with fab := { s.fab with kwMctp := s.fab.kwMctp + 1 } })) ∧
  (∀ s : State, s.fab.kwState ≠ 1 → exec .keyInstallDone s = Next s) ∧
  (∀ s : State, s.fab.kwState = 1 → match s.keyRecord s.fab.kwBusy with
  | .ok key =>
    ∃ t : State, exec .keyInstallDone s = Next t.pump ∧ t.fab.kwState = 2 ∧ t.fab.kwCode = 0 ∧ t.pkg.answers = s.pkg.answers ++ List.replicate s.fab.kwMctp (.key 2 0) ∧
      (∀ p, p < 72 → (mget {} (t.fab.port p).slots (2 * recPart s.fab.kwBusy + recGen s.fab.kwBusy)).present = true ∧
        (mget {} (t.fab.port p).slots (2 * recPart s.fab.kwBusy + recGen s.fab.kwBusy)).key = key ∧
        (mget {} (t.fab.port p).slots (2 * recPart s.fab.kwBusy + recGen s.fab.kwBusy)).txCount = 0 ∧
        (mget {} (t.fab.port p).slots (2 * recPart s.fab.kwBusy + recGen s.fab.kwBusy)).rxCount = 0)
  | .error c =>
    ∃ t : State, exec .keyInstallDone s = Next t.pump ∧ t.fab.kwState = 3 ∧ t.fab.kwCode = c ∧ t.fab.ports = s.fab.ports ∧
      t.pkg.events = s.pkg.events ++ [.keyRecord (recPart s.fab.kwBusy) c] ∧ t.pkg.answers = s.pkg.answers ++ List.replicate s.fab.kwMctp (.key 3 c))

/-- Flits (R49, R51): without a key KDROP counts; with a bad tag TAGFAIL counts, and the eighth in a row takes the port down; a good one clears the row and counts. A counter
that is exhausted is at its greatest value. -/
def flits : Prop :=
  ∀ s : State, let n := s.args.port
    let p := s.fab.port n
    let k := mget {} p.slots s.args.slot
    let failed := { s with fab := s.fab.setPort n { p with tagfail := satAdd p.tagfail 1, fails := p.fails + 1 } }
    (k.present = false → exec .flitReceive s = Next { s with fab := s.fab.setPort n { p with kdrop := satAdd p.kdrop 1 } }) ∧
    (k.present = true → s.args.tagOk = false → p.fails < 7 → exec .flitReceive s = Next failed) ∧
    (k.present = true → s.args.tagOk = false → 7 ≤ p.fails → exec .flitReceive s = Next (failed.portDown n).pump) ∧
    (k.present = true → s.args.tagOk = true → ∃ t, exec .flitReceive s = Next t ∧ (t.fab.port n).fails = 0 ∧
      (mget {} (t.fab.port n).slots s.args.slot).rxCount = k.rxCount + 1 ∧ (∀ m, m ≠ n → t.fab.port m = s.fab.port m)) ∧
    (k.present = true → ∃ t, exec .keyCounterExhausted s = Next t ∧ (mget {} (t.fab.port n).slots s.args.slot).txCount = 2 ^ 64 - 1) ∧
    (k.present = false → exec .keyCounterExhausted s = Next s)

/-- A port fails or is trained again (R45, R17), which in recovery mode (R13) and without an identity key (R14) none is; then what is held leaves as it can. -/
def ports : Prop :=
  ∀ s : State, let n := s.args.port
    (n < 72 → (s.fab.port n).up = true → ∃ t : State, exec .portFailure s = Next t.pump ∧ t.fab.port n = { s.fab.port n with up := false, fails := 0 } ∧
      t.pkg.events = s.pkg.events ++ [.portDown n] ∧ (∀ m, m ≠ n → t.fab.port m = s.fab.port m)) ∧
    (72 ≤ n ∨ (s.fab.port n).up = false → exec .portFailure s = Next s) ∧
    (n < 72 → s.pkg.recov = false → s.pkg.idok = true → ∃ t : State, exec .portRetrainComplete s = Next t.pump ∧
      t.fab.port n = { s.fab.port n with trained := true, up := true, fails := 0 } ∧ (∀ m, m ≠ n → t.fab.port m = s.fab.port m)) ∧
    (72 ≤ n ∨ s.pkg.recov = true ∨ s.pkg.idok = false → exec .portRetrainComplete s = Next s)

/-- Nothing arrives on a port that carries no traffic: before READY, down, or without a key (R17, R45, R49). -/
def onPort (i : Instr) (s : State) (P : Prop) : Prop := (s.carries s.args.port = false → exec i s = Next s) ∧ (s.carries s.args.port = true → P)

/-- Responses (R41, R42): one of a reserved kind is dropped (R40), one whose tag is free came late; else the tag is free again and the requester is told, a timeout in place of a
response being status 6. -/
def responses : Prop :=
  (∀ s : State, onPort .rsp s (
    (10 ≤ s.args.pkt.kind.toNat → exec .rsp s = Next (s.badPacket s.args.port)) ∧
    (s.args.pkt.kind.toNat < 10 → (∀ o ∈ s.fab.out, o.tag ≠ s.args.pkt.tag.toNat) →
      exec .rsp s = Next { s with fab := s.fab.setPort s.args.port { s.fab.port s.args.port with late := satAdd (s.fab.port s.args.port).late 1 } }) ∧
    (∀ o : Outstanding, s.args.pkt.kind.toNat < 10 → s.fab.out.find? (fun o => o.tag == s.args.pkt.tag.toNat) = some o →
      exec .rsp s = Next (({ s with fab := { s.fab with out := s.fab.out.filter (fun x => x.tag != o.tag) } }.pump).deliver o
        (if s.args.pkt.stat = 7 then 4 else s.args.pkt.stat.toNat) s.args.pkt.payload)))) ∧
  (∀ (s : State) (o : Outstanding), s.fab.out.find? (fun o => o.tag == s.args.tag && o.port != 72) = some o →
    exec .requestTimeout s = Next (({ s with fab := { s.fab with out := s.fab.out.filter (fun x => x.tag != o.tag) } }.pump).deliver o 6 [])) ∧
  (∀ s : State, (∀ o ∈ s.fab.out, o.tag ≠ s.args.tag ∨ o.port = 72) → exec .requestTimeout s = Next s)

/-- A response to the only request of a remote load puts each lane's word in its register and ends the operation; any other status is reported at `waitc 3` (R42, R302). -/
def remoteReplies : Prop :=
  ∀ (s : State) (c sl seq i : Nat) (o : Outstanding) (op : Op) (lanes : List Nat) (data : List Byte), (s.group c sl).op seq = some op → op.seq = seq → op.kind = .rld → op.dn = 1 →
    op.reqs = [(i, lanes)] →
    (((s.laneReply c sl seq i o 0 data).group c sl).op seq).map (fun p => (p.status, p.reqs, p.out, p.reports)) =
      some (.performed, [], op.out ++ laneWrites op.d 1 (lanes.map (fun j => (j, [w32 (recField data (op.ias.getD j 0 - o.pkt.ia.toNat) 4)]))) 0 false, op.reports) ∧
    (∀ stat, stat ≠ 0 → ((((s.laneReply c sl seq i o stat data).group c sl).op seq).map (fun p => p.reports)) =
      some (op.reports ++ [{ op.report (if stat = 2 then 0x11 else if stat = 3 then 0x12 else 0x13) (o.va + stat * 2 ^ 57) with lane := i }]))

/-- Checkpoints (R55): none starts before READY (R17), while a partition runs, nor from a list that is empty or names what cannot be streamed (log 96); an abort,
once the packet in flight is answered, and the last answer end one. -/
def checkpoints : Prop :=
  ∀ s : State,
    let failed := fun (s : State) (c : Nat) => { s with fab := { s.fab with ckptState := 3, ckptCode := c } }
    let n := s.fab.ckptDesc.toNat / 2 ^ 52
    let base := s.fab.ckptDesc.toNat % 2 ^ 52
    let busy := ∃ e ∈ s.parts, e.2.st = 1 ∨ e.2.st = 2 ∨ e.2.st = 5
    let list := (List.range n).foldl (fun (acc : State × List (Nat × Nat × Nat × Nat)) i =>
      ((acc.1.memRead (base + 32 * i) 32 2).1, acc.2 ++ [ckptEntry (acc.1.memRead (base + 32 * i) 32 2).2.1])) (s.cleanAll, [])
    onBar0 .checkpointGo s 0x26008
      ((s.args.fn ≠ .pf ∨ s.fab.ckptState = 1 ∨ s.pkg.ready = false → exec .checkpointGo s = Next s) ∧
       (s.args.fn = .pf → s.fab.ckptState ≠ 1 → s.pkg.ready = true → busy → exec .checkpointGo s = Next (failed s 2)) ∧
       (s.args.fn = .pf → s.fab.ckptState ≠ 1 → s.pkg.ready = true → ¬ busy →
         (n = 0 ∨ base % 32 ≠ 0 ∨ memEnd < base + 32 * n → exec .checkpointGo s = Next (failed s 1)) ∧
         (n ≠ 0 → base % 32 = 0 → base + 32 * n ≤ memEnd →
           ((∃ e ∈ list.2, ckptBad e = true) → exec .checkpointGo s = Next (failed list.1 1)) ∧
           ((∀ e ∈ list.2, ckptBad e = false) → ∃ t, exec .checkpointGo s = Next t ∧ t.fab.ckptState = 1 ∧ t.fab.ckptList = list.2)))) ∧
    onBar0 .checkpointAbort s 0x26008
      ((s.args.fn = .pf → s.fab.ckptState = 1 → s.fab.ckptOpen = 0 → exec .checkpointAbort s = Next (failed s 3)) ∧
       (s.args.fn = .pf → s.fab.ckptState = 1 → s.fab.ckptOpen ≠ 0 → exec .checkpointAbort s = Next { s with fab := { s.fab with ckptAborting := true } }) ∧
       (s.args.fn ≠ .pf ∨ s.fab.ckptState ≠ 1 → exec .checkpointAbort s = Next s)) ∧
    (s.fab.ckptState = 1 → s.fab.ckptOpen = 0 → ckptPieces s.fab.ckptList ≤ s.fab.ckptNext →
      exec .checkpointDone s = Next { s with fab := { s.fab with ckptState := 2, ckptCode := 0 } }) ∧
    (s.fab.ckptOpen ≠ 0 ∨ s.fab.ckptState ≠ 1 → exec .checkpointDone s = Next s)

/-! ### Requests of other devices -/

/-- The five requests, with the number of their kind. -/
def requestKinds : List (Instr × Nat) := [(.rd, 0), (.wr, 1), (.wrm, 2), (.atomRequest, 3), (.pwr, 5)]
/-- The packet as the kind names it. -/
def asKind (s : State) (k : Nat) : Packet := { s.args.pkt with kind := BitVec.ofNat 4 k }

/-- A request that breaks the rules of packets, or of a reserved kind, is dropped and counted (R40); one of a job that no partition holds is denied (R39); one that its partition performs is
answered on its port with what `serveIn` gives, and one that waits for a page, or behind an earlier one to its block (R44), is parked (R41). Nothing arrives before READY, or on a
port that is down or has no key (R17, R49). A multicast write is counted for its group once it is performed (R346), and a slot that comes
late is dropped (R48). -/
def requestsServed : Prop :=
  ∀ (s : State) (i : Instr) (k : Nat), (i, k) ∈ requestKinds ∨ (i = .mcw ∧ k = 4) →
    let pkt := asKind s k
    let port := s.args.port
    let s0 := if i = .atomRequest ∧ s.args.ecc ≠ .clean then s.atomEcc pkt else s
    let parked := fun (t : State) (p n : Nat) => t.setPart p { t.part p with parked := (t.part p).parked ++ [(n, .remote port pkt)] }
    onPort i s ((10 ≤ s.args.pkt.kind.toNat → exec i s = Next (s.badPacket port)) ∧
    (s.args.pkt.kind.toNat < 10 →
      (s.args.pkt.rsvSet = true → exec i s = Next (s.badPacket port)) ∧
      (s.args.pkt.rsvSet = false → s.partOfJob pkt.job.toNat = none → exec i s = Next (s0.respond port pkt 5 [])) ∧
      (∀ p, s.args.pkt.rsvSet = false → s0.partOfJob pkt.job.toNat = some p → i ≠ .mcw →
        (∀ n, (s0.part p).behind pkt = some n → exec i s = Next (parked s0 p n)) ∧
        (∀ t stat data, (s0.part p).behind pkt = none → s0.serveIn p pkt = (t, .rsp stat data) → exec i s = Next (t.respond port pkt stat data)) ∧
        (∀ t n, (s0.part p).behind pkt = none → s0.serveIn p pkt = (t, .park n) → exec i s = Next (parked t p n))) ∧
      (∀ p, s.args.pkt.rsvSet = false → s.partOfJob pkt.job.toNat = some p → i = .mcw →
        (s.lateSlot pkt = true → exec i s = Next (s.respond port pkt 0 [])) ∧
        (∀ n, s.lateSlot pkt = false → (s.part p).behind pkt = some n → exec i s = Next (parked s p n)) ∧
        (∀ t stat data, s.lateSlot pkt = false → (s.part p).behind pkt = none → s.serveIn p pkt = (t, .rsp stat data) →
          exec i s = Next ((if stat = 0 then t.mcwCount pkt else t).respond port pkt stat data)) ∧
        (∀ t n, s.lateSlot pkt = false → (s.part p).behind pkt = none → s.serveIn p pkt = (t, .park n) → exec i s = Next (parked t p n)))))

/-- A request waits behind an earlier one of its sender, to its 256 B block, that is parked (R44); multicast writes among themselves, per group. -/
def blocksOrdered : Prop :=
  ∀ (p : Part) (pkt : Packet),
    (∀ pre n port q post, p.parked = pre ++ (n, .remote port q) :: post → q.src = pkt.src → q.ia.toNat / 256 = pkt.ia.toNat / 256 → q.kind ≠ 4 → pkt.kind ≠ 4 →
      (∀ e ∈ pre, ∀ r x, e.2 = .remote r x → x.src ≠ pkt.src ∨ x.ia.toNat / 256 ≠ pkt.ia.toNat / 256 ∨ x.kind = 4) → p.behind pkt = some n) ∧
    ((∀ e ∈ p.parked, ∀ r x, e.2 = .remote r x → x.src ≠ pkt.src ∨ x.ia.toNat / 256 ≠ pkt.ia.toNat / 256) → p.behind pkt = none)

/-- What a partition answers (R41, R42, R54): the bytes read, POISON where one is poisoned; a write done; the old value of an atomic; UNSUP for an operation or depth that does not
exist. -/
def requestAnswers : Prop :=
  ∀ (s : State) (p : Nat) (pkt : Packet), pkt.ia.toNat / 2 ^ 48 ≠ 15 →
    (∀ t bs bad, pkt.kind = 0 → s.homeReads (remoteAcc p pkt false) 4 pkt.ia.toNat (pkt.len.toNat + 1) [] false = (t, .ok (bs, bad)) →
      s.serveIn p pkt = (t, if bad then .rsp 2 [] else .rsp 0 bs)) ∧
    (∀ t, (pkt.kind = 1 ∨ pkt.kind = 2 ∨ pkt.kind = 4) → s.maskedWrite (remoteAcc p pkt true) pkt.ia.toNat (packetWrites pkt) = (t, .ok ()) →
      s.serveIn p pkt = (t.landFar, .rsp 0 [])) ∧
    (pkt.kind = 3 → 17 < pkt.aop.toNat → s.serveIn p pkt = (s, .rsp 3 [])) ∧
    (∀ t old, pkt.kind = 3 → pkt.aop.toNat ≤ 17 → s.remoteAtomic (remoteAcc p pkt true) pkt.aop.toNat pkt.ia.toNat pkt.payload = (t, .ok (some old)) →
      s.serveIn p pkt = (t.landFar, .rsp 0 (leBytes (atomBytes pkt.aop.toNat) old))) ∧
    (∀ t, pkt.kind = 0 → s.homeReads (remoteAcc p pkt false) 4 pkt.ia.toNat (pkt.len.toNat + 1) [] false = (t, .fatal) →
      s.serveIn p pkt = ((t.fault p pkt.ia.toNat false true { req := 3 }).1, .rsp 4 [])) ∧
    (pkt.kind = 5 → (pkt.pdep.toNat = 0 ∨ 24 < pkt.pdep.toNat) → s.serveIn p pkt = (s, .rsp 3 []))

/-- Only RD and WR reach the image of a key-value page: any other kind ends as an unresolvable fault (R211, R42). -/
def imageAnswers : Prop :=
  ∀ (s : State) (p : Nat) (pkt : Packet), pkt.ia.toNat / 2 ^ 48 = 15 → 1 < pkt.kind.toNat → s.serveIn p pkt = ((s.fault p pkt.ia.toNat true true { req := 3 }).1, .rsp 4 [])

/-- The response packet (R42, R43): on the port the request came on, to its sender, with its tag and job; it waits behind those held there and leaves once the port can transmit it
(R45, R49). -/
def responsePacket : Prop :=
  ∀ (s : State) (port : Nat) (req : Packet) (stat : Nat) (data : List Byte), stat < 8 → s.fab.drank < 4096 →
    ∃ r, s.respond port req stat data = ({ s with fab := { s.fab with heldRsp := s.fab.heldRsp ++ [(port, r)] } }).pump ∧ r.kind = 9 ∧ r.dst = req.src ∧ r.src.toNat = s.fab.drank ∧
      r.tag = req.tag ∧ r.job = req.job ∧ r.stat.toNat = stat ∧ r.payload = data ∧
      (s.fab.heldRsp = [] → (s.fab.port port).live = true → s.laneOut port = false → (s.fab.port port).canSend r = true →
        ∃ more, (s.respond port req stat data).fab.tx = s.fab.tx ++ (port, r) :: more) ∧
      ((s.fab.port port).canSend r = false → (port, r) ∈ (s.respond port req stat data).fab.heldRsp)

/-! ### The Cairn -/

/-- A packet for the Cairn is taken: its port carries traffic, it is legal, no packet is held before it, the channel is not held, and its partition's Cairn is enabled. -/
def cairnTakes (s : State) (k p : Nat) : Prop :=
  s.carries s.args.port = true ∧ s.fab.heldIn = [] ∧ s.args.pkt.kind.toNat < 10 ∧ s.args.pkt.rsvSet = false ∧ (k ≠ 8 → s.args.pkt.msg.pds.toNat < 25) ∧ s.channelHeld = false ∧ s.partOfJob s.args.pkt.job.toNat = some p ∧
  (s.cairn p).enabled = true

/-- The first packet of an eager message that nothing matches is queued where there is room, and refused otherwise (R58, R63); a header is queued, and holds the channel when it fills the queue;
while the channel is held every packet for it stays at its port, in order, and goes on once it is free (R65). -/
def messagesArrive : Prop :=
  (∀ (s : State) (p : Nat), let k := s.cairn p
    (cairnTakes s 6 p → s.args.pkt.msg.frag = 0 → s.args.pkt.src.toNat ∉ k.refusing → k.match (asKind s 6) = none →
      let room := (s.args.pkt.msg.mlen = 0 ∨ k.slotsUsed < k.slots) ∧ 16384 + k.unexpected.length < k.entries
      (room → ∃ t m, exec .msge s = Next t ∧ (t.cairn p).unexpected = k.unexpected ++ [m] ∧ m.src = s.args.pkt.src.toNat ∧ m.sid = s.args.pkt.msg.sid.toNat ∧
        m.data = bytesAt s.args.pkt.payload 0 (min 256 s.args.pkt.msg.mlen.toNat) ∧ m.entry = k.nextEntry ∧
        m.slot = (if s.args.pkt.msg.mlen = 0 then none else some k.nextSlot) ∧ (t.cairn p).refusing = k.refusing) ∧
      (¬ room → ∃ t, exec .msge s = Next t ∧ (t.cairn p).unexpected = k.unexpected ∧ (t.cairn p).refusing = k.refusing ++ [s.args.pkt.src.toNat])) ∧
    (cairnTakes s 7 p → s.args.pkt.src.toNat ∉ k.refusing → k.match (asKind s 7) = none →
      ∃ t m, exec .msgh s = Next t ∧ (t.cairn p).unexpected = k.unexpected ++ [m] ∧ m.src = s.args.pkt.src.toNat ∧ m.sid = s.args.pkt.msg.sid.toNat ∧ m.entry = k.nextEntry ∧ m.slot = none ∧
        (t.cairn p).held = decide (k.entries ≤ k.unexpected.length + 1))) ∧
  (∀ (s : State) (i : Instr) (k : Nat), i = .msge ∧ k = 6 ∨ i = .msgh ∧ k = 7 ∨ i = .fin ∧ k = 8 →
    let illegal := 10 ≤ s.args.pkt.kind.toNat ∨ s.args.pkt.rsvSet = true ∨ (k ≠ 8 ∧ 25 ≤ s.args.pkt.msg.pds.toNat)
    onPort i s ((illegal → exec i s = Next (s.badPacket s.args.port)) ∧
    (¬ illegal → s.channelHeld = true → exec i s = Next { s with fab := { s.fab with heldIn := s.fab.heldIn ++ [(s.args.port, asKind s k)] } }) ∧
    (¬ illegal → s.takeHeld.channelHeld = false → exec i s = Next (s.takeHeld.messageIn s.args.port (asKind s k))) ∧
    (¬ illegal → s.fab.heldIn = [] → s.channelHeld = false → (∀ p, s.partOfJob s.args.pkt.job.toNat = some p → (s.cairn p).enabled = false) →
      exec i s = Next (s.respond s.args.port (asKind s k) 5 [])))) ∧
  (∀ (s : State) (port : Nat) (pkt : Packet) (rest : List (Nat × Packet)), s.fab.heldIn = (port, pkt) :: rest → s.channelHeld = false →
    let t := ({ s with fab := { s.fab with heldIn := rest } } : State).messageIn port pkt
    t.fab.heldIn = rest → s.takeHeld = t.takeHeld) ∧
  (∀ s : State, s.fab.heldIn = [] ∨ s.channelHeld = true → s.takeHeld = s)

/-- FIN ends the send it names (R57). -/
def finEnds : Prop :=
  ∀ (s : State) (p : Nat) (m : OutMsg), cairnTakes s 8 p → (s.cairn p).sends.find? (fun m => m.sid == s.args.pkt.msg.sid.toNat && m.dst == s.args.pkt.src.toNat) = some m → m.fut = 0 →
    ∃ t, exec .fin s = Next t ∧ (t.cairn p).sends = (s.cairn p).sends.filter (fun x => !(x.sid == m.sid && x.seq == m.seq)) ∧ t.l2 = s.l2

/-- A message is sent once the earlier accesses of its group are performed (R342): a long one goes as its header, the payload of an eager one is read and staged, and both leave in their turn (R58); a
payload that cannot be read, or is poisoned, ends the send with status 2 or 3 (R69). -/
def payloadReads : Prop :=
  (∀ s : State, (∀ m ∈ (s.cairn s.args.part).sends, m.sid ≠ s.args.sid) → exec .payloadRead s = Next s) ∧
  (∀ (s : State) (m : OutMsg), let p := s.args.part
    let s1 := ((s.group m.core m.slot).ops.filter (fun o => decide (o.seq < m.seq) && o.kind.isMem)).foldl (fun s o => s.performSeq m.core m.slot o.seq) s
    -- accesses of the group, those of its collectives and message instructions among them, and a fabric barrier (R342, R349)
    let mine := fun (o : Op) => o.seq < m.seq ∧ (o.kind.isMem = true ∨ o.kind ∈ [.mpost, .mprobe, .car, .cbc, .cbar])
    let s2 := s1.landFrom m.core 3
    (s.cairn p).sends.find? (fun m => m.sid == s.args.sid) = some m →
    (m.staged = true → exec .payloadRead s = Next ((s.inject p m.dst).headerLeft p m)) ∧
    (m.staged = false → (∃ o ∈ (s1.group m.core m.slot).ops, mine o ∧ o.status ≠ .performed) → exec .payloadRead s = Next s1) ∧
    (m.staged = false → (∀ o ∈ (s1.group m.core m.slot).ops, mine o → o.status = .performed) →
      (m.eager = false → exec .payloadRead s = Next ((s2.onCairn p (fun k => k.setSend { m with staged := true })).inject p m.dst)) ∧
      (∀ t u bs n, m.eager = true → s2.readPayload p m = (t, .ok (bs, false)) → t.homeWrites (cairnAcc p) 66 ((t.cairn p).staging m.sid) bs = (u, .ok n) →
        exec .payloadRead s = Next (((u.onCairn p (fun k => k.setSend { m with staged := true, payload := bs })).sendCounted m).inject p m.dst)) ∧
      (∀ t v, m.eager = true → s2.readPayload p m = (t, .fault v) → exec .payloadRead s = Next (t.sendDone p m 2 0)) ∧
      (∀ t bs, m.eager = true → s2.readPayload p m = (t, .ok (bs, true)) → exec .payloadRead s = Next (t.sendDone p m 3 0)) ∧
      -- the staging slot that has no translation ends it too
      (∀ t u bs, m.eager = true → s2.readPayload p m = (t, .ok (bs, false)) → t.homeWrites (cairnAcc p) 66 ((t.cairn p).staging m.sid) bs = (u, .fatal) →
        exec .payloadRead s = Next ((u.fault p (u.fatalAt (cairnAcc p) ((t.cairn p).staging m.sid) bs.length) true true { core := m.core, slot := m.slot, req := 2 }).1.sendDone p m 2 0)) ∧
      -- a page fault parks the send; a task's ends it with the task (R214, R218)
      (∀ t ia, m.eager = true → s2.readPayload p m = (t, .page ia) → let f := t.fault p ia false false { core := m.core, slot := m.slot, req := 2 }
        ((f.1.group m.core m.slot).isTask = true → exec .payloadRead s = Next (((f.1.onCairn p (fun k => k.dropSend m)).sendCounted m).abortTask m.core m.slot (some f.2))) ∧
        (∀ o, (f.1.group m.core m.slot).isTask = false → (f.1.group m.core m.slot).op m.seq = some o →
          exec .payloadRead s = Next (f.1.setGroup m.core m.slot ((f.1.group m.core m.slot).setOp { o with status := .parked f.2 }))))))

/-- Refused messages to a destination leave again as headers, once no packet of the partition to it is outstanding and there are tags for them (R63). -/
def resends : Prop :=
  ∀ s : State, let p := s.args.part
    let refused := (s.cairn p).sends.filter (fun m => m.dst == s.args.dst && m.refused)
    let waits := ∃ o ∈ s.fab.out, o.pkt.dst.toNat = s.args.dst ∧ (o.pkt.kind = 6 ∨ o.pkt.kind = 7) ∧ ∃ sid, o.who = .cairn p sid
    (refused = [] ∨ waits ∨ s.fab.full refused.length = true → exec .refusedResend s = Next s) ∧
    (refused ≠ [] → ¬ waits → s.fab.full refused.length = false →
      exec .refusedResend s = Next ((refused.foldl (fun t m =>
        let t := t.onCairn p (fun k => k.setSend { m with refused := false })
        t.sendReq (.cairn p m.sid) 0 (m.stamped t.pkg.tick (m.header (t.windowIa p m) true))) s).inject p s.args.dst))

/-- A finished landing goes, and its future is resolved with status, sender, tag and length (R69); the sender of a rendezvous message gets FIN, once a tag is free for it (R66). One that has not
ended goes on. -/
def receivesComplete : Prop :=
  ∀ s : State, let p := s.args.part
    let mine := (s.cairn p).landings.filter (fun m => m.src == s.args.dst && m.sid == s.args.sid)
    (mine = [] → exec .cairnCompletion s = Next s) ∧
    (∀ m ms, mine = m :: ms → (∀ x ∈ mine, x.finished = false) → exec .cairnCompletion s = Next (s.advance p m)) ∧
    (∀ m, mine.find? InMsg.finished = some m →
      let ended := ((s.onCairn p (fun k => { k with landings := k.landings.filter (fun x => x.order != m.order) })).landFar).msgResolve p cairnAgent (descFut m.desc)
        (msgWord m.status m.hdr.msg.sep.toNat m.src m.hdr.msg.ctx.toNat) (msgValue m.hdr.msg.mtag.toNat m.landed)
      (isHeader m.hdr = false → exec .cairnCompletion s = Next ended) ∧
      (isHeader m.hdr = true → s.fab.full 1 = true → exec .cairnCompletion s = Next s) ∧
      (isHeader m.hdr = true → s.fab.full 1 = false → ∃ f : Packet, exec .cairnCompletion s = Next (ended.sendReq (.cairn p m.sid) 0 f) ∧ f.kind = 8 ∧
        f.dst = BitVec.ofNat 12 m.src ∧ f.job = m.hdr.job ∧ f.msg.sid = m.hdr.msg.sid ∧ f.msg.pds = BitVec.ofNat 5 m.status ∧
        f.msg.mlen = w32 (if descPlaned m.desc then m.landed * (4 * (m.depth + 2)) else m.landed)))

/-- CCTL (R71): EN is set by the physical function where the staging region and the entries are configured, and empties match entries and queue; clearing it empties them too. -/
def cairnControls : Prop :=
  ∀ s : State, let p := s.args.part
    let configured := (s.cairn p).reg 0x38 / 2 ^ 23 % 2 ^ 29 ≠ 0 ∧ 16384 ≤ (s.cairn p).reg 0x18 % 2 ^ 21
    onBar0 .cctlEnSet s (0x30020 + 0x40 * p)
      ((s.args.fn ≠ .pf ∨ ¬ configured → exec .cctlEnSet s = Next s) ∧
       (s.args.fn = .pf → configured → ∃ t, exec .cctlEnSet s = Next t ∧ (t.cairn p).enabled = true ∧ (t.cairn p).posted = [] ∧ (t.cairn p).unexpected = [])) ∧
    onBar0 .cctlEnClear s (0x30020 + 0x40 * p)
      ((s.args.fn ≠ .pf → exec .cctlEnClear s = Next s) ∧
       (s.args.fn = .pf → ∃ t, exec .cctlEnClear s = Next t ∧ (t.cairn p).enabled = false ∧ (t.cairn p).posted = [] ∧ (t.cairn p).unexpected = [] ∧
         (t.cairn p).landings = (s.cairn p).landings ∧ (t.cairn p).sends = (s.cairn p).sends))

/-- A collective for which something is missing times out: D becomes 1, the group is broken and its counts are gone; else it does not (R347, R348). An entry written VALID after it was not is whole
again, and its upper bits hold nothing (R46, R347). -/
def collectiveEnds : Prop :=
  (∀ (s : State) (i : Instr) (c sl seq : Nat) (o : Op), (s.fab.coll s.args.group).busy = some (c, sl, seq) → (s.group c sl).op seq = some o → o.seq = seq → o.status = .sent →
    (i = .carTimeout ∧ (o.kind = .car ∨ o.kind = .cbar)) ∨ (i = .cbcTimeout ∧ o.kind = .cbc ∧ o.k ≠ 1) →
    let u := s.fab.coll s.args.group
    -- a slot of the bank, once the member's own has left; a piece of the broadcast
    let missing := (o.kind ≠ .cbc ∧ (∀ x ∈ s.fab.out, x.who = .coll s.args.group seq → x.port ≠ 72) ∧ ∃ i, i < u.count ∧ (u.bank, i) ∉ u.arrived) ∨
      (o.kind = .cbc ∧ u.broadcast (o.vals.getD 1 0).toNat = none)
    (missing → ∃ t, exec i s = Next t ∧ t.fab.coll s.args.group = { u with busy := none, failed := false, broken := true, arrived := [], landed := [] } ∧
      ((t.group c sl).op seq).map (fun o => (o.status, o.out)) = some (.performed, [.s o.d 1])) ∧
    (¬ missing → exec i s = Next s)) ∧
  (∀ s : State, (s.fab.coll s.args.group).busy = none → exec .carTimeout s = Next s ∧ exec .cbcTimeout s = Next s) ∧
  (∀ s : State, onBar0 .mcgWrite s (0x28000 + 8 * s.args.group) ((s.args.fn ≠ .pf → exec .mcgWrite s = Next s) ∧
    (s.args.fn = .pf → ∃ t, exec .mcgWrite s = Next t ∧ t = { s with fab := { s.fab with colls := t.fab.colls } } ∧
      (t.fab.coll s.args.group).count = s.args.v.toNat % 4096 ∧ (t.fab.coll s.args.group).index = s.args.v.toNat / 4096 % 4096 ∧
      (t.fab.coll s.args.group).valid = s.args.v.getLsbD 24 ∧
      (let u := s.fab.coll s.args.group
       let w := t.fab.coll s.args.group
       (s.args.v.getLsbD 24 = true → w.bank = 0 ∧ (u.valid = false → w.broken = false ∧ w.arrived = [] ∧ w.landed = []) ∧
         (u.valid = true → w.broken = u.broken ∧ w.arrived = u.arrived ∧ w.landed = u.landed)) ∧
       (s.args.v.getLsbD 24 = false → w.bank = u.bank ∧ w.broken = u.broken ∧ w.arrived = u.arrived ∧ w.landed = u.landed)) ∧
      (∀ g, g ≠ s.args.group → t.fab.coll g = s.fab.coll g))))

end Sys2Proof.Slice0

namespace Sys2Proof.Slice0

open Sys2Proof.Machine

/-! ### Partitions -/

/-- The state after a partition command that finds its partition in no state for it (R75). -/
def badCommand (s : State) : State := s.postMgmt (.pcmdbad s.args.part)

/-- A key is listed at most once. -/
def listedOnce {α : Type} (m : Map α) (k : Nat) : Prop := mfind (mdel m k) k = none

/-- A command of a function that may not give it changes nothing (R72). -/
def refusedTo (s : State) (i : Instr) : Prop := mayWrite s.args.fn s.args.part = false → exec i s = Next s

/-- `form` (R75, R149): an absent partition with units that no other holds becomes ready, without the degraded cores, with its rules disabled and the query slots of its cores empty (R321); with windows, lines leave L2 before. -/
def forms : Prop :=
  ∀ s : State, let p := s.args.part
    let pt := s.part p
    let there := s.setPart p { pt with st := 1, without := s.pkg.degraded.filterMap degradedCore, rules := [] }
    onBar0 .form s (0x3004 + 0x40 * p) (refusedTo s .form ∧
      (mayWrite s.args.fn p = true → pt.st = 0 → pt.units ≠ 0 → s.unitsTaken p = false → ∃ formed : State, formed = { there with cores := formed.cores } ∧
        (∀ c, formed.core c = if c ∈ (there.part p).cores then { s.core c with queries := [] } else s.core c) ∧
        (pt.shen = false → exec .form s = Next formed) ∧
        (pt.shen = true → exec .form s = Next (formed.shrinkL2 (8 * s.l2.length + 1)))) ∧
      (mayWrite s.args.fn p = true → pt.st ≠ 0 ∨ pt.units = 0 ∨ s.unitsTaken p = true → exec .form s = Next (badCommand s)))

/-- `halt` asks every group of a running partition to stop, and no other (R75, R104); the partition is halted when nothing of it runs or is parked. `resume` withdraws what
`halt` asked, or starts the swap in of a partition whose units are free (R75, R84). -/
def haltsAndResumes : Prop :=
  (∀ s : State, let p := s.args.part
    let pt := s.part p
    onBar0 .halt s (0x3004 + 0x40 * p) (refusedTo s .halt ∧ (mayWrite s.args.fn p = true →
      (pt.st = 1 → ∃ t : State, exec .halt s = Next t ∧ (t.part p) = { pt with st := 2 } ∧ t.l2 = s.l2 ∧ t.hbm = s.hbm ∧
        ∀ c sl, (t.group c sl) = if (s.group c sl).part = p ∧ (s.group c sl).holder = .group ∧ (s.group c sl).preempt = .none then { s.group c sl with preempt := .requested }
          else s.group c sl) ∧
      (pt.st ≠ 1 → exec .halt s = Next (badCommand s)))) ∧
    onBar0 .resume s (0x3004 + 0x40 * p) (refusedTo s .resume ∧ (mayWrite s.args.fn p = true →
      (pt.st = 3 → ∃ t : State, exec .resume s = Next t ∧ (t.part p) = { pt with st := 1 } ∧ t.l2 = s.l2 ∧ t.hbm = s.hbm ∧
        ∀ c sl, t.group c sl = if (s.group c sl).part = p then { s.group c sl with preempt := .none } else s.group c sl) ∧
      (pt.st = 4 → s.unitsTaken p = false → exec .resume s = Next (s.setPart p { pt with st := 5 })) ∧
      (pt.st ≠ 3 → pt.st ≠ 4 ∨ s.unitsTaken p = true → exec .resume s = Next (badCommand s))))) ∧
  (∀ s : State, (s.part s.args.part).st ≠ 2 → exec .haltDone s = Next s) ∧
  (∀ s : State, let p := s.args.part
    let settled := (s.cores.filter (fun k => k.2.groups.any (fun e => e.2.part == p))).foldl (fun s k => s.settle k.1) s
    let rests := (∀ k ∈ settled.cores, ∀ g ∈ k.2.groups, g.2.part = p → g.2.holder ≠ .task ∧ g.2.ops = [] ∧ g.2.fxAdds = [] ∧ g.2.rwAdds = [] ∧ (∀ n, g.2.waitRec ≠ some (n, false)) ∧ (g.2.holder = .free ∨ g.2.preempt = .stopped)) ∧
      ∀ e ∈ (settled.part p).parked, e.2.halts = false
    (s.part p).st = 2 → (rests → exec .haltDone s = Next (settled.setPart p { settled.part p with st := 3 })) ∧ (¬ rests → exec .haltDone s = Next settled))

/-- Swaps (R75, R84): out, the L1 lines of the cores are home, the cores' state is held with the partition, the cores are free, and the save area has taken it; in, it is back, and
the groups run on. Neither reaches memory before READY (R17). -/
def swaps : Prop :=
  (∀ s : State, onBar0 .swapOut s (0x3004 + 0x40 * s.args.part) (refusedTo s .swapOut ∧ (mayWrite s.args.fn s.args.part = true →
    ((s.part s.args.part).st = 3 → exec .swapOut s = Next (s.setPart s.args.part { s.part s.args.part with st := 5 })) ∧
    ((s.part s.args.part).st ≠ 3 → exec .swapOut s = Next (badCommand s))))) ∧
  (∀ s : State, let p := s.args.part
    let pt := s.part p
    let home := pt.cores.foldl (fun s c => (s.l1Flush c).touchChan (coreMark c)) s
    (pt.st ≠ 5 ∨ s.pkg.ready = false → exec .swapOutDone s = Next s ∧ exec .swapInDone s = Next s) ∧
    (pt.st = 5 → pt.saved ≠ [] → exec .swapOutDone s = Next s) ∧
    (pt.st = 5 → pt.saved = [] → exec .swapInDone s = Next s) ∧
    (pt.st = 5 → s.pkg.ready = true → pt.saved = [] → ∃ (t : State) (saved : List Saved),
      exec .swapOutDone s = Next ((t.saveArea p).setPart p { (t.saveArea p).part p with st := 4, saved := saved }) ∧ t = { home with cores := t.cores } ∧ saved.map Saved.core = pt.cores ∧
      (∀ v ∈ saved, v.groups = (home.core v.core).groups ∧ v.lmem = (home.core v.core).lmem ∧ v.frames = (home.core v.core).frames ∧
        v.queries = (home.core v.core).queries ∧ v.tasks = (home.core v.core).tasks ∧ v.pair = (home.core v.core).pair ∧ v.quarters = (home.core v.core).quarters ∧
        v.matrix = (home.core v.core).matrix ∧ v.lpoison = (home.core v.core).lpoison ∧ v.passed = (home.core v.core).passed ∧ v.lastQueue = (home.core v.core).lastQueue) ∧
      (∀ c ∈ pt.cores, (t.core c).groups = [] ∧ (t.core c).lmem = [] ∧ (t.core c).tasks = [] ∧ (t.core c).l1 = []) ∧
      (∀ c, c ∉ pt.cores → t.core c = home.core c)) ∧
    (pt.st = 5 → s.pkg.ready = true → pt.saved ≠ [] → (pt.saved.map Saved.core).Nodup → ∃ t : State, exec .swapInDone s = Next t ∧ (t.part p).st = 1 ∧ (t.part p).saved = [] ∧
      t.hbm = { s.hbm with touched := t.hbm.touched } ∧
      (∀ v ∈ pt.saved, (t.core v.core).lmem = v.lmem ∧ (t.core v.core).frames = v.frames ∧ (t.core v.core).queries = v.queries ∧ (t.core v.core).tasks = v.tasks ∧
        (t.core v.core).passed = v.passed ∧ (t.core v.core).lastQueue = v.lastQueue ∧ (t.core v.core).pair = v.pair ∧ (t.core v.core).groups = v.groups.map (fun e => (e.1, if e.2.part == p then { e.2 with preempt := .none } else e.2))) ∧
      (∀ c, c ∉ pt.saved.map Saved.core → (t.core c).lmem = (s.core c).lmem ∧ (t.core c).tasks = (s.core c).tasks)))

/-- `dissolve` (R75): nothing of the partition runs or waits but the resolutions of completion futures, its ranges and rules are gone, and its units are free. -/
def dissolves : Prop :=
  ∀ s : State, let p := s.args.part
    let pt := s.part p
    onBar0 .dissolve s (0x3004 + 0x40 * p) (refusedTo s .dissolve ∧ (mayWrite s.args.fn p = true →
      (pt.st = 1 ∨ pt.st = 3 ∨ pt.st = 4 → ∃ t : State, exec .dissolve s = Next t ∧ (t.part p).st = 0 ∧ (t.part p).launches = [] ∧ (t.part p).graphs = [] ∧
        (t.part p).reservation = none ∧ (t.part p).deferred = [] ∧ (t.part p).ranges = [] ∧ (t.part p).rules = [] ∧ 
        -- what is under way at a home slice for a completion future goes on (log 65), and nothing else that waited
        (∀ e ∈ pt.parked, e.2.outlives = true → e ∈ (t.part p).parked) ∧ (∀ e ∈ (t.part p).parked, ∃ ag inh steps, e.2 = .acts ag inh steps) ∧
        (t.part p).saved = [] ∧ (t.part p).cairn.sends = [] ∧ (t.part p).cairn.landings = [] ∧
        (pt.st ≠ 4 → ∀ c ∈ pt.cores, (t.core c).groups = [] ∧ (t.core c).tasks = [] ∧ (t.core c).queries = [] ∧ ∀ f ∈ (t.core c).frames, f.part ≠ p)) ∧
      (pt.st ≠ 1 → pt.st ≠ 3 → pt.st ≠ 4 → exec .dissolve s = Next (badCommand s))))

/-! ### The host window and the register map -/

/-- The lines of a range of a virtual function are written in order; a line on a write-protected page waits (R216), and whatever comes behind it (R72); one that cannot be written ends the
write, with its fault record (R214, log 131). -/
def linesWritten (p : Nat) : List (Nat × Bool × Nat) → List Byte → State → State × Bool
  | [], _, s => (s, true)
  | (ia, so, n) :: more, bs, s =>
    if (s.part p).hostHolds then linesWritten p more (bs.drop n) (s.hostHold p (.host ia so (bs.take n)))
    else match s.homeWrite (hostAcc p so true) ia (bs.take n) [] with
    | (t, .ok _) => linesWritten p more (bs.drop n) t
    | (t, .held) => linesWritten p more (bs.drop n) (t.hostHold p (.host ia so (bs.take n)))
    | (t, .page) => ((t.fault p ia true false { req := 4 }).1, false)
    | (t, .fatal) => ((t.fault p ia true true { req := 4 }).1, false)

/-- The lines of a range are read in order, up to one that cannot be, which leaves its fault record (R214, log 131). -/
def linesRead (p : Nat) : List (Nat × Bool × Nat) → List Byte → State → State × Option (List Byte)
  | [], got, s => (s, some got)
  | (ia, so, n) :: more, got, s =>
    match s.homeRead (hostAcc p so false) ia n with
    | (t, .ok (b, _)) => linesRead p more (got ++ b) t
    | (t, .page) => ((t.fault p ia false false { req := 4 }).1, none)
    | (t, .fatal) => ((t.fault p ia false true { req := 4 }).1, none)
    | (t, .held) => (t, none)

/-- BAR2 (R17, R72): before READY an access is unsupported; the physical function addresses memory, a virtual function its partition's ranges; an access that has no
translation is answered so and changes nothing. -/
def hostWindow : Prop :=
  (∀ s : State, s.pkg.ready = false → ∃ t, exec .bar2Write s = Next t ∧ exec .bar2Read s = Next t ∧ t.hbm = s.hbm ∧ t.l2 = s.l2 ∧
    t.pkg.events = s.pkg.events ++ [.unsupported (fnIndex s.args.fn) s.args.off] ∧ t.bar2 = s.bar2 ++ [(fnIndex s.args.fn, none)]) ∧
  (∀ s : State, s.pkg.ready = true → s.args.fn = .pf → let a := s.bar2Addr .pf s.args.off
    let n := s.args.data.length
    (a + n ≤ memEnd → exec .bar2Write s = Next (((s.flushPa a n).paWrite (n + 1) a s.args.data).paSeen a n)) ∧
    (a + n ≤ memEnd → s.l2 = [] → s.args.data ≠ [] → a % 128 + n ≤ 128 → exec .bar2Write s = Next ((s.memWriteAt a s.args.data [] 1).paSeen a n)) ∧
    (memEnd < a + n → exec .bar2Write s = Next (s.hostAnswer .pf none)) ∧
    (∀ t bs, a + s.args.n ≤ memEnd → (s.flushPa a s.args.n).paRead (s.args.n + 1) a s.args.n [] = (t, bs) → exec .bar2Read s = Next (t.hostAnswer .pf (some bs))) ∧
    (a + s.args.n ≤ memEnd → s.l2 = [] → 0 < s.args.n → a % 128 + s.args.n ≤ 128 → ∀ t bs bad, s.memRead a s.args.n 1 = (t, bs, bad) → exec .bar2Read s = Next (t.hostAnswer .pf (some bs))) ∧
    (memEnd < a + s.args.n → exec .bar2Read s = Next (s.hostAnswer .pf none))) ∧
  (∀ (s : State) (p : Nat), s.pkg.ready = true → s.args.fn = .vf p → let va := vaMod (s.bar2Addr (.vf p) s.args.off)
    let out := (s.part p).hostRange { wr := true } (s.args.data.length + 1) va s.args.data.length
    let from_ := (s.part p).hostRange { rd := true } (s.args.n + 1) va s.args.n
    (out = none → exec .bar2Write s = Next (s.hostAnswer (.vf p) none)) ∧
    (∀ l t, out = some l → linesWritten p l s.args.data s = (t, true) → exec .bar2Write s = Next t) ∧
    (∀ l t, out = some l → linesWritten p l s.args.data s = (t, false) → exec .bar2Write s = Next (t.hostAnswer (.vf p) none)) ∧
    -- a read waits for the earlier writes of its function (R72)
    ((s.part p).hostHolds = true → exec .bar2Read s = Next (s.hostHold p (.hostRead va s.args.n))) ∧
    ((s.part p).hostHolds = false → from_ = none → exec .bar2Read s = Next (s.hostAnswer (.vf p) none)) ∧
    (∀ l t r, (s.part p).hostHolds = false → from_ = some l → linesRead p l [] s = (t, r) → exec .bar2Read s = Next (t.hostAnswer (.vf p) r)) ∧
    ((s.part p).hostHolds = false → s.args.data ≠ [] → va % 128 + s.args.data.length ≤ 128 →
      (∀ e, (s.part p).xlate va s.args.data.length { wr := true } = .error e → exec .bar2Write s = Next (s.hostAnswer (.vf p) none)) ∧
      (∀ ia so t n, (s.part p).xlate va s.args.data.length { wr := true } = .ok (ia, so) → s.homeWrite (hostAcc p so true) ia s.args.data [] = (t, .ok n) →
        exec .bar2Write s = Next t) ∧
      (∀ ia so t, (s.part p).xlate va s.args.data.length { wr := true } = .ok (ia, so) → s.homeWrite (hostAcc p so true) ia s.args.data [] = (t, .held) →
        exec .bar2Write s = Next (t.hostHold p (.host ia so s.args.data))) ∧
      (∀ ia so t, (s.part p).xlate va s.args.data.length { wr := true } = .ok (ia, so) → s.homeWrite (hostAcc p so true) ia s.args.data [] = (t, .page) →
        exec .bar2Write s = Next ((t.fault p ia true false { req := 4 }).1.hostAnswer (.vf p) none)) ∧
      (∀ ia so t, (s.part p).xlate va s.args.data.length { wr := true } = .ok (ia, so) → s.homeWrite (hostAcc p so true) ia s.args.data [] = (t, .fatal) →
        exec .bar2Write s = Next ((t.fault p ia true true { req := 4 }).1.hostAnswer (.vf p) none))) ∧
    ((s.part p).hostHolds = false → 0 < s.args.n → va % 128 + s.args.n ≤ 128 →
      (∀ e, (s.part p).xlate va s.args.n { rd := true } = .error e → exec .bar2Read s = Next (s.hostAnswer (.vf p) none)) ∧
      (∀ ia so t bs bad, (s.part p).xlate va s.args.n { rd := true } = .ok (ia, so) → s.homeRead (hostAcc p so false) ia s.args.n = (t, .ok (bs, bad)) →
        exec .bar2Read s = Next (t.hostAnswer (.vf p) (some bs)))))

/-- A 32-bit write of BAR0 leaves `t` (R72): nothing where the function may not change the register; 4 bytes of a key record; half of a 64-bit register, the other half kept; or a
32-bit register. -/
def wordWritten (s : State) (off n : Nat) (t : State) : Prop :=
  let pl := placeAt off
  let old := (s.regValue s.args.id pl).toNat
  (pl.mayChange s.args.fn = false → t = s) ∧
  (pl.mayChange s.args.fn = true →
    (∀ b, pl = .kwrec b → t = { s with fab := { s.fab with kwrec := memWrite s.fab.kwrec b (leBytes 4 n) } }) ∧
    (∀ g r, pl = .mcg g r → t = if r < 4 then s.mcgWrite g (d64 n) else s) ∧
    ((∀ b, pl ≠ .kwrec b) → (∀ g r, pl ≠ .mcg g r) →
      (pl.is64 = false → t = s.regSet s.args.fn s.args.id s.args.idOk s.args.n (d64 n) pl) ∧
      (pl.is64 = true → t = s.regSet s.args.fn s.args.id s.args.idOk s.args.n (d64 (if off % 8 = 4 then old % 2 ^ 32 + n * 2 ^ 32 else old / 2 ^ 32 * 2 ^ 32 + n)) pl)))

/-- Writes of the register map: a function that may not change a register changes nothing (R72); UNITS only while the partition is absent (R73); DRANK only with no job
valid (R52); a write of 8 bytes is one of a 64-bit register, or two of 32 bits. In recovery mode only HSTAT answers (R13). -/
def registerMap : Prop :=
  ∀ s : State, let off := s.args.off / 4 * 4
    let pl := placeAt off
    let v := s.args.v
    (s.pkg.recov = true → off ≠ 0x1000 → exec .registerWrite s = Next (s.postMgmt (.unsupported (fnIndex s.args.fn) off))) ∧
    (off = 0x1000 → exec .registerWrite s = Next s) ∧
    (s.pkg.recov = false → (
      (s.args.wide = false → ∃ t, exec .registerWrite s = Next t ∧ wordWritten s off (v.toNat % 2 ^ 32) t) ∧
      (s.args.wide = true → pl.is64 = true → off % 8 = 0 → exec .registerWrite s = Next (if pl.mayChange s.args.fn then s.regSet s.args.fn s.args.id s.args.idOk s.args.n v pl else s)) ∧
      (s.args.wide = true → pl.is64 = false ∨ off % 8 ≠ 0 → ∃ t u, exec .registerWrite s = Next u ∧ wordWritten s off (v.toNat % 2 ^ 32) t ∧
        u = t.regWrite32 s.args.fn s.args.id s.args.idOk s.args.n (off + 4) (v.toNat / 2 ^ 32)) ∧
      (s.args.wide = false →
        (pl.mayChange s.args.fn = false → exec .registerWrite s = Next s) ∧
        (∀ p, p < 8 → off = 0x3000 + 0x40 * p → s.args.fn = .pf → ∃ t, exec .registerWrite s = Next t ∧ t = s.setPart p (t.part p) ∧
          (t.part p).units = (if (s.part p).st = 0 then BitVec.ofNat 8 v.toNat else (s.part p).units) ∧
          (t.part p).rwpmax = BitVec.ofNat 3 (v.toNat / 256) ∧ (t.part p).userrw = v.getLsbD 11 ∧ (t.part p).shen = v.getLsbD 12 ∧ (t.part p).st = (s.part p).st) ∧
        (off = 0x25000 → s.args.fn = .pf → (∀ e ∈ s.fab.pjob, e.2.2 = false) → exec .registerWrite s = Next { s with fab := { s.fab with drank := v.toNat % 4096 } }) ∧
        (off = 0x25000 → (∃ e ∈ s.fab.pjob, e.2.2 = true) → exec .registerWrite s = Next s))))

/-! ### Fault records -/

/-- FQRES and FQR (R215): a write from another function, or of no open record, changes nothing; the record named is closed and what waits for it is tried again, and a group that
stalls on it goes on, or, where it is unresolvable, finds it so; FQR frees slots, and what waits for them is posted. -/
def recordsResolved : Prop :=
  ∀ s : State, let p := s.args.part
    let pt := s.part p
    let named := fun (r : FaultRec) => r.seq = s.args.v.toNat % 2 ^ 32 ∧ r.posted = true
    onBar0 .fqres s (0x3230 + 0x40 * p) (refusedTo s .fqres ∧
      (mayWrite s.args.fn p = true → (∀ r ∈ pt.records, ¬ named r) → exec .fqres s = Next s) ∧
      (∀ r, mayWrite s.args.fn p = true → pt.records.find? (fun r => r.seq == s.args.v.toNat % 2 ^ 32 && r.posted) = some r →
        let closed := s.setPart p { pt with records := pt.records.filter (fun x => x.seq != r.seq) }
        let tried := closed.replayRecord p r.seq r.page (s.args.v.getLsbD 32)
        exec .fqres s = Next (postRecords p ((tried.part p).records.length + 1) tried) ∧
        ((∀ r ∈ pt.records, r.posted = true) →
          s.args.v.getLsbD 32 = false → s.opsWhere p (fun o => o.waitsFor r.seq) = [] → (∀ k ∈ s.cores, ∀ e ∈ k.2.groups, e.2.part = p → e.2.fxAdds = [] ∧ e.2.rwAdds = []) → (∀ e ∈ pt.parked, e.1 ≠ r.seq) →
          (∀ k ∈ s.cores, ∀ t ∈ k.2.tasks, t.blocked ≠ some r.seq) → (∀ m ∈ pt.cairn.landings, m.parked ≠ some r.seq) →
          ∃ t : State, exec .fqres s = Next t ∧ (t.part p).records = pt.records.filter (fun x => x.seq != r.seq) ∧ t.hbm = s.hbm ∧ t.l2 = s.l2 ∧
            ∀ c sl, (s.group c sl).part = p → (s.group c sl).abortRec = none →
              t.group c sl = if (s.group c sl).waitRec = some (r.seq, false) then { s.group c sl with waitRec := none } else s.group c sl))) ∧
    onBar0 .fqr s (0x3228 + 0x40 * p) (refusedTo s .fqr ∧ (mayWrite s.args.fn p = true →
      exec .fqr s = Next (postRecords p (pt.records.length + 1) (s.setPart p { pt with fqr := s.args.v })) ∧
      ((∀ r ∈ pt.records, r.posted = true) → exec .fqr s = Next (s.setPart p { pt with fqr := s.args.v }))))

/-! ### Launches -/

/-- What the enabling of a queue leaves, once W has been read and R written (R77). -/
def watched (s : State) (p q : Nat) (w : List Byte) : State :=
  s.setLq p q { s.lq p q with state := 1, code := 0, r := d64 (leNat w), seen := d64 (leNat w), waiting := false, parked := false }

/-- Launch queues (R77, R78): who may enable one reads W, which becomes R; before READY it is not watched (R17); a page fault or a write-protected page makes it wait; disabling it stops it. On a
notification the watcher reads W again: a page fault parks it (R214), a W that cannot be read or is poisoned stops the queue with code 3 (log 56), a lower one with code 2 (log 132), one beyond
its slots with code 1. -/
def launchQueues : Prop :=
  ∀ s : State, let p := s.args.part
    let q := s.args.queue
    let x := s.lq p q
    onBar0 .lqEnable s (lqOffset p q)
      ((mayWrite s.args.fn p = false ∨ 64 ≤ q ∨ x.en = true → exec .lqEnable s = Next s) ∧
      (mayWrite s.args.fn p = true → q < 64 → x.en = false → let s1 := s.setLq p q { x with en := true }
        (s.pkg.ready = false → exec .lqEnable s = Next s1) ∧
        (s.pkg.ready = true → ∀ t, 
          (s1.homeRead { part := p, sor := true } x.lineIa 8 = (t, .page) → exec .lqEnable s = Next (t.lqPark p q x.lineIa false)) ∧
          (s1.homeRead { part := p, sor := true } x.lineIa 8 = (t, .held) → exec .lqEnable s = Next t) ∧
          (s1.homeRead { part := p, sor := true } x.lineIa 8 = (t, .fatal) → exec .lqEnable s = Next ((t.fault p x.lineIa false true { req := 5 }).1.lqStop p q 3)) ∧
          ∀ w bad, s1.homeRead { part := p, sor := true } x.lineIa 8 = (t, .ok (w, bad)) →
            (bad = true → exec .lqEnable s = Next (t.lqStop p q 3)) ∧
            (∀ u, bad = false →
              (∀ n, t.lqWriteR p q (d64 (leNat w)) = (u, .ok n) → exec .lqEnable s = Next (watched u p q w)) ∧
              (t.lqWriteR p q (d64 (leNat w)) = (u, .page) → exec .lqEnable s = Next (u.lqPark p q x.lineIa true)) ∧
              (t.lqWriteR p q (d64 (leNat w)) = (u, .held) → exec .lqEnable s = Next (u.lqHold p q)) ∧
              (t.lqWriteR p q (d64 (leNat w)) = (u, .fatal) → exec .lqEnable s = Next ((u.fault p x.lineIa true true { req := 5 }).1.lqStop p q 3)))))) ∧
    onBar0 .lqDisable s (lqOffset p q)
      ((mayWrite s.args.fn p = false ∨ 64 ≤ q → exec .lqDisable s = Next s) ∧
      (mayWrite s.args.fn p = true → q < 64 → ∃ t : State, exec .lqDisable s = Next t ∧ t = { s with parts := t.parts } ∧
        t.lq p q = { x with en := false, state := 0, code := 0, waiting := false, parked := false } ∧ (∀ r, r ≠ q → t.lq p r = s.lq p r) ∧ (∀ r, r ≠ p → t.part r = s.part r) ∧
        (t.part p).parked = (s.part p).parked.filter (fun e => e.2 != .queueRead q))) ∧
    (s.pkg.ready = false ∨ x.waiting = false ∨ x.state ≠ 1 ∨ x.parked = true → exec .writeIndexNotify s = Next s) ∧
    (s.pkg.ready = true → x.waiting = true → x.state = 1 → x.parked = false → ∀ t,
      (s.homeRead { part := p, sor := true } x.lineIa 8 = (t, .page) → exec .writeIndexNotify s = Next (t.lqPark p q x.lineIa false)) ∧
      (s.homeRead { part := p, sor := true } x.lineIa 8 = (t, .held) → exec .writeIndexNotify s = Next t) ∧
      (s.homeRead { part := p, sor := true } x.lineIa 8 = (t, .fatal) → exec .writeIndexNotify s = Next ((t.fault p x.lineIa false true { req := 5 }).1.lqStop p q 3)) ∧
      (∀ b, s.homeRead { part := p, sor := true } x.lineIa 8 = (t, .ok (b, true)) → exec .writeIndexNotify s = Next (t.lqStop p q 3)) ∧
      (∀ b, s.homeRead { part := p, sor := true } x.lineIa 8 = (t, .ok (b, false)) → let w := d64 (leNat b)
        (w.toNat < x.seen.toNat → exec .writeIndexNotify s = Next (t.lqStop p q 2)) ∧
        (x.seen.toNat ≤ w.toNat → x.slots < (w - x.r).toNat → exec .writeIndexNotify s = Next (t.lqStop p q 1)) ∧
        (x.seen.toNat ≤ w.toNat → (w - x.r).toNat ≤ x.slots → exec .writeIndexNotify s = Next (t.setLq p q { t.lq p q with seen := w, waiting := false }))))

/-- A launch record is read (R78, R80): R goes up by one, and the launch waits for its placement; a record that fails is gone at once, its completion future resolved. A record that
cannot be read stops its queue; a page fault, or a write-protected index line, makes the queue wait (R214, R216). -/
def recordReads : Prop :=
  ∀ s : State, let p := s.args.part
    let q := s.args.queue
    let x := s.lq p q
    (s.pkg.ready = false ∨ x.state ≠ 1 ∨ x.parked = true ∨ x.r = x.seen → exec .launchRecordRead s = Next s) ∧
    (s.pkg.ready = true → x.state = 1 → x.parked = false → x.r ≠ x.seen → let va := vaMod (nbits x.ring.toNat 7 50 * 128 + 128 * (x.r.toNat % x.slots))
      (∀ e, (s.part p).xlate va 128 { rd := true } = .error e → exec .launchRecordRead s = Next (s.lqStop p q 3)) ∧
      (∀ ia sor t, (s.part p).xlate va 128 { rd := true } = .ok (ia, sor) →
        (s.homeRead { part := p, sor := sor } ia 128 = (t, .page) → exec .launchRecordRead s = Next (t.lqPark p q ia false)) ∧
        (s.homeRead { part := p, sor := sor } ia 128 = (t, .held) → exec .launchRecordRead s = Next t) ∧
        (s.homeRead { part := p, sor := sor } ia 128 = (t, .fatal) → exec .launchRecordRead s = Next ((t.fault p ia false true { req := 5 }).1.lqStop p q 3)) ∧
        (∀ r, s.homeRead { part := p, sor := sor } ia 128 = (t, .ok (r, true)) → exec .launchRecordRead s = Next (t.lqStop p q 3)) ∧
        (∀ r u, s.homeRead { part := p, sor := sor } ia 128 = (t, .ok (r, false)) →
          (t.lqWriteR p q (x.r + 1) = (u, .page) → exec .launchRecordRead s = Next (u.lqPark p q (x.lineIa + 8) true)) ∧
          (t.lqWriteR p q (x.r + 1) = (u, .held) → exec .launchRecordRead s = Next (u.lqHold p q)) ∧
          (t.lqWriteR p q (x.r + 1) = (u, .fatal) → exec .launchRecordRead s = Next ((u.fault p (x.lineIa + 8) true true { req := 5 }).1.lqStop p q 3)) ∧
          (∀ n, t.lqWriteR p q (x.r + 1) = (u, .ok n) →
            let l : Launch := { id := (u.part p).nextLaunch, record := r, node := none }
            let listed := (u.part p).launches ++ [l]
            let shapeless := lrKind r = 0 ∧ (u.part p).rectangles (lrWidth r) (lrHeight r) = []
            (lrBad r = false → ¬ shapeless →
              ∃ v : State, exec .launchRecordRead s = Next v ∧ (v.lq p q).r = x.r + 1 ∧ v.cores = u.cores ∧ v.hbm = u.hbm ∧ (v.part p).launches = listed) ∧
            (lrBad r = true ∨ shapeless → ∃ v : State, exec .launchRecordRead s = Next (v.launchEnd p l (if lrBad r then 1 else 3)) ∧ (v.lq p q).r = x.r + 1 ∧ v.cores = u.cores ∧
              v.hbm = u.hbm ∧ (v.part p).launches = listed)))))

/-- A cluster is placed (R76, R88, R90): with the header read, and segment 0 where a core lacks it, team g of every core of the rectangle starts at ENTRY, with the registers
that the launch and its place in the grid give it. Code that is not aligned, cannot be read, or has no good header fails the launch with status 2; a page fault makes it wait. A node of
a graph that has waited, and a ready graph, come first (R83); nothing is placed while an orderly reset writes back (R15). -/
def placements : Prop :=
  (∀ s : State, (s.part s.args.part).st ≠ 1 ∨ s.pkg.phase = .writeBack → exec .clusterPlacement s = Next s) ∧
  (∀ s : State, let p := s.args.part
    let pt := s.part p
    let graph := pt.launches.find? (fun l => lrKind l.record == 1 && l.graph.isNone && l.failed.isNone && !l.parked && pt.ready l)
    pt.st = 1 → s.pkg.phase ≠ .writeBack →
    (∀ g l n, pt.graphs.findSome? (Part.nextNode pt) = some (g, l, n) →
      exec .clusterPlacement s = Next ((s.onGraph p g (fun x => { x with pending := x.pending.drop 1 })).startNode p g l.record (lrCode l.record % 2 ^ 57) n)) ∧
    (∀ l, pt.graphs.findSome? (Part.nextNode pt) = none → graph = some l → exec .clusterPlacement s = Next (s.startGraph p l)) ∧
    (pt.graphs.findSome? (Part.nextNode pt) = none → graph = none → (∀ l ∈ pt.order, s.fits p l = none) → exec .clusterPlacement s = Next s) ∧
    (∀ l cs, pt.graphs.findSome? (Part.nextNode pt) = none → graph = none → pt.order.findSome? (fun l => (s.fits p l).map (fun cs => (l, cs))) = some (l, cs) →
      let code := lrCode l.record
      let fails := fun (t : State) => t.onLaunch p l.id (fun l => { l with failed := some 2 })
      -- a load of its segment by a `cfetch` is waited for (R356)
      ((∃ c ∈ cs, (s.core c).segLoading p (lrSeg l.record) = true) → exec .clusterPlacement s = Next s) ∧
      ((∀ c ∈ cs, (s.core c).segLoading p (lrSeg l.record) = false) →
      (2 ^ 57 ≤ code ∨ code % 4096 ≠ 0 → exec .clusterPlacement s = Next (fails s)) ∧
      (code < 2 ^ 57 → code % 4096 = 0 → ∀ t1 n1,
        (s.readCode p code 64 = (t1, .page, n1) → exec .clusterPlacement s = Next (t1.launchPark p l.id n1)) ∧
        (s.readCode p code 64 = (t1, .held, n1) → exec .clusterPlacement s = Next t1) ∧
        (s.readCode p code 64 = (t1, .fatal, n1) → exec .clusterPlacement s = Next (fails t1)) ∧
        (∀ h, s.readCode p code 64 = (t1, .ok h, n1) →
          let resident := ∀ c ∈ cs, ((t1.core c).resident p (code / 4096 + 1)).isSome = true
          (headerOk h = false → exec .clusterPlacement s = Next (fails t1)) ∧
          (headerOk h = true → ¬ resident → ∀ t2 n2,
            (t1.readCode p (code + 4096) 4096 = (t2, .page, n2) → exec .clusterPlacement s = Next (t2.launchPark p l.id n2)) ∧
            (t1.readCode p (code + 4096) 4096 = (t2, .held, n2) → exec .clusterPlacement s = Next t2) ∧
            (t1.readCode p (code + 4096) 4096 = (t2, .fatal, n2) → exec .clusterPlacement s = Next (fails t2))) ∧
          (∀ t2, headerOk h = true → (resident ∧ t2 = t1 ∨ ¬ resident ∧ ∃ seg n2, t1.readCode p (code + 4096) 4096 = (t2, .ok seg, n2)) → cs.Nodup →
            (∀ c ∈ cs, ((t2.core c).teamSlots (lrTeam l.record)).Nodup) →
            ∃ u : State, exec .clusterPlacement s = Next u ∧
              (∀ i, i < cs.length → ∀ g, g < lrTeam l.record → let c := cs.getD i 0
                let team := (t2.core c).teamSlots (lrTeam l.record)
                u.group c (team.getD g 0) =
                  { startGroup (t2.part p) l (t2.part p).nextCluster g i (code + 4096 + 4 * recField h 4 4) (t2.core c).clk.toNat team with part := p }) ∧
              (∀ c ∈ cs, ((u.core c).resident p (code / 4096 + 1)).isSome = true) ∧
              (u.part p).launches = updWhere (fun x => x.id == l.id) (fun x => { x with next := x.next + 1, live := x.live + lrTeam l.record * cs.length }) (t2.part p).launches)))))) ∧
  (∀ (pt : Part) (l : Launch) (cluster gid tid entry clk : Nat) (team : List Nat), let g := startGroup pt l cluster gid tid entry clk team
    g.holder = .group ∧ g.gid = gid ∧ g.tid = tid ∧ g.cid = l.next ∧ g.sreg 0 = d64 (recField l.record 0x10 8) ∧ g.sreg 2 = d64 (lrLid l.record) ∧
    (∀ r, 2 < r → r < 96 → g.sreg r = 0) ∧ g.vregs = [] ∧ g.iunits.map (fun u => u.pc) = [b57 entry])

/-- A reservation (R91) is the first rectangle that would hold the cluster with its cores empty, within the limits of an early start (R92), taken where none holds it now, and no launch before it
in the order holds one. -/
def reservations : Prop :=
  ∀ s : State, let p := s.args.part
    let pt := s.part p
    ((∀ l ∈ pt.order, l.id ≠ s.args.launch) → exec .reservation s = Next s) ∧
    (∀ l, pt.order.find? (fun l => l.id == s.args.launch) = some l →
      let earlier := ∃ id cs, pt.reservation = some (id, cs) ∧ (id = l.id ∨ ∃ x, pt.launches.find? (fun x => x.id == id) = some x ∧ x.before l = true)
      (pt.st ≠ 1 ∨ earlier ∨ (s.fits p l).isSome = true → exec .reservation s = Next s) ∧
      let holds := ∀ j < 4, pt.producers l = [] ∨ lrNeed l.record j = 0 ∨ lrNeed l.record j ≤ 2 * lrShare l.record
      (pt.st = 1 → ¬ earlier → s.fits p l = none → ¬ holds → exec .reservation s = Next s) ∧
      (pt.st = 1 → ¬ earlier → s.fits p l = none → holds →
        (pt.rectangles (lrWidth l.record) (lrHeight l.record) = [] → exec .reservation s = Next s) ∧
        (∀ cs rest, pt.rectangles (lrWidth l.record) (lrHeight l.record) = cs :: rest → exec .reservation s = Next (s.setPart p { pt with reservation := some (l.id, cs) }))))

/-- A launch is over (R80, R83, R89): no group of it is left, and every cluster is placed, or it has failed before its groups ran; a graph, when every node has completed, or it has failed
and every started node has. -/
def isOver (pt : Part) (l : Launch) : Prop :=
  l.live = 0 ∧ ((∃ e, l.failed = some e ∧ e ≠ 5) ∨ (l.graph = none ∧ lrKind l.record = 0 ∧ lrClusters l.record ≤ l.next) ∨
    ∃ g, l.graph = some g ∧ ∃ x ∈ pt.graphs, x.id = g ∧ x.ended = [] ∧ (x.done.length = x.nodes ∨ x.failed = true ∧ x.started = []))

/-- A launch completes when every cluster is placed, or it has failed, and no group of it is left (R80, R89); a completed node counts its successors down (R83). -/
def completions : Prop :=
  (∀ s : State, let p := s.args.part
    let pt := s.part p
    ((∀ l ∈ pt.launches, l.id ≠ s.args.launch) → exec .launchCompletion s = Next s) ∧
    (∀ l, pt.launches.find? (fun l => l.id == s.args.launch) = some l →
      (¬ isOver pt l → exec .launchCompletion s = Next s) ∧
      (isOver pt l → l.graph = none → exec .launchCompletion s = Next (s.launchEnd p l (l.failed.getD 0))) ∧
      (∀ g, isOver pt l → l.graph = some g → (∀ x ∈ pt.graphs, x.id = g → x.failed = false) → exec .launchCompletion s = Next (s.launchEnd p l 0)) ∧
      (∀ g, isOver pt l → l.graph = some g → (∃ x ∈ pt.graphs, x.id = g ∧ x.failed = true) → exec .launchCompletion s = Next (s.launchEnd p l 1)) ∧
      (isOver pt l → l.graph = none → lrCompl l.record = 0 → l.node = none → ∃ t : State, exec .launchCompletion s = Next (t.landAt 5) ∧ t = { s with parts := t.parts } ∧
        (t.part p).launches = pt.launches.filter (fun x => x.id != l.id) ∧ (t.part p).reservation = (match pt.reservation with | some r => if r.1 = l.id then none else some r | none => none)))) ∧
  (∀ s : State, (∀ g ∈ (s.part s.args.part).graphs, g.id = s.args.graph → s.args.node ∉ g.ended) → exec .graphNodeComplete s = Next s) ∧
  (∀ (s : State) (g : Graph), (s.part s.args.part).graphs.find? (fun g => g.id == s.args.graph && g.ended.contains s.args.node) = some g →
    (∀ l ∈ (s.part s.args.part).launches, l.id ≠ g.launch) → exec .graphNodeComplete s = Next s) ∧
  (∀ s : State, (∃ e ∈ (s.part s.args.part).parked, e.2 = .graphNode s.args.graph s.args.node) → exec .graphNodeComplete s = Next s) ∧
  (∀ (s t : State) (g : Graph) (l : Launch) (k : Nat), let p := s.args.part
    let n := s.args.node
    let table := lrCode l.record % 2 ^ 57
    let finish := fun (s : State) => s.onGraph p g.id (fun x => { x with ended := x.ended.erase n, done := x.done ++ [n] })
    let failed := fun (s : State) => s.onGraph p g.id (fun x => { x with failed := true })
    -- a page fault posts its record, and the completion waits for it (R214)
    let waits := fun (t : State) (ia : Nat) (w : Bool) => let f := t.fault p ia w false { req := 5 }
      f.1.setPart p { f.1.part p with parked := (f.1.part p).parked ++ [(f.2, .graphNode s.args.graph n)] }
    (∀ e ∈ (s.part p).parked, e.2 ≠ .graphNode s.args.graph n) →
    (s.part p).graphs.find? (fun g => g.id == s.args.graph && g.ended.contains n) = some g → (s.part p).launches.find? (fun l => l.id == g.launch) = some l →
    (s.nodeEntry p table n = (t, .page, k) → exec .graphNodeComplete s = Next (waits t k false)) ∧
    (s.nodeEntry p table n = (t, .held, k) → exec .graphNodeComplete s = Next t) ∧
    (s.nodeEntry p table n = (t, .fatal, k) → exec .graphNodeComplete s = Next (failed (finish t))) ∧
    (∀ e, s.nodeEntry p table n = (t, .ok e, k) →
    (recField e 12 4 = 0 → exec .graphNodeComplete s = Next (finish t)) ∧
    (∀ (t2 : State) (k2 : Nat), recField e 12 4 ≠ 0 →
      (t.readAt p (recField e 16 8) (4 * recField e 12 4) = (t2, .page, k2) → exec .graphNodeComplete s = Next (waits t2 k2 false)) ∧
      (t.readAt p (recField e 16 8) (4 * recField e 12 4) = (t2, .fatal, k2) → exec .graphNodeComplete s = Next (failed (finish t2)))) ∧
    -- an entry of a successor that misses a page, at either end, is waited for; a successor that there is not fails the graph
    (∀ (t2 : State) (l4 : List Byte) (k2 ia : Nat), recField e 12 4 = 1 → t.readAt p (recField e 16 8) 4 = (t2, .ok l4, k2) → recField l4 0 4 < g.nodes →
      t2.missing p [table + 8 + 32 * recField l4 0 4, table + 8 + 32 * recField l4 0 4 + 31] = some ia → exec .graphNodeComplete s = Next (waits t2 ia false)) ∧
    (∀ (t2 : State) (l4 : List Byte) (k2 : Nat), recField e 12 4 = 1 → t.readAt p (recField e 16 8) 4 = (t2, .ok l4, k2) → g.nodes ≤ recField l4 0 4 →
      exec .graphNodeComplete s = Next (failed (finish t2))) ∧
    -- a counter that misses a page is waited for; one on a write-protected page stalls; else it counts down, and at 0 its node starts
    (∀ (t2 t3 : State) (l4 b : List Byte) (k2 k3 : Nat), recField e 12 4 = 1 → t.readAt p (recField e 16 8) 4 = (t2, .ok l4, k2) → recField l4 0 4 < g.nodes →
      t2.missing p [table + 8 + 32 * recField l4 0 4, table + 8 + 32 * recField l4 0 4 + 31] = none → t2.nodeEntry p table (recField l4 0 4) = (t3, .ok b, k3) → b ≠ [] →
      let counter := [recField b 24 8, recField b 24 8 + 7]
      (∀ ia, t3.missing p counter = some ia → exec .graphNodeComplete s = Next (waits t3 ia true)) ∧
      (t3.missing p counter = none → t3.countersHeld p counter = true → exec .graphNodeComplete s = Next t3) ∧
      (∀ (t4 t5 : State) (v : List Byte) (k4 : Nat), t3.missing p counter = none → t3.countersHeld p counter = false →
        (finish t3).readAt p (recField b 24 8) 8 = (t4, .ok v, k4) → t4.writeCount p (recField b 24 8) ((leNat v + 2 ^ 64 - 1) % 2 ^ 64) = (t5, true) →
        (leNat v % 2 ^ 64 ≠ 1 → exec .graphNodeComplete s = Next t5) ∧
        (leNat v % 2 ^ 64 = 1 → (∀ x ∈ (t5.part p).graphs, x.id = g.id → x.failed = false) →
          exec .graphNodeComplete s = Next (t5.startNode p g.id l.record table (recField l4 0 4)))))))

/-! ### Tasks and groups -/

/-- The task that a core dispatches next, with the passing-over bounds of the partition of its first waiting task (R97, R98). -/
def nextTaskOf (s : State) (c : Nat) : Option QTask :=
  (s.core c).nextTask (fun q => match (s.core c).waitingTasks.head? with | some t => mget 0 (s.part t.part).tqBound q | none => 0)

/-- Tasks (R95 to R97, R99): the dispatched one takes a shadow slot and free pages, which read 0 after its prefetch of no bytes; it starts once its segments and bytes are
there; where no bound is reached its priority value is the lowest; a halt puts it back. None is dispatched or started while an orderly reset writes back (R15). -/
def tasksRun : Prop :=
  (∀ s : State, (s.core s.args.core).waitingTasks = [] → exec .taskDispatch s = Next s) ∧
  (∀ (k : Core) (t : QTask), k.nextTask (fun _ => 0) = some t → t ∈ k.waitingTasks ∧ ∀ x ∈ k.waitingTasks, TaskRecord.prio t.record ≤ TaskRecord.prio x.record) ∧
  (∀ (s : State) (t : QTask), let c := s.args.core
    let n := TaskRecord.npages t.record
    nextTaskOf s c = some t →
    ((s.core c).freeShadow = none ∨ (s.part t.part).st ≠ 1 ∨ s.pkg.phase = .writeBack ∨ (s.core c).freePages.length < n → exec .taskDispatch s = Next s) ∧
    (∀ sl, (s.core c).freeShadow = some sl → (s.part t.part).st = 1 → s.pkg.phase ≠ .writeBack → n ≤ (s.core c).freePages.length →
      let taken := { t with slot := some sl, pages := (s.core c).freePages.take n, began := s.seq }
      exec .taskDispatch s = Next (({ s.setCore c (((s.core c).passOver t).setTask taken) with seq := s.seq + 1 } : State).prefetch c taken) ∧
      (TaskRecord.plen t.record = 0 → t.ready = false → (∀ seg ∈ t.segNos, ((s.core c).resident t.part seg).isSome = true) →
        ∃ u : State, exec .taskDispatch s = Next u ∧ u.hbm = s.hbm ∧ { taken with ready := true } ∈ (u.core c).tasks ∧
          (u.core c).groups = (s.core c).groups ∧ ∀ a, a < 4096 * n → memByte (u.core c).lmem (pageAddr ((s.core c).freePages.take n) a) = 0))) ∧
  (∀ s : State, (∀ t ∈ (s.core s.args.core).tasks, t.slot ≠ some s.args.slot) → exec .taskStart s = Next s) ∧
  (∀ (s : State) (t : QTask), let c := s.args.core
    (s.core c).tasks.find? (fun t => t.slot == some s.args.slot) = some t →
    ((∀ x ∈ ((s.prefetch c t).core c).tasks, x.id = t.id → x.ready = false) → exec .taskStart s = Next (s.prefetch c t)) ∧
    (t.ready = true → (∀ seg ∈ t.segNos, ((s.core c).resident t.part seg).isSome = true) → (∀ x ∈ (s.core c).tasks, x.id = t.id → x = t) →
      ((s.part t.part).st ≠ 1 ∨ s.pkg.phase = .writeBack → exec .taskStart s = Next s) ∧
      ((s.part t.part).st = 1 → s.pkg.phase ≠ .writeBack →
        ∃ u : State, exec .taskStart s = Next u ∧ u.group c s.args.slot = startTask (s.part t.part) c (s.core c).clk.toNat s.seq t ∧ t ∉ (u.core c).tasks ∧ u.hbm = s.hbm ∧
          ∀ l ∈ (u.core c).l1, l.owner.isSome = true))) ∧
  (∀ (pt : Part) (c clk born : Nat) (t : QTask), let g := startTask pt c clk born t
    g.holder = .task ∧ g.sreg 0 = d64 (recField t.record 8 8) ∧ g.sreg 1 = d64 (recField t.record 0x20 6) ∧ g.sreg 2 = d64 (recField t.record 0x38 8) ∧
    g.sreg 3 = d64 (4096 * t.pages.length) ∧ g.vregs = [] ∧ g.iunits.map (fun u => u.pc) = [b57 (nbits (TaskRecord.entry t.record) 0 48)]) ∧
  (∀ s : State, let g := s.group s.args.core s.args.slot
    let exited := ∀ u ∈ g.iunits, u.wait = .exited
    (g.holder ≠ .task ∨ (s.part g.part).st ≠ 2 ∨ exited ∨ g.ended.isSome = true ∨ g.finishing = true → exec .taskHaltTimeout s = Next s) ∧
    (g.holder = .task → (s.part g.part).st = 2 → ¬ exited → g.ended = none → g.finishing = false → ∃ t : State, exec .taskHaltTimeout s = Next t ∧
      (t.group s.args.core s.args.slot).aborted = true ∧ t.hbm = s.hbm ∧ t.l2 = s.l2 ∧
      (g.aborted = false → (t.group s.args.core s.args.slot).tbuf = [] ∧ (t.group s.args.core s.args.slot).live = [] ∧ (t.group s.args.core s.args.slot).abortRec = none))) ∧
  (∀ s : State, let p := s.args.part
    let target := fun (d : Deferred) => match d.core with | some c => some c | none => s.fewest p
    let room := fun (d : Deferred) => ∃ c, target d = some c ∧ s.queuedOn p c < 256
    ((∀ d ∈ (s.part p).deferred, ¬ room d) → exec .deferredEnqueue s = Next s) ∧
    -- in the queue that the core has, or that the core's state holds while its partition is swapped out (R84, R100)
    (∀ before d after c, (s.part p).deferred = before ++ d :: after → (∀ x ∈ before, ¬ room x) → target d = some c → s.queuedOn p c < 256 →
      let q : QTask := { id := s.seq, part := p, record := d.record, inherit := d.inherit, node := d.node }
      ∃ t : State, exec .deferredEnqueue s = Next t ∧ (t.part p).deferred = (s.part p).deferred.erase d ∧
        ((∀ v ∈ (s.part p).saved, v.core ≠ c) → (t.core c).tasks = (s.core c).tasks ++ [q] ∧ (t.part p).saved = (s.part p).saved) ∧
        ((∃ v ∈ (s.part p).saved, v.core = c) → t.cores = s.cores ∧
          (t.part p).saved = (s.part p).saved.map (fun v => if v.core = c then { v with tasks := v.tasks ++ [q] } else v))))

/-- A group that has not stopped in time is forced to (R105), but not one that stands where it stops and waits for its requests (R104, R304). A group retires once its slices have exited and nothing of it is outstanding (R89), a release at system scope (R204); a task
then completes, and an aborted one is queued again (R96, R99, R218). The window's commands enter the scoreboard, as far as it has room (R133, R141); the oldest operation of a path completes (R122). -/
def groupsEnd : Prop :=
  (∀ s : State, let c := s.args.core
    let sl := s.args.slot
    let g := s.group c sl
    let late := (g.preempt = .requested ∨ ∃ u o, g.preempt = .stopping u o) ∧ g.atStop = false
    (g.holder = .group → late → ∃ t : State, exec .safeTimeout s = Next t ∧ t.group c sl = { g with preempt := .forced } ∧
      (t.part g.part).pfrc = satAdd (s.part g.part).pfrc 1 ∧ t.hbm = s.hbm ∧ t.l2 = s.l2) ∧
    (g.holder ≠ .group ∨ ¬ late → exec .safeTimeout s = Next s) ∧
    (g.holder = .free ∨ g.live ≠ [] ∨ g.ops ≠ [] ∨ g.finishing = true → exec .groupRetire s = Next s) ∧
    (g.live = [] → g.ops = [] → g.finishing = false → g.fxAdds = [] → g.rwAdds = [] → listedOnce (s.core c).groups sl →
      let queuedAgain := fun (b : Option Nat) (t : State) => (t.group c sl).holder = .free ∧ t.hbm = s.hbm ∧
        (t.core c).tasks = { id := s.seq, part := g.part, record := g.task, inherit := g.inherit, blocked := b, node := g.node } :: (s.core c).tasks
      -- a fault that no unit was left to take ends it as a trap that is not resumed (R267)
      (g.holder ≠ .free → g.reports ≠ [] → g.ended = none → g.aborted = false → exec .groupRetire s = exec .groupRetire (s.endGroup c sl 5)) ∧
      (g.reports = [] ∨ g.ended.isSome = true → g.holder = .group → exec .groupRetire s = Next ((((s.landAt 5).launchGroupGone g).freeSlot c sl).releasePair c g)) ∧
      (g.reports = [] ∨ g.ended.isSome = true → g.holder = .group → (s.core c).pair = .single → (∀ f ∈ s.far, f.stale = false) → (∀ l ∈ s.l2, l.dirty = 0) →
        ∃ t : State, exec .groupRetire s = Next t ∧ (t.group c sl).holder = .free ∧ t.hbm = s.hbm ∧ t.l2 = s.l2 ∧
        (t.part g.part).launches = updWhere (fun l => l.id == g.launch) (fun l => { l with live := l.live - 1, failed := if l.failed.isSome then l.failed else g.ended })
          (s.part g.part).launches) ∧
      (g.holder = .task → g.aborted = true → (∀ n, g.abortRec = some n → ∀ r ∈ (s.part g.part).records, r.seq ≠ n) → ∃ t : State, exec .groupRetire s = Next t ∧ queuedAgain none t) ∧
      (∀ n, g.holder = .task → g.aborted = true → g.abortRec = some n → (∃ r ∈ (s.part g.part).records, r.seq = n) → ∃ t : State, exec .groupRetire s = Next t ∧ queuedAgain (some n) t) ∧
      (g.reports = [] → g.holder = .task → g.aborted = false → g.ended = none → g.tbuf = [] → TaskRecord.fut g.task = 0 → TaskRecord.succ g.task = 0 → g.node = none →
        ∃ t : State, exec .groupRetire s = Next t ∧ (t.group c sl).holder = .free ∧ t.hbm = s.hbm ∧ (t.core c).tasks = (s.core c).tasks)) ∧
    (g.windowOps = [] → exec .windowTimeout s = Next s) ∧
    (∃ t : State, exec .windowTimeout s = Next t ∧ (t.group c sl).windowOps = g.windowOps.drop (64 - (s.core c).onBoard) ∧ t.hbm = s.hbm ∧ t.l2 = s.l2 ∧
      (t.group c sl).sregs = g.sregs ∧ (t.group c sl).vregs = g.vregs ∧ (t.group c sl).ops.map (fun o => o.seq) = g.ops.map (fun o => o.seq)) ∧
    ((∀ o ∈ g.ops, o.path ≠ s.args.path) → exec .operationComplete s = Next s)) ∧
  (∀ (s : State) (o : Op), let g := s.group s.args.core s.args.slot
    g.ops.find? (fun o => o.path == s.args.path) = some o → g.op o.seq = some o → o.status = .performed → o.kind.isMem = true →
    exec .operationComplete s = Next (s.setGroup s.args.core s.args.slot (g.retireOp o)))

end Sys2Proof.Slice0

open Sys2Proof Sys2Proof.Machine Sys2Proof.Slice0

/-! ### The whole machine -/

/-- Words written out from the encoding tables decode to their instructions (R238, R239). -/
def Obligations.WordsDecode : Prop :=
  decodeWord 0x83040C20 = .ok (.sadd true true 2 3 4) ∧ decodeWord 0x92410003 = .ok (.brc true 1 2 3) ∧ decodeWord 0xAF040C20 = .ok (.fadd true true 2 3 4) ∧
  decodeWord 0xC0041064 = .ok (.ldg true 1 2 3 4) ∧ decodeWord 0x68021200 = .ok (.wbl false 0 16 72 false) ∧ decodeWord 0xF0042018 = .ok (.tspawn true 2 8 3) ∧
  decodeWord 0xF4042000 = .ok (.msend true 2 8) ∧ decodeWord 0xFA002002 = .ok (.rdsr true 1 2) ∧ decodeWord 0xFA610418 = .ok (.kvapp true 8 16 24)

/-- What reset leaves: HSTAT reads 0 (R18), no partition exists (R75), no group, cache line or byte of memory is held; before READY every register but HSTAT reads 0 (R17). -/
def Obligations.ResetState : Prop :=
  State.reset.pkg.hstat = 0 ∧ (∀ p, (State.reset.part p).st = 0) ∧ (∀ c sl, (State.reset.group c sl).holder = .free) ∧ State.reset.l2 = [] ∧ MemInv State.reset ∧
  (∀ (s : State) (fn : Fn) (off : Nat), s.pkg.ready = false → off ≠ 0x1000 → s.regWord fn off = 0)

/-- No instruction and no event ends a run: every one answers a next state, and so does every step while the clocks run. -/
def Obligations.EveryStepCompletes : Prop :=
  (∀ (i : Instr) (s : State), Completes (exec i s)) ∧ (∀ s : State, s.pkg.clocksStopped = false → Completes (step s))

/-- Every step keeps the canonical form of every byte memory, from every state that has it. -/
def Obligations.MemoriesStayCanonical : Prop :=
  ∀ s t : State, MemInv s → step s = Next t → MemInv t

open Sys2Proof Sys2Proof.Machine Sys2Proof.Slice0

/-! ### Statements of several parts -/

/-- A step runs the instruction that the bytes at the chosen unit decode to, at a turn of the schedule or at the focus, and an event turn runs its event (R102, R251);
what reaches a resource that a self-test holds stalls (R10). -/
def Obligations.StepRunsDecoded : Prop :=
  Slice0.stepRunsDecodedPart ∧ Slice0.stepRunsFocusPart ∧ Slice0.stepRunsEventPart ∧ Slice0.stepStallsPart

/-- Relative branches, and jumps and calls through registers (R261, R262, R264). -/
def Obligations.Jumps : Prop :=
  Slice0.branchesPart ∧ Slice0.registerJumpsPart

/-- `yield`, `safe`, `exit` and `regang`: where a run or a unit ends (R102, R104, R110, R267). -/
def Obligations.UnitEnds : Prop :=
  Slice0.yieldAndSafePart ∧ Slice0.unitEndsPart

/-- SFU instructions enter the quarter's unit, and their results land when it completes them (R126, R283, R284). -/
def Obligations.SfuOps : Prop :=
  Slice0.sfuOpsPart ∧ Slice0.sfuCompletesPart

/-- Cache instructions: priorities, prefetches, trims, invalidations and write-backs of the lines that the active lanes name (R171, R305). -/
def Obligations.CacheLines : Prop :=
  Slice0.cachePrioritiesPart ∧ Slice0.prefetchesPart ∧ Slice0.cacheLinesPart

/-- Per-thread accesses and plane accesses enter (R161, R295 to R299). -/
def Obligations.ThreadAndPlaneAccesses : Prop :=
  Slice0.threadAccessesPart ∧ Slice0.planeAccessesPart

/-- A KV append leaves its status in D and the ptags of its blocks, or refuses by its result and writes nothing (R191, R355). -/
def Obligations.KvAppends : Prop :=
  Slice0.kvAppendsPart ∧ Slice0.kvAppendRefusesPart

/-- Group and cluster barriers: a unit waits, and the last one to arrive lets all go on (R303). -/
def Obligations.Barriers : Prop :=
  Slice0.barriersPart ∧ Slice0.barrierCompletesPart

/-- Engine commands start when nothing earlier conflicts, run and complete; what `tzero.acc` and `pqry` leave (R133, R313, R320, R321, R331). -/
def Obligations.CommandProgress : Prop :=
  Slice0.commandStartsPart ∧ Slice0.commandRunsPart ∧ Slice0.localCommandsPart

/-- Transaction barriers: their instructions, and the fields of the barrier word (R182, R183, R310). -/
def Obligations.TransactionBarriers : Prop :=
  Slice0.transactionBarriersPart ∧ Slice0.barrierFieldsPart

/-- Messages posted, probed, cancelled and tested, and how the match memory matches (R59, R61, R343, R344, R345). -/
def Obligations.MessageOps : Prop :=
  Slice0.messageOpsPart ∧ Slice0.matchMemoryPart

/-- What local, global, per-thread and plane loads, stores and atomics do when they are performed, and what a write at its home slice does (R87, R161,
R162, R168, R193, R293 to R299, R301). -/
def Obligations.AccessesPerformed : Prop :=
  Slice0.localPerformedPart ∧ Slice0.homeWritePerformedPart ∧ Slice0.loadsPerformedPart ∧ Slice0.storesPerformedPart ∧ Slice0.atomPerformedPart ∧
    Slice0.planesPerformedPart

/-- Cold, orderly and forced resets, and the retrains that end them (R12 to R18). -/
def Obligations.Resets : Prop :=
  Slice0.coldResets ∧ Slice0.orderlyResets ∧ Slice0.orderlyEnds ∧ Slice0.forcedResets ∧ Slice0.retrains

/-- Operating points, stopped clocks, self-tests and repair, management commands (R7 to R14). -/
def Obligations.Health : Prop :=
  Slice0.operatingPoints ∧ Slice0.clocks ∧ Slice0.selfTests ∧ Slice0.management

/-- The memory channels: arrival, choice, promotion, completion, write-back, refresh, scrubbing; far copies and evict-last lines (R25 to R35, R171, R194). -/
def Obligations.MemoryEvents : Prop :=
  Slice0.requestsArrive ∧ Slice0.schedulerChooses ∧ Slice0.requestsEnd ∧ Slice0.upkeep ∧ Slice0.scrubs ∧ Slice0.cacheEvents

/-- Key installation, flits, ports, responses, and checkpoints (R38 to R55). -/
def Obligations.Links : Prop :=
  Slice0.keyWindow ∧ Slice0.flits ∧ Slice0.ports ∧ Slice0.responses ∧ Slice0.remoteReplies ∧ Slice0.checkpoints

/-- What a target performs for a request from another C9, and what it answers (R41 to R45). -/
def Obligations.RemoteRequests : Prop :=
  Slice0.requestsServed ∧ Slice0.blocksOrdered ∧ Slice0.requestAnswers ∧ Slice0.imageAnswers ∧ Slice0.responsePacket

/-- Messages as they arrive, land, are refused, sent again and complete; the engine's control register; collectives that time out (R56 to R71, R347). -/
def Obligations.CairnEvents : Prop :=
  Slice0.messagesArrive ∧ Slice0.finEnds ∧ Slice0.payloadReads ∧ Slice0.resends ∧ Slice0.receivesComplete ∧ Slice0.cairnControls ∧ Slice0.collectiveEnds

/-- Partition commands, the host window, the register map, and fault records (R72 to R75, R84, R215). -/
def Obligations.PartitionEvents : Prop :=
  Slice0.forms ∧ Slice0.haltsAndResumes ∧ Slice0.swaps ∧ Slice0.dissolves ∧ Slice0.hostWindow ∧ Slice0.registerMap ∧ Slice0.recordsResolved

/-- Launch queues, records, placement, reservations, graphs and completion (R77 to R92). -/
def Obligations.LaunchEvents : Prop :=
  Slice0.launchQueues ∧ Slice0.recordReads ∧ Slice0.placements ∧ Slice0.reservations ∧ Slice0.completions

/-- Tasks from their queues to their start and end, and how groups stop and retire (R89, R94 to R100, R105, R141). -/
def Obligations.TaskEvents : Prop :=
  Slice0.tasksRun ∧ Slice0.groupsEnd
end

