-- ==== Sys2Proof/Laws/Memory.lean ====
section
/-! SUPPORT. Byte memories: every operation keeps the canonical form, a byte written reads back, and every other byte stays. -/

namespace Sys2Proof.Machine

/-- Every listed address lies above a bound. -/
def Memory.above (n : Nat) (m : Memory) : Prop := ∀ e ∈ m, n < e.1

theorem Memory.wf_cons (a : Nat) (b : Byte) (t : Memory) :
    Memory.wf ((a, b) :: t) = true ↔ b ≠ unlisted ∧ Memory.above a t ∧ Memory.wf t = true := by
  induction t generalizing a b with
  | nil => simp [Memory.wf, Memory.above]
  | cons e t ih =>
    obtain ⟨c, d⟩ := e
    have hd : Memory.wf ((a, b) :: (c, d) :: t) = true ↔ (b ≠ unlisted ∧ a < c) ∧ Memory.wf ((c, d) :: t) = true := by
      rw [Memory.wf]; simp
    rw [hd]
    constructor
    · rintro ⟨⟨hb, hac⟩, hw⟩
      refine ⟨hb, ?_, hw⟩
      intro e he
      rcases List.mem_cons.1 he with rfl | he
      · exact hac
      · exact lt_trans hac (((ih c d).1 hw).2.1 e he)
    · rintro ⟨hb, hab, hw⟩
      exact ⟨⟨hb, hab (c, d) (by simp)⟩, hw⟩

theorem memByte_above (m : Memory) (a n : Nat) (h : Memory.above n m) (ha : a ≤ n) : memByte m a = unlisted := by
  induction m with
  | nil => rfl
  | cons e t ih =>
    obtain ⟨k, b⟩ := e
    have hk : n < k := h (k, b) (by simp)
    have ht : Memory.above n t := fun e he => h e (by simp [he])
    rw [memByte, if_neg (by omega), ih ht]

theorem memDel_above (m : Memory) (a n : Nat) (h : Memory.above n m) : Memory.above n (memDel m a) := by
  induction m with
  | nil => simpa [memDel] using h
  | cons e t ih =>
    obtain ⟨k, b⟩ := e
    have ht : Memory.above n t := fun e he => h e (by simp [he])
    unfold memDel
    split
    · exact ht
    · split
      · exact h
      · intro e he
        rcases List.mem_cons.1 he with rfl | he
        · exact h _ (by simp)
        · exact ih ht e he

theorem memPut_above (m : Memory) (a n : Nat) (v : Byte) (h : Memory.above n m) (hn : n < a) : Memory.above n (memPut m a v) := by
  induction m with
  | nil => intro e he; simp [memPut] at he; subst he; exact hn
  | cons e t ih =>
    obtain ⟨k, b⟩ := e
    have ht : Memory.above n t := fun e he => h e (by simp [he])
    unfold memPut
    split
    · intro e he
      rcases List.mem_cons.1 he with rfl | he
      · exact hn
      · exact h e he
    · split
      · intro e he
        rcases List.mem_cons.1 he with rfl | he
        · exact hn
        · exact ht e he
      · intro e he
        rcases List.mem_cons.1 he with rfl | he
        · exact h _ (by simp)
        · exact ih ht e he

theorem memDel_wf (m : Memory) (a : Nat) (h : Memory.wf m = true) : Memory.wf (memDel m a) = true := by
  induction m with
  | nil => simpa [memDel] using h
  | cons e t ih =>
    obtain ⟨k, b⟩ := e
    obtain ⟨hb, hk, ht⟩ := (Memory.wf_cons k b t).1 h
    unfold memDel
    split
    · exact ht
    · split
      · exact h
      · exact (Memory.wf_cons _ _ _).2 ⟨hb, memDel_above _ _ _ hk, ih ht⟩

theorem memPut_wf (m : Memory) (a : Nat) (v : Byte) (hv : v ≠ unlisted) (h : Memory.wf m = true) : Memory.wf (memPut m a v) = true := by
  induction m with
  | nil => exact (Memory.wf_cons _ _ _).2 ⟨hv, by simp [Memory.above], rfl⟩
  | cons e t ih =>
    obtain ⟨k, b⟩ := e
    obtain ⟨hb, hk, ht⟩ := (Memory.wf_cons k b t).1 h
    unfold memPut
    split
    · next hlt =>
      refine (Memory.wf_cons _ _ _).2 ⟨hv, ?_, h⟩
      intro e he
      rcases List.mem_cons.1 he with rfl | he
      · exact hlt
      · exact lt_trans hlt (hk e he)
    · split
      · next e => subst e; exact (Memory.wf_cons _ _ _).2 ⟨hv, hk, ht⟩
      · exact (Memory.wf_cons _ _ _).2 ⟨hb, memPut_above _ _ _ _ hk (by omega), ih ht⟩

/-- A write keeps the canonical form. -/
theorem memSet_wf (m : Memory) (a : Nat) (v : Byte) (h : Memory.wf m = true) : Memory.wf (memSet m a v) = true := by
  unfold memSet
  split
  · exact memDel_wf m a h
  · next hv => exact memPut_wf m a v hv h

theorem memWrite_wf (bs : List Byte) : ∀ (m : Memory) (a : Nat), Memory.wf m = true → Memory.wf (memWrite m a bs) = true := by
  induction bs with
  | nil => intro m a h; exact h
  | cons b bs ih => intro m a h; exact ih _ _ (memSet_wf m a b h)

theorem memByte_memDel (m : Memory) (a x : Nat) (h : Memory.wf m = true) : memByte (memDel m a) x = if x = a then unlisted else memByte m x := by
  induction m with
  | nil => simp [memDel, memByte]
  | cons e t ih =>
    obtain ⟨k, b⟩ := e
    obtain ⟨hb, hk, ht⟩ := (Memory.wf_cons k b t).1 h
    unfold memDel
    split
    · next e =>
      subst e
      split
      · next e => subst e; exact memByte_above _ _ _ hk le_rfl
      · next hx => rw [memByte, if_neg hx]
    · split
      · next hak hlt =>
        split
        · next e => subst e; rw [memByte, if_neg hak]; exact memByte_above _ _ _ hk (by omega)
        · rfl
      · next hak hlt =>
        rw [memByte, memByte]
        by_cases hx : x = k
        · subst hx; rw [if_pos rfl, if_pos rfl, if_neg (by omega)]
        · rw [if_neg hx, if_neg hx, ih ht]

theorem memByte_memPut (m : Memory) (a x : Nat) (v : Byte) : memByte (memPut m a v) x = if x = a then v else memByte m x := by
  induction m with
  | nil => simp [memPut, memByte]
  | cons e t ih =>
    obtain ⟨k, b⟩ := e
    unfold memPut
    split
    · rw [memByte]
    · split
      · next e =>
        subst e
        rw [memByte, memByte]
        split <;> rfl
      · next hne _ =>
        rw [memByte, memByte, ih]
        by_cases hx : x = k
        · subst hx; rw [if_pos rfl, if_neg (by omega)]; simp
        · rw [if_neg hx, if_neg hx]

/-- A byte written reads back, every other byte reads as before. -/
theorem memByte_memSet (m : Memory) (a x : Nat) (v : Byte) (h : Memory.wf m = true) :
    memByte (memSet m a v) x = if x = a then v else memByte m x := by
  unfold memSet
  split
  · next e => rw [memByte_memDel m a x h, e]
  · exact memByte_memPut m a x v

/-- Bytes outside the written ones read as before. -/
theorem memByte_memWrite_out (bs : List Byte) : ∀ (m : Memory) (a x : Nat), Memory.wf m = true → (x < a ∨ a + bs.length ≤ x) →
    memByte (memWrite m a bs) x = memByte m x := by
  induction bs with
  | nil => intro m a x _ _; rfl
  | cons b bs ih =>
    intro m a x h hx
    rw [memWrite, ih _ _ _ (memSet_wf m a b h) (by simp at hx; omega), memByte_memSet m a x b h, if_neg (by simp at hx; omega)]

/-- The bytes written read back. -/
theorem memByte_memWrite_in (bs : List Byte) : ∀ (m : Memory) (a i : Nat), Memory.wf m = true → i < bs.length →
    memByte (memWrite m a bs) (a + i) = bs.getD i 0 := by
  induction bs with
  | nil => intro m a i _ hi; simp at hi
  | cons b bs ih =>
    intro m a i h hi
    rw [memWrite]
    cases i with
    | zero =>
      rw [memByte_memWrite_out _ _ _ _ (memSet_wf m a b h) (by omega), memByte_memSet m a _ b h]
      simp
    | succ i =>
      have := ih (memSet m a b) (a + 1) i (memSet_wf m a b h) (by simpa using hi)
      rw [show a + (i + 1) = a + 1 + i by omega, this]
      simp

end Sys2Proof.Machine
end

