-- ==== Sys2Proof/Tests/Slice0.lean ====
section
/-! SUPPORT. Tests of the model: words decode, ill-formed terms are refused, each statement's hypotheses can be met, and single steps give
the results of the spec's rules. Expected values are computed by hand from the rules named, words from the encoding tables. -/

namespace Sys2Proof.Tests

open Sys2Proof.Machine Sys2Proof.Slice0

set_option Elab.async false
set_option maxRecDepth 16000

/-! ### Helpers -/

/-- The outcome is a next state with a property. -/
def runs (o : Host.Outcome State Fault Refusal) (p : State → Bool) : Bool := match o with | .next t => p t | _ => false

def g0 : Group := { holder := .group, team := [0], units := 12, stat := 1, iunits := [{ pc := 0x40 }],
                    sregs := [(2, 5), (3, 7), (4, 0xFFFFFFFFFFFFFFFF), (5, 1), (6, 0x8000000000000000), (8, 0x100), (9, 0x40)] }
/-- A machine whose core 0 runs one group in slot 0, with segment 0 resident. -/
def st (g : Group) : State := { State.reset with cores := [(0, { groups := [(0, g)], frames := [{ seg := 0, part := 0 }] })] }
def s0 : State := st g0
/-- Scalar register d of the group after an instruction. -/
def sres (i : Instr) (d : Nat) (v : Dword) : Bool := runs (exec i s0) (fun t => (grp s0 t).sreg d == v)
/-- A group with lanes in vector registers 2 and 3: lane i holds i and 31 - i; register 4 holds 1.0 and register 5 holds 2.0. -/
def gv : Group := { g0 with vregs := [(2, { lanes := (List.range 32).map w32 }), (3, { lanes := (List.range 32).map (fun i => w32 (31 - i)) }),
                                      (4, { lanes := List.replicate 32 0x3F800000 }), (5, { lanes := List.replicate 32 0x40000000 })] }
def sv : State := st gv
/-- Lane i of vector register d after an instruction. -/
def vres (i : Instr) (d k : Nat) (v : Word) : Bool := runs (exec i sv) (fun t => ((grp sv t).vreg d).lanes.getD k 0 == v)

def readyB (s : State) : Bool := (grp s s).iunits.any (fun u => u.uid == s.cur.2.2) && (unit s s).wait == .ready
def residentB (s1 : State) (c sl uid : Nat) (next : Machine.Next) (after : Wait) : Bool :=
  after == .exited || match needsSegment ((s1.group c sl).iunit uid) next with
    | some t => ((s1.core c).resident (s1.group c sl).part (segOf t)).isSome
    | none => true
def issuesB (x : Issue) (s : State) : Bool := readyB s && (decodeTrap x s.ictx.g s.ictx.u).isNone && residentB s s.cur.1 s.cur.2.1 s.cur.2.2 .seq .ready
def issuesFlushB (x : Issue) (s : State) : Bool := readyB s && (decodeTrap x s.ictx.g s.ictx.u).isNone && (grp s s).tileFault.isNone && !(flushed s).windowLeft s.cur.1 s.cur.2.1

theorem resident_of {s1 : State} {c sl uid : Nat} {next : Machine.Next} {after : Wait} (h : residentB s1 c sl uid next after = true) :
    nextResident s1 c sl uid next after := by
  simp only [residentB, Bool.or_eq_true, beq_iff_eq] at h
  rcases h with h | h
  · exact .inl h
  · right; intro t ht; rw [ht] at h; exact h
theorem ready_of {s : State} (h : readyB s = true) : ready s := by
  simpa [readyB, ready, Bool.and_eq_true, beq_iff_eq] using h
theorem clean_of {x : Issue} {s : State} (h : (decodeTrap x s.ictx.g s.ictx.u).isNone = true) : clean x s := by
  simpa [clean, Option.isNone_iff_eq_none] using h
theorem issues_of {x : Issue} {s : State} (h : issuesB x s = true) : issues x s := by
  simp only [issuesB, Bool.and_eq_true] at h
  exact ⟨ready_of h.1.1, clean_of h.1.2, resident_of h.2⟩
theorem issuesFlush_of {x : Issue} {s : State} (h : issuesFlushB x s = true) : issuesFlush x s := by
  simp only [issuesFlushB, Bool.and_eq_true] at h
  exact ⟨ready_of h.1.1.1, clean_of h.1.1.2, by simpa [Option.isNone_iff_eq_none] using h.1.2, by simpa [roomy] using h.2⟩
theorem noDueS_of {s : State} {n : Nat} (h : (unit s s).due = []) : ¬ dueS s n := by simp [dueS, h]
theorem noDueV_of {s : State} {n : Nat} (h : (unit s s).due = []) : ¬ dueV s n := by simp [dueV, h]

/-! ### Stepping (R102, R251, R8) -/

/-- s0 with `sadd s1, s2, s3` with its boundary bit at the unit's address. -/
def sStep : State := { s0 with cores := [(0, { groups := [(0, g0)], frames := [{ seg := 0, part := 0, code := memWrite [] 0x40 [0x18, 0x08, 0x02, 0x82] }],
                                               quarters := [(0, { cur := some (0, 0) })] })] }
theorem wit_StepRunsDecoded : sStep.pkg.clocksStopped = false ∧ sStep.turns = [] ∧
    ((sStep.settle 0).select 0 0).map (fun x => (decide (x.2 = some 0x82020818), decodeWord 0x82020818)) = some (true, .ok (.sadd true false 1 2 3)) := by decide
theorem wit_StepRunsDecoded_turn : ((({ sStep with turns := [.issue 0 0] } : State).turns = [.issue 0 0]) ∧
    (({ sStep with turns := [] } : State).settle 0).select 0 0 ≠ none) := by decide
theorem wit_StepRunsDecoded_event : encode Instr.retrainComplete = none := by decide
theorem wit_StoppedClocks : ({ State.reset with pkg := { State.reset.pkg with clocksStopped := true } } : State).pkg.clocksStopped = true ∧
    (Turn.ticks 1).isColdReset = false := by decide
theorem wit_IllegalWordTraps : decodeWord 0x7FFFFFFF = .error (.illegalField 0x7FFFFFFF) ∨ ∃ e, decodeWord 0x7FFFFFFF = .error e := by
  right; exact ⟨_, rfl⟩
theorem test_step_sadd : runs (step sStep) (fun t => (t.group 0 0).sreg 1 == 12 && ((t.group 0 0).iunit 0).pc == 0x44) = true := by decide
/-- s0 with fn 7 of `scmp` (R258) at the unit's address. -/
def sIll : State := { sStep with cores := [(0, { groups := [(0, g0)], frames := [{ seg := 0, part := 0, code := memWrite [] 0x40 [0x07, 0x00, 0x00, 0x0C] }],
                                                 quarters := [(0, { cur := some (0, 0) })] })], turns := [.issue 0 0] }
theorem wit_IllegalWordTraps_step : sIll.pkg.clocksStopped = false ∧ sIll.turns = [.issue 0 0] ∧
    ((({ sIll with turns := [] } : State).settle 0).select 0 0).map (fun x => decide (x.2 = some 0x0C000007)) = some true := by decide
theorem wit_ScalarResults_fn7 : bitsAt 0x0C000007 25 6 = 0x06 ∧ bitsAt 0x0C000007 0 3 = 7 := by decide
theorem wit_VectorResults_fn7 : bitsAt 0x2C000007 25 6 = 0x16 ∧ bitsAt 0x2C000007 0 3 = 7 := by decide

/-! ### Scalar families (R256 to R260) -/

theorem wit_ScalarResults : issues { i := .sadd true false 1 2 3, e := true, fields := [sDstF 1, sSrcF 2, sSrcF 3] } s0 := issues_of (by decide)
theorem test_sadd_wraps : sres (.sadd true false 1 4 5) 1 0 = true := by decide
theorem test_ssub : sres (.ssub true false 1 2 3) 1 0xFFFFFFFFFFFFFFFE = true := by decide
theorem test_smul : sres (.smul true false 1 4 3) 1 0xFFFFFFFFFFFFFFF9 = true := by decide
theorem test_smulh_signed : sres (.smulh true false 1 4 3) 1 0xFFFFFFFFFFFFFFFF = true := by decide
theorem test_sandn : sres (.sandn true false 1 3 2) 1 2 = true := by decide
theorem test_sshl_mod64 : sres (.sshl true false 1 5 9) 1 1 = true := by decide
theorem test_ssra : sres (.ssra true false 1 6 5) 1 0xC000000000000000 = true := by decide
theorem test_smin_signed : sres (.smin true false 1 4 5) 1 0xFFFFFFFFFFFFFFFF = true := by decide
theorem test_sminu : sres (.sminu true false 1 4 5) 1 1 = true := by decide
theorem test_sclz : sres (.sclz true false 1 2) 1 61 = true := by decide
theorem test_spopc : sres (.spopc true false 1 4) 1 64 = true := by decide
theorem test_saddi_sign : sres (.saddi true false 1 2 0x7FF) 1 4 = true := by decide
theorem test_smovi : sres (.smovi true false 1 3) 1 3 = true := by decide
theorem test_w_drops_write : sres (.sadd true true 2 2 3) 2 5 = true := by decide

/-! ### Vector families (R271 to R285) -/

theorem wit_VectorResults : issues { i := .vadd true false 1 2 3, e := true, fields := [vDstF 1, vSrcF 2, vSrcF 3] } sv := issues_of (by decide)
theorem wit_PackedResults : issues { i := .badd2 true false 1 2 3, e := true, fields := [vDstF 1, vSrcF 2, vSrcF 3] } sv := issues_of (by decide)
theorem wit_PairResults : issues { i := .upk2 true false 6 2 0, e := true, fields := [(vDstF 6).many 2, vSrcF 2] } sv := issues_of (by decide)
theorem test_vadd : vres (.vadd true false 1 2 3) 1 7 31 = true := by decide
theorem test_vsub : vres (.vsub true false 1 2 3) 1 0 0xFFFFFFE1 = true := by decide
theorem test_vabsd : vres (.vabsd true false 1 2 3) 1 0 31 = true := by decide
theorem test_fadd : vres (.fadd true false 1 4 5) 1 3 0x40400000 = true := by decide
theorem test_fmul : vres (.fmul true false 1 5 5) 1 3 0x40800000 = true := by decide
theorem test_lshfl : vres (.lshfl true false 1 2 65) 1 31 0 = true := by decide
theorem test_lsum : vres (.lsum true false 1 2 0) 1 0 496 = true := by decide
theorem test_upk2 : vres (.upk2 true false 6 4 0) 7 0 0x3F80 = true := by decide

/-! ### Tags, iterators, hints -/

theorem wit_TagsAndIterators_ptwr : issues { i := .ptwr true 2 3, e := true, fields := [vDstF 2, sSrcF 3] } sv ∧ ¬ dueV sv 2 := ⟨issues_of (by decide), noDueV_of rfl⟩
theorem wit_TagsAndIterators_itset : issues { i := .itset true 1 8, e := true, fields := [(sSrcF 8).many 8] } sv := issues_of (by decide)
theorem wit_HintResults : issues { i := .hintAo false 3, e := false, hint := true } s0 := issues_of (by decide)
theorem test_itset : runs (exec (.itset true 1 8) s0) (fun t => (mget [] (grp s0 t).iters 1).getD 1 0 == 0x40) = true := by decide
theorem test_hint_il_signs : runs (exec (.hintIl false 0x1FFFFF) s0) (fun t => (unit s0 t).hints.imm == some 0xFFFFFFFF) = true := by decide
theorem test_ptwr_bit15 : runs (exec (.ptwr true 2 4) sv) (fun t => ((grp sv t).vreg 2).ptag == 0x7FFF) = true := by decide

/-! ### Control (R261 to R268, R109, R110) -/

theorem wit_Jumps_br : issuesFlush { i := .br true 1, e := true, mustEnd := true, flush := true } s0 ∧ targetIn s0 (disp s0 (1 : BitVec 21)) :=
  ⟨issuesFlush_of (by decide), resident_of (by decide)⟩
theorem wit_Jumps_call : issuesFlush { i := .call true 1, e := true, fields := [linkF], mustEnd := true, flush := true } s0 ∧
    targetIn s0 (disp s0 (1 : BitVec 21)) ∧ ¬ dueS s0 63 := ⟨issuesFlush_of (by decide), resident_of (by decide), noDueS_of rfl⟩
theorem wit_Jumps_brc : issuesFlush { i := .brc true 1 2 1, e := true, fields := [sSrcF 2], mustEnd := true, flush := true } s0 ∧
    targetIn s0 (disp s0 (1 : BitVec 15)) ∧ nextIn s0 := ⟨issuesFlush_of (by decide), resident_of (by decide), resident_of (by decide)⟩
theorem wit_Jumps_brc_both : brcTaken 0 0 ≠ brcTaken 0 1 := by decide
theorem wit_Jumps_register : issuesFlush { i := .callr true 8 0, e := true, fields := [sSrcF 8, linkF], mustEnd := true, flush := true } s0 ∧
    (regTarget s0 8 0).toNat % 4 = 0 ∧ targetIn s0 (regTarget s0 8 0) ∧ ¬ dueS s0 63 :=
  ⟨issuesFlush_of (by decide), by decide, resident_of (by decide), noDueS_of rfl⟩
theorem wit_Jumps_misaligned : issuesFlush { i := .jmpr true 2 0, e := true, fields := [sSrcF 2], mustEnd := true, flush := true } s0 ∧ (regTarget s0 2 0).toNat % 4 ≠ 0 :=
  ⟨issuesFlush_of (by decide), by decide⟩
theorem wit_VectorBranches : issuesFlush { i := .brvAny true 0 2 1, e := true, fields := [vSrcF 2], mustEnd := true, flush := true } sv ∧
    targetIn sv (disp sv (1 : BitVec 15)) ∧ nextIn sv ∧ (∀ u ∈ (grp sv sv).iunits, u.uid < (grp sv sv).nextUid) :=
  ⟨issuesFlush_of (by decide), resident_of (by decide), resident_of (by decide), by decide⟩
theorem wit_VectorBranches_part : slicesTaking false 0 sv.ictx.active (unit sv sv).slices ((List.range 32).map (fun i => if i = 5 then 1 else 0)) = 2 ∧
    slicesTaking false 0 sv.ictx.active (unit sv sv).slices (List.replicate 32 0) = 0 ∧
    slicesTaking false 0 sv.ictx.active (unit sv sv).slices (List.replicate 32 1) = (unit sv sv).slices := by decide
theorem wit_Loops_enter : issuesFlush { i := .loop true 2 3, e := true, fields := [sSrcF 2], mustEnd := true, flush := true } s0 ∧
    (unit s0 s0).loops.length < 3 ∧ s0.ictx.readS 2 ≠ 0 ∧ targetIn s0 ((unit s0 s0).pc + 4) := ⟨issuesFlush_of (by decide), by decide, by decide, resident_of (by decide)⟩
theorem wit_Loops_skip : issuesFlush { i := .loop true 1 3, e := true, fields := [sSrcF 1], mustEnd := true, flush := true } s0 ∧ s0.ictx.readS 1 = 0 ∧
    targetIn s0 (((unit s0 s0).pc + ((3 : BitVec 15).setWidth 57 <<< 2)) + 4) := ⟨issuesFlush_of (by decide), by decide, resident_of (by decide)⟩
def sLoop (n : Nat) : State := st { g0 with iunits := [{ pc := 0x40, loops := List.replicate n { count := 2, start := 0x40, last := 0x48 } }] }
theorem wit_Loops_full : issuesFlush { i := .loop true 2 3, e := true, fields := [sSrcF 2], mustEnd := true, flush := true } (sLoop 3) ∧
    3 ≤ (unit (sLoop 3) (sLoop 3)).loops.length := ⟨issuesFlush_of (by decide), by decide⟩
theorem wit_Loops_lbrk : issuesFlush { i := .lbrk true, e := true, mustEnd := true, flush := true } (sLoop 1) ∧
    (unit (sLoop 1) (sLoop 1)).loops = [{ count := 2, start := 0x40, last := 0x48 }] ∧ targetIn (sLoop 1) (0x48 + 4) :=
  ⟨issuesFlush_of (by decide), by decide, resident_of (by decide)⟩
theorem wit_MaskOps : (grp s0 s0).masks.length = 4 ∧ issues { i := .emset false 1, e := false, fields := [{ vec := true, code := 96 }] }
    (st { g0 with iunits := [{ pc := 0x40, pos := 1, chain := [{ lat := 1, vec := true, lanes := List.replicate 32 1 }] }] }) ∧
    issues { i := .emsave true 3, e := true } s0 ∧ issues { i := .emload true 0, e := true } s0 := by
  refine ⟨by decide, issues_of ?_, issues_of (by decide), issues_of (by decide)⟩
  decide
theorem wit_UnitEnds_yield : issues { i := .yield true, e := true, mustEnd := true } s0 := issues_of (by decide)
theorem wit_UnitEnds_safe : issuesFlush { i := .safe true 1 1, e := true, flush := true } s0 ∧ nextIn s0 := ⟨issuesFlush_of (by decide), resident_of (by decide)⟩
theorem wit_UnitEnds_exit : issuesFlush { i := .exit true, e := true, mustEnd := true, flush := true } s0 ∧ (∀ u ∈ (grp s0 s0).iunits, u.uid ≠ s0.cur.2.2 → u.wait = .exited) :=
  ⟨issuesFlush_of (by decide), by decide⟩
def sTwo : State := st { g0 with iunits := [{ pc := 0x40, slices := 15 }, { uid := 1, slices := 240, pc := 0x80 }] }
theorem wit_UnitEnds_two : issuesFlush { i := .exit true, e := true, mustEnd := true, flush := true } sTwo ∧ issues { i := .regang true, e := true, mustEnd := true } sTwo ∧
    targetIn sTwo ((unit sTwo sTwo).pc + 4) ∧ (∃ u ∈ (grp sTwo sTwo).iunits, u.uid ≠ sTwo.cur.2.2 ∧ u.wait ≠ .exited ∧ u.wait ≠ .regang) :=
  ⟨issuesFlush_of (by decide), issues_of (by decide), resident_of (by decide), by decide⟩
theorem wit_UnitEnds_one : issues { i := .regang true, e := true, mustEnd := true } s0 ∧ (grp s0 s0).iunits = [unit s0 s0] := ⟨issues_of (by decide), by decide⟩
def sTrv : State := st { g0 with trv := 0x40, stat := 0 }
theorem wit_SoftwareTrap : issues { i := .trap true 9, e := true, mustEnd := true } sTrv ∧ statInTrapBit (grp sTrv sTrv).stat = false ∧ (grp sTrv sTrv).trv ≠ 0 ∧
    ((sTrv.core 0).resident (grp sTrv sTrv).part (segOf (b57 ((grp sTrv sTrv).trv.toNat + 64 * 0x20)))).isSome :=
  ⟨issues_of (by decide), by decide, by decide, by decide⟩
theorem wit_RegisterUnits_rgive : issues { i := .rgive true 2, e := true } s0 ∧ (2 : BitVec 4).toNat < (grp s0 s0).units ∧
    (∀ r, r < 96 → (grp s0 s0).vPending r = false) := ⟨issues_of (by decide), by decide, by decide⟩
def sPool : State := { s0 with cores := [(0, { s0.core 0 with groups := [(0, { g0 with units := 6 })], quarters := [(0, { pool := 2 })] })] }
theorem wit_RegisterUnits_rclaim : issues { i := .rclaim true false 1 2, e := true, fields := [sDstF 1] } sPool ∧
    (2 : BitVec 4).toNat ≤ ((sPool.core 0).quarter 0).pool ∧ (grp sPool sPool).units + (2 : BitVec 4).toNat ≤ 12 ∧
    issues { i := .rclaim true false 1 3, e := true, fields := [sDstF 1] } sPool ∧ ((sPool.core 0).quarter 0).pool < (3 : BitVec 4).toNat :=
  ⟨issues_of (by decide), by decide, by decide, issues_of (by decide), by decide⟩
theorem test_br_back : runs (exec (.br true 0x1FFFFF) s0) (fun t => (unit s0 t).pc == 0x3C) = true := by decide
theorem test_call_links : runs (exec (.call true 2) s0) (fun t => (unit s0 t).pc == 0x48 && (grp s0 t).sreg 63 == 0x44) = true := by decide
theorem test_jmpr_misaligned : runs (exec (.jmpr true 2 0) sTrv) (fun t => (grp sTrv t).trc == 9 && (grp sTrv t).trx == 5) = true := by decide
theorem test_loop_zero_skips : runs (exec (.loop true 1 3) s0) (fun t => (unit s0 t).pc == 0x50 && (unit s0 t).loops == []) = true := by decide
theorem test_brv_splits : runs (exec (.brvAny true 1 2 4) sv) (fun t => (grp sv t).iunits.length == 2) = true := by decide
theorem test_emload : runs (exec (.emload true 1) s0) (fun t => (grp s0 t).masks.getD 0 0 == 0) = true := by decide
theorem test_exit : runs (exec (.exit true) s0) (fun t => (grp s0 t).live == []) = true := by decide
theorem test_trap_sw : runs (exec (.trap true 9) sTrv) (fun t => (grp sTrv t).trc == 0x20 && (grp sTrv t).trx == 9 && (unit sTrv t).pc == 0x840) = true := by decide
theorem test_rclaim_short : runs (exec (.rclaim true false 1 3) sPool) (fun t => (grp sPool t).sreg 1 == 0 && (grp sPool t).units == 6) = true := by decide

/-! ### Memory (R290 to R305) -/

/-- One active lane, a range register that grants everything below 4 GiB, room in the per-thread area. -/
def gm : Group := { g0 with masks := [1, 0, 0, 0], sregs := [(2, 0x1000), (3, 4)] }
def sm : State := { st gm with parts := [(0, { ranges := [(0, { lim := 0xFFFF0000, attr := 15 })], ptms := 64 })] }
theorem room_of {s : State} {p : Nat} (h : decide ((grp s s).inFlight p < 63) = true) : room s p := by simpa [room] using h
theorem unpinned_of {s : State} {f : LForm} {ls : List Nat} (h : (grp s s).isTask = false) : unpinned s f ls := by
  intro _ h'; rw [h] at h'; exact absurd h' (by decide +kernel)

theorem futurePlace_of {s : State} {f : FForm} {addr ia a n : Nat} {so : Bool} {need : Need} (h : f.va s.ictx = some (a, n, need)) (h1 : addr = a) (h2 : a % n = 0)
    (h3 : (s.part (grp s s).part).xlate a n { need with user := !(grp s s).privileged } = .ok (ia, so)) : futurePlace s f addr ia so := by
  simp only [futurePlace, h]; exact ⟨h1, h2, h3⟩

theorem wit_Translation : (∀ j, j < 0 → (mget ({} : RangeReg) [(0, ({ lim := 0xFFFF0000, attr := 15 } : RangeReg))] j).covers 5 = false) ∧
    (mget ({} : RangeReg) [(0, ({ lim := 0xFFFF0000, attr := 15 } : RangeReg))] 0).covers 5 = true ∧
    (mget ({} : RangeReg) [(0, ({ lim := 0xFFFF0000, attr := 15 } : RangeReg))] 0).grants { rd := true } = true ∧ vaUnit (5 + 4 - 1) = vaUnit 5 ∧
    ({ attr := 1 } : RangeReg).covers 5 = true ∧ ({ attr := 1 } : RangeReg).grants { rd := true } = false := by decide +kernel
theorem wit_GlobalAccesses : ∃ f, globalForm (.ldg true 1 2 2 4) = some f ∧ badOrder (unit sm sm) f.kind = false ∧ ready sm ∧ clean (f.issue (.ldg true 1 2 2 4)) sm ∧
    sm.ictx.active ≠ 0 ∧ room sm f.path ∧ sm.xlateAll (grp sm sm) f.need f.n (laneAddrs sm 57 f) = .ok ([(0, 0x1000)], [false]) ∧ (∀ v ∈ laneAddrs sm 57 f, v.2 % f.n = 0) ∧
    unpinned sm f [] ∧ nextAt sm (enteredNow sm.ictx sm ((grp sm sm).isTask && f.kind != .ldg) (globalOp sm.ictx f [(0, 0x1000)] [false])) :=
  ⟨_, rfl, by decide +kernel, ready_of (by decide +kernel), clean_of (by decide +kernel), by decide +kernel, room_of (by decide +kernel), by decide +kernel, by decide +kernel, unpinned_of (by decide +kernel), resident_of (by decide +kernel)⟩
theorem wit_LocalAccesses : ∃ f, localForm (.stl true 1 2 3 4) = some f ∧ badOrder (unit sm sm) f.kind = false ∧ ready sm ∧ clean (f.issue (.stl true 1 2 3 4)) sm ∧
    sm.ictx.active ≠ 0 ∧ room sm 0 ∧ (∀ v ∈ laneAddrs sm 32 f, v.2 + f.n ≤ (grp sm sm).localSize ∧ v.2 % f.n = 0) ∧
    nextAt sm (entered sm.ictx sm (localOp sm.ictx f)) :=
  ⟨_, rfl, by decide +kernel, ready_of (by decide +kernel), clean_of (by decide +kernel), by decide +kernel, room_of (by decide +kernel), by decide +kernel, resident_of (by decide +kernel)⟩
theorem wit_ThreadAccesses : ∃ f, threadForm (.ldt true 1 2 3 4) = some f ∧ badOrder (unit sm sm) f.kind = false ∧ clean (f.issue (.ldt true 1 2 3 4)) sm ∧ room sm f.path ∧
    (∀ v ∈ laneAddrs sm 32 f, v.2 + f.n ≤ 4 * min (sm.part (grp sm sm).part).ptms 16384 ∧ v.2 % f.n = 0) ∧
    (∃ l, sm.xlateAll (grp sm sm) f.need (if 1 < widthRegs f.k then 4 else f.n) (threadAt sm f) = .ok l) :=
  ⟨_, rfl, by decide +kernel, clean_of (by decide +kernel), room_of (by decide +kernel), by decide +kernel, ⟨_, rfl⟩⟩
theorem wit_PlaneAccesses : ∃ f, planeForm (.ldp true 1 2 2 2) = some f ∧ badOrder (unit sm sm) f.kind = false ∧ clean (f.issue (.ldp true 1 2 2 2)) sm ∧ room sm f.path ∧
    sm.xlateAll (grp sm sm) f.need 4 (planeAt sm f) = .ok ([(0, 0x1000), (1, 0x1004), (2, 0x1008), (3, 0x100C)], [false, false, false, false]) ∧
    planeVa sm f % 4 = 0 ∧ planeStride sm f ≠ 0 ∧ planeStride sm f % 4 = 0 :=
  ⟨_, rfl, by decide +kernel, clean_of (by decide +kernel), room_of (by decide +kernel), by decide +kernel, by decide +kernel, by decide +kernel, by decide +kernel⟩
/-- The last address of the window of a team of one group, one past it, and a misaligned one. -/
theorem wit_AccessTraps : ∃ f, localForm (.ldl true 1 2 2 4) = some f ∧
    (laneAddrs sm 32 f).find? (fun v => decide ((grp sm sm).localSize < v.2 + f.n)) = none ∧
    (let s := st { gm with sregs := [(2, 6144)] }; (laneAddrs s 32 f).find? (fun v => decide ((grp s s).localSize < v.2 + f.n)) = some (0, 6144)) ∧
    (let s := st { gm with sregs := [(2, 2)] }; (laneAddrs s 32 f).find? (fun v => v.2 % f.n != 0) = some (0, 2)) ∧
    (let s := st { gm with sregs := [(2, 6140)] }; ∀ v ∈ laneAddrs s 32 f, v.2 + f.n ≤ (grp s s).localSize ∧ v.2 % f.n = 0) :=
  ⟨_, rfl, by decide +kernel, by decide +kernel, by decide +kernel, by decide +kernel⟩
theorem wit_AccessTraps_range : ∃ f, globalForm (.ldg true 1 2 2 4) = some f ∧ (st gm).xlateAll (grp (st gm) (st gm)) f.need f.n (laneAddrs (st gm) 57 f) = .error 0x1000 ∧
    (let s : State := { sm with cores := (st { gm with sregs := [(2, 0x1002)] }).cores }; s.xlateAll (grp s s) f.need f.n (laneAddrs s 57 f) = .ok ([(0, 0x1002)], [false]) ∧
      (laneAddrs s 57 f).find? (fun v => v.2 % f.n != 0) = some (0, 0x1002)) ∧
    (let s := st { gm with masks := [0, 0, 0, 0] }; issues (f.issue (.ldg true 1 2 2 4)) s ∧ s.ictx.active = 0) :=
  ⟨_, rfl, by decide +kernel, by decide +kernel, issues_of (by decide +kernel), by decide +kernel⟩
/-- A local store of lanes 0 and 1 at 0 and 4, and the load of lane 0. -/
def oStl : Op := { seq := 1, path := 0, pc := 0, kind := .stl, k := 4, addrs := [0, 4], reqs := [(0, [0, 1])], data := [[0x11223344, 0x55667788]] }
theorem wit_AccessesPerformed : Memory.wf (s0.core 0).lmem = true ∧
    (∀ i ∈ [0, 1], ∀ j ∈ [0, 1], i ≠ j → ∀ p < widthBytes oStl.k, ∀ q < widthBytes oStl.k, g0.localPhys (oStl.addrs.getD i 0 + p) ≠ g0.localPhys (oStl.addrs.getD j 0 + q)) ∧
    (∀ i ∈ [0, 1], ∀ p < widthBytes oStl.k, ∀ q < widthBytes oStl.k, p ≠ q → g0.localPhys (oStl.addrs.getD i 0 + p) ≠ g0.localPhys (oStl.addrs.getD i 0 + q)) ∧
    (∀ i ∈ [0, 1], (s0.core 0).lbad g0 (oStl.addrs.getD i 0) (widthBytes oStl.k) = false) ∧ (s0.group 0 0).fxb = 0 := by decide +kernel
/-- L2 holds a line of partition 0 that may be written. -/
def lineZ : Line := { part := 0, ia := 0x1000, data := List.replicate 128 0, pas := [0x1000] }
def sl2 : State := { sm with l2 := [lineZ] }
theorem wit_AccessesPerformed_home : sl2.l2Find 0 (0x1004 / 128 * 128) false = some lineZ ∧ lineZ.data.length = 128 ∧ lineZ.bad = [] ∧ lineZ.writable = true ∧
    lineZ.wp = false ∧ lineZ.ord = 0 ∧ 0x1004 % 128 + [(1 : Byte), 2].length ≤ 128 := by decide +kernel
theorem wit_FutureOps : ∃ f, futureForm (.fres true 1 2 3) = some f ∧ clean { i := .fres true 1 2 3, e := f.e, fields := f.fields } sm ∧ room sm 2 ∧
    futurePlace sm f 0x1000 0x1000 false ∧ recordOk sm (.fres true 1 2 3) ∧ nextAt sm (enteredNow (noOrder sm.ictx) sm (grp sm sm).isTask (futureOpOf sm f 0x1000 0x1000 false)) :=
  ⟨_, rfl, clean_of (by decide +kernel), room_of (by decide +kernel), futurePlace_of rfl (by decide +kernel) (by decide +kernel) (by decide +kernel), trivial, resident_of (by decide +kernel)⟩
theorem wit_FutureOps_none : ∃ f, futureForm (.tqry true 1 2) = some f ∧ clean { i := .tqry true 1 2, e := f.e, fields := f.fields } sm ∧ futurePlace sm f 0 0 false :=
  ⟨_, rfl, clean_of (by decide +kernel), ⟨rfl, rfl, rfl⟩⟩
theorem wit_FutureOps_record : ∃ f, futureForm (.freg true 1 2 2) = some f ∧ clean { i := .freg true 1 2 2, e := f.e, fields := f.fields } sm ∧
    futurePlace sm f 0x1000 0x1000 false ∧ recordOk sm (.freg true 1 2 2) :=
  ⟨_, rfl, clean_of (by decide +kernel), futurePlace_of rfl (by decide +kernel) (by decide +kernel) (by decide +kernel), ⟨by decide +kernel, by decide +kernel⟩⟩
theorem wit_CodeFetch : clean { i := .cfetch true 2 1, e := true, fields := [sSrcF 2] } sm ∧ room sm 5 ∧
    (sm.part (grp sm sm).part).xlate 0x2000 4096 { rd := true, user := !(grp sm sm).privileged } = .ok (0x2000, false) ∧
    ((st gm).part 0).xlate 0x2000 4096 { rd := true } = .error 0x2000 ∧
    ((sm.ictx.readS 2).setWidth 57 + (((1 : BitVec 15).signExtend 57 : Va) <<< 12)).toNat / 4096 * 4096 = 0x2000 :=
  ⟨clean_of (by decide +kernel), room_of (by decide +kernel), by decide +kernel, by decide +kernel, by decide +kernel⟩
theorem wit_SfuOps : clean { i := .rcp true 1 2 0, e := true, fields := [vDstF 1, vSrcF 2] } sm ∧ sm.ictx.active ≠ 0 ∧ ((sm.core 0).quarter 0).sfu.length < 16 ∧ room sm 6 ∧ nextIn sm :=
  ⟨clean_of (by decide +kernel), by decide +kernel, by decide +kernel, room_of (by decide +kernel), resident_of (by decide +kernel)⟩
def oSfu : Op := { seq := 7, path := 6, pc := 0, kind := .sfu, d := 1, dn := 1, mask := 1, status := .performed, out := [.v 1 1 (List.replicate 32 9) 0 false] }
def sSfu : State := { s0 with cores := [(0, { groups := [(0, { gm with ops := [oSfu] })], quarters := [(0, { sfu := [(0, 7)] })] })] }
theorem wit_SfuOps_completes : ((sSfu.core sSfu.args.core).quarter sSfu.args.quarter).sfu = [(0, 7)] ∧ (sSfu.group sSfu.args.core 0).op 7 = some oSfu := by decide +kernel
theorem wit_CacheLines_priority : issues { i := .cef true 2 2, e := true, fields := [vSrcF 2, sRegF 2] } sm := issues_of (by decide +kernel)
theorem wit_CacheLines_prefetch : issues { i := .cpf2 true 2 2, e := true, fields := [vSrcF 2, sRegF 2] } (st gm) ∧ hintIas (st gm) 2 2 = [] ∧
    laneList sm.ictx.active = [0] ∧ (sm.part (grp sm sm).part).xlate ((sm.ictx.sums 57 2 2).getD 0 0) 1 { rd := true, user := !(grp sm sm).privileged } = .ok (0x1000, false) ∧
    nextAt sm (prefetchLine false sm sm.ictx 0x1000 false) ∧ nextAt sm (prefetchLine true sm sm.ictx 0x1000 false) :=
  ⟨issues_of (by decide +kernel), by decide +kernel, by decide +kernel, by decide +kernel, resident_of (by decide +kernel), resident_of (by decide +kernel)⟩
theorem wit_CacheLines_acts : clean { i := .cinv true 2 2, e := true, fields := [vSrcF 2, sRegF 2] } sm ∧ clean { i := .ctrim true 3 2 2, e := true, fields := [vSrcF 2, sRegF 2] } sm ∧
    sm.xlateAll (grp sm sm) { rd := true } 1 ((laneList sm.ictx.active).map (fun i => (i, (sm.ictx.sums 57 2 2).getD i 0))) = .ok ([(0, 0x1000)], [false]) ∧
    (st gm).xlateAll gm { rd := true } 1 ((laneList sm.ictx.active).map (fun i => (i, (sm.ictx.sums 57 2 2).getD i 0))) = .error 0x1000 ∧
    (∀ l ∈ (sm.core sm.cur.1).l1, l.plane = false) ∧ (grp sm sm).ops = [] :=
  ⟨clean_of (by decide +kernel), clean_of (by decide +kernel), by decide +kernel, by decide +kernel, by decide +kernel, by decide +kernel⟩
theorem test_local_store : runs (.next (localReq s0 0 0 g0 oStl [0, 1]).1) (fun t => memByte (t.core 0).lmem 0 == 0x44 && memByte (t.core 0).lmem 7 == 0x55) = true := by decide +kernel
theorem test_stl_enters : runs (exec (.stl true 1 2 3 4) sm) (fun t => (grp sm t).ops.map (fun o => (o.kind, o.addrs.getD 0 0)) == [(.stl, 4)]) = true := by decide +kernel
theorem test_ldg_range_fault : runs (exec (.ldg true 1 2 2 4) (st { gm with trv := 0x40, stat := 0 })) (fun t => (grp s0 t).trc == 8 && (grp s0 t).trx == 0x1000) = true := by decide +kernel
theorem test_ldl_misaligned : runs (exec (.ldl true 1 2 2 4) (st { gm with sregs := [(2, 2)], trv := 0x40, stat := 0 })) (fun t => (grp s0 t).trc == 9 && (grp s0 t).trx == 2) = true := by decide +kernel
theorem test_sfu_completes : runs (exec .sfuEntryComplete sSfu) (fun t => ((t.group 0 0).vreg 1).lanes.getD 0 0 == 9 && (t.group 0 0).ops == []) = true := by decide +kernel
theorem test_cef : runs (exec (.cef true 2 2) sl2) (fun t => t.l2.map (fun l => l.prio) == [0]) = true := by decide +kernel

/-! ### Traps and system instructions (R220 to R224, R251, R351 to R355) -/

theorem wit_DecodeTraps : ready s0 ∧ decodeTrap { i := .regang false, e := false, mustEnd := true } (grp s0 s0) (unit s0 s0) = some (0x02, 0) ∧
    decodeTrap { i := .wrsr true 2 4, e := true, fields := [sSrcF 2], priv := true } { g0 with stat := 0 } (unit s0 s0) = some (0x05, d64 ((encode (.wrsr true 2 4)).getD 0).toNat) ∧
    (decodeTrap { i := .vadd true false 1 60 2, e := true, fields := [vDstF 1, vSrcF 60, vSrcF 2] } { g0 with units := 6 } (unit s0 s0)).map (·.1) = some 0x01 ∧
    (decodeTrap { i := .vadd true false 1 96 2, e := true, fields := [vDstF 1, vSrcF 96, vSrcF 2] } g0 (unit s0 s0)).map (·.1) = some 0x03 ∧
    (decodeTrap { i := .vadd true false 1 2 2, e := true, fields := [vDstF 1, vSrcF 2, vSrcF 2] } { g0 with ops := [{ oSfu with d := 2 }] } (unit s0 s0)).map (·.1) = some 0x04 :=
  ⟨ready_of (by decide +kernel), by decide +kernel, by decide +kernel, by decide +kernel, by decide +kernel, by decide +kernel⟩
/-- A handler that is there; no TRV; a trap inside a handler. -/
theorem wit_TrapEntry : (let g := settledGroup sTrv 0 0; statInTrapBit g.stat = false ∧ g.trv ≠ 0 ∧ ((sTrv.core 0).resident g.part (segOf (b57 (g.trv.toNat + 64 * 0x1F)))).isSome = true ∧
      (∃ v ∈ g.iunits, v.uid = 0) ∧ (g.iunit 0).uid = 0) ∧ (settledGroup s0 0 0).trv = 0 ∧ statInTrapBit (2 : Dword) = true := by decide +kernel
def saveZ : TrapSave := { stat := 0, uid := 0, pos := 0, chain := [], hints := {}, due := [], resume := 0x48, inst := none, traWritten := false, old := [] }
def sRet : State := st { g0 with stat := 3, trc := 9, tra := 0x40, save := some saveZ, iunits := [{ pc := 0x44 }] }
theorem wit_TrapReturns : issuesFlush { i := .sret true, e := true, priv := true, mustEnd := true, flush := true } sRet ∧ (grp sRet sRet).save = some saveZ ∧ saveZ.inst = none :=
  ⟨issuesFlush_of (by decide +kernel), by decide +kernel, rfl⟩
theorem wit_RegisterWrites : clean { i := .wrsr true 2 4, e := true, fields := [sSrcF 2], priv := sysPriv 4 } s0 ∧
    nextAt s0 ((countsAdded s0 4).setGroup 0 0 (sysWritten ((countsAdded s0 4).group 0 0) 4 (s0.ictx.readS 2))) ∧
    (grp sTrv sTrv).stat.getLsbD 0 = false ∧ illegalField (grp sTrv sTrv) (unit sTrv sTrv) (d64 ((encode (.wrsr true 2 4)).getD 0).toNat) [sSrcF 2] = none :=
  ⟨clean_of (by decide +kernel), resident_of (by decide +kernel), by decide +kernel, by decide +kernel⟩
theorem wit_RuleLoads : issuesFlush { i := .rwctl true 3, e := true, priv := s0.rwPriv, flush := true } s0 := issuesFlush_of (by decide +kernel)
theorem wit_RuleLoads_wrsr : ready s0 ∧ clean { i := .wrsr true 2 7, e := true, fields := [sSrcF 2], priv := true } s0 ∧
    nextAt s0 ((countsAdded s0 7).setGroup 0 0 { (countsAdded s0 7).group 0 0 with rwp := (s0.ictx.readS 2).setWidth 3 }) :=
  ⟨ready_of (by decide +kernel), clean_of (by decide +kernel), resident_of (by decide +kernel)⟩
theorem wit_RuleLoads_user : ready (st { g0 with stat := 0 }) ∧ (grp (st { g0 with stat := 0 }) (st { g0 with stat := 0 })).stat.getLsbD 0 = false ∧
    ((st { g0 with stat := 0 }).part 0).userrw = false ∧
    illegalField { g0 with stat := 0 } (unit s0 s0) (d64 ((encode (.rwld true 2 3)).getD 0).toNat) [sSrcF 2, sSrcF 3] = none :=
  ⟨ready_of (by decide +kernel), by decide +kernel, by decide +kernel, by decide +kernel⟩
/-- The image of a rule that is not valid lies in a line that L2 holds. -/
def sRule : State := { sl2 with cores := (st { gm with sregs := [(2, 0x1000), (3, 5)] }).cores }
theorem wit_RuleLoads_rwld : issuesFlush { i := .rwld true 2 3, e := true, fields := [sSrcF 2, sSrcF 3], priv := sRule.rwPriv, flush := true } sRule ∧
    (sRule.part 0).xlate (vaMod (sRule.ictx.readS 2).toNat) 64 { rd := true, user := !(grp sRule sRule).privileged } = .ok (0x1000, false) ∧
    vaMod (sRule.ictx.readS 2).toNat % 64 = 0 ∧ (sRule.ictx.readS 3).toNat ≤ 63 ∧ (grp sRule sRule).waitRec = none ∧
    (((flushed sRule).performAll 0 0).homeRead { part := 0, die := 0, requester := 0, sor := false, user := false } 0x1000 64).2 = .ok (List.replicate 64 0, false) ∧
    ruleValid (List.replicate 64 0) = false :=
  ⟨issuesFlush_of (by decide +kernel), by decide +kernel, by decide +kernel, by decide +kernel, by decide +kernel, by decide +kernel, by decide +kernel⟩
theorem wit_KvAppends : clean { i := .kvapp true 2 8 1, e := true, fields := [{ sRegF 1 with wr := true }, sSrcF 2, (vSrcF 8).many 16] } sm ∧ (grp sm sm).waitRec = none ∧
    ((sm.performAll 0 0).kvAppend 0 0 { part := 0, die := 0, requester := 0, user := false } (sm.ictx.readS 2) (fun _ => 0) (fun _ => 0)).2 = .status 4 [] ∧
    2 ^ 32 ≤ (0x100000000 : Dword).toNat ∧ ((sm.part 0).kvtn.toNat % 2 ^ 16) ≤ (0 : Dword).toNat :=
  ⟨clean_of (by decide +kernel), by decide +kernel, by decide +kernel, by decide, by decide⟩
theorem wit_TranslationInvalidate : clean { i := .tinv true 2 3, e := true, fields := [sSrcF 2, sSrcF 3], priv := true } s0 ∧ (grp s0 s0).ops = [] ∧ (s0.ictx.readS 3).toNat < 2 ^ 36 ∧
    (s0.ictx.readS 3) ≠ 0 ∧ s0.ictx.readS 1 = 0 ∧ nextAt s0 s0.landFar := ⟨clean_of (by decide +kernel), by decide, by decide, by decide, by decide, resident_of (by decide +kernel)⟩
theorem wit_Fences : issuesFlush { i := .fence true 2 4, e := true, flush := true } s0 ∧ (grp s0 s0).ops = [] ∧ nextAt s0 (flushed s0) ∧ nextAt s0 ((s0.landFar).l1Acquire 0) :=
  ⟨issuesFlush_of (by decide +kernel), by decide, resident_of (by decide +kernel), resident_of (by decide +kernel)⟩
/-- Nothing in flight; one operation in flight; a report of path 1. -/
def sRep : State := st { g0 with reports := [{ path := 1, seq := 1, cause := 0x08, trx := 5 }], ops := [] }
def sOne : State := st { g0 with ops := [{ oStl with path := 1, kind := .ldg }] }
theorem wit_Waits : clean { i := .waitc true 0 1, e := true } s0 ∧ (grp s0 s0).inFlight 1 ≤ 0 ∧ (∀ r ∈ (grp s0 s0).reports, r.path ≠ 1) ∧
    clean { i := .waitc true 0 1, e := true } sRep ∧ (grp sRep sRep).inFlight 1 ≤ 0 ∧ (grp sRep sRep).reports.map (fun r => (r.path, r.cause)) = [(1, 0x08)] ∧
    clean { i := .waitc true 0 1, e := true } sOne ∧ 0 < (grp sOne sOne).inFlight 1 :=
  ⟨clean_of (by decide +kernel), by decide, by decide, clean_of (by decide +kernel), by decide, by decide, clean_of (by decide +kernel), by decide⟩
def sTask : State := st { g0 with holder := .task, pages := [0] }
def sPassed : State := st { g0 with iunits := [{ pc := 0x40, passed := true }] }
theorem wit_Barriers : clean { i := .bar true, e := true } sTask ∧ (grp sTask sTask).ops = [] ∧ (grp sTask sTask).isTask = true ∧ nextAt sTask (sTask.landFar.l1Acquire 0) ∧
    clean { i := .barc true, e := true } sPassed ∧ (grp sPassed sPassed).isTask = false ∧ (unit sPassed sPassed).passed = true ∧ nextAt sPassed (sPassed.l1Acquire 0) ∧
    clean { i := .bar true, e := true } s0 ∧ (unit s0 s0).passed = false ∧ s0.far = [] :=
  ⟨clean_of (by decide +kernel), by decide, by decide, resident_of (by decide +kernel), clean_of (by decide +kernel), by decide, by decide, resident_of (by decide +kernel),
    clean_of (by decide +kernel), by decide, by decide⟩
def sBar : State := st { g0 with iunits := [{ pc := 0x44, wait := .bar, arrived := true }] }
theorem wit_Barriers_complete : sBar.partners 0 0 .bar = [(0, 0)] ∧ (sBar.group 0 0).atBar .bar = true ∧ s0.partners 0 0 .bar = [(0, 0)] ∧ (s0.group 0 0).atBar .bar = false ∧
    (s0.group 0 0).gone = false := by decide +kernel
theorem test_sret : runs (exec (.sret true) sRet) (fun t => (unit sRet t).pc == 0x48 && (grp sRet t).stat == 0) = true := by decide
theorem test_wrsr_trv_mask : runs (exec (.wrsr true 4 4) s0) (fun t => (grp s0 t).trv == 0x1FFFFFFFFFFF000) = true := by decide
theorem test_wrsr_user_traps : runs (exec (.wrsr true 2 4) sTrv) (fun t => (grp sTrv t).trc == 5) = true := by decide
theorem test_rwctl_narrows : runs (exec (.rwctl true 6) (st { g0 with rwp := 3 })) (fun t => (grp s0 t).rwp == 2) = true := by decide
theorem test_waitc_reports : runs (exec (.waitc true 0 1) { sRep with cores := (st { grp sRep sRep with trv := 0x40, stat := 0 }).cores }) (fun t => (grp sRep t).trc == 8 && (grp sRep t).trx == 5) = true := by
  decide +kernel
theorem test_bar_alone : runs (exec (.bar true) s0) (fun t => (unit s0 t).wait == .bar) = true := by decide
theorem test_double_trap_ends : runs (exec (.trap true 1) s0) (fun t => (grp s0 t).ended == some 5) = true := by decide

/-! ### Engines, barriers, remote operations, messages (R133 to R143, R302 to R329, R342 to R349) -/

theorem wit_UnitCommands : ∃ x y, tlSpec (.pqry true 2 3 1) = some (true, x, y) ∧ clean { i := .pqry true 2 3 1, e := true, fields := [sSrcF 2, sSrcF 3] } sm ∧
    boardRoom sm true ∧ room sm 4 ∧ (captured sm (.pqry true 2 3 1) none none none [] [] 0).unit ≠ 2 ∧
    nextAt sm (cmdEntered sm true (captured sm (.pqry true 2 3 1) (some 1) (some 1) (some 0) [] [] 0)) :=
  ⟨_, _, rfl, clean_of (by decide +kernel), by unfold boardRoom; decide +kernel, room_of (by decide +kernel), by decide +kernel, resident_of (by decide +kernel)⟩
def sFol : State := { s0 with cores := [(0, { s0.core 0 with pair := .follower 1 1 1 })] }
theorem wit_UnitCommands_follower : clean { i := .mma true 0 2 3 1, e := true, fields := [sSrcF 2, sSrcF 3] } sFol ∧
    (captured sFol (.mma true 0 2 3 1) none none none [] [] 0).unit = 2 ∧ isFollower sFol :=
  ⟨clean_of (by decide +kernel), by decide +kernel, ⟨1, 1, 1, by decide⟩, ⟨(0, g0), by decide +kernel, rfl⟩⟩
theorem wit_SweepsAndCopies : clean { i := .tmapAdd true 2 3 2, e := true, fields := [sSrcF 2, sSrcF 3, sSrcF 2] } s0 ∧ boardRoom s0 false ∧ room s0 4 ∧
    clean { i := .cpyin true 2 3 8, e := true, fields := [sSrcF 2, sSrcF 3, (sRegF 8).many 8] } s0 ∧ (captured s0 (.cpyin true 2 3 8) none none none [] [] 0).fn ≠ 6 ∧
    (captured s0 (.cpyr true 2 3 8) none none none [] [] 0).fn = 6 ∧ s0.fab.drank = 4095 :=
  ⟨clean_of (by decide +kernel), by unfold boardRoom; decide +kernel, room_of (by decide +kernel), clean_of (by decide +kernel), by decide +kernel, by decide +kernel, by decide⟩
/-- `tzero.acc` of accumulator 1 in the scoreboard, entered, and started. -/
def mZero (st : Stage) : Cmd := { word := (encode (.tzeroAcc false 0 0 1)).getD 0, stage := st, entry := 0 }
def oZero (st : Stage) : Op := { seq := 5, path := 4, pc := 0, kind := .engine, dvec := false, cmd := some (mZero st) }
def sZero (st' : Stage) : State := st { g0 with ops := [oZero st'] }
theorem wit_CommandProgress_start : ∃ x, ((sZero .entered).core 0).entryOf 0 = some x ∧ ((sZero .entered).group 0 x.sl).op x.op.seq = some (oZero .entered) ∧ (oZero .entered).seq = x.op.seq ∧
    ((sZero .entered).core 0).mayStart { sl := x.sl, op := oZero .entered, m := mZero .entered } = true ∧
    Cmd.startFault { mZero .entered with stage := .started, began := 0 } ((sZero .entered).core 0) ((sZero .entered).group 0 x.sl) = none :=
  ⟨{ sl := 0, op := oZero .entered, m := mZero .entered }, by decide +kernel, by decide +kernel, by decide +kernel, by decide +kernel, by decide +kernel⟩
/-- Two commands on one unit: the younger may not start. -/
def sBoth : State := st { g0 with ops := [oZero .entered, { oZero .entered with seq := 6, cmd := some { mZero .entered with entry := 1 } }] }
theorem wit_CommandProgress_waits : (sBoth.core 0).mayStart { sl := 0, op := { oZero .entered with seq := 6, cmd := some { mZero .entered with entry := 1 } }, m := { mZero .entered with entry := 1 } } = false := by
  decide +kernel
theorem wit_CommandProgress_runs : ∃ x k, ((sZero .started).core 0).entryOf 0 = some x ∧ ((sZero .started).group 0 x.sl).op x.op.seq = some (oZero .started) ∧
    (mZero .started).isCopy = false ∧ (mZero .started).posted = [] ∧ (mZero .started).inst = none ∧ runLocal ((sZero .started).core 0) x.sl (mZero .started) = (k, none) ∧
    (k.group x.sl).ops = ((sZero .started).group 0 x.sl).ops :=
  ⟨{ sl := 0, op := oZero .started, m := mZero .started }, _, by decide +kernel, by decide +kernel, by decide +kernel, by decide +kernel, by decide +kernel, rfl, by decide +kernel⟩
theorem wit_CommandProgress_local : (mZero .started).word.toNat / 2 ^ 25 % 64 = 0x35 ∧ (mZero .started).accZero = true ∧
    ((encode (.pqry false 2 3 1)).getD 0).toNat / 2 ^ 25 % 64 = 0x36 ∧ ((encode (.pqry false 2 3 1)).getD 0).toNat / 2 ^ 20 % 32 = 0 := by decide +kernel
def sLate : State := { s0 with cores := [(0, { (sZero .started).core 0 with clk := 0x1000000, groups := [(0, { g0 with ops := [{ oZero .started with cmd := some { mZero .started with word := (encode (.mma false 0 2 3 1)).getD 0 } }] })] })] }
theorem wit_PairResets : (s0.core ((s0.core 0).leaderOf 0)).entered.any (fun x => x.m.unit == 2 && x.m.stage == .started && decide (x.m.began + 2 ^ 24 ≤ (s0.core 0).clk.toNat)) = false ∧
    (sLate.core ((sLate.core 0).leaderOf 0)).entered.any (fun x => x.m.unit == 2 && x.m.stage == .started && decide (x.m.began + 2 ^ 24 ≤ (sLate.core 0).clk.toNat)) = true := by decide +kernel
/-- A barrier at address 0, with DONE equal to GOAL. -/
theorem wit_TransactionBarriers : clean (tbIssue (.tbinit true 1) true false [] 1) s0 ∧ tbOk s0 1 ∧ room s0 4 ∧ clean (tbIssue (.tbarr true 5 1) true false [sSrcF 5] 1) s0 ∧ (grp s0 s0).ops = [] ∧
    s0.far = [] ∧ clean (tbIssue (.tbexp true 5 1) true false [sSrcF 5] 1) s0 ∧ issuesFlush (tbIssue (.tbwait true 5 1) true true [sSrcF 5] 1) s0 ∧
    issuesFlush (tbIssue (.tbtest true 2 5 1) true true [(sDstF 2).many 2, sSrcF 5] 1) s0 :=
  ⟨clean_of (by decide +kernel), by unfold tbOk; decide +kernel, room_of (by decide +kernel), clean_of (by decide +kernel), by decide, by decide, clean_of (by decide +kernel),
    issuesFlush_of (by decide +kernel), issuesFlush_of (by decide +kernel)⟩
theorem wit_TransactionBarriers_conditions : TBar.holds ((s0.core 0).tbar g0 0) 0x100000000 = true ∧ TBar.holds ((s0.core 0).tbar g0 0) 1 = false ∧ TBar.holds ((s0.core 0).tbar g0 0) 0 = true ∧
    (0 : Nat) % 16 = 0 ∧ Memory.wf (s0.core 0).lmem = true := by decide +kernel
/-- Rank 1, and a row of peer 0 that allows everything. -/
def sFab : State := { sm with fab := { drank := 1, capRows := [(0, 0x3FFFFD)] } }
theorem wit_RemoteAccesses : ∃ f k, remoteForm sFab (.rld true 1 2 2 3) = some (f, k) ∧ badOrder (unit sFab sFab) f.kind = false ∧ clean (f.issue (.rld true 1 2 2 3)) sFab ∧ sFab.ictx.active ≠ 0 ∧
    sFab.xlateAll (grp sFab sFab) f.need f.n (laneAddrs sFab 57 f) = .ok ([(0, 0x1000)], [false]) ∧ (∀ v ∈ laneAddrs sFab 57 f, v.2 % f.n = 0) ∧
    rowsAllow sFab f k ∧ room sFab 3 ∧ sFab.fab.full 32 = false :=
  ⟨_, _, rfl, by decide +kernel, clean_of (by decide +kernel), by decide +kernel, by decide +kernel, by decide +kernel,
    ⟨by decide, by intro i _; exact ⟨by revert i; decide +kernel, fun h => absurd h (by decide)⟩⟩, room_of (by decide +kernel), by decide +kernel⟩
theorem wit_RemoteAccesses_traps : (laneList sm.ictx.active).find? (fun l => sm.fab.drank == 4095 || !rowPeer (sm.fab.row ((ranksOf sm 3).getD l 0))) = some 0 := by decide +kernel
/-- An MCG entry of two members; one that is busy, and one that is broken. -/
def sColl (u : Coll) : State := { sm with fab := { drank := 1, colls := [(0, u)] } }
def uTwo : Coll := { count := 2, index := 0, valid := true }
theorem wit_Collectives : ∃ f, collForm (sColl uTwo) (.cbar true 1 1) = some f ∧ clean { i := .cbar true 1 1, e := f.e, fields := f.fields } (sColl uTwo) ∧ room (sColl uTwo) 3 ∧
    ((sColl uTwo).fab.coll f.group) = uTwo ∧ f.bad uTwo.count = false ∧ f.place (sColl uTwo) 0 0 false ∧ (sColl uTwo).fab.drank ≠ 4095 ∧ (s0.fab.coll f.group).valid = false :=
  ⟨_, rfl, clean_of (by decide +kernel), room_of (by decide +kernel), by decide +kernel, by decide +kernel, ⟨rfl, rfl, rfl⟩, by decide, by decide⟩
theorem wit_Collectives_answers : ∃ f, collForm (sColl { uTwo with busy := some (0, 0, 9) }) (.car true 1 2 3) = some f ∧ f.bad 2 = true ∧
    ((sColl { uTwo with busy := some (0, 0, 9) }).fab.coll 0).busy.isSome = true ∧ ((sColl { uTwo with broken := true }).fab.coll 0).broken = true :=
  ⟨_, rfl, by decide +kernel, by decide +kernel, by decide +kernel⟩
theorem wit_MessageOps : clean { i := .mpost true 1 2, e := true, fields := [sDstF 1, sSrcF 2] } sm ∧ room sm 3 ∧
    (sm.part 0).xlate (vaMod (sm.ictx.readS 2).toNat) 64 { rd := true, user := !(grp sm sm).privileged } = .ok (0x1000, false) ∧ vaMod (sm.ictx.readS 2).toNat % 64 = 0 ∧
    clean { i := .mtest true 1 2, e := true, fields := [sDstF 1, sSrcF 2] } sm := ⟨clean_of (by decide +kernel), room_of (by decide +kernel), by decide +kernel, by decide +kernel, clean_of (by decide +kernel)⟩
/-- A test, a cancel, a post and a probe in the group, with the Cairn disabled, enabled, and with an unarmed entry 0. -/
def oMsg (kind : OpKind) : Op := { seq := 5, path := 3, pc := 0, kind := kind, d := 1, dn := 2, vals := [0, 0] }
def pst0 : Posted := { index := 0, order := 0, armed := false, desc := [] }
def sMsg (kind : OpKind) (k : Cairn) : State := { st { g0 with ops := [oMsg kind] } with parts := [(0, { cairn := k })] }
theorem wit_MessageOps_match : ((sMsg .mtest {}).group 0 0).op 5 = some (oMsg .mtest) ∧ (oMsg .mtest).vals.length = 2 ∧ ((oMsg .mtest).vals.getD 1 0).toNat = ((sMsg .mtest {}).group 0 0).part ∧
    ((sMsg .mtest {}).cairn 0).enabled = false ∧ ((sMsg .mcancel { enabled := true }).cairn 0).entry 0 = none ∧
    ((sMsg .mcancel { enabled := true, posted := [pst0] }).cairn 0).entry 0 = some pst0 ∧ pst0.armed = false := by decide +kernel
theorem wit_MessageSends : clean { i := .msend true 1 16, e := true, fields := [sDstF 1, (sSrcF 16).many 8] } sFab ∧ room sFab 3 ∧ sFab.fab.drank ≠ 4095 ∧
    rowPeer (sFab.fab.row 0) = true ∧ rowMsg (sFab.fab.row 0) = true ∧ (sFab.cairn 0).enabled = false ∧ (sendRec (fun j => ((grp sFab sFab).sreg (16 + j)).toNat)).bad = false ∧
    ((sFab.part 0).sendFault (sendRec (fun j => ((grp sFab sFab).sreg (16 + j)).toNat)) false).isNone ∧ (sFab.cairn 0).sends.length < 1024 ∧
    (sendRec (fun j => if j = 6 then 1 else 0)).bad = true ∧ sm.fab.drank = 4095 :=
  ⟨clean_of (by decide +kernel), room_of (by decide +kernel), by decide, by decide, by decide, by decide, by decide +kernel, by decide +kernel, by decide, by decide +kernel, by decide⟩
theorem test_pqry_enters : runs (exec (.pqry true 2 3 1) sm) (fun t => (grp sm t).ops.map (fun o => o.path) == [4] && (t.core 0).entries == 1) = true := by decide +kernel
theorem test_follower_traps : runs (exec (.mma true 0 2 3 1) { sFol with cores := [(0, { sFol.core 0 with groups := [(0, { g0 with trv := 0x40, stat := 0 })] })] }) (fun t => (grp sFol t).trc == 0x14) = true := by decide +kernel
theorem test_command_starts : runs (exec .engineCommandStart (sZero .entered)) (fun t => (t.group 0 0).ops.map (fun o => o.cmd.map (fun m => m.stage)) == [some .started]) = true := by decide +kernel
theorem test_command_completes : runs (exec .engineCommandComplete (sZero .started)) (fun t => (t.group 0 0).ops.map (fun o => o.status) == [.performed]) = true := by decide +kernel
theorem test_pair_reset : runs (exec .pairReset sLate) (fun t => t.pkg.events == [.matrixReset 0]) = true := by decide +kernel
theorem test_tbtest : runs (exec (.tbtest true 2 5 1) s0) (fun t => (grp s0 t).ops.length == 0 && (grp s0 t).sreg 2 == 0 && (grp s0 t).sreg 3 == 0) = true := by decide +kernel
theorem test_remote_row_traps : runs (exec (.rld true 1 2 2 3) { sm with cores := (st { gm with trv := 0x40, stat := 0 }).cores }) (fun t => (grp sm t).trc == 0x12) = true := by decide +kernel
theorem test_cbar_busy : runs (exec (.cbar true 1 1) (sColl { uTwo with busy := some (0, 0, 9) })) (fun t => (grp sm t).ops.map (fun o => o.out) == [[.s 1 3]]) = true := by decide +kernel
theorem test_msend_disabled : runs (exec (.msend true 1 16) sFab) (fun t => (grp sm t).ops.map (fun o => o.out) == [[.s 1 4]]) = true := by decide +kernel
theorem test_mtest_disabled : runs (.next ((sMsg .mtest {}).cairnOp 0 0 5)) (fun t => (t.group 0 0).ops.map (fun o => o.out) == [[.s 1 2]]) = true := by decide +kernel

/-! ### Resets, health, memory, links (R7 to R55) -/

/-- A running device. -/
def sRun : State := { s0 with pkg := { s0.pkg with ready := true, phase := .running, imgok := true, idok := true } }
def sWb : State := { sRun with pkg := { sRun.pkg with phase := .writeBack, ready := false, kind := 1 } }
theorem wit_Resets : sRun.pkg.flashA.vendorOk = true ∧ mayReset sRun.args.src = true ∧ sRun.pkg.phase = .running ∧ sWb.pkg.phase = .writeBack ∧ mayReset (.reg (.vf 1)) = false ∧
    State.reset.pkg.phase = .retraining ∧ State.reset.pkg.kind ≠ 1 ∧ State.reset.pkg.recov = false := by decide
def sNoImg : State := { sRun with pkg := { sRun.pkg with flashA := ⟨false, [], .absent⟩, flashB := ⟨false, [], .absent⟩ } }
theorem wit_Resets_recovery : sNoImg.pkg.flashA.vendorOk = false ∧ sNoImg.pkg.flashB.vendorOk = false := by decide
theorem test_cold_reset_recovery : runs (exec .coldReset sNoImg) (fun t => t.pkg.recov && !t.pkg.imgok && t.cores == []) = true := by decide
theorem test_orderly_reset : runs (exec .orderlyWarmReset sRun) (fun t => t.pkg.phase == .writeBack && (t.core 0).groups == []) = true := by decide
theorem test_orderly_end : runs (exec .orderlyWritebackEnd sWb) (fun t => t.pkg.phase == .retraining && t.pkg.kind == 1 && t.cores == []) = true := by decide
theorem test_orderly_timeout : runs (exec .orderlyResetTimeout sWb) (fun t => t.pkg.kind == 2) = true := by decide
theorem test_forced_reset : runs (exec .forcedWarmReset sWb) (fun t => t.pkg.phase == .retraining && t.pkg.kind == 2) = true := by decide
theorem test_retrain : runs (exec .retrainComplete { sWb with pkg := { sWb.pkg with phase := .retraining } }) (fun t => t.pkg.ready && t.pkg.lastrst == 1) = true := by decide
def sLow : State := { sRun with pkg := { sRun.pkg with opPoint := [610, 600], lowered := [4, 5] } }
theorem wit_Health : sLow.args.die < 2 ∧ sLow.pkg.opPoint.length = 2 ∧ sLow.pkg.lowered.length = 2 ∧ 600 < sLow.pkg.opPoint.getD 0 0 ∧ sLow.pkg.opPoint.getD 1 0 ≤ 600 ∧
    sLow.pkg.lowered.getD 0 0 ≠ 0 ∧ sRun.pkg.lowered.getD 0 0 = 0 ∧ Resource.saddleLane 1 ∉ sRun.pkg.tests ∧ sRun.pkg.idok = true ∧ State.reset.pkg.idok = false ∧
    State.reset.pkg.ready = false ∧ State.reset.pkg.recov = false := by decide
theorem test_lower_at_floor : runs (exec .operatingPointLower { sLow with args := { die := 1, cause := .power } }) (fun t => t.pkg.opPoint == [610, 600] && t.pkg.throt == .power) = true := by decide
theorem test_raise : runs (exec .operatingPointRaise sLow) (fun t => t.pkg.opPoint == [620, 600] && t.pkg.lowered == [3, 5]) = true := by decide
theorem test_droop_65 : runs (exec .droopTrip { sRun with cores := [(0, { trips := List.replicate 64 0 })] }) (fun t => t.pkg.throt == .droop) = true := by decide
theorem test_selftest_no_spare : runs (exec .selfTestResult { sRun with pkg := { sRun.pkg with tests := [.hbmRow 0 0] }, args := { res := .hbmRow 0 0 } })
    (fun t => t.pkg.degraded == [.hbmRow 0 0] && t.pkg.events == [.noSpare (.hbmRow 0 0)] && t.pkg.tests == []) = true := by decide
theorem test_config_retry : runs (exec .configurationRequest State.reset) (fun t => t.pkg.answers == [.retryStatus]) = true := by decide
def q1 : QReq := { id := 4, req := { pa := 0, big := false, data := none, cls := 0, stamp := 0, requester := 7 }, place := (0, 0), arrived := 10 }
def sQ : State := { sRun with pkg := { sRun.pkg with tick := 600 }, hbm := { sRun.hbm with queues := [(0, [q1])] }, args := { id := 4, req := q1.req } }
theorem wit_MemoryEvents : sRun.pkg.ready = true ∧ q1.req.pa % 64 = 0 ∧ q1.req.pa < memEnd ∧ (sRun.hbm.chanOf 0).1 = sQ.args.chan ∧ chooseReq (mget [] sQ.hbm.queues 0) = some q1 ∧
    q1.arrived + 500 < sQ.pkg.tick ∧ sRun.args.chan < 384 ∧ sRun.args.bank < 48 ∧ mget 0 sRun.hbm.postponed 0 < 8 ∧ (∀ v ∈ sRun.hbm.victims, v.1 ≠ sRun.args.chan) ∧
    sRun.args.ecc = .clean := by decide +kernel
theorem test_memory_request : runs (exec .memoryRequest { sRun with args := { req := q1.req } }) (fun t => (mget [] t.hbm.queues 0).length == 1) = true := by decide +kernel
theorem test_promotion : runs (exec .promotion sQ) (fun t => (mget [] t.hbm.queues 0).map (fun q => q.promoted) == [true]) = true := by decide +kernel
theorem test_schedule : runs (exec .channelSchedule sQ) (fun t => mget [] t.hbm.queues 0 == [] && t.hbm.done.map (fun d => d.2.1.id) == [4]) = true := by decide +kernel
theorem test_missed : runs (exec .memoryRequestComplete { sQ with hbm := { sQ.hbm with done := [(0, { q1 with req := { q1.req with stamp := 1 } }, [], false)] } })
    (fun t => mget 0 t.hbm.missed 7 == 1 && t.hbm.done == []) = true := by decide +kernel
theorem test_refresh_ninth : runs (exec .perBankRefresh { sQ with hbm := { sQ.hbm with postponed := [(0, 8)] }, args := { postpone := true } }) (fun t => mget 0 t.hbm.mcfab 0 == 1 && mget 0 t.hbm.postponed 0 == 0) = true := by decide +kernel
theorem test_layer_disable : runs (exec .cacheLayerDisable { sRun with pkg := { sRun.pkg with events := [.tagloss 0 5] } }) (fun t => t.hbm.disabled == [0]) = true := by decide +kernel
theorem test_scrub_poisons : runs (exec .patrolScrub { sRun with args := { pa := 0x40, ecc := .uncorrectable } }) (fun t => t.pkg.events == [.patrolPoison 0x40] && t.hbm.poison.length == 1) = true := by decide +kernel
theorem test_far_invalidation : runs (exec .farCopyInvalidation { sRun with far := [] }) (fun t => t.far == []) = true := by decide
theorem test_demotion : runs (exec .evictLastDemotion { sRun with l2 := [{ lineZ with prio := 2 }], args := { cache := .l2 (homeSlice 0x1000) } }) (fun t => t.l2.map (fun l => l.prio) == [1]) = true := by decide +kernel
def sKey : State := { sRun with fab := { kwState := 1, ports := [(3, { slots := [(2, { present := true, key := 9 })], fails := 7 })] }, args := { port := 3, slot := 2 } }
theorem wit_Links : sRun.fab.kwState ≠ 1 ∧ sKey.fab.kwState = 1 ∧ sKey.fab.heldTx = [] ∧ (mget {} (sKey.fab.port 3).slots 2).present = true ∧ sKey.args.tagOk = false ∧ 7 ≤ (sKey.fab.port 3).fails ∧
    (mget {} (sRun.fab.port 3).slots 2).present = false ∧ sKey.args.port < 72 ∧ (sKey.fab.port 3).up = false ∧ sRun.args.pkt.rsvSet = false ∧ (∀ o ∈ sRun.fab.out, o.tag ≠ 0) ∧
    sRun.fab.ckptState ≠ 1 ∧ sRun.fab.ckptDesc.toNat / 2 ^ 52 = 0 := by decide +kernel
/-- A port that runs, with the key of job 7. -/
def pKey : Port := { trained := true, up := true, slots := [(0, { present := true, job := 7, key := 1 })] }
/-- One outstanding request with tag 5, of a remote load in the group. -/
def oRld : Op := { seq := 5, path := 3, pc := 0, kind := .rld, d := 1, dn := 1, status := .sent, reqs := [(0, [0])], ias := [0x2000] }
def sOut : State := { st { gm with ops := [oRld] } with pkg := sRun.pkg, fab := { drank := 1, ports := [(2, pKey)], out := [{ tag := 5, who := .lane 0 0 5 0, pkt := { blankPkt with ia := 0x2000 }, port := 1 }] }, args := { port := 2, tag := 5, pkt := { blankPkt with kind := 9, tag := 5, payload := [1, 2, 3, 4] } } }
theorem wit_Links_out : (sOut.fab.out.find? (fun o => o.tag == sOut.args.pkt.tag.toNat)).isSome ∧ (sOut.group 0 0).op 5 = some oRld ∧ oRld.mo = 0 := by decide +kernel
theorem test_rsp_lane : runs (exec .rsp sOut) (fun t => t.fab.out == [] && (t.group 0 0).ops.map (fun o => (o.status, o.reqs)) == [(.performed, [])]) = true := by decide +kernel
theorem test_timeout_reports : runs (exec .requestTimeout sOut) (fun t => (t.group 0 0).ops.map (fun o => o.reports.map (fun r => r.cause)) == [[0x13]]) = true := by decide +kernel
theorem test_flit_eighth : runs (exec .flitReceive { sKey with fab := { sKey.fab with ports := [(3, { slots := [(2, { present := true })], fails := 7, up := true, trained := true })] } })
    (fun t => !(t.fab.port 3).up && t.pkg.events == [.portDown 3]) = true := by decide +kernel
theorem test_key_go : runs (exec .keyWindowGo { sRun with args := { fn := .pf } }) (fun t => t.fab.kwState == 1) = true := by decide +kernel
theorem test_port_retrain : runs (exec .portRetrainComplete sKey) (fun t => (t.fab.port 3).up && (t.fab.port 3).trained) = true := by decide +kernel
theorem test_ckpt_empty : runs (exec .checkpointGo { sRun with args := { fn := .pf } }) (fun t => t.fab.ckptState == 3 && t.fab.ckptCode == 1) = true := by decide +kernel
def sJob (k : Nat) : State := { sl2 with pkg := sRun.pkg, fab := { drank := 1, pjob := [(0, (7, true))], ports := [(2, pKey)] }, args := { port := 2, pkt := { blankPkt with job := 7, src := 4, kind := BitVec.ofNat 4 k, ia := 0x1000, len := 3, payload := [9, 8, 7, 6] } } }
theorem wit_RemoteRequests : (sJob 0).args.pkt.rsvSet = false ∧ (sJob 0).partOfJob 7 = some 0 ∧ (sJob 0).partOfJob 8 = none ∧ (sJob 0).args.pkt.ia.toNat / 2 ^ 48 ≠ 15 ∧
    ((sJob 0).homeReads (remoteAcc 0 (sJob 0).args.pkt false) 4 0x1000 4 [] false).2 = .ok (List.replicate 4 0, false) ∧ 17 < (18 : BitVec 5).toNat ∧ (sJob 0).fab.drank < 4096 := by decide +kernel
theorem test_rd : runs (exec .rd (sJob 0)) (fun t => t.fab.tx.map (fun e => (e.1, e.2.stat, e.2.payload)) == [(2, 0, [0, 0, 0, 0])]) = true := by decide +kernel
theorem test_wr : runs (exec .wr (sJob 1)) (fun t => (t.l2.map (fun l => l.data.take 4)) == [[9, 8, 7, 6]]) = true := by decide +kernel
theorem test_wrong_job : runs (exec .rd { sJob 0 with fab := { drank := 1, ports := [(2, pKey)] } }) (fun t => t.fab.tx.map (fun e => e.2.stat) == [5]) = true := by decide +kernel

/-! ### The Cairn and collectives (R56 to R71, R347) -/

/-- A Cairn that is enabled, with room in queue and staging; and one whose queue has no entry. -/
def kOpen : Cairn := { enabled := true, regs := [(0x18, 16400), (0x1C, 64), (0x38, 0x800000)] }
def sCairn (k : Cairn) : State := { sl2 with pkg := sRun.pkg, parts := [(0, { sl2.part 0 with cairn := k })], fab := { drank := 1, pjob := [(0, (7, true))], ports := [(2, pKey)] }, args := { port := 2, fn := .pf, pkt := { blankPkt with job := 7, src := 4, kind := 6 } } }
theorem wit_CairnEvents : cairnTakes (sCairn kOpen) 6 0 ∧ (sCairn kOpen).args.pkt.msg.frag = 0 ∧ (sCairn kOpen).args.pkt.src.toNat ∉ ((sCairn kOpen).cairn 0).refusing ∧
    ((sCairn kOpen).cairn 0).match (asKind (sCairn kOpen) 6) = none ∧ ((sCairn kOpen).cairn 0).match (asKind (sCairn kOpen) 7) = none ∧
    16384 + kOpen.unexpected.length < kOpen.entries ∧ ({ enabled := true } : Cairn).entries ≤ 0 := by
  refine ⟨⟨?_, ?_, ?_, ?_, ?_⟩, ?_, ?_, ?_, ?_, ?_, ?_⟩ <;> decide +kernel
theorem test_msge_queued : runs (exec .msge (sCairn kOpen)) (fun t => (t.cairn 0).unexpected.map (fun m => m.src) == [4]) = true := by decide +kernel
theorem test_msge_refused : runs (exec .msge (sCairn { enabled := true })) (fun t => (t.cairn 0).unexpected == [] && (t.cairn 0).refusing == [4]) = true := by decide +kernel
theorem test_msgh_holds : runs (exec .msgh (sCairn { enabled := true })) (fun t => (t.cairn 0).held) = true := by decide +kernel
def m0 : OutMsg := { sid := 0, dst := 4, hdr := blankPkt, sent := true }
theorem wit_CairnEvents_fin : ((sCairn { kOpen with sends := [m0] }).cairn 0).sends.find? (fun m => m.sid == 0 && m.dst == 4) = some m0 ∧ m0.fut = 0 := by decide +kernel
theorem test_fin : runs (exec .fin (sCairn { kOpen with sends := [m0] })) (fun t => (t.cairn 0).sends == []) = true := by decide +kernel
/-- A payload of four bytes that lies in L2, to be read. -/
def mPay : OutMsg := { sid := 0, dst := 4, hdr := { blankPkt with kind := 6, msg := { blankPkt.msg with mlen := 4 } }, buf := 0x1000 }
def sPay : State := { sCairn { kOpen with sends := [mPay] } with l2 := [lineZ, { part := 0, ia := 0, data := List.replicate 128 0, pas := [0] }, { part := 0, ia := 0x800000, data := List.replicate 128 0, pas := [0x800000] }] }
theorem wit_CairnEvents_payload : (sPay.cairn 0).sends.find? (fun m => m.sid == sPay.args.sid) = some mPay ∧ mPay.staged = false ∧ mPay.eager = true ∧
    (∀ o ∈ (sPay.group mPay.core mPay.slot).ops, o.seq < mPay.seq → o.kind.isMem = false) ∧ sPay.far = [] ∧
    (sPay.readPayload 0 mPay).2 = .ok ([0, 0, 0, 0], false) ∧
    ((sPay.readPayload 0 mPay).1.homeWrites { part := 0, requester := 385, write := true, sor := true } 66 (((sPay.readPayload 0 mPay).1.cairn 0).staging 0) [0, 0, 0, 0]).2 = .ok 8388612 := by decide +kernel
theorem test_payload_read : runs (exec .payloadRead sPay) (fun t => (t.cairn 0).sends.map (fun m => (m.staged, m.payload)) == [(true, [0, 0, 0, 0])]) = true := by decide +kernel
theorem wit_CairnEvents_refused : (sCairn { kOpen with sends := [{ m0 with refused := true }] }).fab.out = [] ∧
    ((sCairn { kOpen with sends := [{ m0 with refused := true, dst := 0 }] }).cairn 0).sends.filter (fun m => m.dst == 0 && m.refused) = [{ m0 with refused := true, dst := 0 }] := by decide +kernel
theorem test_resend : runs (exec .refusedResend (sCairn { kOpen with sends := [{ m0 with refused := true, dst := 0 }] })) (fun t => (t.cairn 0).sends.map (fun m => m.refused) == [false]) = true := by decide +kernel
theorem test_cctl_set : runs (exec .cctlEnSet (sCairn { kOpen with enabled := false })) (fun t => (t.cairn 0).enabled) = true := by decide +kernel
theorem test_cctl_clear : runs (exec .cctlEnClear (sCairn { kOpen with posted := [pst0] })) (fun t => !(t.cairn 0).enabled && (t.cairn 0).posted == []) = true := by decide +kernel
def oCar : Op := { seq := 9, path := 3, pc := 0, kind := .car, d := 1, dn := 1, dvec := false, status := .sent }
def sCar : State := { st { gm with ops := [oCar] } with fab := { colls := [(0, { count := 2, valid := true, busy := some (0, 0, 9) })] } }
theorem wit_CairnEvents_collective : (sCar.fab.coll sCar.args.group).busy = some (0, 0, 9) ∧ (sCar.group 0 0).op 9 = some oCar ∧ (sRun.fab.coll 0).busy = none := by decide +kernel
theorem test_car_timeout : runs (exec .carTimeout sCar) (fun t => (t.fab.coll 0).broken && (t.group 0 0).ops.map (fun o => (o.status, o.out)) == [(.performed, [.s 1 1])]) = true := by decide +kernel
theorem test_cbc_timeout : runs (exec .cbcTimeout { sCar with cores := (st { gm with ops := [{ oCar with kind := .cbc }] }).cores }) (fun t => (t.fab.coll 0).broken) = true := by decide +kernel
theorem test_mcg_write : runs (exec .mcgWrite { sCar with args := { fn := .pf, v := 0x1003002 } }) (fun t => (t.fab.coll 0).count == 2 && (t.fab.coll 0).index == 3 && (t.fab.coll 0).valid && (t.fab.coll 0).bank == 0) = true := by decide +kernel
/-- A landing of an eager message that is finished. -/
def mIn : InMsg := { src := 0, sid := 0, hdr := { blankPkt with kind := 6 }, order := 3, desc := List.replicate 64 0 }
theorem wit_CairnEvents_completes : mIn.finished = true ∧ isHeader mIn.hdr = false := by decide +kernel
theorem test_cairn_completion : runs (exec .cairnCompletion (sCairn { kOpen with landings := [mIn] })) (fun t => (t.cairn 0).landings == []) = true := by decide +kernel

/-! ### Partitions, the host window, registers, fault records (R72 to R84, R215) -/

def sPart (p : Part) : State := { sRun with parts := [(0, p)], args := { fn := .pf } }
theorem wit_PartitionEvents_form : mayWrite (sPart { units := 1 }).args.fn 0 = true ∧ ((sPart { units := 1 }).part 0).st = 0 ∧ (sPart { units := 1 }).unitsTaken 0 = false ∧ mayWrite (.vf 1) 0 = false ∧
    ({ sRun with parts := [(0, { units := 1 }), (1, { units := 1, st := 1 })] } : State).unitsTaken 0 = true := by decide
theorem test_form : runs (exec .form (sPart { units := 1 })) (fun t => (t.part 0).st == 1) = true := by decide
theorem test_form_bad : runs (exec .form (sPart { units := 0 })) (fun t => (t.part 0).st == 0 && t.pkg.events == [.pcmdbad 0]) = true := by decide
theorem wit_PartitionEvents_commands : ((sPart { units := 1, st := 1 }).part 0).st = 1 ∧ ((sPart { units := 1, st := 3 }).part 0).st = 3 ∧ ((sPart { units := 1, st := 4 }).part 0).st = 4 ∧
    (∀ k ∈ ({ sPart { units := 1, st := 2 } with cores := [] } : State).cores, ∀ g ∈ k.2.groups, g.2.part ≠ 0) := by decide
theorem test_halt : runs (exec .halt (sPart { units := 1, st := 1 })) (fun t => (t.part 0).st == 2 && (t.group 0 0).preempt == .requested) = true := by decide
theorem test_resume : runs (exec .resume (sPart { units := 1, st := 3 })) (fun t => (t.part 0).st == 1) = true := by decide
theorem test_halt_done : runs (exec .haltDone { sPart { units := 1, st := 2 } with cores := [] }) (fun t => (t.part 0).st == 3) = true := by decide
theorem test_swap_out : runs (exec .swapOut (sPart { units := 1, st := 3 })) (fun t => (t.part 0).st == 5) = true := by decide
def svd (c : Nat) (m : Memory) : Saved := { core := c, groups := [], quarters := [], frames := [], lmem := m, lpoison := [], matrix := {}, queries := [], tasks := [], pair := .single, shadow := false }
theorem wit_PartitionEvents_swap : (∀ c ∈ ({ units := 1 } : Part).cores, ∀ l ∈ ((sPart { units := 1, st := 5 }).core c).l1, l.dirty = 0) ∧ (([svd 0 []]).map Saved.core).Nodup := by decide +kernel
theorem test_swap_out_done : runs (exec .swapOutDone (sPart { units := 1, st := 5, without := List.range 192 })) (fun t => (t.part 0).st == 4) = true := by decide +kernel
theorem test_core_saved : (let r := ({ sRun.core 0 with lmem := [(4, 9)] } : Core).save 0 0 true; r.1.lmem == [(4, 9)] && r.1.groups == (sRun.core 0).groups && r.2.groups == [] && r.2.shadowOf == some 0) = true := by decide
theorem test_swap_in_done : runs (exec .swapInDone (sPart { units := 1, st := 5, saved := [svd 3 [(4, 9)]] })) (fun t => (t.part 0).st == 1 && (t.core 3).lmem == [(4, 9)]) = true := by decide
theorem test_dissolve : runs (exec .dissolve (sPart { units := 1, st := 1, ranges := [(0, {})] })) (fun t => (t.part 0).st == 0 && (t.part 0).ranges == [] && (t.core 0).groups == []) = true := by decide +kernel
theorem wit_PartitionEvents_host : State.reset.pkg.ready = false ∧ sRun.pkg.ready = true ∧ sRun.bar2Addr .pf 0x40 + 4 ≤ memEnd ∧ sRun.l2 = [] ∧ (sRun.bar2Addr .pf 0x40) % 128 + 4 ≤ 128 ∧
    memEnd < memEnd - 2 + 4 ∧ (sl2.part 0).xlate (vaMod 0x1000) 4 { wr := true } = .ok (0x1000, false) ∧ (s0.part 0).xlate (vaMod 0x1000) 4 { wr := true } = .error 0x1000 ∧
    (sl2.homeWrite (hostAcc 0 false true) 0x1000 [1, 2, 3, 4] []).2 = .ok () := by decide +kernel
theorem test_bar2_unready : runs (exec .bar2Read State.reset) (fun t => t.bar2 == [(0, none)]) = true := by decide +kernel
theorem test_bar2_write_read : runs (exec .bar2Write { sRun with args := { fn := .pf, off := 0x40, data := [7, 8] } }) (fun t =>
    runs (exec .bar2Read { t with args := { fn := .pf, off := 0x41, n := 1 } }) (fun u => u.bar2 == [(0, some [8])])) = true := by decide +kernel
theorem wit_PartitionEvents_registers : sRun.pkg.recov = false ∧ (placeAt 0x25000).mayChange (.vf 0) = false ∧ (∀ e ∈ sRun.fab.pjob, e.2.2 = false) ∧
    (∃ e ∈ (sCairn kOpen).fab.pjob, e.2.2 = true) := by decide
theorem test_register_units : runs (exec .registerWrite { sRun with args := { fn := .pf, off := 0x3040, v := 0x1103 } }) (fun t => (t.part 1).units == 3 && (t.part 1).rwpmax == 1 && (t.part 1).shen) = true := by decide +kernel
theorem test_register_drank : runs (exec .registerWrite { sRun with args := { fn := .pf, off := 0x25000, v := 0x1005 } }) (fun t => t.fab.drank == 5) = true := by decide +kernel
def rec0 : FaultRec := { seq := 0, page := 0, posted := true }
def sRec : State := { st { g0 with waitRec := some (0, false) } with parts := [(0, { records := [rec0], nextRec := 1 })], args := { fn := .pf, v := 0 } }
theorem wit_PartitionEvents_records : (sRec.part 0).records.find? (fun r => r.seq == sRec.args.v.toNat % 2 ^ 32 && r.posted) = some rec0 ∧ (∀ r ∈ (sRec.part 0).records, r.posted = true) ∧
    sRec.args.v.getLsbD 32 = false ∧ sRec.opsWhere 0 (fun o => o.status == .parked 0) = [] ∧ (∀ e ∈ (sRec.part 0).parked, e.1 ≠ 0) ∧
    (∀ k ∈ sRec.cores, ∀ t ∈ k.2.tasks, t.blocked ≠ some 0) ∧ (∀ m ∈ (sRec.part 0).cairn.landings, m.parked ≠ some 0) ∧ (sRec.group 0 0).abortRec = none := by decide +kernel
theorem test_fqres : runs (exec .fqres sRec) (fun t => (t.part 0).records == [] && (t.group 0 0).waitRec == none) = true := by decide +kernel
theorem test_fqr : runs (exec .fqr { sRec with args := { fn := .pf, v := 5 } }) (fun t => (t.part 0).fqr == 5) = true := by decide +kernel

/-! ### Launches and tasks (R77 to R105) -/

/-- W of a queue's index line is 3 (line at 0x1000); R is 1. -/
def lineW : Line := { lineZ with data := [3, 0, 0, 0] ++ List.replicate 124 0 }
def sLq (x : LQueue) : State := { sl2 with pkg := sRun.pkg, l2 := [lineW], parts := [(0, { sl2.part 0 with st := 1, units := 1, lqs := [(0, x)] })], args := { fn := .pf } }
theorem wit_LaunchEvents_queue : (((sLq { line := 0x1000 }).setLq 0 0 { (sLq { line := 0x1000 }).lq 0 0 with en := true }).homeRead { part := 0, sor := true } 0x1000 8).2 = .ok ([3, 0, 0, 0, 0, 0, 0, 0], false) ∧
    ((sLq { line := 0x1000 }).lqWriteR 0 0 3).2 = .ok () ∧ ((sLq { line := 0x1000, seen := 4 }).lq 0 0).seen.toNat > 3 ∧ ((sLq { line := 0x1000, log2n := 1 }).lq 0 0).slots = 2 := by decide +kernel
theorem test_lq_enable : runs (exec .lqEnable (sLq { line := 0x1000 })) (fun t => (t.lq 0 0).state == 1 && (t.lq 0 0).r == 3) = true := by decide +kernel
theorem test_lq_disable : runs (exec .lqDisable (sLq { line := 0x1000, en := true, state := 1 })) (fun t => (t.lq 0 0).state == 0 && !(t.lq 0 0).en) = true := by decide +kernel
theorem test_lq_backward : runs (exec .writeIndexNotify (sLq { line := 0x1000, en := true, state := 1, waiting := true, seen := 4, r := 4 })) (fun t => (t.lq 0 0).state == 2 && (t.lq 0 0).code == 2) = true := by decide +kernel
theorem test_lq_overrun : runs (exec .writeIndexNotify (sLq { line := 0x1000, en := true, state := 1, waiting := true, log2n := 1 })) (fun t => (t.lq 0 0).code == 1) = true := by decide +kernel
theorem test_lq_seen : runs (exec .writeIndexNotify (sLq { line := 0x1000, en := true, state := 1, waiting := true, log2n := 2 })) (fun t => (t.lq 0 0).seen == 3) = true := by decide +kernel
/-- A record of LID 1 with a grid of one cluster of one core and one group, code at 0x2000. -/
def recZ : List Byte := [1, 0, 0, 0, 0, 0, 4, 0] ++ [0, 0x20, 0, 0, 0, 0, 0, 0] ++ List.replicate 8 0 ++ [1, 0, 1, 0, 1, 0, 0x11, 0] ++ List.replicate 96 0
def sRing : State := { sLq { line := 0x1000, en := true, state := 1, seen := 1, log2n := 1 } with l2 := [{ lineZ with ia := 0, data := recZ, pas := [0] }, lineW] }
theorem wit_LaunchEvents_record : lrBad recZ = false ∧ (sRing.part 0).rectangles 1 1 ≠ [] ∧ (sRing.part 0).xlate 0 128 { rd := true } = .ok (0, false) ∧
    (sRing.homeRead { part := 0, sor := false } 0 128).2 = .ok (recZ, false) ∧ lrBad [] = true ∧ lrCompl [] = 0 := by decide +kernel
theorem test_record_read : runs (exec .launchRecordRead sRing) (fun t => (t.lq 0 0).r == 1 && (t.part 0).launches.map (fun l => lrLid l.record) == [1]) = true := by decide +kernel
/-- The launch waits for its placement; its header and segment 0 are in L2. -/
def lch : Launch := { id := 0, record := recZ }
def segLines : List Line := (List.range 32).map (fun i => { lineZ with ia := 0x3000 + 128 * i, pas := [0x3000 + 128 * i] })
def sPlace : State := { sLq {} with cores := [], l2 := { lineZ with ia := 0x2000, pas := [0x2000], data := [2, 0, 1, 0] ++ List.replicate 124 0 } :: segLines, parts := [(0, { sl2.part 0 with st := 1, units := 1, launches := [lch], nextLaunch := 1 })] }
theorem wit_LaunchEvents_place : (sPlace.part 0).order.findSome? (fun l => (sPlace.fits 0 l).map (fun cs => (l, cs))) = some (lch, [0]) ∧ (∀ x ∈ (sPlace.part 0).launches, lrKind x.record ≠ 1) ∧
    lrCode recZ < 2 ^ 57 ∧ lrCode recZ % 4096 = 0 ∧ (match (sPlace.readCode 0 0x2000 64).2.1 with | .ok h => headerOk h | _ => false) = true ∧
    (match ((sPlace.readCode 0 0x2000 64).1.readCode 0 0x3000 4096).2.1 with | .ok b => b.length == 4096 | _ => false) = true ∧ [0].Nodup := by decide +kernel
theorem test_placement : runs (exec .clusterPlacement sPlace) (fun t => (t.group 0 0).holder == .group && ((t.group 0 0).iunit 0).pc == 0x3000 && (t.part 0).launches.map (fun l => (l.next, l.live)) == [(1, 1)]) = true := by decide +kernel
/-- Core 0 to 23 of unit 0 have no free slot in quarter 0, so that the cluster fits nowhere. -/
def sFull : State := { sPlace with cores := (List.range 24).map (fun c => (c, { groups := (List.range 16).map (fun i => (i, g0)) })) }
theorem wit_LaunchEvents_reserve : (sFull.part 0).order.find? (fun l => l.id == 0) = some lch ∧ sFull.fits 0 lch = none ∧ ((sFull.part 0).rectangles 1 1).head? = some [0] ∧ sPlace.fits 0 lch = some [0] := by decide +kernel
theorem test_reservation : runs (exec .reservation sFull) (fun t => (t.part 0).reservation == some (0, [0])) = true := by decide +kernel
def sDone : State := { sPlace with parts := [(0, { sPlace.part 0 with launches := [{ lch with next := 1 }] })] }
theorem wit_LaunchEvents_complete : (sDone.part 0).launches.find? (fun l => l.id == 0) = some { lch with next := 1 } ∧ lrClusters recZ = 1 ∧ lrCompl recZ = 0 ∧ lrKind recZ = 0 := by decide +kernel
theorem test_launch_completion : runs (exec .launchCompletion sDone) (fun t => (t.part 0).launches == []) = true := by decide +kernel
/-- A graph of one node without successors, whose node has ended. -/
def gph : Graph := { id := 0, launch := 0, nodes := 1, ended := [0] }
def sGraph : State := { sPlace with parts := [(0, { sPlace.part 0 with launches := [{ lch with graph := some 0 }], graphs := [gph] })] }
theorem wit_LaunchEvents_graph : (sGraph.part 0).graphs.find? (fun g => g.id == 0 && g.ended.contains 0) = some gph ∧
    (match (sGraph.nodeEntry 0 0x2000 0).2.1 with | .ok e => recField e 12 4 == 0 | _ => false) = true := by decide +kernel
theorem test_graph_node : runs (exec .graphNodeComplete sGraph) (fun t => (t.part 0).graphs.map (fun g => (g.ended, g.done)) == [([], [0])]) = true := by decide +kernel
/-- A task of one segment and no bytes, with its region of one page. -/
def trec : TaskRecord := [0, 0x10, 0, 0, 0, 0, 1, 0] ++ List.replicate 44 0 ++ [4, 0, 0, 0] ++ List.replicate 8 0
def tq : QTask := { id := 3, part := 0, record := trec, inherit := {} }
def sTaskQ (t : QTask) : State := { sRun with cores := [(0, { tasks := [t], frames := [{ seg := 1, part := 0 }] })], parts := [(0, { st := 1, units := 1 })], args := { slot := 64 } }
theorem wit_TaskEvents_dispatch : nextTaskOf (sTaskQ tq) 0 = some tq ∧ ((sTaskQ tq).core 0).freeShadow = some 64 ∧ TaskRecord.npages trec ≤ ((sTaskQ tq).core 0).freePages.length ∧
    TaskRecord.plen trec = 0 ∧ TaskRecord.segs trec = 1 ∧ (((sTaskQ tq).core 0).resident 0 (nbits (TaskRecord.entry trec) 0 48 / 4096 + 0)).isSome = true ∧
    ((sTaskQ tq).core 0).nextTask (fun _ => 0) = some tq := by decide +kernel
theorem test_dispatch : runs (exec .taskDispatch (sTaskQ tq)) (fun t => (t.core 0).tasks.map (fun q => (q.slot, q.pages, q.ready)) == [(some 64, [0], true)]) = true := by decide +kernel
def tqR : QTask := { tq with slot := some 64, pages := [0], ready := true }
theorem wit_TaskEvents_start : ((sTaskQ tqR).core 0).tasks.find? (fun t => t.slot == some 64) = some tqR ∧ (∀ x ∈ ((sTaskQ tqR).core 0).tasks, x.id = tqR.id → x = tqR) := by decide +kernel
theorem test_task_start : runs (exec .taskStart (sTaskQ tqR)) (fun t => (t.group 0 64).holder == .task && ((t.group 0 64).iunit 0).pc == 0x1000 && (t.core 0).tasks == []) = true := by decide +kernel
def sRunTask (g : Group) : State := { sRun with cores := [(0, { groups := [(64, g)] })], parts := [(0, { st := 2, units := 1 })], args := { slot := 64 } }
def gTask : Group := { holder := .task, task := trec, pages := [0], iunits := [{ pc := 0x1000 }] }
theorem wit_TaskEvents_halt : ((sRunTask gTask).group 0 64).holder = .task ∧ ((sRunTask gTask).part 0).st = 2 ∧ gTask.aborted = false := by decide
theorem test_task_halt : runs (exec .taskHaltTimeout (sRunTask gTask)) (fun t => (t.group 0 64).aborted && (t.group 0 64).live == []) = true := by decide
def sDef : State := { sRun with parts := [(0, { st := 1, units := 1, deferred := [{ core := some 0, record := trec, inherit := {}, node := none }] })] }
theorem wit_TaskEvents_deferred : ((sDef.part 0).deferred.map (fun d => d.core)) = [some 0] ∧ (sDef.core 0).queued < 256 := by decide
theorem test_deferred : runs (exec .deferredEnqueue sDef) (fun t => (t.part 0).deferred == [] && (t.core 0).tasks.map (fun q => q.record) == [trec]) = true := by decide +kernel
def gGone : Group := { g0 with iunits := [{ wait := .exited }] }
theorem wit_TaskEvents_retire : gGone.live = [] ∧ gGone.ops = [] ∧ gGone.fxAdds = [] ∧ gGone.rwAdds = [] ∧ listedOnce ((st gGone).core 0).groups 0 ∧ ((st gGone).core 0).pair = .single ∧
    (let g : Group := { gTask with iunits := [{ wait := .exited }] }; g.live = [] ∧ TaskRecord.fut g.task = 0 ∧ TaskRecord.succ g.task = 0 ∧ g.node = none ∧ g.tbuf = [] ∧ g.ended = none ∧ g.abortRec = none) := by
  refine ⟨?_, ?_, ?_, ?_, ?_, ?_, ?_⟩ <;> first | decide +kernel | rfl
theorem test_retire : runs (exec .groupRetire (st gGone)) (fun t => (t.group 0 0).holder == .free) = true := by decide +kernel
theorem test_retire_task : runs (exec .groupRetire (sRunTask { gTask with iunits := [{ wait := .exited }] })) (fun t => (t.group 0 64).holder == .free && (t.core 0).tasks == []) = true := by decide +kernel
theorem test_retire_aborted : runs (exec .groupRetire (sRunTask { gTask with iunits := [{ wait := .exited }], aborted := true })) (fun t => (t.core 0).tasks.map (fun q => q.record) == [trec]) = true := by decide +kernel
theorem test_safe_timeout : runs (exec .safeTimeout (st { g0 with preempt := .requested })) (fun t => (t.group 0 0).preempt == .forced && (t.part 0).pfrc == 1) = true := by decide +kernel
theorem wit_TaskEvents_complete : ((sSfu.group 0 0).ops.find? (fun o => o.path == 6)) = some oSfu ∧ (let o : Op := { oStl with status := .performed }; o.kind.isMem = true ∧ (st { g0 with ops := [o] }).group 0 0 = { g0 with ops := [o] }) := by
  decide +kernel
theorem test_operation_complete : runs (exec .operationComplete (st { g0 with ops := [{ oStl with status := .performed, out := [.s 1 9] }] })) (fun t => (t.group 0 0).ops == [] && (t.group 0 0).sreg 1 == 9) = true := by decide +kernel
theorem test_window_timeout : runs (exec .windowTimeout (st { g0 with ops := [oZero .window] })) (fun t => (t.group 0 0).windowOps == [] && (t.core 0).entries == 1) = true := by decide +kernel

/-! ### Self-tests, held accesses, stalls: hypotheses of the further clauses -/

/-- A self-test holds core 0, or the saddle links. -/
def sOut0 : State := { sStep with pkg := { sStep.pkg with windows := [.sramRow 0 0] }, turns := [.issue 0 0] }
def sOutL : State := { sStep with pkg := { sStep.pkg with windows := [.saddleLane 0] }, turns := [.issue 0 0] }
theorem wit_StepStalls : sOut0.pkg.clocksStopped = false ∧ sOut0.pkg.phase ≠ .writeBack ∧ sOut0.coreOut 0 = true ∧ isCoreEvent .groupRetire = true ∧ encode Instr.groupRetire = none ∧
    sOutL.pkg.windows ≠ [] ∧ sOutL.coreOut 0 = false ∧
    runs (issueOn 0 0 { sOutL with turns := [] }) (fun t => !t.reachedOut sOutL.pkg.windows) = true ∧ sOutL.reachedOut sOutL.pkg.windows = false ∧
    ({ sOutL with hbm := { sOutL.hbm with touched := [384] } } : State).reachedOut sOutL.pkg.windows = true := by decide +kernel
theorem test_core_out : runs (step sOut0) (fun t => (t.group 0 0).sreg 1 == 0 && t.turns == []) = true := by decide +kernel
theorem test_core_not_out : runs (step sOutL) (fun t => (t.group 0 0).sreg 1 == 12) = true := by decide +kernel
/-- No access of the group is held by a write-protected page, and no word lies in an RR page. -/
theorem wit_Unheld : (∃ f, globalForm (.ldg true 1 2 2 4) = some f ∧ unheld sm.ictx sm (globalOp sm.ictx f [(0, 0x1000)] [false])) ∧
    (∃ f, localForm (.stl true 1 2 3 4) = some f ∧ (grp sm sm).windowMeets (sm.ictx.sums 32 f.a f.b) (laneList sm.ictx.active) f.n = false ∧ unheld sm.ictx sm (localOp sm.ictx f)) ∧
    (∃ f, threadForm (.ldt true 1 2 3 4) = some f ∧ unheld sm.ictx sm (threadOp sm f [(0, 0x1000)] [false]) ∧ sm.mixesRR (grp sm sm).part [0x1000] = false) ∧
    (∃ f, planeForm (.ldp true 1 2 2 2) = some f ∧ unheld sm.ictx sm (planeOp sm f 0 [(0, 0x1000)] [false])) ∧
    (∃ f, futureForm (.fres true 1 2 3) = some f ∧ unheld (noOrder sm.ictx) sm (futureOpOf sm f 0x1000 0x1000 false)) ∧
    unheld sm.ictx sm { seq := 0, path := 5, pc := 0, kind := .cfetch, dvec := false, addrs := [0x2000], ias := [0x2000], reqs := [(0, [])] } ∧
    (∃ f k, remoteForm sFab (.rld true 1 2 2 3) = some (f, k) ∧ unheld sFab.ictx sFab (remoteOp sFab f k [(0, 0x1000)] [false])) := by
  refine ⟨⟨_, rfl, ?_⟩, ⟨_, rfl, ?_, ?_⟩, ⟨_, rfl, ?_, ?_⟩, ⟨_, rfl, ?_⟩, ⟨_, rfl, ?_⟩, ?_, ⟨_, _, rfl, ?_⟩⟩ <;> first | decide +kernel | (unfold unheld; decide +kernel)
/-- A command in the window whose range lane 0 meets. -/
def sMeet : State := { sm with cores := (st { gm with ops := [{ oZero .window with cmd := some { mZero .window with wr := [(0, 4096)] } }] }).cores }
theorem wit_LocalAccesses_meets : ∃ f, localForm (.stl true 1 2 3 4) = some f ∧ (grp sMeet sMeet).windowMeets (sMeet.ictx.sums 32 f.a f.b) (laneList sMeet.ictx.active) f.n = true ∧
    (grp sMeet sMeet).tileFault = none ∧ (flushed sMeet).heldBack 0 0 (localOp sMeet.ictx f) = none ∧ nextAt sMeet (entered sMeet.ictx (flushed sMeet) (localOp sMeet.ictx f)) :=
  ⟨_, rfl, by decide +kernel, by decide +kernel, by decide +kernel, resident_of (by decide +kernel)⟩
theorem wit_CacheLines_all : clean { i := .cpf1 true 2 2, e := true, fields := [vSrcF 2, sRegF 2] } sm ∧
    nextAt sm ((laneList sm.ictx.active).foldl (prefetchLane false sm 2 2) sm) ∧ nextAt sm ((laneList sm.ictx.active).foldl (prefetchLane true sm 2 2) sm) ∧
    lineSpec (.cwb true 2 2) = some (true, 2, 2, writtenBack) ∧ clean { i := .cwb true 2 2, e := true, fields := [vSrcF 2, sRegF 2] } sm ∧
    nextAt sm ([0x1000].foldl (writtenBack sm) (sm.performAll 0 0)) ∧ nextAt sm ([0x1000].foldl (dropped sm) (sm.performAll 0 0)) ∧ nextAt sm ([0x1000].foldl (trimmed 3 sm) (sm.performAll 0 0)) ∧
    (let s := st { gm with masks := [0, 0, 0, 0] }; s.ictx.active = 0 ∧ nextIn s ∧ clean { i := .cwb true 2 2, e := true, fields := [vSrcF 2, sRegF 2] } s) :=
  ⟨clean_of (by decide +kernel), resident_of (by decide +kernel), resident_of (by decide +kernel), rfl, clean_of (by decide +kernel), resident_of (by decide +kernel), resident_of (by decide +kernel),
    resident_of (by decide +kernel), by decide +kernel, resident_of (by decide +kernel), clean_of (by decide +kernel)⟩
/-- A return into a segment that is not resident, and one whose captured write is due. -/
def sRetFar : State := st { grp sRet sRet with save := some { saveZ with resume := 0x2000 } }
def sRetDue : State := st { grp sRet sRet with save := some { saveZ with pos := 1, old := [.s 7 5], due := [{ left := 1, w := .s 7 9 }] } }
theorem wit_TrapReturns_far : issuesFlush { i := .sret true, e := true, priv := true, mustEnd := true, flush := true } sRetFar ∧ segOf (0x2000 : Va) ≠ segOf (unit sRetFar sRetFar).pc ∧
    (sRetFar.core 0).resident 0 (segOf 0x2000) = none ∧ issuesFlush { i := .sret true, e := true, priv := true, mustEnd := true, flush := true } sRetDue ∧
    (grp sRetDue sRetDue).save.map (fun v => (v.old, v.pos)) = some ([.s 7 5], 1) :=
  ⟨issuesFlush_of (by decide +kernel), by decide +kernel, by decide +kernel, issuesFlush_of (by decide +kernel), by decide +kernel⟩
theorem test_sret_absent : runs (exec (.sret true) { sRetFar with cores := (st { grp sRetFar sRetFar with trv := 0 }).cores }) (fun t => (grp sRetFar t).trc == 6 && (grp sRetFar t).trx == 0x2000) = true := by decide +kernel
theorem test_sret_old : runs (exec (.sret true) sRetDue) (fun t => (grp sRetDue t).sreg 7 == 5 && (unit sRetDue t).due == [{ left := 1, w := .s 7 9 }]) = true := by decide +kernel
/-- An add waits, for the page of its counter has no entry. -/
def sAdd : State := { sm with cores := (st { gm with fxb := 0x100, fxAdds := [(0, 1)] }).cores }
theorem wit_RegisterWrites_stalls : ready sAdd ∧ clean { i := .wrsr true 2 9, e := true, fields := [sSrcF 2], priv := sysPriv 9 } sAdd ∧ (grp sAdd (countsAdded sAdd 9)).fxAdds ≠ [] :=
  ⟨ready_of (by decide +kernel), clean_of (by decide +kernel), by decide +kernel⟩
/-- A remote load that has not been sent stands before `tinv`, a fence and `tbarr`. -/
def sOpen : State := st { gm with ops := [{ oRld with status := .issued }], sregs := [(2, 0x1000), (3, 4), (0, 0)] }
theorem wit_TranslationInvalidate_waits : ready sOpen ∧ clean { i := .tinv true 2 3, e := true, fields := [sSrcF 2, sSrcF 3], priv := true } sOpen ∧ (sOpen.ictx.readS 3).toNat < 2 ^ 36 ∧
    (grp sOpen (sOpen.performAll 0 0)).ops.map (fun o => (o.status, o.path)) = [(.issued, 3)] ∧ 2 ^ 36 ≤ (s0.ictx.readS 4).toNat :=
  ⟨ready_of (by decide +kernel), clean_of (by decide +kernel), by decide +kernel, by decide +kernel, by decide +kernel⟩
theorem wit_Fences_waits : issuesFlush { i := .fence true 4 2, e := true, flush := true } sOpen ∧ (grp sOpen (fencePerformed sOpen (flushed sOpen) 2)).ops.map (fun o => (o.status, o.path)) = [(.issued, 3)] ∧
    nextAt s0 (flushed s0) ∧ nextAt s0 (((flushed s0).landAt 2).l1Acquire 0) ∧ (grp s0 (fencePerformed s0 (flushed s0) 3)).ops = [] :=
  ⟨issuesFlush_of (by decide +kernel), by decide +kernel, resident_of (by decide +kernel), resident_of (by decide +kernel), by decide +kernel⟩
theorem wit_Waits_path4 : ready s0 ∧ clean { i := .waitc true 0 4, e := true } s0 ∧ (grp s0 (flushed s0)).inFlight 4 ≤ 0 ∧ firstReport ((grp s0 (flushed s0)).reports.filter (fun r => r.path == 4)) = none ∧
    nextAt s0 (flushed s0) ∧ (firstReport ((grp sRep sRep).reports.filter (fun r => r.path == 1))).isSome = true ∧ (grp (sZero .window) (flushed (sZero .window))).inFlight 4 = 1 ∧ clean { i := .waitc true 0 4, e := true } (sZero .window) :=
  ⟨ready_of (by decide +kernel), clean_of (by decide +kernel), by decide +kernel, by decide +kernel, resident_of (by decide +kernel), by decide +kernel, by decide +kernel, clean_of (by decide +kernel)⟩
/-- A group's unit at a barrier while a load of the group waits for its page. -/
def oWait : Op := { seq := 1, path := 1, pc := 0, kind := .ldg, k := 4, ias := [0x1000], reqs := [(0, [0])], status := .parked 3 }
def sHeldBar : State := st { g0 with ops := [oWait] }
theorem wit_Barriers_waits : clean { i := .bar true, e := true } sHeldBar ∧ (unit sHeldBar sHeldBar).passed = false ∧ (grp sHeldBar sHeldBar).isTask = false ∧
    (grp sHeldBar (fencePerformed sHeldBar sHeldBar 2)).ops.map (fun o => o.status) = [.parked 3] ∧ (grp s0 (fencePerformed s0 s0 2)).ops = [] ∧
    clean (tbIssue (.tbarr true 5 1) true false [sSrcF 5] 1) sHeldBar ∧ (grp sHeldBar ((sHeldBar.performAll 0 0).landFar)).ops.map (fun o => o.status) = [.parked 3] :=
  ⟨clean_of (by decide +kernel), by decide, by decide, by decide +kernel, by decide +kernel, clean_of (by decide +kernel), by decide +kernel⟩

/-! ### Further forms of engines and events -/

/-- The command of a follower core: it ends with a fault as it starts (R135). -/
def sFolZ : State := { sZero .entered with cores := [(0, { (sZero .entered).core 0 with pair := .follower 1 1 1 })] }
theorem wit_CommandProgress_fault : ∃ x, (sFolZ.core 0).entryOf 0 = some x ∧ (sFolZ.group 0 x.sl).op x.op.seq = some (oZero .entered) ∧
    (sFolZ.core 0).mayStart { sl := x.sl, op := oZero .entered, m := mZero .entered } = true ∧ sFolZ.segmentOut 0 (mZero .entered) = false ∧
    Cmd.startFault { mZero .entered with stage := .started, began := 0 } (sFolZ.core 0) (sFolZ.group 0 x.sl) = some 0 ∧ (sZero .started).segmentOut 0 (mZero .started) = false ∧
    ({ sZero .entered with pkg := { (sZero .entered).pkg with windows := [.matrixSegment 0 0] } } : State).segmentOut 0 (mZero .entered) = true :=
  ⟨{ sl := 0, op := oZero .entered, m := mZero .entered }, by decide +kernel, by decide +kernel, by decide +kernel, by decide +kernel, by decide +kernel, by decide +kernel, by decide +kernel⟩
/-- A late matrix command of a pair's leader. -/
def sLead : State := { sLate with cores := [(0, { sLate.core 0 with pair := .leader 1 0 0 }), (1, { pair := .follower 0 0 0 })] }
theorem wit_PairResets_pair : (sLead.core ((sLead.core 0).leaderOf 0)).entered.any (fun x => x.m.unit == 2 && x.m.stage == .started && decide (x.m.began + 2 ^ 24 ≤ (sLead.core 0).clk.toNat)) = true ∧
    (sLead.core 0).pair = .leader 1 0 0 ∧ (sLead.core 0).entered.map (fun x => x.m.unit) = [2] := by decide +kernel
theorem test_pair_reset_tests : runs (exec .pairReset sLead) (fun t => t.pkg.tests == [.matrixSegment 0 0] && (t.group 0 0).reports.map (fun r => r.cause) == [0x15]) = true := by decide +kernel
/-- Every one of 16,384 tags is in use. -/
def sTags : State := { sFab with fab := { sFab.fab with out := List.replicate 16384 { tag := 5, who := .checkpoint, pkt := blankPkt, port := 1 } } }
theorem wit_RemoteAccesses_full : sTags.fab.full 1 = true := by
  show decide (16384 < (List.replicate 16384 _).length + 1) = true
  rw [List.length_replicate]; decide
theorem wit_Collectives_invalid : (sColl {}).fab.coll 0 = {} ∧ ({} : Coll).valid = false ∧ sm.fab.drank = 4095 ∧
    clean { i := .car true 1 2 3, e := true, fields := [sDstF 1, sSrcF 2, sSrcF 3] } (sColl uTwo) ∧ carBad (sm.ictx.readS 3).toNat 2 = true ∧ ({ uTwo with busy := some (0, 0, 9) } : Coll).busy.isSome = true ∧
    ({ uTwo with broken := true } : Coll).busy = none :=
  ⟨by decide +kernel, rfl, rfl, clean_of (by decide +kernel), by decide +kernel, rfl, rfl⟩
/-- A send that is legal, and 1,024 sends in progress. -/
def sSend (k : Cairn) : State := { sFab with parts := [(0, { sFab.part 0 with cairn := k })] }
theorem wit_MessageSends_sends : clean { i := .msend true 1 16, e := true, fields := [sDstF 1, (sSrcF 16).many 8] } (sSend kOpen) ∧ ((sSend kOpen).cairn 0).enabled = true ∧
    (sendRec (fun j => ((grp (sSend kOpen) (sSend kOpen)).sreg (16 + j)).toNat)).bad = false ∧ ((sSend kOpen).part 0).sendFault (sendRec (fun j => ((grp (sSend kOpen) (sSend kOpen)).sreg (16 + j)).toNat)) false = none ∧
    (grp (sSend kOpen) (sSend kOpen)).isTask = false ∧ nextIn (sSend kOpen) :=
  ⟨clean_of (by decide +kernel), by decide +kernel, by decide +kernel, by decide +kernel, by decide +kernel, resident_of (by decide +kernel)⟩
theorem wit_MessageSends_full : (List.replicate 1024 m0).length = 1024 := List.length_replicate

theorem wit_Resets_asked : resetAsked { sRun with args := { src := .reg .pf } } ∧ (∃ fn, ({ sRun with args := { src := .reg .pf } } : State).args.src = .reg fn) ∧
    ({ sRun with pkg := { sRun.pkg with recov := true } } : State).pkg.recov = true ∧ sWb.pkg.phase = .writeBack ∧
    ({ sWb with pkg := { sWb.pkg with phase := .retraining } } : State).pkg.kind = 1 ∧ (sRun.pkg.phase = .running) ∧ ({ State.reset with pkg := { State.reset.pkg with imgok := true } } : State).pkg.imgok = true := by
  refine ⟨?_, ⟨.pf, rfl⟩, ?_, ?_, ?_, ?_, ?_⟩ <;> first | rfl | (intro fn _; rfl)
theorem wit_Resets_image : (⟨true, [], .good [.hbmRow 0 0]⟩ : Image).vendorOk = true ∧ (⟨true, [], .good [.hbmRow 0 0]⟩ : Image).repair = .good [.hbmRow 0 0] ∧
    (⟨true, [], .bad⟩ : Image).repair = .bad ∧ sRun.pkg.flashA.repair = .absent := by decide
theorem test_cold_repair : runs (exec .coldReset { sRun with pkg := { sRun.pkg with flashA := ⟨true, [.saddleLane 1], .good [.hbmRow 0 0]⟩, tests := [.saddleLane 2], lastrst := 2 }, args := { idOk := true } })
    (fun t => t.pkg.repair == [.saddleLane 1, .hbmRow 0 0] && t.pkg.events == [.unclassified (.saddleLane 2)] && t.pkg.lastrst == 2) = true := by decide +kernel
theorem wit_Health_windows : Resource.saddleLane 1 ∈ ({ sRun with pkg := { sRun.pkg with tests := [.saddleLane 1] } } : State).pkg.tests ∧ Resource.saddleLane 1 ∉ sRun.pkg.windows ∧
    sRun.pkg.image = none ∧ ({ sRun with pkg := { sRun.pkg with image := some ⟨true, [], .absent⟩ } } : State).pkg.image = some ⟨true, [], .absent⟩ := by decide
theorem test_repair_only : runs (exec .signedImageWrite { sRun with args := { img := ⟨false, [], .good []⟩, repairOnly := true } }) (fun t => t.pkg.flashA == ⟨true, [], .good []⟩) = true := by decide
def b0 : CBlock := { block := 3, valid := 0, dirty := 0 }
theorem wit_MemoryEvents_more : ({ sRun with hbm := { sRun.hbm with victims := [(0, b0)] } } : State).hbm.victims = [] ++ (0, b0) :: [] ∧
    ({ sQ with args := { postpone := true } } : State).args.postpone = true ∧ mget [] sQ.hbm.queues 0 ≠ [] ∧
    ({ sQ with hbm := { sQ.hbm with done := [(0, q1, [], false)] }, args := { id := 4 } } : State).hbm.done.find? (fun d => d.2.1.id == 4) = some (0, q1, [], false) ∧
    MgmtEvent.tagloss 0 5 ∈ ({ sRun with pkg := { sRun.pkg with events := [.tagloss 0 5] } } : State).pkg.events ∧ 0 ∉ sRun.hbm.disabled ∧ 0x40 < memEnd ∧ sRun.hbm.done.find? (fun d => d.2.1.id == 4) = none := by decide +kernel
theorem test_refresh_settles : runs (exec .perBankRefresh { sRun with hbm := { sRun.hbm with postponed := [(0, 3)] }, args := {} }) (fun t => mget 0 t.hbm.postponed 0 == 2) = true := by decide +kernel
theorem test_refresh_waits : runs (exec .perBankRefresh { sQ with hbm := { sQ.hbm with postponed := [(0, 8)] }, args := { postpone := true, waits := [4, 5] } }) (fun t => mget 0 t.hbm.mcref 0 == 4 && mget 0 t.hbm.mcref 1 == 5) = true := by decide +kernel
theorem wit_Links_key : sKey.fab.kwState = 1 ∧ sKey.keyRecord [] = .error 4 ∧ (mget {} (sKey.fab.port 3).slots 2).present = true ∧ (sOut.fab.port 1).live = false ∧ sRun.pkg.recov = false ∧ sRun.pkg.idok = true ∧
    (10 : Nat) ≤ ({ blankPkt with kind := 12 } : Packet).kind.toNat ∧ (sOut.fab.out.find? (fun o => o.tag == 5 && o.port != 72)).isSome = true := by decide +kernel
theorem test_key_done_fails : runs (exec .keyInstallDone sKey) (fun t => t.fab.kwState == 3 && t.fab.kwCode == 4 && t.pkg.events == [.keyRecord 0 4]) = true := by decide +kernel
theorem test_key_busy : runs (exec .keyInstall sKey) (fun t => t.fab.kwMctp == 1 && t.fab.kwState == 1) = true := by decide +kernel
theorem test_reserved_kind : runs (exec .rd { sJob 0 with args := { (sJob 0).args with pkt := { (sJob 0).args.pkt with kind := 12 } } }) (fun t => (t.fab.port 2).badpkt == 1 && t.fab.tx == []) = true := by decide +kernel
/-- A checkpoint list of one slab at 0 to rank 2, one that is bad, and a checkpoint with a packet in flight. -/
def sCk (rank : Byte) : State := { sRun with hbm := { sRun.hbm with store := memWrite [] 0 ([0, 0, 0, 0, 0, 0, 0, 0] ++ [1, 0, 0, 0, 0, 0, 0, 0] ++ [rank, 0, 0, 0, 0, 0, 0, 0] ++ List.replicate 8 0) }, fab := { drank := 1, ckptDesc := 0x10000000000000 }, args := { fn := .pf } }
theorem wit_Links_checkpoint : (sCk 2).fab.ckptDesc.toNat / 2 ^ 52 = 1 ∧ (sCk 2).fab.ckptState ≠ 1 ∧ (∀ e ∈ (sCk 2).parts, ¬ (e.2.st = 1 ∨ e.2.st = 2 ∨ e.2.st = 5)) ∧ 0 + 32 * 1 ≤ memEnd ∧
    ckptBad (ckptEntry ((sCk 2).cleanAll.memRead 0 32 2).2.1) = false ∧ ckptBad (0, 0, 2, 0) = true ∧ (∃ e ∈ ({ sCk 2 with parts := [(0, { st := 1 })] } : State).parts, e.2.st = 1) ∧
    ckptPieces [] ≤ 0 := by decide +kernel
theorem test_ckpt_go : runs (exec .checkpointGo (sCk 2)) (fun t => t.fab.ckptState == 1 && t.fab.ckptList == [(0, 1, 2, 0)]) = true := by decide +kernel
theorem test_ckpt_abort_waits : runs (exec .checkpointAbort { sRun with fab := { ckptState := 1, ckptOpen := 1 }, args := { fn := .pf } }) (fun t => t.fab.ckptState == 1 && t.fab.ckptAborting) = true := by decide +kernel
/-- A slot that arrives at a broken group, an image address, and a response that its port can send. -/
def sSlot : State := { sJob 4 with fab := { (sJob 4).fab with colls := [(0, { uTwo with broken := true, base := 64 })] } }
theorem wit_RemoteRequests_more : sSlot.lateSlot (asKind sSlot 4) = true ∧ sSlot.partOfJob 7 = some 0 ∧ (sJob 4).lateSlot (asKind (sJob 4) 4) = false ∧
    (15 * 2 ^ 48) / 2 ^ 48 = 15 ∧ ((sJob 0).fab.port 2).live = true ∧ (sJob 0).laneOut 2 = false ∧ (sJob 0).fab.heldRsp = [] ∧
    (pKey.canSend { blankPkt with kind := 9, job := 7 }) = true ∧ ({} : Port).canSend { blankPkt with kind := 9, job := 7 } = false := by decide +kernel
theorem test_late_slot : runs (exec .mcw sSlot) (fun t => t.l2.map (fun l => l.data.take 4) == [[0, 0, 0, 0]] && t.fab.tx.map (fun e => e.2.stat) == [0]) = true := by decide +kernel
theorem test_no_key_holds : runs (exec .rd { sJob 0 with fab := { (sJob 0).fab with ports := [(2, { pKey with slots := [(0, { present := true, job := 7, key := 1, txCount := 2 ^ 64 - 1 })] })] } }) (fun t => t.fab.tx == [] && t.fab.heldRsp.length == 1) = true := by decide +kernel
def mOpen : InMsg := { mIn with hdr := { blankPkt with kind := 6, msg := { blankMsg with mlen := 9 } }, desc := List.replicate 64 1 }
/-- The channel is held; a header's landing is finished; a send that is staged; a payload that faults. -/
theorem wit_CairnEvents_more : (sCairn { kOpen with held := true }).channelHeld = true ∧ (sCairn kOpen).channelHeld = false ∧ (sCairn {}).partOfJob 7 = some 0 ∧ ((sCairn {}).cairn 0).enabled = false ∧
    isHeader { blankPkt with kind := 7 } = true ∧ ({ mIn with hdr := { blankPkt with kind := 7 } } : InMsg).finished = true ∧ (sCairn kOpen).fab.full 1 = false ∧
    ({ mPay with staged := true } : OutMsg).staged = true ∧ (match ({ sPay with l2 := [] }.readPayload 0 mPay).2 with | .ok _ => false | _ => true) = true ∧
    mOpen.finished = false := by decide +kernel
theorem test_held_channel : runs (exec .msge (sCairn { kOpen with held := true })) (fun t => (t.cairn 0).unexpected == [] && t.fab.tx == []) = true := by decide +kernel

/-! ### Further forms of partitions, launches and tasks -/

theorem wit_PartitionEvents_bar0 : (sPart { units := 1 }).pkg.recov = false ∧ ({ sPart { units := 1 } with pkg := { sRun.pkg with recov := true } } : State).pkg.recov = true ∧
    ((sPart { units := 1, shen := true }).part 0).shen = true ∧ (sPart { units := 1, shen := true }).unitsTaken 0 = false ∧ ((sPart { units := 1, st := 5, saved := [svd 3 []] }).part 0).saved ≠ [] := by decide +kernel
theorem test_recovery_refuses : runs (exec .form { sPart { units := 1 } with pkg := { sRun.pkg with recov := true } }) (fun t => (t.part 0).st == 0 && t.pkg.events == [.unsupported 0 0x3004]) = true := by decide +kernel
theorem wit_PartitionEvents_rest : (∀ k ∈ ({ sPart { units := 1, st := 2 } with cores := [] } : State).cores, ∀ g ∈ k.2.groups, g.2.part = 0 → g.2.holder ≠ .task) ∧
    (∃ k ∈ (sPart { units := 1, st := 2 }).cores, ∃ g ∈ k.2.groups, g.2.part = 0 ∧ g.2.holder = .group ∧ g.2.preempt ≠ .stopped) := by decide +kernel
theorem test_halt_not_done : runs (exec .haltDone (sPart { units := 1, st := 2 })) (fun t => (t.part 0).st == 2) = true := by decide +kernel
/-- A virtual function's range of two lines, that L2 holds; and one that no register grants. -/
def sHost : State := { sl2 with pkg := sRun.pkg, l2 := [lineZ, { lineZ with ia := 0x1080, pas := [0x1080] }], args := { fn := .vf 0, off := 0x107E, data := [1, 2, 3, 4], n := 4 } }
theorem wit_PartitionEvents_lines : (sHost.part 0).hostRange { wr := true } 5 0x107E 4 = some [(0x107E, false, 2), (0x1080, false, 2)] ∧
    (linesWritten 0 [(0x107E, false, 2), (0x1080, false, 2)] [1, 2, 3, 4] sHost).2 = true ∧ (linesRead 0 [(0x107E, false, 2), (0x1080, false, 2)] [] sHost).2 = some [0, 0, 0, 0] ∧
    (linesWritten 0 [(0x2000, false, 2)] [1, 2] sHost).2 = false ∧ ({} : Part).hostRange { wr := true } 5 0x107E 4 = none ∧
    (({ sHost with l2 := [{ lineZ with wp := true }] } : State).homeWrite (hostAcc 0 false true) 0x1000 [1] []).2 = .held := by decide +kernel
theorem test_bar2_vf_lines : runs (exec .bar2Write sHost) (fun t => t.l2.map (fun l => (l.data.getD 126 0, l.data.getD 0 0)) == [(1, 0), (0, 3)]) = true := by decide +kernel
theorem test_bar2_held : runs (exec .bar2Write { sHost with l2 := [{ lineZ with wp := true }], args := { fn := .vf 0, off := 0x1000, data := [7] } }) (fun t => (t.part 0).parked == [(wpHold, .host 0x1000 false [7])]) = true := by decide +kernel
theorem wit_PartitionEvents_map : placeAt 0x2000 = .b2off ∧ (placeAt 0x2000).is64 = true ∧ (placeAt 0x2000).mayChange .pf = true ∧ placeAt 0x25104 = .kwrec 4 ∧ (placeAt 0x3000).is64 = false ∧
    (placeAt 0x1000).mayChange (.vf 1) = false := by decide +kernel
theorem test_register_b2off : runs (exec .registerWrite { sRun with args := { fn := .pf, id := 2, off := 0x2000, wide := true, v := 0x123456789 } }) (fun t => mget 0 t.b2off 2 == 0x123456000) = true := by decide +kernel
theorem wit_PartitionEvents_unposted : (∀ r ∈ ([] : List FaultRec), ¬ (r.seq = 0 ∧ r.posted = true)) ∧ mayWrite (.vf 1) sRec.args.part = false := by decide

/-- An index line whose page has no entry; one on a write-protected page; a poisoned one. -/
def sNoLine : State := { sLq { line := 0x1000 } with l2 := [] }
theorem wit_LaunchEvents_waits : (match ((sNoLine.setLq 0 0 { sNoLine.lq 0 0 with en := true }).homeRead { part := 0, sor := true } 0x1000 8).2 with | .page => true | _ => false) = true ∧
    (({ sLq { line := 0x1000 } with l2 := [{ lineW with wp := true }] } : State).lqWriteR 0 0 3).2 = .held ∧ sRun.pkg.ready = true ∧ State.reset.pkg.ready = false ∧
    (({ sLq { line := 0x1000 } with l2 := [{ lineW with bad := [0] }] } : State).homeRead { part := 0, sor := true } 0x1000 8).2 = .ok ([3, 0, 0, 0, 0, 0, 0, 0], true) := by decide +kernel
theorem test_lq_parks : runs (exec .lqEnable sNoLine) (fun t => (t.lq 0 0).parked && (t.part 0).parked.map (fun e => e.2) == [.queueRead 0]) = true := by decide +kernel
theorem test_lq_unready : runs (exec .lqEnable { sNoLine with pkg := State.reset.pkg }) (fun t => (t.lq 0 0).en && (t.lq 0 0).state == 0 && (t.part 0).parked == []) = true := by decide +kernel
theorem test_lq_held : runs (exec .lqEnable { sLq { line := 0x1000 } with l2 := [{ lineW with wp := true }] }) (fun t => (t.part 0).parked == [(wpHold, .queueRead 0)]) = true := by decide +kernel
theorem wit_LaunchEvents_shapeless : lrKind recZ = 0 ∧ ({} : Part).rectangles 1 1 = [] ∧ ((sRing.lq 0 0).state = 1 ∧ (sRing.lq 0 0).parked = false ∧ (sRing.lq 0 0).r ≠ (sRing.lq 0 0).seen) ∧ sRing.pkg.ready = true := by decide +kernel
/-- A graph that is ready, and a node of a started one that has waited. -/
def sNode : State := { sPlace with parts := [(0, { sPlace.part 0 with launches := [{ lch with graph := some 5 }], graphs := [{ id := 5, launch := 0, nodes := 1, pending := [0] }] })] }
theorem wit_LaunchEvents_first : (sNode.part 0).graphs.findSome? (Part.nextNode (sNode.part 0)) = some (5, { lch with graph := some 5 }, 0) ∧
    (sPlace.part 0).graphs.findSome? (Part.nextNode (sPlace.part 0)) = none ∧ (sPlace.part 0).st = 1 ∧ sPlace.pkg.phase ≠ .writeBack ∧
    (sPlace.part 0).launches.find? (fun l => lrKind l.record == 1 && l.graph.isNone && l.failed.isNone && !l.parked && (sPlace.part 0).ready l) = none ∧
    (let l : Launch := { lch with record := [1, 0, 0, 0, 1] }; ({ launches := [l] } : Part).launches.find? (fun l => lrKind l.record == 1 && l.graph.isNone && l.failed.isNone && !l.parked && ({ launches := [l] } : Part).ready l) = some l) ∧
    (∀ l ∈ (sDone.part 0).order, sDone.fits 0 l = none) := by decide +kernel
/-- The code of the launch is not aligned; its pages have no entry. -/
def sOdd : State := { sPlace with parts := [(0, { sPlace.part 0 with launches := [{ lch with record := recZ.set 8 1 }] })] }
theorem wit_LaunchEvents_code : lrCode (recZ.set 8 1) % 4096 ≠ 0 ∧ (match ({ sPlace with l2 := [] }.readCode 0 0x2000 64).2.1 with | .page => true | _ => false) = true ∧
    (sOdd.part 0).order.findSome? (fun l => (sOdd.fits 0 l).map (fun cs => (l, cs))) = some ({ lch with record := recZ.set 8 1 }, [0]) := by decide +kernel
theorem test_placement_odd : runs (exec .clusterPlacement sOdd) (fun t => (t.part 0).launches.map (fun l => l.failed) == [some 2]) = true := by decide +kernel
theorem test_placement_parks : runs (exec .clusterPlacement { sPlace with l2 := [] }) (fun t => (t.part 0).launches.map (fun l => l.parked) == [true]) = true := by decide +kernel
theorem wit_LaunchEvents_over : isOver (sDone.part 0) { lch with next := 1 } ∧ ¬ isOver (sPlace.part 0) lch ∧
    isOver { graphs := [{ id := 5, launch := 0, nodes := 1, done := [0] }] } { lch with graph := some 5 } ∧ isOver { graphs := [{ id := 5, launch := 0, nodes := 1, failed := true }] } { lch with graph := some 5 } := by
  refine ⟨⟨rfl, .inr (.inl ⟨rfl, by decide, by decide +kernel⟩)⟩, ?_, ⟨rfl, .inr (.inr ⟨5, rfl, _, List.mem_singleton.2 rfl, rfl, rfl, .inl rfl⟩)⟩, ⟨rfl, .inr (.inr ⟨5, rfl, _, List.mem_singleton.2 rfl, rfl, rfl, .inr ⟨rfl, rfl⟩⟩)⟩⟩
  rintro ⟨-, ⟨e, h, -⟩ | ⟨-, -, h⟩ | ⟨g, h, -⟩⟩
  · cases h
  · exact absurd h (by decide +kernel)
  · cases h
/-- A launch with a trapped group completes once its clusters are placed. -/
theorem test_launch_trapped : runs (exec .launchCompletion { sDone with parts := [(0, { sDone.part 0 with launches := [{ lch with next := 1, failed := some 5 }] })] }) (fun t => (t.part 0).launches == []) = true := by decide +kernel
theorem wit_LaunchEvents_reserved : (sFull.part 0).reservation = none ∧ (∃ cs, ({ sFull.part 0 with reservation := some (0, [0]) } : Part).reservation = some (0, cs)) ∧ (sDone.part 0).rectangles 13 1 = [] :=
  ⟨by decide +kernel, ⟨_, rfl⟩, by decide +kernel⟩
theorem wit_LaunchEvents_node : (sGraph.part 0).launches.find? (fun l => l.id == gph.launch) = some { lch with graph := some 0 } ∧
    (∀ l ∈ ({ sGraph.part 0 with launches := [] } : Part).launches, l.id ≠ gph.launch) ∧
    (match ({ sGraph with l2 := [] }.nodeEntry 0 0x2000 0).2.1 with | .page => true | _ => false) = true := by decide +kernel
/-- The table: node 0 with node 1 as its successor, whose counter, at 0x3000, is 1. -/
def sSucc : State := { sGraph with
    l2 := [{ lineZ with ia := 0x2000, pas := [0x2000], data := [2, 0, 0, 0, 0, 0, 0, 0] ++ (List.replicate 12 0 ++ [1, 0, 0, 0] ++ [0x80, 0x20, 0, 0, 0, 0, 0, 0] ++ [0, 0x30, 0, 0, 0, 0, 0, 0]) ++ (List.replicate 8 0 ++ [1, 0, 0, 0, 0, 0, 0, 0] ++ List.replicate 8 0 ++ [0, 0x30, 0, 0, 0, 0, 0, 0]) ++ List.replicate 56 0 },
           { lineZ with ia := 0x2080, pas := [0x2080], data := [1, 0, 0, 0] ++ List.replicate 124 0 }, { lineZ with ia := 0x3000, pas := [0x3000], data := [2] ++ List.replicate 127 0 }], parts := [(0, { sGraph.part 0 with graphs := [{ gph with nodes := 2 }] })] }
theorem wit_LaunchEvents_successor : (match (sSucc.nodeEntry 0 0x2000 0).2.1 with | .ok e => recField e 12 4 == 1 && recField e 16 8 == 0x2080 | _ => false) = true ∧
    (sSucc.readAt 0 0x2080 4).2.1 = .ok [1, 0, 0, 0] ∧ (match (sSucc.nodeEntry 0 0x2000 1).2.1 with | .ok b => recField b 24 8 == 0x3000 | _ => false) = true ∧
    (sSucc.readAt 0 0x3000 8).2.1 = .ok [2, 0, 0, 0, 0, 0, 0, 0] ∧ (sSucc.writeCount 0 0x3000 1).2 = true := by decide +kernel
theorem test_graph_counts : runs (exec .graphNodeComplete sSucc) (fun t => (t.part 0).graphs.map (fun g => g.done) == [[0]] && t.l2.any (fun l => l.ia == 0x3000 && l.data.getD 0 0 == 1)) = true := by decide +kernel

theorem wit_TaskEvents_dispatch_ready : tq.ready = false ∧ (∀ seg ∈ tq.segNos, (((sTaskQ tq).core 0).resident tq.part seg).isSome = true) ∧ (sTaskQ tq).pkg.phase ≠ .writeBack ∧
    (∀ seg ∈ tqR.segNos, (((sTaskQ tqR).core 0).resident tqR.part seg).isSome = true) ∧
    (let t : QTask := { tqR with ready := false, record := trec.set 0x30 8 }; ∀ x ∈ ((((sTaskQ t).prefetch 0 t).core 0).tasks), x.id = t.id → x.ready = false) := by decide +kernel
theorem wit_TaskEvents_halt_more : ¬ (∀ u ∈ gTask.iunits, u.wait = .exited) ∧ gTask.ended = none ∧ gTask.finishing = false ∧ (∀ u ∈ ({ gTask with iunits := [{ wait := .exited }] } : Group).iunits, u.wait = .exited) := by decide
theorem test_halt_exited : runs (exec .taskHaltTimeout (sRunTask { gTask with iunits := [{ wait := .exited }] })) (fun t => !(t.group 0 64).aborted) = true := by decide
theorem wit_TaskEvents_room : (sDef.part 0).deferred = [] ++ { core := some 0, record := trec, inherit := {}, node := none } :: [] ∧ (sDef.core 0).queued < 256 := by decide
theorem wit_TaskEvents_stop : (∃ u o, ({ g0 with preempt := .stopping 1 1 } : Group).preempt = .stopping u o) ∧ ({ g0 with preempt := .requested } : Group).preempt = .requested ∧ g0.preempt = .none ∧
    (∀ f ∈ (st gGone).far, f.stale = false) ∧ (∀ l ∈ (st gGone).l2, l.dirty = 0) ∧ gGone.finishing = false ∧
    (∃ r ∈ ({ records := [rec0] } : Part).records, r.seq = 0) := by
  refine ⟨⟨_, _, rfl⟩, rfl, rfl, ?_, ?_, rfl, ?_⟩ <;> decide
/-- A unit inside a run has not stopped; one at a run boundary whose requests are open has (R104, R105). -/
theorem test_safe_stopping : runs (exec .safeTimeout (st { g0 with preempt := .stopping 1 1, iunits := [{ pc := 0x40, pos := 3 }] })) (fun t => (t.group 0 0).preempt == .forced) = true := by decide +kernel
theorem test_safe_waits : runs (exec .safeTimeout (st { g0 with preempt := .stopping 1 1, ops := [oWait] })) (fun t => (t.group 0 0).preempt == .stopping 1 1 && (t.part 0).pfrc == 0) = true := by decide +kernel
theorem test_retire_blocked : runs (exec .groupRetire { sRunTask { gTask with iunits := [{ wait := .exited }], aborted := true, abortRec := some 0 } with parts := [(0, { st := 2, units := 1, records := [rec0] })] })
    (fun t => (t.core 0).tasks.map (fun q => q.blocked) == [some 0]) = true := by decide +kernel

/-! ### Stalls on a full scoreboard (R133, R142) -/

/-- 64 commands are in the scoreboard, eight more in the window. -/
def oEng (n : Nat) (st' : Stage) : Op := { oZero st' with seq := n, cmd := some { mZero st' with entry := n } }
def sFullB : State := st { gm with ops := (List.range 64).map (fun n => oEng n .entered) ++ (List.range 8).map (fun n => oEng (64 + n) .window) }
theorem wit_Stalls : ¬ boardRoom sFullB true ∧ ¬ boardRoom sFullB false ∧ (sFullB.core sFullB.cur.1).entered ≠ [] ∧
    clean { i := .pqry true 2 3 1, e := true, fields := [sSrcF 2, sSrcF 3] } sFullB ∧ clean { i := .cpyin true 2 3 8, e := true, fields := [sSrcF 2, sSrcF 3, (sRegF 8).many 8] } sFullB ∧
    (sFullB.flush 0 0).windowLeft 0 0 = true ∧ (s0.flush 0 0).windowLeft 0 0 = false := by
  exact ⟨by unfold boardRoom; decide +kernel, by unfold boardRoom; decide +kernel, by decide +kernel, clean_of (by decide +kernel), clean_of (by decide +kernel), by decide +kernel, by decide +kernel⟩
theorem test_flush_room : ((sFullB.flush 0 0).core 0).onBoard = 64 ∧ ((st { gm with ops := (List.range 62).map (fun n => oEng n .entered) ++ (List.range 8).map (fun n => oEng (64 + n) .window) }).flush 0 0).windowLeft 0 0 = true := by decide +kernel
theorem test_trap_stalls : runs (.next (sFullB.trapNow 0 0 0 0x20 9 0x40 0x40 none)) (fun t => (t.group 0 0).trc == 0) = true := by decide +kernel

/-! ### Illegal words and fields -/

/-- A word that is no instruction with any fields; and `lshfl` with an offset of no meaning whose D a group of 6 units lacks. -/
theorem wit_IllegalWordTraps_word : decodeRaw 0x7FFFFFFF = none ∧ decodeRaw (0x7FFFFFFF &&& ~~~0x3F8) = none ∧ illegalTrx g0 0x7FFFFFFF = 0x7FFFFFFF := by decide +kernel
theorem wit_IllegalWordTraps_field : (match decodeWord 0xB6B4F030 with | .error _ => true | .ok _ => false) = true ∧ illegalTrx { g0 with units := 6 } 0xB6B4F030 = 90 ∧
    illegalTrx g0 0xB6B4F030 = 0xB6B4F030 := by decide +kernel
theorem wit_DecodeTraps_first : (∃ f fs, ([vDstF 60, vSrcF 96, vSrcF 2] : List Field) = f :: fs ∧ f.isVReg = true ∧ 8 * 6 < f.code + f.regs) ∧
    decodeTrap { i := .vadd true false 60 96 2, e := true, fields := [vDstF 60, vSrcF 96, vSrcF 2] } { g0 with units := 6 } (unit s0 s0) = some (0x01, 60) := by
  refine ⟨⟨_, _, rfl, by decide +kernel⟩, by decide +kernel⟩
theorem wit_RegisterUnits_illegal : ready (st { g0 with units := 3 }) ∧ (grp (st { g0 with units := 3 }) (st { g0 with units := 3 })).units ≤ (3 : BitVec 4).toNat := ⟨ready_of (by decide +kernel), by decide +kernel⟩
theorem test_rgive_first : runs (exec (.rgive true 3) (st { g0 with units := 3, stat := 0, trv := 0x40 })) (fun t => (grp s0 t).trc == 1) = true := by decide +kernel

/-! ### Per-thread traps (R161, R295) -/

theorem wit_AccessTraps_thread : ∃ f, threadForm (.ldt true 1 2 3 4) = some f ∧
    (let s : State := { sm with cores := (st { gm with sregs := [(3, 253)] }).cores }
     ∃ v, laneAddrs s 32 f = [] ++ v :: [] ∧ 4 * min (s.part (grp s s).part).ptms 16384 < v.2 + f.n) ∧
    (∃ v, laneAddrs (st gm) 32 f = [] ++ v :: [] ∧ (∃ a, ({ (st gm) with parts := [(0, { ptms := 4096 })] } : State).xlateAll gm f.need 4 ((List.range 1).map (fun q =>
      (q, vaMod (threadVa { ptms := 4096 } 0 0 v.1 v.2 + 128 * q)))) = .error a)) ∧
    (let s : State := { sm with cores := (st { gm with sregs := [(3, 5)] }).cores }
     (laneAddrs s 32 f).find? (fun w => w.2 % f.n != 0) = some (0, 5) ∧ widthRegs f.k = 1 ∧ (∀ w ∈ laneAddrs s 32 f, ¬ (4 * min (s.part (grp s s).part).ptms 16384 < w.2 + f.n))) := by
  refine ⟨_, rfl, ⟨(0, 253), by decide +kernel, by decide +kernel⟩, ⟨_, rfl, ⟨_, rfl⟩⟩, by decide +kernel, by decide +kernel, by decide +kernel⟩
theorem test_ldt_misaligned : runs (exec (.ldt true 1 2 3 4) { sm with cores := (st { gm with sregs := [(3, 5)], trv := 0x40, stat := 0 }).cores }) (fun t => (grp sm t).trc == 9 && (grp sm t).trx == d64 (threadVa (sm.part 0) 0 0 0 4)) = true := by decide +kernel

/-! ### Accesses performed -/

/-- A load, store and atomic of lanes 0 and 1 in the line at 0x1000; the line in L1, in L2, and for per-thread accesses. -/
def oLdg (kind : OpKind) : Op := { seq := 1, path := 1, pc := 0, kind := kind, k := 4, d := 1, dn := 1, addrs := [0x1004, 0x1008], ias := [0x1004, 0x1008], reqs := [(0, [0, 1])], data := [[0x11223344, 0x55667788]] }
def lineA : Line := { lineZ with data := [0, 0, 0, 0, 7, 0, 0, 0, 9] ++ List.replicate 119 0 }
def sAcc : State := { sm with l2 := [lineA] }
def sAccL1 (l : Line) : State := { sAcc with cores := [(0, { sAcc.core 0 with l1 := [l] })] }
theorem wit_AccessesPerformed_loads : seenLine sAcc 0 0 gm (oLdg .ldg) 0x1000 lineA ∧ seenLine (sAccL1 { lineA with owner := some 0 }) 0 0 gm (oLdg .ldt) 0x1000 { lineA with owner := some 0 } ∧
    (∀ i ∈ [0, 1], readsPoison gm (oLdg .ldg) 0 lineA i = false) ∧ (∃ i ∈ [0, 1], readsPoison gm (oLdg .ldg) 0 { lineA with bad := [0] } i = true) ∧ (oLdg .ldg).dvec = true ∧
    (sm.l2Find 0 0x1000 false = none ∧ (sm.core 0).l1Find 0 0x1000 false none = none ∧ sm.dead 0 0x1000 = false) ∧ (match (sm.walk 0 0x1000 false).2 with | .page => true | _ => false) = true ∧
    (match (sm.walk 0 (15 * 2 ^ 48) false).2 with | .fatal => true | _ => false) = true := by
  refine ⟨⟨by decide +kernel, .inr (by decide +kernel)⟩, ⟨by decide +kernel, .inl (by decide +kernel)⟩, ?_, ?_, ?_, ?_, ?_, ?_⟩ <;> decide +kernel
theorem wit_AccessesPerformed_stores : openLine sAcc 0 0x1000 lineA ∧ (∀ i ∈ [0, 1], (oLdg .stg).laneIa i 0 / 128 * 128 = 0x1000 ∧ (oLdg .stg).laneIa i 0 % 128 + ((oLdg .stg).laneBytes i 0).length ≤ 128) ∧
    gm.isTask = false ∧ (grp sTask sTask).isTask = true ∧
    (let s := sAccL1 { lineA with owner := some 0 }; let s : State := { s with parts := [(0, { s.part 0 with walks := [{ page := 0, pte := 5, level := 4 }] })] }
     (match s.walk 0 0x1000 true with | (s1, .ok x) => !x.wp && !s1.dead 0 0x1000 && (s1.core 0).l1Find 0 0x1000 false (some 0) == some { lineA with owner := some 0 } | _ => false) = true) := by
  unfold openLine; decide +kernel
theorem wit_AccessesPerformed_atom : (oLdg .atom).laneIa 0 0 % 128 + atomBytes 0 ≤ 128 ∧ (oLdg .atom).kind = .atom := by decide +kernel
/-- A block of depth 2 at 0x1000 with stride 4: H, S, M1, M2; lane 0 has the value 11 (binary) of negative sign. -/
def oPl (kind : OpKind) : Op := { seq := 1, path := 1, pc := 0, kind := kind, k := 2, d := 1, dn := 1, addrs := [0x1000], ias := [0x1000, 0x1004, 0x1008, 0x100C], vals := [4], reqs := [(0, [0])], data := [[0x3F800000]], mask := 1 }
def linePl : Line := { part := 0, ia := 0x1000, plane := true, pstr := 4, depth := 2, data := [0x7F, 2, 0, 0, 1, 0, 0, 0, 1, 0, 0, 0, 1] ++ List.replicate 91 0, pas := List.replicate 26 0, attrs := List.replicate 26 {}, ias := [0x1000, 0x1004, 0x1008, 0x100C] }
def sPl : State := { sm with cores := [(0, { sm.core 0 with l1 := [linePl] })], l2 := [linePl], parts := [(0, { sm.part 0 with walks := [{ page := 0, pte := 5, level := 4 }] })] }
theorem wit_AccessesPerformed_planes : ((oPl .ldp).ias.take 4).any (sPl.dead 0) = false ∧ (sPl.core 0).l1Find 0 0x1000 true none = some linePl ∧ linePl.pstr = ((oPl .ldp).vals.getD 0 0).toNat ∧
    (oPl .ldp).k ≤ linePl.depth ∧ 1 ≤ linePl.depth ∧ linePl.bad = [] ∧ hV (planeWord [] (oPl .ldp).ias linePl 0) = 2 ∧
    (let tag : BitVec 16 := 0x217F; tag.getLsbD 13 = true ∧ tagDepth tag = 1 ∧ tag.getLsbD 14 = false ∧ tag.toNat % 256 = 0x7F) ∧ (¬ ((0 : BitVec 16).getLsbD 13 = true)) ∧
    (match (sPl.reachSlice ((oPl .stp).acc 0 0 gm true sPl.pkg.tick) 0x1000).walkWords ((oPl .stp).acc 0 0 gm true sPl.pkg.tick) 0 ((oPl .stp).ias.take 4) [] with
      | (s1, .ok xs) => xs.all (fun x => x.ord != 3) && s1.l2Find 0 0x1000 true == some linePl && (s1.core 0).l1Find 0 0x1000 true none == some linePl | _ => false) = true ∧
    linePl.data.length = 104 := by decide +kernel
theorem test_ldg_value : (match (loadReq sAcc 0 0 gm (oLdg .ldg) 0 [0, 1]).2 with | .done [.v 1 3 ls _ false] [] => ls.take 2 == [7, 9] | _ => false) = true := by decide +kernel
theorem test_stg_merges : runs (.next (storeReq sAcc 0 0 gm (oLdg .stg) 0 [0, 1]).1) (fun t => t.l2.map (fun l => bytesAt l.data 3 6) == [[0, 0x44, 0x33, 0x22, 0x11, 0x88]]) = true := by decide +kernel
theorem test_atom_adds : runs (.next (atomReq sAcc 0 0 gm { oLdg .atom with k := 0, ias := [0x1004, 0x1004] } [0, 1]).1) (fun t => t.l2.map (fun l => bytesAt l.data 4 4) == [[0xD3, 0xAA, 0x88, 0x66]]) = true := by decide +kernel
theorem test_ldp_planar : (match (planeReq sPl 0 0 gm (oPl .ldp) [0]).2 with | .done [.v 1 1 ls tag false] [] => ls.take 1 == [0x80C00000] && tag == 0x227F | _ => false) = true := by decide +kernel
theorem test_stp_words : runs (.next (planeReq sPl 0 0 gm (oPl .stp) [0]).1) (fun t => t.l2.map (fun l => bytesAt l.data 0 16) == [[0x7F, 2, 0, 0, 0, 0, 0, 0, 1, 0, 0, 0, 0, 0, 0, 0]]) = true := by decide +kernel
/-- An earlier load of the line waits for its page. -/
def sAhead : State := { sm with cores := (st { gm with ops := [oWait] }).cores }
theorem wit_CacheLines_ahead : clean { i := .cwb true 2 2, e := true, fields := [vSrcF 2, sRegF 2] } sAhead ∧
    (∃ o ∈ (grp sAhead (sAhead.performAll 0 0)).ops, o.kind.isMem = true ∧ o.status ≠ .performed ∧ ∃ t ∈ o.touched, ∃ v ∈ [(0, 0x1000)], v.2 / 128 = t / 128) :=
  ⟨clean_of (by decide +kernel), by decide +kernel⟩

/-- The tables of a sequence whose K block has H in an ordinary page and S, M1 in pages of RR (R185 to R191). -/
def kvLine (ia : Nat) (d : List Byte) : Line := { lineZ with ia := ia, pas := [ia], data := d ++ List.replicate (128 - d.length) 0 }
def sStr : State := { sm with
    fab := { drank := 1 }, parts := [(0, { sm.part 0 with kvtb := 0x1000, kvtn := 1, kvgb := 0x2000, walks := [{ page := 0, pte := 5, level := 4 }, { page := 32, pte := 0x185, level := 3 }, { page := 63, pte := 0x185, level := 3 }] })],
    l2 := [kvLine 0x1000 [0x80, 0x10, 0, 0, 0, 0, 0, 0, 1, 0, 0, 0], kvLine 0x1080 [1, 0x80], kvLine 0x2000 [0, 0x30, 0, 0, 0, 0, 0, 0, 0, 0xD0, 0x1F, 0, 0, 0, 0, 0, 0, 0x40, 0, 0, 0, 0, 0, 0, 0, 0x42]] }
theorem wit_KvAppends_straddles : ((sStr.performAll 0 0).kvAppend 0 0 { part := 0, die := 0, requester := 0, user := false } 0 (fun _ => 0) (fun _ => 0)).2 = .straddles 0x3000 := by decide +kernel

/-! ### Barriers of several groups (R303) -/

/-- A team of two groups: both have arrived, or one is gone; and one has not arrived. -/
def gBar : Group := { g0 with team := [0, 1], iunits := [{ pc := 0x44, wait := .bar, arrived := true }] }
def sTeam (h : Group) : State := { State.reset with cores := [(0, { groups := [(0, gBar), (1, h)] })] }
theorem wit_Barriers_team : (sTeam gBar).partners 0 0 .bar = [(0, 0), (0, 1)] ∧ (∀ p ∈ (sTeam gBar).partners 0 0 .bar, ((sTeam gBar).group p.1 p.2).atBar .bar = true) ∧
    (let s := sTeam { gBar with iunits := [{ wait := .exited }] }; (∀ p ∈ s.partners 0 0 .bar, (s.group p.1 p.2).atBar .bar = true ∨ (s.group p.1 p.2).gone = true) ∧ (s.group 0 1).atBar .bar = false) ∧
    (let s := sTeam { gBar with iunits := [{ pc := 0x44 }] }; ∃ p ∈ s.partners 0 0 .bar, (s.group p.1 p.2).atBar .bar = false ∧ (s.group p.1 p.2).gone = false) := by decide +kernel
theorem test_barrier_team : runs (.next ((sTeam gBar).releaseBar 0 0 .bar)) (fun t => [0, 1].all (fun i => (t.group 0 i).iunits.map (fun u => (u.wait, u.passed)) == [(.ready, true)] && (t.group 0 i).bars == 1)) = true := by decide +kernel
theorem wit_Barriers_task : issuesFlush { i := .bar true, e := true, flush := true } sTask ∧ (grp sTask sTask).windowOps = [] ∧ (∀ o ∈ (grp sTask sTask).ops, o.kind.isMem = false) ∧
    nextAt sTask sTask ∧ nextAt sTask (sTask.landFar.l1Acquire 0) := ⟨issuesFlush_of (by decide +kernel), by decide, by decide, resident_of (by decide +kernel), resident_of (by decide +kernel)⟩

/-! ### Ports, requests, messages -/

theorem wit_Links_carries : sRun.carries sRun.args.port = false ∧ (sJob 0).carries 2 = true ∧ ({ sJob 0 with pkg := State.reset.pkg } : State).carries 2 = false ∧
    ({ sJob 0 with fab := { (sJob 0).fab with ports := [(2, { pKey with up := false })] } } : State).carries 2 = false ∧ sOut.carries sOut.args.port = true ∧ sRun.pkg.ready = true ∧ (sCk 2).pkg.ready = true ∧
    State.reset.pkg.ready = false := by decide +kernel
theorem test_unready_port : runs (exec .rd { sJob 0 with pkg := State.reset.pkg }) (fun t => t.fab.tx == [] && t.fab.heldRsp == []) = true := by decide +kernel
/-- A write to the 256 B block at 0x1000 of sender 4 is parked for record 9. -/
def sBehind : State := { sJob 0 with parts := [(0, { (sJob 0).part 0 with parked := [(9, .remote 2 (asKind (sJob 1) 1))] })] }
theorem wit_RemoteRequests_behind : (sBehind.part 0).behind (asKind sBehind 0) = some 9 ∧ (sBehind.part 0).parked = [] ++ (9, .remote 2 (asKind (sJob 1) 1)) :: [] ∧
    ((sJob 0).part 0).behind (asKind (sJob 0) 0) = none ∧ (asKind (sJob 1) 1).src = (asKind sBehind 0).src ∧ (asKind (sJob 1) 1).kind ≠ 4 ∧ (asKind sBehind 0).kind ≠ 4 := by decide +kernel
theorem test_rd_behind : runs (exec .rd sBehind) (fun t => (t.part 0).parked.map (fun e => e.1) == [9, 9] && t.fab.tx == []) = true := by decide +kernel
/-- A read of a page that has no translation: a table at the end of memory. -/
theorem wit_RemoteRequests_fatal : (match (({ sJob 0 with l2 := [], parts := [(0, { (sJob 0).part 0 with walks := [{ page := 0, pte := deadEntry, level := 0 }] })] } : State).homeReads (remoteAcc 0 (asKind (sJob 0) 0) false) 4 0x1000 4 [] false).2 with
    | .fatal => true | _ => false) = true := by decide +kernel
/-- One packet is held at its port. -/
def sHeldIn : State := { sCairn kOpen with fab := { (sCairn kOpen).fab with heldIn := [(2, asKind (sCairn kOpen) 6)] } }
theorem wit_CairnEvents_held : sHeldIn.fab.heldIn = (2, asKind (sCairn kOpen) 6) :: [] ∧ sHeldIn.channelHeld = false ∧
    (({ sHeldIn with fab := { sHeldIn.fab with heldIn := [] } } : State).messageIn 2 (asKind (sCairn kOpen) 6)).fab.heldIn = [] ∧ sHeldIn.takeHeld.channelHeld = false ∧ (sCairn kOpen).fab.heldIn = [] := by decide +kernel
theorem test_held_goes_on : runs (exec .msge sHeldIn) (fun t => (t.cairn 0).unexpected.length == 2 && t.fab.heldIn == []) = true := by decide +kernel
theorem test_held_kept : runs (exec .msge (sCairn { kOpen with held := true })) (fun t => t.fab.heldIn.map (fun e => e.1) == [2]) = true := by decide +kernel
/-- The payload's line is poisoned; its page has no entry; no register grants it. -/
theorem wit_CairnEvents_faults : (match ({ sPay with l2 := [{ lineZ with bad := [0] }] }.readPayload 0 mPay).2 with | .ok (_, true) => true | _ => false) = true ∧
    (match ({ sPay with l2 := [] }.readPayload 0 mPay).2 with | .page _ => true | _ => false) = true ∧
    (match ({ sPay with parts := [(0, { cairn := kOpen })] }.readPayload 0 mPay).2 with | .fault _ => true | _ => false) = true ∧
    (sRunTask gTask).group 0 64 = gTask ∧ gTask.isTask = true := by decide +kernel
/-- A member that lacks the slots; one whose slots are all there; a broadcast of one piece that has arrived, and one that has not. -/
theorem wit_CairnEvents_missing : (∃ i, i < (sCar.fab.coll 0).count ∧ ((sCar.fab.coll 0).bank, i) ∉ (sCar.fab.coll 0).arrived) ∧ (∀ x ∈ sCar.fab.out, x.who = .coll 0 9 → x.port ≠ 72) ∧
    (∀ i, i < ({ uTwo with arrived := [(0, 0), (0, 1)] } : Coll).count → (({ uTwo with arrived := [(0, 0), (0, 1)] } : Coll).bank, i) ∈ ({ uTwo with arrived := [(0, 0), (0, 1)] } : Coll).arrived) ∧
    uTwo.broadcast 0 = none ∧ ({ uTwo with landed := [(3, 0x1000, 1)] } : Coll).broadcast 0 ≠ none ∧ oCar.status = .sent := by
  refine ⟨⟨0, by decide +kernel⟩, by decide +kernel, ?_, by decide +kernel, by decide +kernel, rfl⟩
  decide +kernel
theorem test_car_not_missing : runs (exec .carTimeout { sCar with fab := { sCar.fab with colls := [(0, { count := 2, valid := true, busy := some (0, 0, 9), arrived := [(0, 0), (0, 1)] })] } }) (fun t => !(t.fab.coll 0).broken) = true := by decide +kernel
theorem test_mcg_keeps_broken : runs (exec .mcgWrite { sCar with fab := { sCar.fab with colls := [(0, { count := 2, valid := true, broken := true })] }, args := { fn := .pf, v := 0x1003002 } }) (fun t => (t.fab.coll 0).broken) = true := by decide +kernel

/-! ### Partitions, launches and tasks, once more -/

theorem wit_PartitionEvents_hold : (({ parked := [(wpHold, .host 0x1000 false [7])] } : Part).hostHolds) = true ∧ ((sHost.part 0).hostHolds) = false := by decide
theorem test_bar2_order : runs (exec .bar2Write { sHost with parts := [(0, { sHost.part 0 with parked := [(wpHold, .host 0x2000 false [7])] })], args := { fn := .vf 0, off := 0x1000, data := [9] } })
    (fun t => (t.part 0).parked.length == 2 && t.l2.map (fun l => l.data.getD 0 0) == [0, 0]) = true := by decide +kernel
theorem test_recovery_hstat : runs (exec .registerWrite { sRun with pkg := { sRun.pkg with recov := true }, args := { fn := .pf, off := 0x1000, v := 1 } }) (fun t => t.pkg.events == []) = true := by decide +kernel
theorem wit_PartitionEvents_waits : oWait.waitsFor 3 = true ∧ ({ oWait with waits := [4, 5] } : Op).waitsFor 3 = false ∧ (∀ k ∈ sRec.cores, ∀ e ∈ k.2.groups, e.2.part = 0 → e.2.fxAdds = [] ∧ e.2.rwAdds = []) := by decide +kernel
/-- A `cfetch` of segment 3 is open on core 0. -/
def oFetch : Op := { seq := 4, path := 5, pc := 0, kind := .cfetch, dvec := false, addrs := [0x3000], ias := [0x3000], reqs := [(0, [0])] }
theorem wit_LaunchEvents_loading : lrSeg recZ = 3 ∧ ((st { g0 with ops := [oFetch] }).core 0).segLoading 0 3 = true ∧ (sPlace.core 0).segLoading 0 3 = false := by decide +kernel
theorem test_placement_waits : runs (exec .clusterPlacement { sPlace with cores := [(0, { groups := [(5, { g0 with ops := [oFetch] })] })] }) (fun t => (t.part 0).launches.map (fun l => (l.next, l.live)) == [(0, 0)]) = true := by decide +kernel
/-- A consumer whose cluster needs more than an early start may have. -/
theorem wit_LaunchEvents_holds : (sFull.part 0).producers lch = [] ∧ lrNeed recZ 0 = 1 := by decide +kernel
theorem wit_LaunchEvents_missing : sSucc.missing 0 [0x2000 + 8 + 32 * 1] = none ∧ ({ sSucc with l2 := [] } : State).missing 0 [0x2000 + 8 + 32 * 1] = some 0x2028 ∧ sSucc.missing 0 [0x3000] = none ∧ sSucc.countersHeld 0 [0x3000] = false ∧
    recField ([1, 0, 0, 0] : List Byte) 0 4 < 2 ∧ 1 ≤ recField ([1, 0, 0, 0] : List Byte) 0 4 := by decide +kernel
/-- The partition is swapped out; core 3's state is saved. -/
def sSaved : State := { sDef with parts := [(0, { sDef.part 0 with st := 4, saved := [svd 0 []] })] }
theorem wit_TaskEvents_saved : sSaved.queuedOn 0 0 = 0 ∧ (∃ v ∈ (sSaved.part 0).saved, v.core = 0) ∧ sDef.queuedOn 0 0 < 256 ∧ (∀ v ∈ (sDef.part 0).saved, v.core ≠ 0) := by decide +kernel
theorem test_deferred_saved : runs (exec .deferredEnqueue sSaved) (fun t => (t.part 0).saved.map (fun v => v.tasks.map (fun q => q.record)) == [[trec]] && (t.core 0).tasks == []) = true := by decide +kernel
theorem wit_TaskEvents_reports : (sRep.group 0 0).holder ≠ .free ∧ (sRep.group 0 0).reports ≠ [] ∧ (sRep.group 0 0).ended = none ∧ (sRep.group 0 0).aborted = false ∧ gGone.reports = [] ∧
    (let g : Group := { gGone with reports := [{ path := 1, seq := 1, cause := 0x08, trx := 5 }] }; g.live = [] ∧ g.ops = [] ∧ g.finishing = false ∧ listedOnce ((st g).core 0).groups 0) := by
  refine ⟨by decide, by decide, by decide, by decide, by decide, by decide, by decide, by decide, rfl⟩
theorem test_retire_reports : runs (exec .groupRetire { sPlace with cores := (st { gGone with reports := [{ path := 1, seq := 1, cause := 0x08, trx := 5 }] }).cores }) (fun t => (t.part 0).launches.map (fun l => l.failed) == [some 5]) = true := by decide +kernel
theorem wit_TaskEvents_atStop : ({ g0 with preempt := .stopping 1 1 } : Group).atStop = true ∧ ({ g0 with preempt := .stopping 1 1, iunits := [{ pc := 0x40, pos := 3 }] } : Group).atStop = false ∧
    ({ g0 with preempt := .requested } : Group).atStop = false := by decide

/-! ### Words, written from the encoding tables, one of every family (R238 to R250) -/

theorem test_word_nop : decodeWord 0x80000000 = .ok (.nop true) := by decide +kernel
theorem test_word_hint_il : decodeWord 0x80200001 = .ok (.hintIl true 1) := by decide +kernel
theorem test_word_hint_mo : decodeWord 0x8080000A = .ok (.hintMo true 1 2) := by decide +kernel
theorem test_word_hint_rw : decodeWord 0x80E00000 = .ok (.hintRw true) := by decide +kernel
theorem test_word_sadd : decodeWord 0x83040C20 = .ok (.sadd true true 2 3 4) := by decide +kernel
theorem test_word_saddi : decodeWord 0x87040C04 = .ok (.saddi true true 2 3 4) := by decide +kernel
theorem test_word_scmp : decodeWord 0x8D040C25 = .ok (.scmp true true 2 3 4 5) := by decide +kernel
theorem test_word_smov : decodeWord 0x8F040C00 = .ok (.smov true true 2 3) := by decide +kernel
theorem test_word_br : decodeWord 0x90000001 = .ok (.br true 1) := by decide +kernel
theorem test_word_brc : decodeWord 0x92410003 = .ok (.brc true 1 2 3) := by decide +kernel
theorem test_word_brv_any : decodeWord 0x94410003 = .ok (.brvAny true 1 2 3) := by decide +kernel
theorem test_word_jmpr : decodeWord 0x96008002 = .ok (.jmpr true 1 2) := by decide +kernel
theorem test_word_loop : decodeWord 0x98008002 = .ok (.loop true 1 2) := by decide +kernel
theorem test_word_regang : decodeWord 0x9A000000 = .ok (.regang true) := by decide +kernel
theorem test_word_safe : decodeWord 0x9A101002 = .ok (.safe true 1 2) := by decide +kernel
theorem test_word_exit : decodeWord 0x9A200000 = .ok (.exit true) := by decide +kernel
theorem test_word_lbrk : decodeWord 0x9A400000 = .ok (.lbrk true) := by decide +kernel
theorem test_word_emset : decodeWord 0x9A600001 = .ok (.emset true 1) := by decide +kernel
theorem test_word_cfetch : decodeWord 0x9C008002 = .ok (.cfetch true 1 2) := by decide +kernel
theorem test_word_vadd : decodeWord 0xA1040C20 = .ok (.vadd true true 2 3 4) := by decide +kernel
theorem test_word_vaddi : decodeWord 0xA7040C04 = .ok (.vaddi true true 2 3 4) := by decide +kernel
theorem test_word_vcmp : decodeWord 0xAD040C25 = .ok (.vcmp true true 2 3 4 5) := by decide +kernel
theorem test_word_fadd : decodeWord 0xAF040C20 = .ok (.fadd true true 2 3 4) := by decide +kernel
theorem test_word_cvt : decodeWord 0xB2100C49 = .ok (.cvt true false 8 3 1 1 1) := by decide +kernel
theorem test_word_pk2 : decodeWord 0xB5040C20 = .ok (.pk2 true true 2 3 4) := by decide +kernel
theorem test_word_lshfl : decodeWord 0xB7040C20 = .ok (.lshfl true true 2 3 4) := by decide +kernel
theorem test_word_lsum : decodeWord 0xB6100C0A = .ok (.lsum true false 8 3 1) := by decide +kernel
theorem test_word_lscan : decodeWord 0xB6100C0D = .ok (.lscan true false 8 3 1) := by decide +kernel
theorem test_word_lvote : decodeWord 0xB7040F86 = .ok (.lvote true true 2 3) := by decide +kernel
theorem test_word_rcp : decodeWord 0xB8081400 = .ok (.rcp true 4 5 0) := by decide +kernel
theorem test_word_badd2 : decodeWord 0xBB040C20 = .ok (.badd2 true true 2 3 4) := by decide +kernel
theorem test_word_tmap_add : decodeWord 0xBE020818 = .ok (.tmapAdd true 1 2 3) := by decide +kernel
theorem test_word_itset : decodeWord 0xBE042006 = .ok (.itset true 2 8) := by decide +kernel
theorem test_word_ldg : decodeWord 0xC0041064 = .ok (.ldg true 1 2 3 4) := by decide +kernel
theorem test_word_ldl : decodeWord 0xC4041064 = .ok (.ldl true 1 2 3 4) := by decide +kernel
theorem test_word_ldt : decodeWord 0xC8041064 = .ok (.ldt true 1 2 3 4) := by decide +kernel
theorem test_word_ldp : decodeWord 0xCA041064 = .ok (.ldp true 1 2 3 4) := by decide +kernel
theorem test_word_ldpr : decodeWord 0xCC041064 = .ok (.ldpr true 1 2 3 4) := by decide +kernel
theorem test_word_stp : decodeWord 0xCE041064 = .ok (.stp true 1 2 3 4) := by decide +kernel
theorem test_word_atom : decodeWord 0xD0041064 = .ok (.atom true 1 2 3 4) := by decide +kernel
theorem test_word_rld : decodeWord 0xD4041064 = .ok (.rld true 1 2 3 4) := by decide +kernel
theorem test_word_fence : decodeWord 0xDA00000A = .ok (.fence true 1 2) := by decide +kernel
theorem test_word_waitc : decodeWord 0xDA10000A = .ok (.waitc true 1 2) := by decide +kernel
theorem test_word_cvp_f32 : decodeWord 0xDD040C00 = .ok (.cvpF32 true true 2 3) := by decide +kernel
theorem test_word_cpf2 : decodeWord 0xDE000840 = .ok (.cpf2 true 1 2) := by decide +kernel
theorem test_word_cpyin : decodeWord 0xE0208300 = .ok (.cpyin true 8 16 24) := by decide +kernel
theorem test_word_gath : decodeWord 0xE0208303 = .ok (.gath true 8 16 24) := by decide +kernel
theorem test_word_tbinit : decodeWord 0xE2000020 = .ok (.tbinit true 1) := by decide +kernel
theorem test_word_mma : decodeWord 0xE41040C4 = .ok (.mma true 1 2 3 4) := by decide +kernel
theorem test_word_mdr : decodeWord 0xE61040C4 = .ok (.mdr true 1 2 3 4) := by decide +kernel
theorem test_word_wbl : decodeWord 0xE81040C0 = .ok (.wbl true 1 2 3 false) := by decide +kernel
theorem test_word_ttr : decodeWord 0xEA002080 = .ok (.ttr true 1 2) := by decide +kernel
theorem test_word_pqry : decodeWord 0xEC002083 = .ok (.pqry true 1 2 3) := by decide +kernel
theorem test_word_pdot : decodeWord 0xEC102083 = .ok (.pdot true 1 2 3) := by decide +kernel
theorem test_word_selk : decodeWord 0xEE002080 = .ok (.selk true 1 2) := by decide +kernel
theorem test_word_psel : decodeWord 0xEE202080 = .ok (.psel true 1 2) := by decide +kernel
theorem test_word_lmerge : decodeWord 0xEE302080 = .ok (.lmerge true 1 2) := by decide +kernel
theorem test_word_lsort : decodeWord 0xEE402081 = .ok (.lsort true 1 2 true) := by decide +kernel
theorem test_word_ssrch : decodeWord 0xEE502084 = .ok (.ssrch true 1 2 true 0) := by decide +kernel
theorem test_word_tspawn : decodeWord 0xF0042018 = .ok (.tspawn true 2 8 3) := by decide +kernel
theorem test_word_sdec : decodeWord 0xF0020801 = .ok (.sdec true 1 2) := by decide +kernel
theorem test_word_tqry : decodeWord 0xF0020802 = .ok (.tqry true 1 2) := by decide +kernel
theorem test_word_fres : decodeWord 0xF2020818 = .ok (.fres true 1 2 3) := by decide +kernel
theorem test_word_freg : decodeWord 0xF2020819 = .ok (.freg true 1 2 3) := by decide +kernel
theorem test_word_fget : decodeWord 0xF204201A = .ok (.fget true 2 8 3) := by decide +kernel
theorem test_word_msend : decodeWord 0xF4042000 = .ok (.msend true 2 8) := by decide +kernel
theorem test_word_mpost : decodeWord 0xF4020801 = .ok (.mpost true 1 2) := by decide +kernel
theorem test_word_mprobe : decodeWord 0xF4042002 = .ok (.mprobe true 2 8) := by decide +kernel
theorem test_word_mcancel : decodeWord 0xF4020803 = .ok (.mcancel true 1 2) := by decide +kernel
theorem test_word_car : decodeWord 0xF6020818 = .ok (.car true 1 2 3) := by decide +kernel
theorem test_word_cbc : decodeWord 0xF6020819 = .ok (.cbc true 1 2 3) := by decide +kernel
theorem test_word_cbar : decodeWord 0xF6020802 = .ok (.cbar true 1 2) := by decide +kernel
theorem test_word_rgive : decodeWord 0xF8000001 = .ok (.rgive true 1) := by decide +kernel
theorem test_word_rcnt : decodeWord 0xF9040200 = .ok (.rcnt true true 2) := by decide +kernel
theorem test_word_rdsr : decodeWord 0xFA002002 = .ok (.rdsr true 1 2) := by decide +kernel
theorem test_word_sret : decodeWord 0xFA200000 = .ok (.sret true) := by decide +kernel
theorem test_word_rwld : decodeWord 0xFA302080 = .ok (.rwld true 1 2) := by decide +kernel
theorem test_word_rwctl : decodeWord 0xFA400001 = .ok (.rwctl true 1) := by decide +kernel
theorem test_word_tinv : decodeWord 0xFA502080 = .ok (.tinv true 1 2) := by decide +kernel
theorem test_word_kvapp : decodeWord 0xFA604203 = .ok (.kvapp true 2 8 3) := by decide +kernel

/-! ### Further forms, faults and waits -/

theorem wit_Loops_none : issuesFlush { i := .lbrk true, e := true, mustEnd := true, flush := true } s0 ∧ (unit s0 s0).loops = [] ∧ targetIn s0 ((unit s0 s0).pc + 4) :=
  ⟨issuesFlush_of (by decide +kernel), by decide, resident_of (by decide +kernel)⟩
theorem test_lbrk_none : runs (exec (.lbrk true) s0) (fun t => (unit s0 t).pc == 0x44) = true := by decide +kernel
/-- Two units wait at `regang`, one of them where the issuing unit comes to wait. -/
def sGang : State := st { g0 with iunits := [{ pc := 0x40, slices := 3 }, { uid := 1, slices := 12, pc := 0x44, wait := .regang }, { uid := 2, slices := 48, pc := 0x80, wait := .regang }] }
theorem wit_UnitEnds_gang : ((grp sGang sGang).iunits.map (·.uid)).Nodup ∧ (∀ u ∈ (grp sGang sGang).iunits, u.uid ≠ sGang.cur.2.2 → u.wait = .exited ∨ u.wait = .regang) ∧
    issues { i := .regang true, e := true, mustEnd := true } sGang ∧ targetIn sGang ((unit sGang sGang).pc + 4) ∧ issuesFlush { i := .exit true, e := true, mustEnd := true, flush := true } sGang :=
  ⟨by decide +kernel, by decide +kernel, issues_of (by decide +kernel), resident_of (by decide +kernel), issuesFlush_of (by decide +kernel)⟩
theorem test_regang_merges : runs (exec (.regang true) sGang) (fun t => (grp sGang t).live.map (fun (v : IUnit) => (v.pc.toNat, v.slices.toNat)) == [(0x44, 15), (0x80, 48)]) = true := by decide +kernel
theorem test_exit_releases : runs (exec (.exit true) sGang) (fun t => (grp sGang t).live.map (fun (v : IUnit) => v.wait == .ready) == [true, true]) = true := by decide +kernel
/-- Register 88 of the last two units is pending. -/
def sPend : State := st { g0 with ops := [{ oSfu with d := 88, status := .issued }] }
theorem wit_RegisterUnits_pending : ready sPend ∧ clean { i := .rgive true 2, e := true } sPend ∧ (2 : BitVec 4).toNat < (grp sPend sPend).units ∧ (grp sPend sPend).vPending 88 = true ∧
    8 * ((grp sPend sPend).units - 2) ≤ 88 ∧ 88 < 8 * (grp sPend sPend).units ∧ (∀ q, 8 * ((grp sPend sPend).units - 2) ≤ q → q < 88 → (grp sPend sPend).vPending q = false) := by
  refine ⟨ready_of (by decide +kernel), clean_of (by decide +kernel), by decide +kernel, by decide +kernel, by decide +kernel, by decide +kernel, ?_⟩
  intro q h1 h2
  have h : ∀ q, q < 88 → 80 ≤ q → (grp sPend sPend).vPending q = false := by decide +kernel
  exact h q h2 h1
theorem test_rgive_pending : runs (exec (.rgive true 2) { sPend with cores := (st { grp sPend sPend with trv := 0x40, stat := 0 }).cores }) (fun t => (grp sPend t).trc == 4 && (grp sPend t).trx == 88) = true := by decide +kernel
/-- A per-thread access of 8 bytes at offset 4; words in an RR page and in one of another kind. -/
def sThr : State := { sm with cores := (st { gm with vregs := [(2, { lanes := List.replicate 32 4 })] }).cores }
theorem wit_AccessTraps_wide : ∃ f, threadForm (.ldt true 8 2 1 5) = some f ∧ badOrder (unit sThr sThr) f.kind = false ∧ clean (f.issue (.ldt true 8 2 1 5)) sThr ∧ sThr.ictx.active ≠ 0 ∧ widthRegs f.k = 2 ∧
    laneAddrs sThr 32 f = [] ++ (0, 4) :: [] ∧ 4 % f.n ≠ 0 ∧ (∀ w ∈ laneAddrs sThr 32 f, w.2 + f.n ≤ 4 * min (sThr.part (grp sThr sThr).part).ptms 16384) ∧
    sThr.xlateAll (grp sThr sThr) f.need 4 (threadAt sThr f) = .ok ([(0, 0x80), (1, 0x100)], [false, false]) :=
  ⟨_, rfl, by decide +kernel, clean_of (by decide +kernel), by decide +kernel, by decide +kernel, by decide +kernel, by decide +kernel, by decide +kernel, by decide +kernel⟩
theorem wit_AccessTraps_straddle : ({ sm with parts := [(0, { sm.part 0 with walks := [{ page := 0, pte := 5, level := 4 }, { page := 1, pte := 0x800000185, level := 3 }] })] } : State).mixesRR 0 [0xFF80, 0x10000] = true ∧
    sm.mixesRR 0 [0xFF80, 0x10000] = false := by decide +kernel
/-- A plane access of a block at an odd address, with a stride of 0, and with no register. -/
def sPv (v w : Dword) : State := { sm with cores := (st { gm with sregs := [(2, v), (3, w)] }).cores }
theorem wit_AccessTraps_planes : ∃ f, planeForm (.ldp true 1 4 2 2) = some f ∧ badOrder (unit (sPv 0x1002 4) (sPv 0x1002 4)) f.kind = false ∧ clean (f.issue (.ldp true 1 4 2 2)) (sPv 0x1002 4) ∧
    (sPv 0x1002 4).ictx.active ≠ 0 ∧ planeVa (sPv 0x1002 4) f % 4 ≠ 0 ∧ planeStride (sPv 0x1000 0) f = 0 ∧ planeStride (sPv 0x1000 6) f % 4 ≠ 0 ∧
    ({ sPv 0x1000 4 with parts := [] } : State).xlateAll (grp sm sm) f.need 4 (planeAt (sPv 0x1000 4) f) = .error 0x1000 :=
  ⟨_, rfl, by decide +kernel, clean_of (by decide +kernel), by decide +kernel, by decide +kernel, by decide +kernel, by decide +kernel, by decide +kernel⟩
theorem test_ldt_wide_misaligned : runs (exec (.ldt true 8 2 1 5) { sThr with cores := (st { grp sThr sThr with trv := 0x40, stat := 0 }).cores }) (fun t => (grp sThr t).trc == 9 && (grp sThr t).trx == 0x80) = true := by decide +kernel
theorem test_ldp_misaligned : runs (exec (.ldp true 1 4 2 2) { sPv 0x1002 4 with cores := (st { grp (sPv 0x1002 4) (sPv 0x1002 4) with trv := 0x40, stat := 0 }).cores }) (fun t => (grp sm t).trc == 9 && (grp sm t).trx == 0x1002) = true := by decide +kernel
theorem wit_RemoteAccesses_range : ∃ f k, remoteForm sFab (.rld true 1 2 2 3) = some (f, k) ∧
    (let s : State := { sFab with parts := [] }; s.xlateAll (grp s s) f.need f.n (laneAddrs s 57 f) = .error 0x1000) ∧
    (let s : State := { sFab with cores := (st { gm with sregs := [(2, 0x1002)] }).cores }; (laneAddrs s 57 f).find? (fun v => v.2 % f.n != 0) = some (0, 0x1002)) :=
  ⟨_, _, rfl, by decide +kernel, by decide +kernel⟩
/-- A future at 0x1008, and a record of its waiter that is not aligned. -/
def sFut : State := sPv 0x1008 4
theorem wit_FutureOps_traps : ∃ f, futureForm (.freg true 1 2 3) = some f ∧ clean { i := .freg true 1 2 3, e := f.e, fields := f.fields } sFut ∧ f.va sFut.ictx = some (0x1008, 16, { rd := true, wr := true }) ∧
    (sFut.part 0).xlate 0x1008 16 { rd := true, wr := true, user := !(grp sFut sFut).privileged } = .ok (0x1008, false) ∧
    (∃ v, ({} : Part).xlate 0x1008 16 { rd := true, wr := true, user := !(grp sFut sFut).privileged } = .error v) ∧
    f.va (sPv 0x1000 4).ictx = some (0x1000, 16, { rd := true, wr := true }) ∧ ¬ recordOk (sPv 0x1000 4) (.freg true 1 2 3) := by
  refine ⟨_, rfl, clean_of (by decide +kernel), rfl, by decide +kernel, ⟨_, rfl⟩, rfl, ?_⟩
  unfold recordOk; decide +kernel
theorem test_freg_misaligned : runs (exec (.freg true 1 2 3) { sFut with cores := (st { grp sFut sFut with trv := 0x40, stat := 0 }).cores }) (fun t => (grp sFut t).trc == 9 && (grp sFut t).trx == 0x1008) = true := by decide +kernel
/-- A rule image through other registers; poisoned, absent, without a translation; behind a barrier of the fabric. -/
def sRl (a b : Dword) : State := { sl2 with cores := (st { gm with sregs := [(2, a), (3, b)] }).cores }
def sRlBar : State := { sl2 with cores := (st { gm with sregs := [(2, 0x1000), (3, 5)], ops := [{ oCar with kind := .cbar, seq := 0 }] }).cores, seq := 1 }
theorem wit_RuleLoads_checks : issuesFlush { i := .rwld true 2 3, e := true, fields := [sSrcF 2, sSrcF 3], priv := (sRl 0x1008 5).rwPriv, flush := true } (sRl 0x1008 5) ∧
    (∃ v, (({ sRl 0x1000 5 with parts := [] } : State).part 0).xlate 0x1000 64 { rd := true } = .error v) ∧ vaMod ((sRl 0x1008 5).ictx.readS 2).toNat % 64 ≠ 0 ∧ 63 < ((sRl 0x1000 64).ictx.readS 3).toNat ∧
    (grp (sRl 0x1000 5) (sRl 0x1000 5)).waitRec = none ∧ (grp (sRl 0x1000 5) (sRl 0x1000 5)).isTask = false ∧ ((sRl 0x1000 5).comesFirst 0 0 0x1000 64 false).isNone = true ∧
    ((flushed sRlBar).performAll 0 0 |>.comesFirst 0 0 0x1000 64 false).isSome = true :=
  ⟨issuesFlush_of (by decide +kernel), ⟨_, rfl⟩, by decide +kernel, by decide +kernel, by decide +kernel, by decide +kernel, by decide +kernel, by decide +kernel⟩
theorem wit_RuleLoads_reads : (ruleRead (sRl 0x1000 5) (sRl 0x1000 5) 0x1000 false).2 = .ok (List.replicate 64 0, false) ∧
    (match (ruleRead (sRl 0x1000 5) { sRl 0x1000 5 with l2 := [{ lineZ with bad := [0] }] } 0x1000 false).2 with | .ok (_, true) => true | _ => false) = true ∧
    (match (ruleRead (sRl 0x1000 5) { sRl 0x1000 5 with l2 := [] } 0x1000 false).2 with | .page => true | _ => false) = true ∧
    (match (ruleRead (sRl 0x1000 5) { sRl 0x1000 5 with l2 := [], parts := [(0, { sl2.part 0 with walks := [{ page := 0, pte := deadEntry, level := 4 }] })] } 0x1000 false).2 with | .fatal => true | _ => false) = true := by
  decide +kernel
theorem test_rwld_waits : runs (exec (.rwld true 2 3) sRlBar) (fun t => (grp sRlBar t).ops.length == 1 && (unit sRlBar t).pc == 0x40) = true := by decide +kernel
theorem test_rwld_poisoned : runs (exec (.rwld true 2 3) { sRl 0x1000 5 with l2 := [{ lineZ with bad := [0] }], cores := (st { grp (sRl 0x1000 5) (sRl 0x1000 5) with trv := 0x40, stat := 1 }).cores }) (fun t => (grp s0 t).trc == 0x18 && (grp s0 t).trx == 5) = true := by decide +kernel
/-- A TILE_FAULT of KIND 3 with an instance of two originals, beside some other commands. -/
def instZ : Instance := { id := 7, rule := 0, addr := 0x40, originals := [mZero .entered, mZero .entered], left := 0, owed := [], fault := some 2 }
def sKind3 (n : Nat) : State := st { g0 with stat := 3, trc := 0x14, tra := 0x40, save := some { saveZ with inst := some 7, cut := 100 }, iunits := [{ pc := 0x44 }], instances := [instZ], ops := (List.range n).map (fun k => oEng (3 + k) Stage.entered) }
theorem wit_TrapReturns_originals : issuesFlush { i := .sret true, e := true, priv := true, mustEnd := true, flush := true } (sKind3 62) ∧ (grp (sKind3 62) (flushed (sKind3 62))).instances.find? (fun j => j.id == 7) = some instZ ∧
    ((flushed (sKind3 62)).core 0).onBoard + instZ.originals.length ≤ 64 ∧ 64 < ((flushed (sKind3 63)).core 0).onBoard + instZ.originals.length ∧
    issuesFlush { i := .sret true, e := true, priv := true, mustEnd := true, flush := true } (sKind3 63) :=
  ⟨issuesFlush_of (by decide +kernel), by decide +kernel, by decide +kernel, by decide +kernel, issuesFlush_of (by decide +kernel)⟩
theorem test_sret_originals : runs (exec (.sret true) (sKind3 1)) (fun t => (grp s0 t).ops.map (fun o => o.cmd.map (fun m => m.entry)) == [some 3, some 0, some 1] && (grp s0 t).instances == []) = true := by decide +kernel
theorem test_sret_stalls : runs (exec (.sret true) (sKind3 63)) (fun t => (grp s0 t).stat == 3) = true := by decide +kernel
/-- A message of handle 0 is landing; an armed entry. -/
def landZ : InMsg := { mIn with handle := some 0 }
def pstA : Posted := { pst0 with armed := true, desc := List.replicate 64 0 }
theorem wit_MessageOps_landing : (∃ m ∈ ((sMsg .mtest { enabled := true, posted := [pstA], landings := [landZ] }).cairn 0).landings, m.handle = some 0) ∧ ({ enabled := true, posted := [pstA] } : Cairn).entry 0 = some pstA ∧
    pstA.armed = true ∧ ({ enabled := true, landings := [landZ] } : Cairn).entry 0 = none ∧ (∀ m ∈ ({ enabled := true } : Cairn).landings, m.handle ≠ some 0) :=
  ⟨⟨landZ, by decide +kernel, rfl⟩, by decide +kernel, rfl, by decide +kernel, by simp⟩
theorem test_mtest_landing : (((sMsg .mtest { enabled := true, posted := [pstA], landings := [landZ] }).cairnOp 0 0 5).group 0 0).ops.map (fun o => o.out) = [[.s 1 4]] := by decide +kernel
theorem test_mcancel_armed : let t := (sMsg .mcancel { enabled := true, posted := [pstA] }).cairnOp 0 0 5; (t.group 0 0).ops.map (fun o => o.out) = [[.s 1 0]] ∧ (t.cairn 0).posted = [] := by decide +kernel
/-- A task's send. -/
def sSendT : State := { sSend kOpen with cores := (st { gm with holder := .task, pages := [0] }).cores }
theorem wit_MessageSends_task : ready sSendT ∧ clean { i := .msend true 1 16, e := true, fields := [sDstF 1, (sSrcF 16).many 8] } sSendT ∧ (grp sSendT sSendT).isTask = true ∧ (sSendT.cairn 0).enabled = true ∧
    (sSendT.cairn 0).sends.length < 1024 ∧ room sSendT 3 :=
  ⟨ready_of (by decide +kernel), clean_of (by decide +kernel), by decide +kernel, by decide +kernel, by decide +kernel, room_of (by decide +kernel)⟩
theorem test_barrier_counts : runs (exec (.tbinit true 1) s0) (fun t => (grp s0 t).ops == []) = true ∧ runs (exec (.tbinit true 1) (sZero .started)) (fun t => (grp s0 t).inFlight 4 == 2) = true := by decide +kernel
theorem wit_TransactionBarriers_counted : tbOp.path = 4 ∧ tbOp.status = .performed ∧ (∀ q ∈ (grp s0 s0).ops, q.path ≠ 4 ∧ q.seq ≠ s0.seq) ∧ (∃ q ∈ (grp s0 (sZero .started)).ops, q.path = 4) :=
  ⟨rfl, rfl, by decide +kernel, ⟨oZero .started, by decide +kernel, rfl⟩⟩
/-- A packet that comes on a lane that is out of service; another of its port comes behind it. -/
def sLane : State := { sJob 0 with pkg := { (sJob 0).pkg with windows := [.butusLane 2] }, turns := [.event .rd (sJob 0).args, .event .wr (sJob 0).args, .ticks 3] }
theorem wit_StepStalls_lane : (Turn.event .rd (sJob 0).args).arrivesOn = some 2 ∧ sLane.laneOut 2 = true ∧ (Turn.event .rd { (sJob 0).args with port := 9 }).arrivesOn = some 9 ∧ sLane.laneOut 9 = false ∧
    comesBehind (.event .rd (sJob 0).args) (.event .wr (sJob 0).args) = true ∧ comesBehind (.event .rd (sJob 0).args) (.ticks 3) = false := by decide +kernel
theorem test_lane_holds : runs (step sLane) (fun t => t.turns.map (fun (u : Turn) => u.isColdReset) == [false, false, false] && t.turns.head? == some (.ticks 3)) = true := by decide +kernel
/-- A notification of a queue that waits: W's page has no entry, no translation; W is poisoned. -/
def sNote (x : LQueue) : State := sLq { x with line := 0x1000, en := true, state := 1, waiting := true }
theorem wit_LaunchEvents_notify : ((sNote {}).lq 0 0).waiting = true ∧ ((sNote {}).lq 0 0).state = 1 ∧ ((sNote {}).lq 0 0).parked = false ∧ (sNote {}).pkg.ready = true ∧
    (match (({ sNote {} with l2 := [] } : State).homeRead { part := 0, sor := true } 0x1000 8).2 with | .page => true | _ => false) = true ∧
    (match (({ sNote {} with l2 := [], parts := [(0, { (sNote {}).part 0 with walks := [{ page := 0, pte := deadEntry, level := 4 }] })] } : State).homeRead { part := 0, sor := true } 0x1000 8).2 with | .fatal => true | _ => false) = true ∧
    (({ sNote {} with l2 := [{ lineW with bad := [0] }] } : State).homeRead { part := 0, sor := true } 0x1000 8).2 = .ok ([3, 0, 0, 0, 0, 0, 0, 0], true) ∧
    ((sNote {}).homeRead { part := 0, sor := true } 0x1000 8).2 = .ok ([3, 0, 0, 0, 0, 0, 0, 0], false) := by decide +kernel
theorem test_notify_parks : runs (exec .writeIndexNotify { sNote {} with l2 := [] }) (fun t => (t.part 0).parked.map (fun e => e.2) == [.queueRead 0] && (t.part 0).records.length == 1) = true := by decide +kernel
theorem test_notify_poisoned : runs (exec .writeIndexNotify { sNote {} with l2 := [{ lineW with bad := [0] }] }) (fun t => (t.lq 0 0).state == 2 && (t.lq 0 0).code == 3) = true := by decide +kernel
theorem wit_LaunchEvents_parked : (∀ e ∈ (sSucc.part 0).parked, e.2 ≠ .graphNode 0 0) ∧ (∃ e ∈ ({ parked := [(1, .graphNode 0 0)] } : Part).parked, e.2 = .graphNode 0 0) ∧
    sSucc.missing 0 [0x2028, 0x2047] = none ∧ ({ sSucc with l2 := sSucc.l2.take 2 } : State).missing 0 [0x3000, 0x3007] = some 0x3000 ∧ sSucc.missing 0 [0x3000, 0x3007] = none ∧
    sSucc.countersHeld 0 [0x3000, 0x3007] = false ∧ ({ sSucc with l2 := [{ lineZ with ia := 0x3000, pas := [0x3000], wp := true }] } : State).countersHeld 0 [0x3000, 0x3007] = true := by
  refine ⟨by decide +kernel, ⟨_, List.mem_singleton.2 rfl, rfl⟩, by decide +kernel, by decide +kernel, by decide +kernel, by decide +kernel, by decide +kernel⟩
theorem test_graph_parks : runs (exec .graphNodeComplete { sSucc with l2 := sSucc.l2.take 2 }) (fun t => (t.part 0).parked.map (fun e => e.2) == [.graphNode 0 0] && (t.part 0).graphs.map (fun g => g.ended) == [[0]]) = true := by decide +kernel
/-- A virtual function's accesses whose pages have no entry. -/
theorem wit_PartitionEvents_faults : (({ sHost with l2 := [] } : State).homeWrite (hostAcc 0 false true) 0x107E [1, 2] []).2 = .page ∧ (linesRead 0 [(0x107E, false, 2)] [] { sHost with l2 := [] }).2 = none ∧
    (sPart { units := 1, st := 5 }).pkg.ready = true ∧ State.reset.pkg.ready = false ∧ (Parked.acts schedAgent {} [.decAt 0 0x1000 false false]).outlives = true := by decide +kernel
theorem test_bar2_fault : runs (exec .bar2Write { sHost with l2 := [lineZ] }) (fun t => (t.part 0).records.map (fun r => r.page) == [0] && t.bar2.length == 1) = true := by decide +kernel
theorem test_dissolve_decrement : runs (exec .dissolve (sPart { units := 1, st := 1, parked := [(3, .acts schedAgent {} [.decAt 0 0x1000 false false]), (4, .launchRead 0)] })) (fun t => (t.part 0).parked.map (fun e => e.1) == [3]) = true := by decide +kernel
theorem test_patrol_arrives : runs (exec .patrolScrub { sQ with args := { pa := 0x40 } }) (fun t => t.hbm == sQ.hbm.arriveFirst sQ.pkg.tick 0x40 64 3 0) = true := by decide +kernel
/-- An acquire of the group is outstanding. -/
theorem wit_KvAppends_waits : clean { i := .kvapp true 2 8 4, e := true, fields := [{ sRegF 4 with wr := true }, sSrcF 2, (vSrcF 8).many 16] } sRlBar ∧ (grp sRlBar sRlBar).waitRec = none ∧
    (let q : Op := { oCar with kind := .cbar, seq := 0 }; q.status ≠ .performed ∧ q.acquires = true ∧ (grp sRlBar (sRlBar.performAll 0 0)).ops = [] ++ q :: []) := ⟨clean_of (by decide +kernel), by decide +kernel, by decide +kernel⟩
theorem wit_AccessesPerformed_clean : sAcc.l1Clean 0 0 0x1000 = sAcc ∧ sAcc.l1Evict 0 0 0x1000 = sAcc := by decide +kernel

/-! ### Ill-formed terms, one for each check, and words that are no instruction -/

theorem wf_vSrc : (Instr.vadd true false 1 123 2).wf = false ∧ (Instr.vadd true false 1 122 2).wf = true := by decide
theorem wf_vDst : (Instr.vadd true false 96 2 2).wf = false ∧ (Instr.vadd true false 95 2 2).wf = true := by decide
theorem wf_sSrc : (Instr.sadd true false 1 81 2).wf = false ∧ (Instr.sadd true false 1 80 2).wf = true := by decide
theorem wf_sDst : (Instr.sadd true false 64 2 2).wf = false ∧ (Instr.sadd true false 63 2 2).wf = true := by decide
theorem wf_oneSrc : (Instr.vclz true false 1 2 3).wf = false ∧ (Instr.vclz true false 1 2 0).wf = true := by decide
theorem wf_evenReg : (Instr.fget true 1 2 3).wf = false ∧ (Instr.fget true 2 2 3).wf = true := by decide
theorem wf_laneOffset : (Instr.lshfl true false 1 2 0).wf = false ∧ (Instr.lshfl true false 1 2 64).wf = false ∧ (Instr.lshfl true false 1 2 6).wf = false ∧ (Instr.lshfl true false 1 2 5).wf = true := by decide
theorem wf_dataGroup : (Instr.ldg true 1 2 3 5).wf = false ∧ (Instr.ldg true 2 2 3 6).wf = false ∧ (Instr.ldg true 4 2 3 7).wf = false ∧ (Instr.stg true 4 2 3 1).wf = false ∧ (Instr.ldg true 4 2 3 6).wf = true := by decide
theorem wf_atomGroup : (Instr.atom true 1 2 3 10).wf = false ∧ (Instr.atom true 2 2 3 17).wf = false ∧ (Instr.atom true 1 2 3 18).wf = false ∧ (Instr.atom true 4 2 3 17).wf = true := by decide
theorem wf_sysReg : (Instr.rdsr true 1 0x0F).wf = false ∧ (Instr.rdsr true 1 0x14).wf = false ∧ (Instr.rdsr true 1 0x13).wf = true := by decide
theorem wf_octet : (Instr.tspawn true 1 3 2).wf = false ∧ (Instr.tspawn true 1 64 2).wf = false ∧ (Instr.msend true 1 3).wf = false ∧ (Instr.kvapp true 1 88 1).wf = false := by decide
theorem wf_k : (Instr.rgive true 0).wf = false ∧ (Instr.rgive true 12).wf = false ∧ (Instr.rclaim true false 1 0).wf = false ∧ (Instr.rgive true 11).wf = true := by decide
theorem wf_event : Instr.coldReset.wf = false ∧ encode Instr.coldReset = none := by decide
theorem wf_unlisted_word : decodeWord 0x7E000000 = .error (.unlisted 0x7E000000) := by decide +kernel
theorem wf_short : decode [0, 0, 0] = .error .shortFetch := by decide

end Sys2Proof.Tests
end

section
/-! PROOF. No instruction, event or step ends a run (O59): the operation that every instruction issues through, the events one by one,
the dispatch, and then the step. -/

namespace Sys2Proof.Machine

/-! ### Outcomes that are a next state -/

theorem completes_next (t : State) : Completes (.next t) := ⟨t, rfl⟩

theorem completes_ite {c : Prop} {_ : Decidable c} {a b : Host.Outcome State Fault Refusal} (ha : Completes a) (hb : Completes b) :
    Completes (if c then a else b) := by
  split
  · exact ha
  · exact hb

/-! ### What every instruction word goes through -/

/-- Whatever the body of an instruction answers, its issue answers a next state: it traps, stalls, waits or completes. -/
theorem issue_completes (x : Issue) (s : State) (body : Ictx → State → Done) : Completes (issue x s body) := by
  unfold issue
  dsimp only
  split
  · exact completes_next _
  split
  · exact completes_ite (completes_next _) (completes_next _)
  refine completes_ite (completes_next _) ?_
  split
  case h_1 | h_2 | h_4 | h_5 | h_6 => exact completes_next _
  case h_3 => exact completes_ite (completes_next _) (completes_next _)
  case h_7 =>
    split
    · exact completes_next _
    refine completes_ite (completes_next _) ?_
    split
    · exact completes_ite (completes_next _) (completes_next _)
    · exact completes_next _

theorem afterIssue_completes {c sl : Nat} {f : Group → Group} {o : Host.Outcome State Fault Refusal} (h : Completes o) :
    Completes (afterIssue c sl f o) := by
  obtain ⟨t, rfl⟩ := h
  exact completes_next _

/-! ### The shapes that instruction words share, each an issue -/

theorem hintOp_completes {i e f s} : Completes (hintOp i e f s) := issue_completes _ _ _
theorem scalar2_completes {i e w d a b f s} : Completes (scalar2 i e w d a b f s) := issue_completes _ _ _
theorem scalar1_completes {i e w d a f s} : Completes (scalar1 i e w d a f s) := issue_completes _ _ _
theorem vectorBranch_completes {i e all t r p s} : Completes (vectorBranch i e all t r p s) := issue_completes _ _ _
theorem jumpReg_completes {i e r p link wait s} : Completes (jumpReg i e r p link wait s) := issue_completes _ _ _
theorem vector2_completes {i e w d a b f s} : Completes (vector2 i e w d a b f s) := issue_completes _ _ _
theorem vector3_completes {i e w d a b f s} : Completes (vector3 i e w d a b f s) := issue_completes _ _ _
theorem vector1_completes {i e w d a f s} : Completes (vector1 i e w d a f s) := issue_completes _ _ _
theorem float2_completes {i e w d a b f s} : Completes (float2 i e w d a b f s) := issue_completes _ _ _
theorem floatPlain2_completes {i e w d a b f s} : Completes (floatPlain2 i e w d a b f s) := issue_completes _ _ _
theorem floatPlain1_completes {i e w d a f s} : Completes (floatPlain1 i e w d a f s) := issue_completes _ _ _
theorem packOp_completes {i e w d a b f s} : Completes (packOp i e w d a b f s) := issue_completes _ _ _
theorem unpackOp_completes {i e w d a f s} : Completes (unpackOp i e w d a f s) := issue_completes _ _ _
theorem laneOp_completes {i e w d a more f s} : Completes (laneOp i e w d a more f s) := issue_completes _ _ _
theorem sfuOp_completes {i e d a f s} : Completes (sfuOp i e d a f s) := issue_completes _ _ _
theorem packed_completes {i e w d a b f op s} : Completes (packed i e w d a b f op s) := issue_completes _ _ _
theorem sweepCmd_completes {i e a b z s} : Completes (sweepCmd i e a b z s) := issue_completes _ _ _
theorem barInst_completes {i e scope w s} : Completes (barInst i e scope w s) := issue_completes _ _ _
theorem cvpOp_completes {i e w d a f mid s} : Completes (cvpOp i e w d a f mid s) := issue_completes _ _ _
theorem cacheHint_completes {i e a b f s} : Completes (cacheHint i e a b f s) := issue_completes _ _ _
theorem cacheLines_completes {i e a b f s} : Completes (cacheLines i e a b f s) := issue_completes _ _ _
theorem copyCmd_completes {i e a b z s} : Completes (copyCmd i e a b z s) := issue_completes _ _ _
theorem tbInst_completes {i e flush fields b s act} : Completes (tbInst i e flush fields b s act) := issue_completes _ _ _
theorem tlCmd_completes {i e a b s} : Completes (tlCmd i e a b s) := by
  unfold tlCmd
  exact issue_completes _ _ _

/-! ### Events that branch: package, health and main memory -/

theorem execColdReset_completes (s : State) : Completes (execColdReset s) := by
  unfold execColdReset
  dsimp only
  split <;> exact completes_next _

theorem execSelfTestResult_completes (s : State) : Completes (execSelfTestResult s) :=
  completes_ite (completes_next _) (completes_ite (completes_next _) (completes_ite (completes_next _) (completes_next _)))

theorem execChannelSchedule_completes (s : State) : Completes (execChannelSchedule s) := by
  unfold execChannelSchedule
  dsimp only
  split <;> exact completes_next _

theorem execMemoryRequestComplete_completes (s : State) : Completes (execMemoryRequestComplete s) := by
  unfold execMemoryRequestComplete
  split <;> exact completes_next _

theorem execVictimWriteback_completes (s : State) : Completes (execVictimWriteback s) := by
  unfold execVictimWriteback
  split <;> exact completes_next _

theorem execPerBankRefresh_completes (s : State) : Completes (execPerBankRefresh s) :=
  completes_ite (completes_ite (completes_ite (completes_next _) (completes_next _)) (completes_next _)) (completes_next _)

theorem execPatrolScrub_completes (s : State) : Completes (execPatrolScrub s) := by
  unfold execPatrolScrub
  refine completes_ite ?_ (completes_next _)
  dsimp only
  split <;> exact completes_next _

/-! ### Events that branch: the fabric, the Cairn and the host -/

theorem execRequestTimeout_completes (s : State) : Completes (execRequestTimeout s) := by
  unfold execRequestTimeout
  split <;> exact completes_next _

theorem execFlitReceive_completes (s : State) : Completes (execFlitReceive s) :=
  completes_ite (completes_next _) (completes_ite (completes_next _) (completes_next _))

theorem execPayloadRead_completes (s : State) : Completes (execPayloadRead s) := by
  unfold execPayloadRead
  dsimp only
  split <;> exact completes_next _

theorem execCairnCompletion_completes (s : State) : Completes (execCairnCompletion s) := by
  unfold execCairnCompletion
  dsimp only
  split <;> exact completes_next _

theorem execBar2Write_completes (s : State) : Completes (execBar2Write s) := by
  unfold execBar2Write
  refine completes_ite (completes_next _) ?_
  dsimp only
  split
  case h_1 => exact completes_ite (completes_next _) (completes_next _)
  case h_2 => split <;> exact completes_next _

theorem execBar2Read_completes (s : State) : Completes (execBar2Read s) := by
  unfold execBar2Read
  refine completes_ite (completes_next _) ?_
  dsimp only
  split
  case h_1 => exact completes_ite (completes_next _) (completes_next _)
  case h_2 => exact completes_next _

/-! ### Events that branch: launches and tasks -/

theorem execWriteIndexNotify_completes (s : State) : Completes (execWriteIndexNotify s) := by
  unfold execWriteIndexNotify
  refine completes_ite (completes_next _) ?_
  dsimp only
  split
  case h_1 | h_2 | h_3 => exact completes_next _
  case h_4 =>
    exact completes_ite (completes_next _) (completes_ite (completes_next _) (completes_ite (completes_next _) (completes_next _)))

theorem execLaunchRecordRead_completes (s : State) : Completes (execLaunchRecordRead s) := by
  unfold execLaunchRecordRead
  refine completes_ite (completes_next _) ?_
  dsimp only
  split
  · exact completes_next _
  split
  case h_1 | h_2 | h_3 => exact completes_next _
  case h_4 =>
    refine completes_ite (completes_next _) ?_
    split <;> exact completes_next _

theorem execClusterPlacement_completes (s : State) : Completes (execClusterPlacement s) := by
  unfold execClusterPlacement
  refine completes_ite (completes_next _) ?_
  split
  case h_1 | h_2 => exact completes_next _
  case h_3 => split <;> exact completes_next _

theorem execReservation_completes (s : State) : Completes (execReservation s) := by
  unfold execReservation
  dsimp only
  split
  · exact completes_next _
  refine completes_ite (completes_next _) ?_
  split <;> exact completes_next _

theorem execLaunchCompletion_completes (s : State) : Completes (execLaunchCompletion s) := by
  unfold execLaunchCompletion
  dsimp only
  split
  · exact completes_next _
  · exact completes_ite (completes_next _) (completes_next _)

theorem execTaskDispatch_completes (s : State) : Completes (execTaskDispatch s) := by
  unfold execTaskDispatch
  dsimp only
  split
  · exact completes_next _
  split
  · exact completes_next _
  · exact completes_ite (completes_next _) (completes_next _)

theorem execTaskStart_completes (s : State) : Completes (execTaskStart s) := by
  unfold execTaskStart
  dsimp only
  split
  · exact completes_next _
  split
  · exact completes_next _
  · exact completes_ite (completes_next _) (completes_next _)

theorem execDeferredEnqueue_completes (s : State) : Completes (execDeferredEnqueue s) := by
  unfold execDeferredEnqueue
  dsimp only
  split <;> exact completes_next _

/-! ### Events that branch: engines and caches -/

theorem execEngineCommandStart_completes (s : State) : Completes (execEngineCommandStart s) := by
  unfold execEngineCommandStart
  split <;> exact completes_next _

theorem execEngineCommandComplete_completes (s : State) : Completes (execEngineCommandComplete s) := by
  unfold execEngineCommandComplete
  split <;> exact completes_next _

theorem execEvictLastDemotion_completes (s : State) : Completes (execEvictLastDemotion s) := by
  unfold execEvictLastDemotion
  dsimp only
  split <;> exact completes_next _

/-! ### Every instruction and event -/

/-- An instruction word issues, and an event answers a next state at the end of each of its branches. -/
theorem exec_completes (i : Instr) (s : State) : Completes (exec i s) := by
  cases i <;> dsimp only [exec]
  -- instruction words: by the shape they share, or an issue of their own
  case nop | hintIl | hintIh | hintRnd | hintMo | hintCp | hintAo | hintRw => exact hintOp_completes
  case sadd | ssub | smul | smulh | sand | sor | sxor | sandn | sshl | sshr | ssra | smin | smax | sminu | smaxu | scmp | sext => exact scalar2_completes
  case sclz | saddi | sandi | sori | sxori | sshli | sshri | ssrai | sroti | smov | spopc => exact scalar1_completes
  case brvAny | brvAll => exact vectorBranch_completes
  case jmpr | callr | ret | jmpf | callf => exact jumpReg_completes
  case vadd | vsub | vmul | vmulh | vabsd | vmin | vmax | vminu | vmaxu | vand | vor | vxor | vandn | vshl | vshr | vsra | vmulhu | vbfe
    | vcmp => exact vector2_completes
  case vmad | vsel => exact vector3_completes
  case vclz | vpopc | vbrev | vaddi | vandi | vori | vxori | vshli | vshri | vsrai | vroti => exact vector1_completes
  case fadd | fsub | fmul => exact float2_completes
  case fmin | fmax | fceq | fclt | fcle | fcun | fcpysgn | bmax2 | bmin2 => exact floatPlain2_completes
  case fabs | fneg | fclass | frnd => exact floatPlain1_completes
  case pk2 | pk4 | pk8 => exact packOp_completes
  case upk2 | upk4 | upk8 => exact unpackOp_completes
  case lshfl | lbcast | lmin | lmax | lvote | lbfly => exact laneOp_completes
  case rcp | rsqrt | sqrt | exp2 | log2 | sin | cos | tanh => exact sfuOp_completes
  case badd2 | bmul2 | bfma2 | hadd2 | hmul2 | hfma2 => exact packed_completes
  case tmapAdd | tmapMul | tmapFma | tmapMax | tmapCvt | tmapCpy => exact sweepCmd_completes
  case bar | barc => exact barInst_completes
  case cvpF32 | cvpF32m | cvpBf | cvpBfm => exact cvpOp_completes
  case cpf2 | cpf1 | cef | cel | cnm => exact cacheHint_completes
  case ctrim | cinv | cwb => exact cacheLines_completes
  case cpyin | cpyout | cpyp | gath | scat | cpyc | cpyr => exact copyCmd_completes
  case tbinit | tbarr | tbexp | tbwait | tbtest => exact tbInst_completes
  case mma | mdr | wbl | ttr | tscale | tzero | tzeroAcc | tcvt | tadd | tmov | pqry | pdot | pdotr | pbnd | selk | selkx | psel | lmerge
    | lsort | ssrch => exact tlCmd_completes
  case sfromv | ssel | br | call | brc | loop | safe | trap | lbrk | yield | emset | emsave | emload | cfetch | smovi | vmov | ffma
    | fscale | cvt | lsum | lscan | vmovi | itset | ldp | ldpr | stp | rld | rst | fence | waitc | ptrd | ptwr | tspawn | sdec | tqry
    | fres | freg | fget | msend | mpost | mprobe | mcancel | mtest | mpostRa | car | cbc | cbar | rgive | rclaim | rcnt | rdsr | wrsr
    | sret | rwld | rwctl | tinv | kvapp => exact issue_completes _ _ _
  case ldg | stg | ldl | stl | ldt | stt | atom | atoml | ratom =>
    dsimp only [execLdg, execStg, execLdl, execStl, execLdt, execStt, execAtom, execAtoml, execRatom]
    exact issue_completes _ _ _
  case regang | exit => exact afterIssue_completes (issue_completes _ _ _)
  -- events: without a branch, with one test, and with a lemma of their own
  case orderlyWarmReset | forcedWarmReset | orderlyResetTimeout | retrainComplete | operatingPointLower | thermalShutdown | droopTrip
    | targetedSelfTest | selfTestForcedWindow | repairExport | signedImageWrite | spdmRequest | keyInstall | registerWrite | rd | wr | wrm
    | atomRequest | mcw | pwr | msge | msgh | fin | rsp | keyWindowGo | checkpointGo | checkpointAbort | cctlEnSet | cctlEnClear | form
    | halt | resume | swapOut | dissolve | lqEnable | lqDisable | graphNodeComplete | groupRetire | operationComplete | sfuEntryComplete
    | windowTimeout | farCopyInvalidation | fqres | fqr | mcgWrite | carTimeout | cbcTimeout | orderlyWritebackEnd | droopRecovery
    | configurationRequest => exact completes_next _
  case operatingPointRaise | memoryRequest | promotion | cacheLayerDisable | portFailure | keyCounterExhausted | keyInstallDone
    | checkpointDone | refusedResend | haltDone | swapOutDone | swapInDone | taskHaltTimeout | safeTimeout | pairReset
    | portRetrainComplete =>
    exact completes_ite (completes_next _) (completes_next _)
  case coldReset => exact execColdReset_completes s
  case selfTestResult => exact execSelfTestResult_completes s
  case channelSchedule => exact execChannelSchedule_completes s
  case memoryRequestComplete => exact execMemoryRequestComplete_completes s
  case victimWriteback => exact execVictimWriteback_completes s
  case perBankRefresh => exact execPerBankRefresh_completes s
  case patrolScrub => exact execPatrolScrub_completes s
  case requestTimeout => exact execRequestTimeout_completes s
  case flitReceive => exact execFlitReceive_completes s
  case payloadRead => exact execPayloadRead_completes s
  case cairnCompletion => exact execCairnCompletion_completes s
  case bar2Write => exact execBar2Write_completes s
  case bar2Read => exact execBar2Read_completes s
  case writeIndexNotify => exact execWriteIndexNotify_completes s
  case launchRecordRead => exact execLaunchRecordRead_completes s
  case clusterPlacement => exact execClusterPlacement_completes s
  case reservation => exact execReservation_completes s
  case launchCompletion => exact execLaunchCompletion_completes s
  case taskDispatch => exact execTaskDispatch_completes s
  case taskStart => exact execTaskStart_completes s
  case deferredEnqueue => exact execDeferredEnqueue_completes s
  case engineCommandStart => exact execEngineCommandStart_completes s
  case engineCommandComplete => exact execEngineCommandComplete_completes s
  case evictLastDemotion => exact execEvictLastDemotion_completes s

/-! ### The step -/

theorem guarded_completes (s again : State) {go : State → Host.Outcome State Fault Refusal} (h : ∀ t, Completes (go t)) :
    Completes (s.guarded again go) := by
  unfold State.guarded
  refine completes_ite (h s) ?_
  obtain ⟨t, ht⟩ := h { s with hbm := { s.hbm with touched := [] } }
  rw [ht]
  exact completes_next _

theorem issueOn_completes (c q : Nat) (s : State) : Completes (issueOn c q s) := by
  unfold issueOn
  dsimp only
  split
  case h_1 | h_2 => exact completes_next _
  case h_3 =>
    split
    · exact exec_completes _ _
    · exact completes_next _

theorem issueAt_completes (s : State) (c q : Nat) : Completes (issueAt s c q) :=
  completes_ite (completes_next _) (completes_ite (completes_next _) (guarded_completes _ _ (issueOn_completes c q)))

theorem takeTurn_completes (s : State) (t : Turn) : Completes (takeTurn s t) := by
  cases t with
  | issue c q => exact issueAt_completes s c q
  | event i a =>
    exact completes_ite (completes_next _) (completes_ite (completes_next _) (guarded_completes _ _ fun _ => exec_completes i _))
  | perform c sl seq => exact completes_ite (completes_next _) (guarded_completes _ _ fun _ => completes_next _)
  | ticks | host | cycles => exact completes_next _

/-- The one fault of a step is `powerOff`, raised while all clocks stand (R8): with the clocks running every step is a turn. -/
theorem step_completes (s : State) (h : s.pkg.clocksStopped = false) : Completes (step s) := by
  unfold step
  rw [h]
  split
  · exact issueAt_completes s _ _
  · exact takeTurn_completes _ _

/-- Settles O59: every meaning that `exec` dispatches to answers a next state, and a step only runs one of them or makes a turn of its own. -/
theorem everyStepCompletes : Obligations.EveryStepCompletes := ⟨exec_completes, step_completes⟩

end Sys2Proof.Machine
end

section
/-! PROOF. Sweeps and copies (O40): how an instruction without a flush point issues, what each form captures, and when it enters its path. -/

namespace Sys2Proof.Slice0.ButusFabric

open Sys2Proof.Machine Sys2Proof.Slice0

/-! ### How an instruction without a flush point issues -/

section Issue
variable {x : Issue} {s : State} {body : Ictx → State → Done}

/-- One that passes decode, completes in order and has no latch value goes on. -/
theorem issue_goesOn {s1 : State} (hc : clean x s) (hf : x.flush = false) (ht : x.trapsAfter = false)
    (hb : body s.ictx s = .fin s1 {} [] .seq .ready) (hn : nextAt s s1) : issue x s body = Slice0.Next (goesOn x s s1) :=
  issue_fin x s s1 body {} [] .seq .ready hf ht hc hb hn

/-- One that passes decode and whose body traps precisely is trapped at its own address. -/
theorem issue_trapped {cause : Nat} {trx : Dword} (hc : clean x s) (hf : x.flush = false) (ht : x.trapsAfter = false)
    (hb : body s.ictx s = .trap cause trx) : issue x s body = Slice0.Next (trapped s cause trx) := by
  have hb' : body { s.ictx with g := s.group s.ictx.c s.ictx.sl } s = .trap cause trx := hb
  unfold issue
  simp only [show decodeTrap x s.ictx.g s.ictx.u = none from hc, hf, ht, Bool.or_self, Bool.false_and, ite_self,
    Bool.false_eq_true, if_false, hb']
  rfl

/-- One that passes decode and whose body stalls spends a cycle in the state that the stall leaves. -/
theorem issue_stalls {s1 : State} (hc : clean x s) (hf : x.flush = false) (ht : x.trapsAfter = false)
    (hb : body s.ictx s = .stall s1) : issue x s body = Slice0.Next (s1.cycle s.cur.1) := by
  have hb' : body { s.ictx with g := s.group s.ictx.c s.ictx.sl } s = .stall s1 := hb
  unfold issue
  simp only [show decodeTrap x s.ictx.g s.ictx.u = none from hc, hf, ht, Bool.or_self, Bool.false_and, ite_self,
    Bool.false_eq_true, if_false, hb']
  rfl

end Issue

/-- With fewer than 63 operations in flight on its path, an operation enters. -/
theorem enterOp_room {s : State} {stalled : State → State} {o : Op} (h : room s o.path) :
    enterOp s.ictx s stalled o = .fin (enteredRaw s.ictx s o) {} [] .seq .ready := by
  unfold enterOp
  exact if_neg (Nat.not_le.2 h)

/-! ### Sweeps and copies -/

/-- A command that need not enter the scoreboard stalls only where scoreboard and window are full. -/
theorem boardRoom_iff {s : State} : boardRoom s false ↔
    (decide (64 ≤ (s.core s.ictx.c).entered.length) && (false || decide (8 ≤ ((s.core s.ictx.c).group s.ictx.sl).windowOps.length))) = false := by
  simp only [Bool.false_or, Bool.and_eq_false_iff, decide_eq_false_iff_not, Nat.not_le]
  exact or_congr Iff.rfl ⟨(·.2), (⟨rfl, ·⟩)⟩

/-- With a place on the scoreboard or in the window, a command enters the window. -/
theorem enterCmd_window {s : State} {m : Cmd} (hm : m.entry = 0) (hb : boardRoom s false) (hr : room s 4) :
    enterCmd s.ictx s false m = .fin (cmdEntered s false m) {} [] .seq .ready := by
  cases m
  cases hm
  simp only [enterCmd, cmdEntered, boardRoom_iff.1 hb, Bool.false_eq_true, if_false]
  rw [enterOp_room hr]
  rfl

/-- With the scoreboard and the window full, the unit stalls while the commands of the scoreboard run. -/
theorem enterCmd_full {s : State} {m : Cmd} (hb : ¬ boardRoom s false) :
    enterCmd s.ictx s false m = .stall (s.boardMoves s.cur.1) := by
  unfold enterCmd
  rw [boardRoom_iff, Bool.not_eq_false] at hb
  simp only [hb, if_true]
  rfl

theorem nbits_zero (v n : Nat) : nbits v 0 n = v % 2 ^ n := by
  simp [nbits]

/-- Every sweep issues through the one shape that sweeps share. -/
theorem exec_sweep {i : Instr} {e : Bool} {x y z : BitVec 7} {s : State} (h : sweepSpec i = some (e, x, y, z)) :
    exec i s = sweepCmd i e x y z s ∧ ({ i := i, e := e } : Issue).trapsAfter = false := by
  cases i <;> simp only [sweepSpec, reduceCtorEq, Option.some.injEq, Prod.mk.injEq] at h
  case tmapAdd | tmapMul | tmapFma | tmapMax | tmapCvt | tmapCpy =>
    obtain ⟨rfl, rfl, rfl, rfl⟩ := h
    exact ⟨rfl, rfl⟩

/-- Every copy issues through the one shape that copies share. -/
theorem exec_copy {i : Instr} {e : Bool} {x y : BitVec 7} {z : BitVec 6} {s : State} (h : copySpec i = some (e, x, y, z)) :
    exec i s = copyCmd i e x y z s ∧ ({ i := i, e := e } : Issue).trapsAfter = false := by
  cases i <;> simp only [copySpec, reduceCtorEq, Option.some.injEq, Prod.mk.injEq] at h
  case cpyin | cpyout | cpyp | gath | scat | cpyc | cpyr =>
    obtain ⟨rfl, rfl, rfl, rfl⟩ := h
    exact ⟨rfl, rfl⟩

/-- The sweeps of O40: the captured command enters the window, or the unit stalls. -/
theorem sweeps_enter {i : Instr} {e : Bool} {x y z : BitVec 7} {s : State} (h : sweepSpec i = some (e, x, y, z))
    (hc : clean { i := i, e := e, fields := [sSrcF x, sSrcF y, sSrcF z] } s) :
    let it := (grp s s).iterOf (s.ictx.readS z).toNat
    let s1 := cmdEntered s false (captured s i (some (s.ictx.readS x)) (some (s.ictx.readS y)) (some (s.ictx.readS z)) [] it.1 it.2)
    (boardRoom s false → room s 4 → nextAt s s1 → exec i s = Slice0.Next (goesOn { i := i, e := e, fields := [sSrcF x, sSrcF y, sSrcF z] } s s1)) ∧
    (¬ boardRoom s false → stallsFull s (exec i s)) := by
  intro it s1
  obtain ⟨he, ht⟩ := exec_sweep (s := s) h
  rw [he]
  refine ⟨fun hb hr hn => issue_goesOn hc rfl ht (enterCmd_window rfl hb hr) hn, fun hb => ?_⟩
  exact issue_stalls hc rfl ht (enterCmd_full hb)

/-- What the row of its peer lets a `cpyr` do (R53). -/
def copyAllowed (s : State) (m : Cmd) : Prop :=
  s.fab.drank ≠ 4095 ∧ rowPeer (s.fab.row m.peer) = true ∧ (m.fmt12 = true → rowPwr (s.fab.row m.peer) = true)

/-- The check of a copy's issue fails exactly for a `cpyr` that its peer's row does not allow. -/
theorem copyRefused_iff {s : State} {m : Cmd} :
    (decide (m.fn = 6) && (s.fab.drank == 4095 || !rowPeer (s.fab.row m.peer) || (m.fmt12 && !rowPwr (s.fab.row m.peer)))) = true ↔
      m.fn = 6 ∧ ¬ copyAllowed s m := by
  unfold copyAllowed
  cases rowPeer (s.fab.row m.peer) <;> cases m.fmt12 <;> cases rowPwr (s.fab.row m.peer) <;> simp

/-- The copies of O40: the captured command enters the window, the unit stalls, or the peer's row refuses it. -/
theorem copies_enter {i : Instr} {e : Bool} {x y : BitVec 7} {z : BitVec 6} {s : State} (h : copySpec i = some (e, x, y, z))
    (hc : clean { i := i, e := e, fields := [sSrcF x, sSrcF y, (sRegF z).many 8] } s) :
    let record := (List.range 8).map (fun j => (grp s s).sreg (z.toNat + j))
    let m := captured s i (some (s.ictx.readS x)) (some (s.ictx.readS y)) (record[0]?) record [] 0
    (boardRoom s false → room s 4 → (m.fn = 6 → copyAllowed s m) → nextAt s (cmdEntered s false m) →
      exec i s = Slice0.Next (goesOn { i := i, e := e, fields := [sSrcF x, sSrcF y, (sRegF z).many 8] } s (cmdEntered s false m))) ∧
    (¬ boardRoom s false → (m.fn = 6 → copyAllowed s m) → stallsFull s (exec i s)) ∧
    (m.fn = 6 → ¬ copyAllowed s m → exec i s = Slice0.Next (trapped s 0x12 (d64 ((record.getD 0 0).toNat % 2 ^ 57 + 3 * 2 ^ 57)))) := by
  intro record m
  obtain ⟨he, ht⟩ := exec_copy (s := s) h
  rw [he]
  have passes (ha : m.fn = 6 → copyAllowed s m) : ¬ _ := fun hr => (copyRefused_iff (s := s) (m := m).1 hr).2 (ha (copyRefused_iff.1 hr).1)
  refine ⟨fun hb hr ha hn => issue_goesOn hc rfl ht ?_ hn, fun hb ha => issue_stalls hc rfl ht ?_, fun h6 ha => issue_trapped hc rfl ht ?_⟩
  · exact (if_neg (passes ha)).trans (enterCmd_window rfl hb hr)
  · exact (if_neg (passes ha)).trans (enterCmd_full hb)
  · refine (if_pos (copyRefused_iff.2 ⟨h6, ha⟩)).trans ?_
    exact congrArg (fun n => Done.trap 0x12 (d64 (n + 3 * 2 ^ 57))) (nbits_zero _ _)

/-- Settles O40: a sweep or a copy is an issue whose body captures the command, checks a `cpyr`, and enters it. -/
theorem sweepsAndCopies : Obligations.SweepsAndCopies :=
  ⟨fun _ _ _ _ _ _ h _ hc => sweeps_enter h hc, fun _ _ _ _ _ _ h _ hc => copies_enter h hc⟩

end Sys2Proof.Slice0.ButusFabric
end

section
/-! PROOF. Collectives (O45): the operation they share, case by case. -/

namespace Sys2Proof.Slice0.ButusFabric

open Sys2Proof.Machine Sys2Proof.Slice0

/-- Every collective issues, without a flush point, the operation that collectives share, on what its form names. -/
theorem exec_collective {i : Instr} {f : CForm} {s : State} (h : collForm s i = some f) :
    ∃ body, exec i s = issue { i := i, e := f.e, fields := f.fields } s body ∧
      body s.ictx s = collective s.ictx s f.kind f.d f.group f.bad f.va f.root f.vals ∧
      ({ i := i, e := f.e, fields := f.fields } : Issue).trapsAfter = false := by
  cases i <;> simp only [collForm, reduceCtorEq, Option.some.injEq] at h
  case car | cbc | cbar =>
    subst h
    dsimp only [exec, execCar, execCbc, execCbar]
    refine ⟨_, rfl, ?_, rfl⟩
    simp only [nbits_zero]
    rfl

section
variable {s : State} {f : CForm}

/-- On an invalid or empty group, or without a rank, a collective traps (R38, R346). -/
theorem collective_unsupported (h : s.fab.drank = 4095 ∨ (s.fab.coll f.group).valid = false ∨ (s.fab.coll f.group).count = 0) :
    collective s.ictx s f.kind f.d f.group f.bad f.va f.root f.vals = .trap 0x12 (d64 ((f.va.map (·.1)).getD 0 + 3 * 2 ^ 57)) := by
  have hg : (s.fab.drank == 4095 || !(s.fab.coll f.group).valid || (s.fab.coll f.group).count == 0) = true := by
    simpa [or_assoc] using h
  unfold collective
  simp only [hg, if_true]
  cases f.va <;> rfl

/-- The operation of a collective that answers a status without sending anything. -/
def answeredOp (s : State) (f : CForm) (n : Nat) : Op :=
  { collOp s f 0 0 with k := 0, addrs := [], ias := [], status := .performed, out := [.s f.d.toNat (d64 n)] }

variable (hd : s.fab.drank ≠ 4095) (hv : (s.fab.coll f.group).valid = true) (hn : (s.fab.coll f.group).count ≠ 0) (hr : room s 3)
include hd hv hn

theorem group_supported : (s.fab.drank == 4095 || !(s.fab.coll f.group).valid || (s.fab.coll f.group).count == 0) = false := by
  simp [hd, hv, hn]

include hr

/-- Illegal parameters are answered 4 before anything else is looked at. -/
theorem collective_bad (hb : f.bad (s.fab.coll f.group).count = true) :
    collective s.ictx s f.kind f.d f.group f.bad f.va f.root f.vals = .fin (enteredRaw s.ictx s (answeredOp s f 4)) {} [] .seq .ready := by
  unfold collective
  simp only [group_supported hd hv hn, hb, Bool.false_eq_true, if_false, if_true]
  exact enterOp_room hr

/-- With legal parameters and an address that is granted and aligned, a busy group answers 3 and a broken one 2; else the operation enters, holds the group and sends. -/
theorem collective_placed {a ia : Nat} {so : Bool} (hb : f.bad (s.fab.coll f.group).count = false) (hp : f.place s a ia so) :
    collective s.ictx s f.kind f.d f.group f.bad f.va f.root f.vals =
      if (s.fab.coll f.group).busy.isSome then .fin (enteredRaw s.ictx s (answeredOp s f 3)) {} [] .seq .ready
      else if (s.fab.coll f.group).broken then .fin (enteredRaw s.ictx s (answeredOp s f 2)) {} [] .seq .ready
      else .fin (((enteredRaw s.ictx s (collOp s f a ia so)).onColl f.group
        (fun u => { u with busy := some (s.cur.1, s.cur.2.1, s.seq), failed := false })).collSend s.cur.1 s.cur.2.1 s.seq) {} [] .seq .ready := by
  have enter {o : Op} (ho : o.path = 3) {st : State → State} : enterOp s.ictx s st o = .fin (enteredRaw s.ictx s o) {} [] .seq .ready :=
    enterOp_room (by rw [ho]; exact hr)
  unfold collective
  simp only [group_supported hd hv hn, hb, Bool.false_eq_true, if_false]
  unfold CForm.place at hp
  cases hva : f.va with
  | none =>
    simp only [hva] at hp ⊢
    obtain ⟨rfl, rfl, rfl⟩ := hp
    rw [enter rfl, enter rfl, enter rfl]
    rfl
  | some v =>
    obtain ⟨va, n, al⟩ := v
    simp only [hva] at hp ⊢
    obtain ⟨rfl, hal, hx⟩ := hp
    have hx' : (s.part s.ictx.g.part).xlate a n { rd := true, user := !s.ictx.g.privileged } = .ok (ia, so) := hx
    simp only [hx', hal, bne_self_eq_false, Bool.false_eq_true, if_false]
    rw [enter rfl, enter rfl, enter rfl]
    rfl

end

/-- Settles O45: the entry of the group is looked at first (R346), then the parameters, then the address, then whether the group is busy or broken. -/
theorem collectives : Obligations.Collectives := by
  unfold Obligations.Collectives
  intro i f s hf _ hc u I answered
  obtain ⟨body, hi, hbody, ht⟩ := exec_collective hf
  rw [hi]
  have goes {t : State} (h : collective s.ictx s f.kind f.d f.group f.bad f.va f.root f.vals = .fin t {} [] .seq .ready) (hn : nextAt s t) :
      issue I s body = Slice0.Next (goesOn I s t) := issue_goesOn hc rfl ht (hbody.trans h) hn
  refine ⟨fun h => issue_trapped hc rfl ht (hbody.trans (collective_unsupported h)), fun hd hv hn hr => ⟨?_, ?_⟩⟩
  · exact fun hb => goes (collective_bad hd hv hn hr hb)
  · intro hb a ia so hp
    have hcoll := collective_placed hd hv hn hr hb hp
    refine ⟨fun hbusy => goes (hcoll.trans (if_pos hbusy)), fun hbusy hbr => goes ?_, fun hbusy hbr => goes ?_⟩
    · rw [hcoll, show (s.fab.coll f.group).busy = none from hbusy, show (s.fab.coll f.group).broken = true from hbr]
      rfl
    · rw [hcoll, show (s.fab.coll f.group).busy = none from hbusy, show (s.fab.coll f.group).broken = false from hbr]
      rfl

end Sys2Proof.Slice0.ButusFabric
end

section
/-! PROOF. O44 fails at a vector register without lanes: its lane addresses and its lane sums differ there. -/

namespace Sys2Proof.Slice0.ButusFabric

open Sys2Proof.Machine Sys2Proof.Slice0

/-- A machine whose group holds a vector register without lanes, which no reset leaves and no write makes, and no range register. -/
def laneless : State :=
  let g : Group := { holder := .group, units := 12, stat := 1, iunits := [{ pc := 0x40 }], sregs := [(2, 0x100)], vregs := [(2, { lanes := [] })] }
  { State.reset with cores := [(0, { groups := [(0, g)] })] }

/-- TRX of the group in slot 0 of core 0 after a step. -/
def trxAfter (r : Host.Outcome State Fault Refusal) : Option Dword :=
  match r with
  | .next t => some (t.group 0 0).trx
  | _ => none

/-- Refutes O44: `laneAddrs` adds the scalar base to every active lane, `Ictx.sums` only to the lanes that the address register lists. From a register that lists none,
`rld` traps RANGE_FAULT with address 0 where the statement has the base, 0x100. -/
theorem not_remoteAccesses : ¬ Obligations.RemoteAccesses := by
  unfold Obligations.RemoteAccesses
  rintro ⟨traps, -⟩
  have hready : ready laneless := ⟨by decide +kernel, by decide +kernel⟩
  have h := (traps (.rld true 1 2 2 3) _ 3 laneless rfl (by decide +kernel) hready (by unfold clean; decide +kernel) (by decide +kernel)).1 0x100
    (by decide +kernel)
  have hstated : trxAfter (exec (.rld true 1 2 2 3) laneless) = some 0x100 := by rw [h]; decide +kernel
  have hgiven : trxAfter (exec (.rld true 1 2 2 3) laneless) = some 0 := by decide +kernel
  exact absurd (hgiven.symm.trans hstated) (by decide)

end Sys2Proof.Slice0.ButusFabric
end

section
/-! PROOF. O52 fails where a port lists one key slot twice: sending a held response changes the slot of the next. -/

namespace Sys2Proof.Slice0.ButusFabric

open Sys2Proof.Machine Sys2Proof.Slice0

/-- A device of rank 1 whose port 0 lists key slot 2 twice, first exhausted for job 7 and then free for job 8, and holds a response of job 8. -/
def slotTwice : State :=
  let p : Port := { trained := true, up := true, slots := [(2, { present := true, job := 7, txCount := 2 ^ 64 - 1 }), (2, { present := true, job := 8 })] }
  { State.reset with fab := { drank := 1, ports := [(0, p)], heldRsp := [(0, { blankPkt with kind := 9, job := 8 })] } }

/-- A request of job 7, answered on port 0. -/
def reqSeven : Packet := { blankPkt with job := 7 }

/-- Whether a port can transmit a packet depends on the packet's kind and job alone. -/
theorem canSend_congr (p : Port) {a b : Packet} (hk : a.kind = b.kind) (hj : a.job = b.job) : p.canSend a = p.canSend b := by
  simp only [Port.canSend, Port.slotFor, hk, hj]

/-- Refutes O52: a response that its port cannot transmit need not stay held where a key slot is listed twice. The held response of job 8 leaves first, and `mput` writes its count over
the slot of job 7, so that the response of job 7 falls back on the slot of job 8 (log 92) and leaves too. -/
theorem not_remoteRequests : ¬ Obligations.RemoteRequests := by
  unfold Obligations.RemoteRequests responsePacket
  rintro ⟨-, -, -, -, responds⟩
  obtain ⟨r, -, hkind, -, -, -, hjob, -, -, -, hheld⟩ := responds slotTwice 0 reqSeven 0 [] (by decide) (by decide)
  have hcannot : (slotTwice.fab.port 0).canSend r = false := by
    rw [canSend_congr _ (b := { reqSeven with kind := 9 }) hkind hjob]
    decide +kernel
  have hnone : (slotTwice.respond 0 reqSeven 0 []).fab.heldRsp = [] := by decide +kernel
  exact absurd (hnone ▸ hheld hcannot) (List.not_mem_nil)

end Sys2Proof.Slice0.ButusFabric
end

section
/-! PROOF. O53 fails where the fault record of a message that finds no entry is written over a queued entry. -/

namespace Sys2Proof.Slice0.ButusFabric

open Sys2Proof.Machine Sys2Proof.Slice0

/-- A queued message in entry 2,048, with a sender number of more than 12 bits. -/
def queuedMsg : InMsg := { src := 5000, sid := 0, hdr := blankPkt, order := 0, entry := 2048 }

/-- A device whose partition 0 holds that message, its header queue at IA 0 and the ring of its fault queue at IA 65536, where entry 2,048 lies. The page of the first entries has been ended
as unresolvable (R215), the next one lies in host memory. -/
def ringOverQueue : State :=
  let k : Cairn := { enabled := true, regs := [(0x18, 20000)], unexpected := [queuedMsg] }
  let pt : Part := { fqbase := 65536, walks := [{ page := 0, pte := deadEntry, level := 4 }, { page := 1, pte := 0x405, level := 4 }], cairn := k }
  let port : Port := { trained := true, up := true, slots := [(2, { present := true })] }
  let fab : Fabric := { drank := 1, pjob := [(0, (0, true))], ports := [(0, port)] }
  { State.reset with pkg := { State.reset.pkg with ready := true }, parts := [(0, pt)], fab := fab }

/-- The messages that partition 0 queues after a step. -/
def queueAfter (r : Host.Outcome State Fault Refusal) : List InMsg :=
  match r with
  | .next t => (t.cairn 0).unexpected
  | _ => []

/-- The entry of a header that arrives cannot be stored, and the record of that fault is written over the entry of the queued message (R71). -/
theorem msgh_corrupts_queue : ∃ n, (queueAfter (exec .msgh ringOverQueue)).map InMsg.src = [n % 2 ^ 12, 0] := ⟨_, rfl⟩

/-- Refutes O53: a header that arrives need not leave the queued messages as they were. The store of its entry may fault, and where the ring of the fault queue lies over the header queue
the record corrupts a queued message (R71). -/
theorem not_cairnEvents : ¬ Obligations.CairnEvents := by
  unfold Obligations.CairnEvents messagesArrive
  rintro ⟨⟨arrive, -⟩, -⟩
  have htakes : cairnTakes ringOverQueue 7 0 := by unfold cairnTakes; decide +kernel
  obtain ⟨t, m, ht, hqueue, -⟩ := (arrive ringOverQueue 0).2 htakes (by decide +kernel) (by decide +kernel)
  obtain ⟨n, hn⟩ := msgh_corrupts_queue
  have hkept : (queueAfter (exec .msgh ringOverQueue)).map InMsg.src = [5000, m.src] := by
    rw [ht, queueAfter, hqueue]
    rfl
  have hsrc : n % 2 ^ 12 = 5000 := (List.cons.inj (hn.symm.trans hkept)).1
  omega

end Sys2Proof.Slice0.ButusFabric
end

section
/-! PROOF. Message instructions (O47): how they enter path 3, and what the match memory answers to each. -/

namespace Sys2Proof.Slice0.CairnEngine

open Sys2Proof.Machine Sys2Proof.Slice0 Sys2Proof.Slice0.ButusFabric

/-! ### A message instruction enters path 3 and goes to the match memory -/

/-- With room on path 3, a message operation enters and is performed at the match memory. -/
theorem enterCairn_room {s : State} {o : Op} (h : room s 3) :
    enterCairn s.ictx s o =
      .fin ((enteredRaw s.ictx s { o.withHints s.ictx.u.hints with path := 3, dvec := false, mo := 0 }).cairnOp s.cur.1 s.cur.2.1 s.seq) {} [] .seq .ready := by
  unfold enterCairn
  dsimp only
  rw [enterOp_room h]
  rfl

/-- With a descriptor that is granted and aligned, the operation of `mpost` and `mprobe` is performed at the match memory. -/
theorem withDescriptor_granted {s : State} {kind : OpKind} {d : BitVec 7} {dn : Nat} {a : Dword} {ia : Nat} {so : Bool} (hr : room s 3)
    (hx : (s.part (grp s s).part).xlate (vaMod a.toNat) 64 { rd := true, user := !(grp s s).privileged } = .ok (ia, so)) (hal : vaMod a.toNat % 64 = 0) :
    withDescriptor s.ictx s kind d dn a =
      .fin ((enteredRaw s.ictx s (messageOp s kind 0 d dn [vaMod a.toNat] [ia] a so)).cairnOp s.cur.1 s.cur.2.1 s.seq) {} [] .seq .ready := by
  have hx' : (s.part s.ictx.g.part).xlate (vaMod a.toNat) 64 { rd := true, user := !s.ictx.g.privileged } = .ok (ia, so) := hx
  unfold withDescriptor
  simp only [hx', hal, bne_self_eq_false, Bool.false_eq_true, if_false]
  exact enterCairn_room hr

/-- Every instruction with a descriptor issues, without a flush point, the operation that they share. -/
theorem exec_descriptor {i : Instr} {e : Bool} {fs : List Field} {kind : OpKind} {d : BitVec 7} {dn : Nat} {a : BitVec 7} {s : State}
    (h : descSpec i = some (e, fs, kind, d, dn, a)) :
    exec i s = issue { i := i, e := e, fields := fs } s (fun x s => withDescriptor x s kind d dn (x.readS a)) ∧
      ({ i := i, e := e, fields := fs } : Issue).trapsAfter = false := by
  cases i <;> simp only [descSpec, reduceCtorEq, Option.some.injEq, Prod.mk.injEq] at h
  case mpost | mprobe =>
    obtain ⟨rfl, rfl, rfl, rfl, rfl, rfl⟩ := h
    exact ⟨rfl, rfl⟩

/-- Every instruction with a handle issues, without a flush point, an operation that carries it and the partition. -/
theorem exec_handle {i : Instr} {e : Bool} {kind : OpKind} {k : Nat} {d a : BitVec 7} {s : State} (h : handleSpec i = some (e, kind, k, d, a)) :
    exec i s = issue { i := i, e := e, fields := [sDstF d, sSrcF a] } s (fun x s =>
        enterCairn x s { seq := 0, path := 3, pc := 0, kind := kind, k := k, d := d.toNat, dn := 1, vals := [x.readS a, d64 x.g.part] }) ∧
      ({ i := i, e := e } : Issue).trapsAfter = false := by
  cases i <;> simp only [handleSpec, reduceCtorEq, Option.some.injEq, Prod.mk.injEq] at h
  case mpostRa | mcancel | mtest =>
    obtain ⟨rfl, rfl, rfl, rfl, rfl⟩ := h
    exact ⟨rfl, rfl⟩

/-- The first part of O47: with room on path 3, a message instruction goes on behind its operation, which the match memory has answered. -/
theorem messageOps_enter : messageOpsPart := by
  constructor
  · intro i e fs kind d dn a s ia so h _ hc hr va hx hal s1 hn
    obtain ⟨he, ht⟩ := exec_descriptor (s := s) h
    rw [he]
    exact issue_goesOn hc rfl ht (withDescriptor_granted hr hx hal) hn
  · intro i e kind k d a s h _ hc hr s1 hn
    obtain ⟨he, ht⟩ := exec_handle (s := s) h
    rw [he]
    exact issue_goesOn hc rfl ht (enterCairn_room hr) hn

/-! ### The Cairn under the updates of an answer -/

@[simp] theorem group_onCairn (s : State) (p c sl : Nat) (f : Cairn → Cairn) : (s.onCairn p f).group c sl = s.group c sl := rfl

/-- A change of the Cairn reads back, and whether its queue is full is looked at again (R65). -/
@[simp] theorem cairn_onCairn (s : State) (p : Nat) (f : Cairn → Cairn) :
    (s.onCairn p f).cairn p = { f (s.cairn p) with held := (f (s.cairn p)).queueFull } := by
  simp [State.onCairn, State.cairn]

/-- A freed entry is gone, and the generation of its index has moved on (R61). -/
theorem free_posted (k : Cairn) (i : Nat) : ∀ x ∈ (k.free i).posted, x.index ≠ i := by
  simp [Cairn.free]

theorem free_gen (k : Cairn) (i : Nat) : (k.free i).gen i = (k.gen i + 1) % 65536 := by
  simp [Cairn.free, Cairn.gen]

/-! ### An operation that is answered -/

/-- An operation of a group is performed, with the words that it writes and no report. -/
def answered (s : State) (c sl : Nat) (o : Op) (out : List RegWrite) : State :=
  s.setGroup c sl ((s.group c sl).setOp { o with status := .performed, out := out, reports := [] })

/-- An operation of a group that is set reads back. -/
theorem op_setOp {g : Group} {o o' : Op} (h : g.op o'.seq = some o) : (g.setOp o').op o'.seq = some o' := by
  have hany : g.ops.any (fun x => x.seq == o'.seq) = true :=
    List.any_eq_true.2 ⟨o, List.mem_of_find?_eq_some h, List.find?_some (p := fun x : Op => x.seq == o'.seq) h⟩
  exact find_updWhere _ _ _ hany (by simp)

@[simp] theorem cairn_answered (s : State) (c sl p : Nat) (o : Op) (out : List RegWrite) : (answered s c sl o out).cairn p = s.cairn p := rfl

theorem answered_out {s : State} {c sl seq : Nat} {o : Op} (out : List RegWrite) (hop : (s.group c sl).op seq = some o) (hseq : o.seq = seq) :
    (((answered s c sl o out).group c sl).op seq).map (fun x => (x.status, x.out)) = some (.performed, out) := by
  subst hseq
  simp only [answered, State.group_setGroup_self]
  rw [op_setOp (o' := { o with status := .performed, out := out, reports := [] }) hop]
  rfl

/-! ### What the match memory answers -/

/-- What `mtest` adds to its code while a message of the handle is landing (R345). -/
def landingCode (k : Cairn) (h : Nat) : Nat := if k.landings.any (fun m => m.handle == some h) then 4 else 0

theorem landingCode_of_landing {k : Cairn} {h : Nat} (hl : ∃ m ∈ k.landings, m.handle = some h) : landingCode k h = 4 :=
  if_pos (by simpa using hl)

theorem landingCode_of_none {k : Cairn} {h : Nat} (hl : ∀ m ∈ k.landings, m.handle ≠ some h) : landingCode k h = 0 :=
  if_neg (by simpa using hl)

/-- The code of `mtest` (R345): armed 0, disarmed 1, absent 2, and 4 more while a message of the handle is landing. -/
def testCode (k : Cairn) (h : Nat) : Nat :=
  (match k.entry h with
    | some e => if e.armed then 0 else 1
    | none => 2) + landingCode k h

theorem testCode_entry {k : Cairn} {h : Nat} {e : Posted} (he : k.entry h = some e) : testCode k h = (if e.armed then 0 else 1) + landingCode k h := by
  simp [testCode, he]

theorem testCode_absent {k : Cairn} {h : Nat} (he : k.entry h = none) : testCode k h = 2 + landingCode k h := by
  simp [testCode, he]

section
variable {s : State} {c sl seq : Nat} {o : Op} (hop : (s.group c sl).op seq = some o) (hst : o.status = .issued)
  (hp : (o.vals.getD 1 0).toNat = (s.group c sl).part)
include hop hst hp

/-! A disabled Cairn answers a code and looks at nothing else. -/

theorem cairnOp_mtest_disabled (hk : o.kind = .mtest) (hen : (s.cairn (s.group c sl).part).enabled = false) :
    s.cairnOp c sl seq = answered s c sl o [.s o.d 2] := by
  unfold State.cairnOp answered
  simp only [hop, hst, hp, hk, hen, bne_self_eq_false, Bool.false_eq_true, if_false, Bool.not_false, if_true]
  rfl

theorem cairnOp_mpost_disabled (hk : o.kind = .mpost) (hk0 : o.k = 0) (hen : (s.cairn (s.group c sl).part).enabled = false) :
    s.cairnOp c sl seq = answered s c sl o [.s o.d 4] := by
  unfold State.cairnOp answered
  simp only [hop, hst, hp, hk, hk0, hen, bne_self_eq_false, Bool.false_eq_true, if_false, Bool.not_false, if_true, Nat.zero_ne_one]
  rfl

theorem cairnOp_mprobe_disabled (hk : o.kind = .mprobe) (hen : (s.cairn (s.group c sl).part).enabled = false) :
    s.cairnOp c sl seq = answered s c sl o [.s o.d 0, .s (o.d + 1) 0] := by
  unfold State.cairnOp answered
  simp only [hop, hst, hp, hk, hen, bne_self_eq_false, Bool.false_eq_true, if_false, Bool.not_false, if_true]
  rfl

/-! An enabled one looks the handle up. -/

theorem cairnOp_mtest (hk : o.kind = .mtest) (hen : (s.cairn (s.group c sl).part).enabled = true) :
    s.cairnOp c sl seq = answered s c sl o [.s o.d (d64 (testCode (s.cairn (s.group c sl).part) ((o.vals.getD 0 0).toNat / 2 ^ 32)))] := by
  unfold State.cairnOp answered
  simp only [hop, hst, hp, hk, hen, bne_self_eq_false, Bool.false_eq_true, if_false, Bool.not_true]
  cases he : (s.cairn (s.group c sl).part).entry ((o.vals.getD 0 0).toNat / 2 ^ 32) with
  | none => simp only [testCode_absent he]; rfl
  | some e => simp only [testCode_entry he]; rfl

theorem cairnOp_mcancel_absent (hk : o.kind = .mcancel) (hen : (s.cairn (s.group c sl).part).enabled = true)
    (he : (s.cairn (s.group c sl).part).entry ((o.vals.getD 0 0).toNat / 2 ^ 32) = none) :
    s.cairnOp c sl seq = answered s c sl o [.s o.d 5] := by
  unfold State.cairnOp answered
  simp only [hop, hst, hp, hk, hen, he, bne_self_eq_false, Bool.false_eq_true, if_false, Bool.not_true]
  rfl

theorem cairnOp_mcancel_disarmed {e : Posted} (hk : o.kind = .mcancel) (hen : (s.cairn (s.group c sl).part).enabled = true)
    (he : (s.cairn (s.group c sl).part).entry ((o.vals.getD 0 0).toNat / 2 ^ 32) = some e) (ha : e.armed = false) :
    s.cairnOp c sl seq = answered (s.onCairn (s.group c sl).part (fun k => k.free e.index)) c sl o [.s o.d 6] := by
  unfold State.cairnOp answered
  simp only [hop, hst, hp, hk, hen, he, ha, bne_self_eq_false, Bool.false_eq_true, if_false, Bool.not_true]
  rfl

theorem cairnOp_mcancel_armed {e : Posted} (hk : o.kind = .mcancel) (hen : (s.cairn (s.group c sl).part).enabled = true)
    (he : (s.cairn (s.group c sl).part).entry ((o.vals.getD 0 0).toNat / 2 ^ 32) = some e) (ha : e.armed = true) :
    s.cairnOp c sl seq = answered ((s.onCairn (s.group c sl).part (fun k => k.free e.index)).msgResolve (s.group c sl).part
      { cairnAgent with pol := o.pol, cls := o.cls, rel := o.deadline, who := { core := c, slot := sl, req := 2 } } (descFut e.desc) (msgWord 4 0 0 0) 0)
      c sl o [.s o.d 0] := by
  unfold State.cairnOp answered
  simp only [hop, hst, hp, hk, hen, he, ha, bne_self_eq_false, Bool.false_eq_true, if_false, Bool.not_true, if_true]
  rfl

end

/-- The second part of O47: each answer is read off the state that the match memory leaves. -/
theorem matchMemory_answers : matchMemoryPart := by
  intro s c sl seq o hop hseq hst _ hp p k h t out
  -- what an answer leaves in the operation depends on its group alone
  have hout (ws : List RegWrite) {s1 : State} (hs : s1.group c sl = s.group c sl) (ht : t = answered s1 c sl o ws) : out = some (.performed, ws) := by
    show ((t.group c sl).op seq).map (fun x => (x.status, x.out)) = _
    rw [ht]
    exact answered_out ws (hs ▸ hop) hseq
  -- an answer that leaves the Cairn as it was
  have same {ws : List RegWrite} (ht : t = answered s c sl o ws) : out = some (.performed, ws) ∧ t.cairn p = k :=
    ⟨hout ws rfl ht, ht ▸ rfl⟩
  have tested {v : Dword} (hk : o.kind = .mtest) (hen : k.enabled = true) (hv : d64 (testCode k h) = v) :
      out = some (.performed, [.s o.d v]) ∧ t.cairn p = k := hv ▸ same (cairnOp_mtest hop hst hp hk hen)
  refine ⟨?_, ?_, ?_, ?_, ?_, ?_, ?_, ?_, ?_⟩
  · exact fun hk hen => (same (cairnOp_mtest_disabled hop hst hp hk hen)).1
  · intro hk hen e he hl
    refine tested hk hen ?_
    rw [testCode_entry he, landingCode_of_none (by simp [hl])]
    split <;> rfl
  · exact fun hk hen he => same (cairnOp_mcancel_absent hop hst hp hk hen he)
  · intro hk hen e he ha
    have ht : t = _ := cairnOp_mcancel_disarmed hop hst hp hk hen he ha
    have hcairn : t.cairn p = { k.free e.index with held := (k.free e.index).queueFull } := by rw [ht, cairn_answered, cairn_onCairn]
    rw [hcairn]
    exact ⟨hout _ (group_onCairn ..) ht, free_posted k e.index, free_gen k e.index⟩
  · refine fun hk hen hl => ⟨fun e he => tested hk hen ?_, fun he => tested hk hen ?_⟩
    · rw [testCode_entry he, landingCode_of_landing hl]
      split <;> rfl
    · rw [testCode_absent he, landingCode_of_landing hl]
      rfl
  · intro hk hen he hl
    refine tested hk hen ?_
    rw [testCode_absent he, landingCode_of_none hl]
    rfl
  · exact fun hk hen e he ha => cairnOp_mcancel_armed hop hst hp hk hen he ha
  · exact fun hk hk0 hen => (same (cairnOp_mpost_disabled hop hst hp hk hk0 hen)).1
  · exact fun hk hen _ => (same (cairnOp_mprobe_disabled hop hst hp hk hen)).1

/-- Settles O47: a message instruction enters path 3, and the match memory answers each kind of operation. -/
theorem messageOps : Obligations.MessageOps := ⟨messageOps_enter, matchMemory_answers⟩

end Sys2Proof.Slice0.CairnEngine
end

section
/-! PROOF. What a flush of the Reckoner window leaves as it was. -/

namespace Sys2Proof.Slice0.Scheduling

open Sys2Proof.Machine Sys2Proof.Slice0

/-! ### The flush of a window (R133, R142) -/

/-- A flush rewrites operations of the group in their places, each on the path it was on, and counts entries of the core. -/
theorem flushWindow_shape (k : Core) (g : Group) :
    ∃ (n : Nat) (ops : List Op), flushWindow k g = ({ k with entries := n }, { g with ops := ops }) ∧ ops.map Op.path = g.ops.map Op.path := by
  refine ⟨_, _, rfl, ?_⟩
  suffices h : ∀ (os : List Op) (acc : Nat × Nat × List Op), ((os.foldl _ acc).2.2).map Op.path = acc.2.2.map Op.path ++ os.map Op.path by
    simpa using h g.ops (k.entries, 64 - k.onBoard, [])
  intro os
  induction os with
  | nil => simp
  | cons o os ih =>
    intro acc
    rw [List.foldl_cons, ih]
    cases o.cmd with
    | none => simp
    | some m => dsimp only; split <;> simp

/-- A flush changes the operations of one group, on no other path, and the count of entries of its core. -/
theorem flush_shape (s : State) (c sl : Nat) :
    s.flush c sl = s ∨ ∃ (n : Nat) (ops : List Op), ops.map Op.path = (s.group c sl).ops.map Op.path ∧
      s.flush c sl = s.setCore c (({ s.core c with entries := n } : Core).setGroup sl { s.group c sl with ops := ops }) := by
  unfold State.flush
  split
  · exact .inl rfl
  · obtain ⟨n, ops, hw, hp⟩ := flushWindow_shape (s.core c) (s.group c sl)
    exact .inr ⟨n, ops, hp, by rw [hw]⟩

/-- How many operations are in flight on a path is read off the paths of the operations. -/
theorem inFlight_eq_count (g : Group) (p : Nat) : g.inFlight p = (g.ops.map Op.path).count p := by
  rw [Group.inFlight, List.count, List.countP_map, List.countP_eq_length_filter]
  rfl

/-- A flush lets as many operations be in flight on each path as before. -/
theorem flush_inFlight (s : State) (c sl p : Nat) : ((s.flush c sl).group c sl).inFlight p = (s.group c sl).inFlight p := by
  rcases flush_shape s c sl with h | ⟨n, ops, hp, h⟩
  · rw [h]
  · rw [h, inFlight_eq_count, inFlight_eq_count, ← hp]
    simp [State.group]

end Sys2Proof.Slice0.Scheduling
end

section
/-! PROOF. Local loads, stores and atomics (O21): the body that they share, and the operation that it enters. -/

namespace Sys2Proof.Slice0.Scheduling

open Sys2Proof.Machine Sys2Proof.Slice0 Sys2Proof.Slice0.ButusFabric

/-- With fewer than 63 operations in flight on its path, an operation of any state enters. -/
theorem enterOp_enters {x : Ictx} {s : State} {stalled : State → State} {o : Op} (h : (s.group x.c x.sl).inFlight o.path < 63) :
    enterOp x s stalled o = .fin (enteredRaw x s o) {} [] .seq .ready := by
  unfold enterOp
  exact if_neg (Nat.not_le.2 h)

/-- A memory operation that is not strongly ordered, is held back by nothing and finds room on its path enters it. -/
theorem enterMem_enters {x : Ictx} {s : State} {o : Op} (hso : o.so = false) (hu : unheld x s o) (hr : (s.group x.c x.sl).inFlight o.path < 63) :
    enterMem x s false o = .fin (entered x s o) {} [] .seq .ready := by
  have hu' : s.heldBack x.c x.sl (o.withHints x.u.hints) = none := hu
  have hso' : (false || (o.withHints x.u.hints).so) = false := hso
  unfold enterMem
  simp only [hu']
  rw [enterOp_enters (o := o.withHints x.u.hints) hr]
  simp only [hso', Bool.false_eq_true, if_false]
  rfl

/-- Every local access issues, without a flush point of its own, the body that local accesses share. -/
theorem exec_local {i : Instr} {f : LForm} {s : State} (h : localForm i = some f) (ho : badOrder (unit s s) f.kind = false) :
    exec i s = issue (f.issue i) s (fun x s => localLanes x s f.kind f.k f.n f.d f.dn f.a f.b (f.data x)) ∧ (f.issue i).trapsAfter = false := by
  have hexec : exec i s = issue { f.issue i with illegal := badOrder (unit s s) f.kind } s
      (fun x s => localLanes x s f.kind f.k f.n f.d f.dn f.a f.b (f.data x)) ∧ (f.issue i).trapsAfter = false := by
    cases i <;> simp only [localForm, reduceCtorEq, Option.some.injEq] at h
    case ldl | stl | atoml =>
      subst h
      exact ⟨rfl, rfl⟩
  rw [ho] at hexec
  exact hexec

section
variable {s : State} {f : LForm}

/-- A lane that the address register does not list is counted from 0 by the sums, and from the base by the addresses: a sum is an address or 0. -/
theorem sums_le_or (w i : Nat) (hi : i ∈ laneList s.ictx.active) :
    (∃ v ∈ laneAddrs s w f, (s.ictx.sums w f.a f.b).getD i 0 = v.2) ∨ (s.ictx.sums w f.a f.b).getD i 0 = 0 := by
  unfold Ictx.sums
  rw [List.getD_eq_getElem?_getD, List.getElem?_map]
  cases h : (s.ictx.readV f.a)[i]? with
  | none => exact .inr rfl
  | some off =>
    refine .inl ⟨_, List.mem_map.2 ⟨i, hi, rfl⟩, ?_⟩
    simp only [List.getD_eq_getElem?_getD, h]
    rfl

/-- Sums of lanes whose addresses lie in the window and are aligned do so too. -/
theorem sums_fit (h : ∀ v ∈ laneAddrs s 32 f, v.2 + f.n ≤ (grp s s).localSize ∧ v.2 % f.n = 0) :
    ∀ i ∈ laneList s.ictx.active, (s.ictx.sums 32 f.a f.b).getD i 0 + f.n ≤ (grp s s).localSize ∧ (s.ictx.sums 32 f.a f.b).getD i 0 % f.n = 0 := by
  intro i hi
  rcases sums_le_or (f := f) 32 i hi with ⟨v, hv, he⟩ | he
  · rw [he]
    exact h v hv
  · rw [he]
    have := (h _ (List.mem_map.2 ⟨i, hi, rfl⟩)).1
    exact ⟨by omega, Nat.zero_mod _⟩

/-- A local access of aligned lanes in the window enters, behind a flush of the Reckoner window where they meet it. -/
theorem localLanes_enters (hact : s.ictx.active ≠ 0) (hr : room s 0)
    (h : ∀ v ∈ laneAddrs s 32 f, v.2 + f.n ≤ (grp s s).localSize ∧ v.2 % f.n = 0) :
    let meets := (grp s s).windowMeets (s.ictx.sums 32 f.a f.b) (laneList s.ictx.active) f.n
    let s0 := if meets then flushed s else s
    (meets = true → (grp s s).tileFault = none ∧ roomy s) → unheld s.ictx s0 (localOp s.ictx f) →
    localLanes s.ictx s f.kind f.k f.n f.d f.dn f.a f.b (f.data s.ictx) = .fin (entered s.ictx s0 (localOp s.ictx f)) {} [] .seq .ready := by
  intro meets s0 hm hu
  have hfit := sums_fit h
  have hrange : (laneList s.ictx.active).find? (fun i => decide (s.ictx.g.localSize < (s.ictx.sums 32 f.a f.b).getD i 0 + f.n)) = none :=
    List.find?_eq_none.2 fun i hi => by
      rw [decide_eq_true_iff]
      exact Nat.not_lt.2 (hfit i hi).1
  have halign : (laneList s.ictx.active).find? (fun i => (s.ictx.sums 32 f.a f.b).getD i 0 % f.n != 0) = none :=
    List.find?_eq_none.2 fun i hi => by simpa using (hfit i hi).2
  have hact' : (s.ictx.active == 0) = false := by simpa using hact
  unfold localLanes
  simp only [hact', hrange, halign, Bool.false_eq_true, if_false]
  by_cases hmeets : meets = true
  · obtain ⟨htile, hroomy⟩ := hm hmeets
    have hs0 : s0 = flushed s := if_pos hmeets
    have hmeets' : s.ictx.g.windowMeets (s.ictx.sums 32 f.a f.b) (laneList s.ictx.active) f.n = true := hmeets
    have htile' : s.ictx.g.tileFault = none := htile
    have hleft : (s.flush s.ictx.c s.ictx.sl).windowLeft s.ictx.c s.ictx.sl = false := hroomy
    simp only [hmeets', htile', hleft, if_true, Bool.and_false, Bool.false_eq_true, if_false]
    rw [hs0] at hu ⊢
    exact enterMem_enters rfl hu (lt_of_eq_of_lt (flush_inFlight s _ _ 0) hr)
  · have hs0 : s0 = s := if_neg hmeets
    have hmeets' : s.ictx.g.windowMeets (s.ictx.sums 32 f.a f.b) (laneList s.ictx.active) f.n = false :=
      Bool.eq_false_iff.2 hmeets
    simp only [hmeets', Bool.false_and, Bool.false_eq_true, if_false]
    rw [hs0] at hu ⊢
    exact enterMem_enters rfl hu hr

end

/-- Settles O21: a local access is an issue whose body checks the lanes, flushes the window where they meet it, and enters the operation. -/
theorem localAccesses : Obligations.LocalAccesses := by
  unfold Obligations.LocalAccesses
  intro i f s hf ho _ hc hact hr hfit meets s0 s1 hm hu hn
  obtain ⟨he, ht⟩ := exec_local (s := s) hf ho
  rw [he]
  exact issue_goesOn hc rfl ht (localLanes_enters hact hr hfit hm hu) hn

end Sys2Proof.Slice0.Scheduling
end

section
/-! PROOF. Where a unit stands after an instruction that completes, and what its group keeps. -/

namespace Sys2Proof.Slice0.Scheduling

open Sys2Proof.Machine Sys2Proof.Slice0

/-! ### Putting a group twice -/

theorem mput_mput {α : Type} (m : Map α) (n : Nat) (v w : α) : mput (mput m n v) n w = mput m n w := by
  induction m with
  | nil => simp [mput]
  | cons e t ih =>
    obtain ⟨k, x⟩ := e
    by_cases hlt : n < k
    · simp [mput, hlt]
    · by_cases heq : n = k
      · simp [mput, heq]
      · simp [mput, hlt, heq, ih]

theorem setGroup_setGroup (s : State) (c sl : Nat) (g h : Group) : (s.setGroup c sl g).setGroup c sl h = s.setGroup c sl h := by
  simp [State.setGroup, State.setCore, Core.setGroup, mput_mput, State.core]

/-- The issuing group of `b` becomes `g`, and a cycle of its core passes. -/
def leaves (b : State) (g : Group) : State := (b.setGroup b.cur.1 b.cur.2.1 g).cycle b.cur.1

theorem grp_leaves {s b : State} (hcur : b.cur = s.cur) (g : Group) : grp s (leaves b g) = g := by
  rw [grp, ← hcur]
  simp [leaves]

/-- A change of the group after its instruction is part of what the instruction leaves. -/
theorem afterIssue_leaves {s b : State} (hcur : b.cur = s.cur) (g : Group) (f : Group → Group) :
    afterIssue s.cur.1 s.cur.2.1 f (.next (leaves b g)) = Slice0.Next (leaves b (f g)) := by
  rw [← hcur]
  simp [afterIssue, leaves, State.cycle, State.setGroup, State.setCore, State.group, State.core, Core.setGroup, Core.group, mput_mput]

/-- An instruction that completes leaves what `finishUnit` makes of the group that its body has put. -/
theorem completed_setGroup {s b : State} (hcur : b.cur = s.cur) (x : Issue) (g : Group) (next : Machine.Next) (after : Wait) :
    completed x s (b.setGroup s.cur.1 s.cur.2.1 g) {} [] next after = leaves b (finishUnit x g (g.iunit s.cur.2.2) {} [] next after) := by
  rw [completed, leaves, hcur, setGroup_setGroup, State.group_setGroup_self]

theorem completed_self {s b : State} (hcur : b.cur = s.cur) (x : Issue) (next : Machine.Next) (after : Wait) :
    completed x s b {} [] next after = leaves b (finishUnit x (grp s b) (unit s b) {} [] next after) := by
  rw [completed, leaves, hcur]
  rfl

/-- A group with nothing changed but one part, the registers and the issuing unit is all that differs. -/
theorem onlyUnitBut_leaves {f : Group → Group → Group} {b : State} {g : Group}
    (hg : f (grp b b) g = { grp b b with sregs := g.sregs, vregs := g.vregs, iunits := g.iunits })
    (hu : ∀ uid, uid ≠ b.cur.2.2 → g.iunit uid = (grp b b).iunit uid) : onlyUnitBut f b (leaves b g) := by
  refine ⟨rfl, fun c hc => ?_, ?_, fun sl hsl => ?_, ?_, ?_⟩
  · rw [leaves, State.core_cycle_ne _ _ _ _ hc, State.core_setGroup_ne _ _ _ _ _ hc]
  · simp [leaves]
    rfl
  · rw [leaves, State.group_cycle, State.group_setGroup_slot _ _ _ _ _ hsl]
  · rwa [grp_leaves rfl]
  · rwa [grp_leaves rfl]

theorem onlyUnit_leaves {b : State} {g : Group} (hg : g = { grp b b with sregs := g.sregs, vregs := g.vregs, iunits := g.iunits })
    (hu : ∀ uid, uid ≠ b.cur.2.2 → g.iunit uid = (grp b b).iunit uid) : onlyUnit b (leaves b g) :=
  onlyUnitBut_leaves (f := fun _ h => h) hg hu

/-! ### The units of a group -/

theorem iunit_uid {g : Group} {uid : Nat} (h : g.iunits.any (fun u => u.uid == uid) = true) : (g.iunit uid).uid = uid := by
  obtain ⟨u, hu⟩ := Option.isSome_iff_exists.1 (List.find?_isSome.2 (List.any_eq_true.1 h))
  have := List.find?_some hu
  simpa [Group.iunit, hu] using this

/-- A change of units that keeps their numbers changes the unit of each number. -/
theorem find_map_uid (us : List IUnit) (f : IUnit → IUnit) (hf : ∀ u, (f u).uid = u.uid) (uid : Nat) :
    (us.map f).find? (fun u => u.uid == uid) = (us.find? (fun u => u.uid == uid)).map f := by
  rw [List.find?_map]
  congr 2
  funext u
  simp [hf]

/-- A unit that no change of units touches reads as before. -/
theorem iunit_map_of_fixed {g h : Group} {f : IUnit → IUnit} (hh : h.iunits = g.iunits.map f) (hf : ∀ u, (f u).uid = u.uid) {uid : Nat}
    (hfix : ∀ u ∈ g.iunits, u.uid = uid → f u = u) : h.iunit uid = g.iunit uid := by
  unfold Group.iunit
  rw [hh, find_map_uid _ f hf]
  cases hu : g.iunits.find? (fun u => u.uid == uid) with
  | none => rfl
  | some u => simp [hfix u (List.mem_of_find?_eq_some hu) (by simpa using List.find?_some hu)]

theorem iunit_setUnit_ne (g : Group) (u : IUnit) {uid : Nat} (h : uid ≠ u.uid) : (g.setUnit u).iunit uid = g.iunit uid :=
  iunit_map_of_fixed rfl (fun v => by split <;> simp_all) (fun v _ hv => if_neg (by simpa [hv] using h))

/-! ### The end of an instruction (R112, R114, R115, R244, R266) -/

/-- Where a unit goes on, and its loops. -/
def goesTo (u : IUnit) : Machine.Next → Va × List Loop
  | .seq => loopStep u.pc u.loops
  | .to va | .toWait va | .leave va => (va, u.loops)

/-- A group once the writes of its unit that are due have landed: those of one slot, at a run boundary all. -/
def landed (x : Issue) (g : Group) (u : IUnit) : Group :=
  let r := landOne g u.due
  if x.e then landAll r.1 r.2 else r.1

/-- A unit that an instruction without a latch value leaves. -/
def leftUnit (x : Issue) (g : Group) (u : IUnit) (next : Machine.Next) (after : Wait) : IUnit :=
  { u with pc := (goesTo u next).1, loops := if after == .exited then [] else (goesTo u next).2, due := if x.e then [] else (landOne g u.due).2,
           chain := if x.e then [] else ({} :: u.chain).take 8, hints := if x.e || !x.hint then {} else u.hints, pos := if x.e then 0 else u.pos + 1,
           streak := if x.e then u.streak + 1 else u.streak, wait := after, arrived := false, passed := false, awaits := [] }

section
variable (x : Issue) (g : Group) (u : IUnit) (next : Machine.Next) (after : Wait)

/-- An instruction without a latch value or a write of its own ends: what is due lands, and its unit moves. -/
theorem finishUnit_eq : finishUnit x g u {} [] next after = (landed x g u).setUnit (leftUnit x g u next after) := by
  unfold finishUnit landed leftUnit
  rw [List.append_nil]
  cases next <;> cases x.e <;> rfl

theorem landed_frame : g.sameButRegs (landed x g u) := by
  unfold landed
  dsimp only
  split
  · exact Group.sameButRegs_trans (landOne_frame _ _) (landAll_frame _ _)
  · exact landOne_frame _ _

theorem landed_iunits : (landed x g u).iunits = g.iunits := by
  have h := landed_frame x g u
  unfold Group.sameButRegs at h
  rw [h]

theorem landed_sreg {n : Nat} (h : ∀ w ∈ u.due, w.w.namesS n = false) : (landed x g u).sreg n = g.sreg n := by
  unfold landed
  dsimp only
  split
  · rw [landAll_sreg _ _ _ (landOne_due_namesS n _ g h), landOne_sreg n _ g h]
  · exact landOne_sreg n _ g h

theorem landed_vreg {n : Nat} (h : ∀ w ∈ u.due, w.w.namesV n = false) : (landed x g u).vreg n = g.vreg n := by
  unfold landed
  dsimp only
  split
  · rw [landAll_vreg _ _ _ (landOne_due_namesV n _ g h), landOne_vreg n _ g h]
  · exact landOne_vreg n _ g h

theorem finishUnit_sregs : (finishUnit x g u {} [] next after).sregs = (landed x g u).sregs := by
  rw [finishUnit_eq]
  rfl

theorem finishUnit_vregs : (finishUnit x g u {} [] next after).vregs = (landed x g u).vregs := by
  rw [finishUnit_eq]
  rfl

/-- The end of an instruction changes registers and units only. -/
theorem finishUnit_frame : finishUnit x g u {} [] next after =
    { g with sregs := (finishUnit x g u {} [] next after).sregs, vregs := (finishUnit x g u {} [] next after).vregs,
             iunits := (finishUnit x g u {} [] next after).iunits } := by
  have h := landed_frame x g u
  unfold Group.sameButRegs at h
  rw [finishUnit_sregs, finishUnit_vregs, finishUnit_eq]
  unfold Group.setUnit
  rw [h]

theorem finishUnit_iunits : (finishUnit x g u {} [] next after).iunits = updWhere (fun v => v.uid == u.uid) (fun _ => leftUnit x g u next after) g.iunits := by
  rw [finishUnit_eq]
  simp only [Group.setUnit, landed_iunits]
  rfl

/-- The unit that ends its instruction reads back. -/
theorem finishUnit_iunit_self (h : g.iunits.any (fun v => v.uid == u.uid) = true) : (finishUnit x g u {} [] next after).iunit u.uid = leftUnit x g u next after := by
  rw [finishUnit_eq]
  refine Group.iunit_setUnit (landed x g u) (leftUnit x g u next after) ?_
  rw [landed_iunits]
  exact h

theorem finishUnit_iunit_ne {uid : Nat} (h : uid ≠ u.uid) : (finishUnit x g u {} [] next after).iunit uid = g.iunit uid := by
  rw [finishUnit_eq, iunit_setUnit_ne _ (leftUnit x g u next after) h, Group.iunit, landed_iunits]
  rfl

end

/-- With its unit among the group's, the units after an instruction are what it leaves and the others. -/
theorem mem_finishUnit {x : Issue} {g : Group} {u : IUnit} {next : Machine.Next} {after : Wait} (h : g.iunits.any (fun v => v.uid == u.uid) = true) {v : IUnit} :
    v ∈ (finishUnit x g u {} [] next after).iunits ↔ v = leftUnit x g u next after ∨ (v ∈ g.iunits ∧ v.uid ≠ u.uid) := by
  obtain ⟨w, hw, hwu⟩ := List.any_eq_true.1 h
  rw [finishUnit_iunits, updWhere, List.mem_map]
  constructor
  · rintro ⟨y, hy, rfl⟩
    by_cases hyu : y.uid = u.uid
    · exact .inl (by simp [hyu])
    · exact .inr (by simp [hyu, hy])
  · rintro (rfl | ⟨hv, hne⟩)
    · exact ⟨w, hw, if_pos hwu⟩
    · exact ⟨v, hv, if_neg (by simpa using hne)⟩

end Sys2Proof.Slice0.Scheduling
end

section
/-! PROOF. Yield and safe (O16): the group that each leaves, behind the flush of the window where `safe` has one. -/

namespace Sys2Proof.Slice0.Scheduling

open Sys2Proof.Machine Sys2Proof.Slice0

/-! ### The flushed window, as the issuing unit sees it -/

theorem flushed_cur (s : State) : (flushed s).cur = s.cur := by
  rcases flush_shape s s.cur.1 s.cur.2.1 with h | ⟨n, ops, -, h⟩ <;> rw [flushed, h]
  rfl

/-- The flush changes nothing of the issuing group but its operations. -/
theorem grp_flushed (s : State) : grp s (flushed s) = { grp s s with ops := (grp s (flushed s)).ops } := by
  rcases flush_shape s s.cur.1 s.cur.2.1 with h | ⟨n, ops, -, h⟩ <;> rw [flushed, h]
  simp [grp, State.group]

theorem unit_flushed (s : State) : unit s (flushed s) = unit s s := by
  rw [unit, grp_flushed]
  rfl

theorem preempt_flushed (s : State) : (grp s (flushed s)).preempt = (grp s s).preempt := by
  rw [grp_flushed]

theorem frames_flushed (s : State) (c : Nat) : ((flushed s).core c).frames = (s.core c).frames := by
  rcases flush_shape s s.cur.1 s.cur.2.1 with h | ⟨n, ops, -, h⟩ <;> rw [flushed, h]
  by_cases hc : c = s.cur.1
  · subst hc
    simp
  · rw [State.core_setCore_ne _ _ _ _ hc]

/-! ### The unit that issues -/

section
variable {s b : State} {x : Issue}

theorem unit_uid (h : ready s) : (unit s s).uid = s.cur.2.2 := iunit_uid h.1

theorem any_unit (h : ready s) : (grp s s).iunits.any (fun v => v.uid == (unit s s).uid) = true := by
  rw [unit_uid h]
  exact h.1

/-- What is resident depends on the frames of the core, the partition of the group, and where the unit stands. -/
theorem nextResident_congr {s1 s2 : State} {c sl uid : Nat} {next : Machine.Next} {after : Wait} (hf : (s1.core c).frames = (s2.core c).frames)
    (hp : (s1.group c sl).part = (s2.group c sl).part) (hpc : ((s1.group c sl).iunit uid).pc = ((s2.group c sl).iunit uid).pc)
    (hl : ((s1.group c sl).iunit uid).loops = ((s2.group c sl).iunit uid).loops) (h : nextResident s2 c sl uid next after) :
    nextResident s1 c sl uid next after := by
  have hneeds : needsSegment ((s1.group c sl).iunit uid) next = needsSegment ((s2.group c sl).iunit uid) next := by
    simp only [needsSegment, hpc, hl]
  refine h.imp_right fun h t ht => ?_
  have := h t (hneeds ▸ ht)
  rwa [Core.resident, hf, hp]

/-- An instruction that must end its run passes decode with its boundary bit set only (R113, R251). -/
theorem boundary_of_clean (hc : clean x s) (hm : x.mustEnd = true) : x.e = true := by
  by_contra he
  have hbad : badRun x s.ictx.u = true := by
    rw [Bool.not_eq_true] at he
    simp [badRun, hm, he]
  unfold clean decodeTrap at hc
  dsimp only at hc
  split at hc
  · cases hc
  · rw [hbad, if_pos rfl] at hc
    split at hc
    · cases hc
    · split at hc <;> cases hc

/-- What an instruction leaves of the registers that no due write names is what they held. -/
theorem keeps_leaves (hcur : b.cur = s.cur) {g1 g : Group} {u1 : IUnit} (hs : g1.sregs = (grp s s).sregs) (hv : g1.vregs = (grp s s).vregs)
    (hdue : u1.due = (unit s s).due) (hgs : g.sregs = (landed x g1 u1).sregs) (hgv : g.vregs = (landed x g1 u1).vregs) :
    keepsS s (leaves b g) (fun _ => False) ∧ keepsV s (leaves b g) (fun _ => False) := by
  refine ⟨fun n _ hn => ?_, fun n _ hn => ?_⟩
  · have hnames : ∀ w ∈ u1.due, w.w.namesS n = false := by simpa [dueS, hdue] using hn
    calc (grp s (leaves b g)).sreg n = (landed x g1 u1).sreg n := by rw [grp_leaves hcur, Group.sreg, hgs, Group.sreg]
      _ = g1.sreg n := landed_sreg x g1 u1 hnames
      _ = (grp s s).sreg n := by rw [Group.sreg, hs, Group.sreg]
  · have hnames : ∀ w ∈ u1.due, w.w.namesV n = false := by simpa [dueV, hdue] using hn
    calc (grp s (leaves b g)).vreg n = (landed x g1 u1).vreg n := by rw [grp_leaves hcur, Group.vreg, hgv, Group.vreg]
      _ = g1.vreg n := landed_vreg x g1 u1 hnames
      _ = (grp s s).vreg n := by rw [Group.vreg, hv, Group.vreg]

/-- A unit that goes on in order stands after its instruction. -/
theorem inOrder_leaves (hcur : b.cur = s.cur) {g1 : Group} {u1 : IUnit} (hany : g1.iunits.any (fun v => v.uid == u1.uid) = true) (huid : u1.uid = s.cur.2.2)
    (hpc : u1.pc = (unit s s).pc) (hl : u1.loops = (unit s s).loops) (hpos : u1.pos = (unit s s).pos) :
    inOrder s (leaves b (finishUnit x g1 u1 {} [] .seq .ready)) x.e := by
  have hunit : unit s (leaves b (finishUnit x g1 u1 {} [] .seq .ready)) = leftUnit x g1 u1 .seq .ready := by
    rw [unit, grp_leaves hcur, ← huid, finishUnit_iunit_self _ _ _ _ _ hany]
  unfold inOrder
  rw [hunit, ← hpc, ← hl, ← hpos]
  exact ⟨rfl, rfl, rfl, rfl⟩

end

/-! ### Yield and safe -/

/-- The issuing unit at `yield`: its streak is to end. -/
def yieldingUnit (s : State) : IUnit := { unit s s with yielded := true }
def yielding (s : State) : Group := (grp s s).setUnit (yieldingUnit s)

theorem yieldingUnit_uid {s : State} (h : ready s) : (yieldingUnit s).uid = s.cur.2.2 := unit_uid h

theorem iunit_yielding {s : State} (h : ready s) : (yielding s).iunit s.cur.2.2 = yieldingUnit s := by
  rw [← yieldingUnit_uid h]
  exact Group.iunit_setUnit (grp s s) (yieldingUnit s) (any_unit h)

theorem any_yielding {s : State} (h : ready s) : (yielding s).iunits.any (fun v => v.uid == (yieldingUnit s).uid) = true := by
  obtain ⟨v, hv, hvu⟩ := List.any_eq_true.1 (any_unit h)
  exact List.any_eq_true.2 ⟨_, List.mem_map.2 ⟨v, hv, if_pos hvu⟩, beq_self_eq_true _⟩

theorem exec_yield {e : Bool} {s : State} (h : issues { i := .yield e, e := e, mustEnd := true } s) :
    exec (.yield e) s =
      Slice0.Next (leaves s (finishUnit { i := .yield e, e := e, mustEnd := true } (yielding s) (yieldingUnit s) {} [] .seq .ready)) := by
  obtain ⟨hr, hc, hn⟩ := h
  have hunit := iunit_yielding hr
  have hbody : s.onUnit s.ictx (fun u => { u with yielded := true }) = s.setGroup s.cur.1 s.cur.2.1 (yielding s) := by
    show s.setGroup s.cur.1 s.cur.2.1 ((grp s s).setUnit { (grp s s).iunit (unit s s).uid with yielded := true }) = _
    rw [unit_uid hr]
    rfl
  refine (issue_fin _ s (s.setGroup s.cur.1 s.cur.2.1 (yielding s)) (fun x s => finPlain (s.onUnit x (fun u => { u with yielded := true }))) {} [] .seq .ready
    rfl rfl hc (congrArg finPlain hbody) ?_).trans ?_
  · refine nextResident_congr ?_ ?_ ?_ ?_ hn
    · simp
    · simp [yielding]; rfl
    · rw [State.group_setGroup_self, hunit]; rfl
    · rw [State.group_setGroup_self, hunit]; rfl
  · rw [completed_setGroup rfl, hunit]

/-- How a group stands to its pre-emption once a unit has issued `safe` (R104). -/
def askedAt (units : BitVec 12) (octets : BitVec 8) : Preempt → Preempt
  | .requested => .stopping units octets
  | .stopping v q => .stopping (v ||| units) (q ||| octets)
  | p => p

/-- `safe` changes how the group stands to its pre-emption, and nothing else. -/
theorem execSafe_eq (e : Bool) (o : BitVec 8) (u : BitVec 12) (s : State) : execSafe e o u s =
    issue { i := .safe e o u, e := e, flush := true } s (fun x s => finPlain (s.onGroup x (fun g => { g with preempt := askedAt u o g.preempt }))) := by
  unfold execSafe
  refine congrArg (issue _ s) ?_
  funext x t
  refine congrArg (fun f => finPlain (t.onGroup x f)) ?_
  funext g
  cases h : g.preempt
  case requested | stopping => rfl
  case none | forced | stopped =>
    simp only [askedAt]
    rw [← h]

/-- The issuing group at `safe`, behind the flush. -/
def asked (s : State) (o : BitVec 8) (u : BitVec 12) : Group := { grp s (flushed s) with preempt := askedAt u o (grp s s).preempt }

theorem iunits_asked (s : State) (o : BitVec 8) (u : BitVec 12) : (asked s o u).iunits = (grp s s).iunits := by
  rw [asked, grp_flushed]

theorem iunit_asked (s : State) (o : BitVec 8) (u : BitVec 12) : (asked s o u).iunit s.cur.2.2 = unit s s := by
  rw [Group.iunit, iunits_asked]
  rfl

theorem exec_safe {e : Bool} {o : BitVec 8} {u : BitVec 12} {s : State} (h : issuesFlush { i := .safe e o u, e := e, flush := true } s) (hn : nextIn s) :
    exec (.safe e o u) s =
      Slice0.Next (leaves (flushed s) (finishUnit { i := .safe e o u, e := e, flush := true } (asked s o u) (unit s s) {} [] .seq .ready)) := by
  obtain ⟨hr, hc, htile, hroom⟩ := h
  have hbody : (flushed s).onGroup { s.ictx with g := grp s (flushed s) } (fun g => { g with preempt := askedAt u o g.preempt }) =
      (flushed s).setGroup s.cur.1 s.cur.2.1 (asked s o u) := by
    rw [asked, ← preempt_flushed]
    rfl
  refine (execSafe_eq e o u s).trans ((issue_flush_fin _ s ((flushed s).setGroup s.cur.1 s.cur.2.1 (asked s o u))
    (fun x s => finPlain (s.onGroup x (fun g => { g with preempt := askedAt u o g.preempt }))) {} [] .seq .ready rfl hc htile hroom
    (congrArg finPlain hbody) ?_).trans ?_)
  · refine nextResident_congr ?_ ?_ ?_ ?_ hn
    · simp [frames_flushed]
    · rw [State.group_setGroup_self, asked, grp_flushed]; rfl
    · rw [State.group_setGroup_self, iunit_asked]; rfl
    · rw [State.group_setGroup_self, iunit_asked]; rfl
  · rw [completed_setGroup (flushed_cur s), iunit_asked]

theorem grp_flushed_self (s : State) : grp (flushed s) (flushed s) = grp s (flushed s) := by
  rw [grp, flushed_cur]
  rfl

/-- The first part of O16: a unit that yields or issues `safe` goes on in order. -/
theorem yieldAndSafe : yieldAndSafePart := by
  constructor
  · intro e s h
    have hany := any_yielding h.1
    have huid := yieldingUnit_uid h.1
    refine ⟨_, exec_yield h, ?_, inOrder_leaves rfl hany huid rfl rfl rfl, onlyUnit_leaves (finishUnit_frame _ (yielding s) _ _ _) ?_,
      keeps_leaves (g1 := yielding s) (u1 := yieldingUnit s) rfl rfl rfl rfl (finishUnit_sregs ..) (finishUnit_vregs ..)⟩
    · rw [unit, grp_leaves rfl, ← huid, finishUnit_iunit_self _ _ _ _ _ hany]
      rfl
    · intro uid hne
      rw [← huid] at hne
      rw [finishUnit_iunit_ne _ _ _ _ _ hne]
      exact iunit_setUnit_ne _ _ hne
  · intro e o u s h hn
    have hcur := flushed_cur s
    have huid : (unit s s).uid = s.cur.2.2 := unit_uid h.1
    have hany : (asked s o u).iunits.any (fun v => v.uid == (unit s s).uid) = true := by
      rw [iunits_asked]
      exact any_unit h.1
    have hpreempt : (grp s (leaves (flushed s) (finishUnit { i := .safe e o u, e := e, flush := true } (asked s o u) (unit s s) {} [] .seq .ready))).preempt =
        askedAt u o (grp s s).preempt := by
      rw [grp_leaves hcur, finishUnit_frame]
      rfl
    refine ⟨_, exec_safe h hn, inOrder_leaves hcur hany huid rfl rfl rfl, onlyUnitBut_leaves ?_ ?_, fun hp => ?_, fun hp => ?_,
      keeps_leaves hcur ?_ ?_ rfl (finishUnit_sregs ..) (finishUnit_vregs ..)⟩
    · rw [grp_flushed_self]
      exact congrArg (fun g : Group => { g with preempt := (grp s (flushed s)).preempt }) (finishUnit_frame _ (asked s o u) (unit s s) .seq .ready)
    · intro uid hne
      rw [hcur, ← huid] at hne
      rw [finishUnit_iunit_ne _ _ _ _ _ hne, Group.iunit, iunits_asked, grp_flushed_self, grp_flushed]
      rfl
    · rw [hpreempt, hp]
      rfl
    · rw [hpreempt, hp]
      rfl
    · rw [asked, grp_flushed]
    · rw [asked, grp_flushed]

end Sys2Proof.Slice0.Scheduling
end

section
/-! PROOF. Exit and regang (O16): the group that each leaves, and how units that wait at a `regang` merge (R110). -/

namespace Sys2Proof.Slice0.Scheduling

open Sys2Proof.Machine Sys2Proof.Slice0

/-! ### Streaks that end (R102) -/

/-- A unit whose streak the cap or `yield` ends takes the stamp of a cycle. -/
def renewed (clk : Nat) (u : IUnit) : IUnit :=
  if (decide (16 ≤ u.streak) || u.yielded) && !u.ended && u.pos == 0 then { u with stamp := clk, ended := true } else u

theorem renew_eq (g : Group) (clk : Nat) : g.renew clk = { g with iunits := g.iunits.map (renewed clk) } := rfl

/-- Only the stamp and the mark of the streak change. -/
theorem renewed_eq (clk : Nat) (u : IUnit) : renewed clk u = { u with stamp := (renewed clk u).stamp, ended := (renewed clk u).ended } := by
  unfold renewed
  split <;> rfl

@[simp] theorem renewed_uid (clk : Nat) (u : IUnit) : (renewed clk u).uid = u.uid := by rw [renewed_eq]
@[simp] theorem renewed_wait (clk : Nat) (u : IUnit) : (renewed clk u).wait = u.wait := by rw [renewed_eq]

theorem mem_renew {g : Group} {clk : Nat} {v : IUnit} : v ∈ (g.renew clk).iunits ↔ ∃ u ∈ g.iunits, renewed clk u = v := List.mem_map

theorem renewed_of_steady {u : IUnit} (h : (16 ≤ u.streak ∨ u.yielded = true) → u.ended = true ∨ u.pos ≠ 0) (clk : Nat) : renewed clk u = u := by
  refine if_neg ?_
  simp only [Bool.and_eq_true, Bool.or_eq_true, decide_eq_true_eq, Bool.not_eq_true', beq_iff_eq]
  rintro ⟨⟨hs, he⟩, hp⟩
  rcases h hs with h | h
  · simp [h] at he
  · exact h hp

theorem iunit_renew {g : Group} {uid : Nat} (h : g.iunits.any (fun u => u.uid == uid) = true) (clk : Nat) : (g.renew clk).iunit uid = renewed clk (g.iunit uid) := by
  obtain ⟨u, hu⟩ := Option.isSome_iff_exists.1 (List.find?_isSome.2 (List.any_eq_true.1 h))
  rw [Group.iunit, renew_eq, find_map_uid _ _ (renewed_uid clk), Group.iunit, hu]
  rfl

/-! ### The wait at a `regang` -/

/-- While some unit is elsewhere, the units that wait go on waiting. -/
theorem regang_waits {g : Group} (h : ∃ u ∈ g.iunits, u.wait ≠ .exited ∧ u.wait ≠ .regang) (clk : Nat) : g.regang clk = g.renew clk := by
  obtain ⟨u, hu, he, hr⟩ := h
  refine if_neg fun hall => ?_
  have := List.all_eq_true.1 hall _ (mem_renew.2 ⟨u, hu, rfl⟩)
  simp [he, hr] at this

/-- With no unit elsewhere, the units that wait merge. -/
theorem regang_merges {g : Group} (h : ∀ u ∈ g.iunits, u.wait = .exited ∨ u.wait = .regang) (clk : Nat) : g.regang clk =
    { g with iunits := (g.renew clk).iunits.filter (fun u => u.wait == .exited) ++ mergeUnits ((g.renew clk).iunits.filter (fun u => u.wait == .regang)) } := by
  refine if_pos (List.all_eq_true.2 fun v hv => ?_)
  obtain ⟨u, hu, rfl⟩ := mem_renew.1 hv
  simpa using h u hu

/-- Two units that stand at one address with one loop state. -/
def sameSpot (u m : IUnit) : Bool := m.pc == u.pc && m.loops == u.loops

theorem sameSpot_iff {u m : IUnit} : sameSpot u m = true ↔ m.pc = u.pc ∧ m.loops = u.loops := by
  simp [sameSpot]

/-- A merged unit with one more unit of its spot. -/
def withUnit (u m : IUnit) : IUnit :=
  { m with uid := u.uid, slices := m.slices ||| u.slices, stamp := min m.stamp u.stamp, streak := max m.streak u.streak,
           yielded := m.yielded && u.yielded, ended := m.ended && u.ended }

/-- A unit joins the merged unit of its spot, or is the first of its spot. -/
theorem mergeUnits_cons (u : IUnit) (us : List IUnit) : mergeUnits (u :: us) =
    if (mergeUnits us).any (sameSpot u) then (mergeUnits us).map (fun m => if sameSpot u m then withUnit u m else m)
    else { u with wait := .ready } :: mergeUnits us := by
  rw [mergeUnits]
  cases mergeUnits us <;> rfl

/-- Some units have merged into others, the content of `merged`. -/
def mergesTo (us vs : List IUnit) : Prop :=
  (∀ v ∈ vs, v.wait = .ready) ∧ vs.Pairwise (fun v w => v.pc ≠ w.pc ∨ v.loops ≠ w.loops) ∧
  (∀ u ∈ us, ∃ v ∈ vs, v.pc = u.pc ∧ v.loops = u.loops ∧ ∀ b, u.slices.getLsbD b = true → v.slices.getLsbD b = true) ∧
  (∀ v ∈ vs, ∀ b, v.slices.getLsbD b = true → ∃ u ∈ us, u.pc = v.pc ∧ u.loops = v.loops ∧ u.slices.getLsbD b = true)

/-- A unit of a new spot is merged by itself. -/
theorem mergesTo_cons {us vs : List IUnit} (h : mergesTo us vs) {u : IUnit} (hu : ∀ v ∈ vs, sameSpot u v = false) :
    mergesTo (u :: us) ({ u with wait := .ready } :: vs) := by
  obtain ⟨hready, hspots, hcovers, honly⟩ := h
  refine ⟨?_, ?_, ?_, ?_⟩
  · exact List.forall_mem_cons.2 ⟨rfl, hready⟩
  · refine List.pairwise_cons.2 ⟨fun v hv => ?_, hspots⟩
    have := hu v hv
    rw [← Bool.not_eq_true, sameSpot_iff, not_and_or] at this
    exact this.imp Ne.symm Ne.symm
  · refine List.forall_mem_cons.2 ⟨⟨_, List.mem_cons_self, rfl, rfl, fun _ hb => hb⟩, fun w hw => ?_⟩
    obtain ⟨v, hv, hspot⟩ := hcovers w hw
    exact ⟨v, List.mem_cons_of_mem _ hv, hspot⟩
  · refine List.forall_mem_cons.2 ⟨fun b hb => ⟨u, List.mem_cons_self, rfl, rfl, hb⟩, fun v hv b hb => ?_⟩
    obtain ⟨w, hw, hspot⟩ := honly v hv b hb
    exact ⟨w, List.mem_cons_of_mem _ hw, hspot⟩

/-- A unit of a spot that is merged already joins it. -/
theorem mergesTo_join {us vs : List IUnit} (h : mergesTo us vs) {u m : IUnit} (hm : m ∈ vs) (hum : sameSpot u m = true) :
    mergesTo (u :: us) (vs.map (fun v => if sameSpot u v then withUnit u v else v)) := by
  obtain ⟨hready, hspots, hcovers, honly⟩ := h
  have hspot (v : IUnit) : (if sameSpot u v then withUnit u v else v).pc = v.pc ∧ (if sameSpot u v then withUnit u v else v).loops = v.loops ∧
      (if sameSpot u v then withUnit u v else v).wait = v.wait := by
    split <;> exact ⟨rfl, rfl, rfl⟩
  have hgrows (v : IUnit) (b : Nat) : (if sameSpot u v then withUnit u v else v).slices.getLsbD b = true ↔
      v.slices.getLsbD b = true ∨ (sameSpot u v = true ∧ u.slices.getLsbD b = true) := by
    by_cases hv : sameSpot u v = true <;> simp [hv, withUnit]
  refine ⟨?_, ?_, ?_, ?_⟩
  · exact List.forall_mem_map.2 fun v hv => (hspot v).2.2.trans (hready v hv)
  · refine List.pairwise_map.2 (hspots.imp fun {v w} hvw => ?_)
    rwa [(hspot v).1, (hspot w).1, (hspot v).2.1, (hspot w).2.1]
  · refine List.forall_mem_cons.2 ⟨⟨_, List.mem_map_of_mem hm, ?_, ?_, fun b hb => (hgrows m b).2 (.inr ⟨hum, hb⟩)⟩, fun w hw => ?_⟩
    · exact (hspot m).1.trans (sameSpot_iff.1 hum).1
    · exact (hspot m).2.1.trans (sameSpot_iff.1 hum).2
    · obtain ⟨v, hv, hpc, hl, hs⟩ := hcovers w hw
      exact ⟨_, List.mem_map_of_mem hv, (hspot v).1.trans hpc, (hspot v).2.1.trans hl, fun b hb => (hgrows v b).2 (.inl (hs b hb))⟩
  · refine List.forall_mem_map.2 fun v hv b hb => ?_
    rw [(hspot v).1, (hspot v).2.1]
    rcases (hgrows v b).1 hb with hb | ⟨huv, hb⟩
    · obtain ⟨w, hw, hw'⟩ := honly v hv b hb
      exact ⟨w, List.mem_cons_of_mem _ hw, hw'⟩
    · obtain ⟨hpc, hl⟩ := sameSpot_iff.1 huv
      exact ⟨u, List.mem_cons_self, hpc.symm, hl.symm, hb⟩

theorem mergesTo_mergeUnits : ∀ us : List IUnit, mergesTo us (mergeUnits us)
  | [] => by simp [mergesTo, mergeUnits]
  | u :: us => by
    have ih := mergesTo_mergeUnits us
    rw [mergeUnits_cons]
    split
    · next h =>
      obtain ⟨m, hm, hum⟩ := List.any_eq_true.1 h
      exact mergesTo_join ih hm hum
    · next h => exact mergesTo_cons ih (by simpa using h)

/-- Units that agree in what a merge looks at: address, loops and slices. -/
def alike (u v : IUnit) : Prop := v.pc = u.pc ∧ v.loops = u.loops ∧ v.slices = u.slices

theorem alike_renewed (clk : Nat) (u : IUnit) : alike u (renewed clk u) := by
  rw [renewed_eq]
  exact ⟨rfl, rfl, rfl⟩

/-- A merge looks at the addresses, loops and slices of its units only. -/
theorem mergesTo_of_alike {us us' vs : List IUnit} (h : mergesTo us' vs) (hto : ∀ u ∈ us, ∃ v ∈ us', alike u v) (hfrom : ∀ v ∈ us', ∃ u ∈ us, alike u v) :
    mergesTo us vs := by
  obtain ⟨hready, hspots, hcovers, honly⟩ := h
  refine ⟨hready, hspots, fun u hu => ?_, fun v hv b hb => ?_⟩
  · obtain ⟨w, hw, hpc, hl, hs⟩ := hto u hu
    obtain ⟨v, hv, hpc', hl', hs'⟩ := hcovers w hw
    exact ⟨v, hv, hpc'.trans hpc, hl'.trans hl, fun b hb => hs' b (hs ▸ hb)⟩
  · obtain ⟨w, hw, hpc, hl, hb'⟩ := honly v hv b hb
    obtain ⟨u, hu, hpc', hl', hs⟩ := hfrom w hw
    exact ⟨u, hu, hpc'.symm.trans hpc, hl'.symm.trans hl, hs ▸ hb'⟩

/-- Where every unit has exited or waits at a `regang`, the units that are live afterwards are those that waited, merged. -/
theorem live_regang {g : Group} (h : ∀ u ∈ g.iunits, u.wait = .exited ∨ u.wait = .regang) (clk : Nat) :
    (g.regang clk).live = mergeUnits ((g.renew clk).iunits.filter (fun u => u.wait == .regang)) := by
  have hready := (mergesTo_mergeUnits ((g.renew clk).iunits.filter (fun u => u.wait == .regang))).1
  rw [regang_merges h, Group.live, List.filter_append]
  rw [List.filter_eq_nil_iff.2 (by simp), List.nil_append]
  exact List.filter_eq_self.2 fun v hv => by simp [hready v hv]

/-- They are the units that waited before, whatever the cycle renews of them. -/
theorem mergesTo_regang {g : Group} (h : ∀ u ∈ g.iunits, u.wait = .exited ∨ u.wait = .regang) (clk : Nat) :
    mergesTo (g.iunits.filter (fun u => u.wait == .regang)) (g.regang clk).live := by
  rw [live_regang h]
  refine mergesTo_of_alike (mergesTo_mergeUnits _) (fun u hu => ?_) (fun v hv => ?_)
  · obtain ⟨hmem, hw⟩ := List.mem_filter.1 hu
    exact ⟨_, List.mem_filter.2 ⟨mem_renew.2 ⟨u, hmem, rfl⟩, by simpa using hw⟩, alike_renewed clk u⟩
  · obtain ⟨hmem, hw⟩ := List.mem_filter.1 hv
    obtain ⟨u, hu, rfl⟩ := mem_renew.1 hmem
    exact ⟨u, List.mem_filter.2 ⟨hu, by simpa using hw⟩, alike_renewed clk u⟩

/-- A unit that waits alone goes on. -/
theorem regang_single {g : Group} {v : IUnit} (hg : g.iunits = [v]) (hw : v.wait = .regang) (clk : Nat) :
    (g.regang clk).iunits = [{ renewed clk v with wait := .ready }] := by
  have hw' : (renewed clk v).wait = .regang := (renewed_wait clk v).trans hw
  rw [regang_merges (by simp [hg, hw])]
  simp only [renew_eq, hg, List.map_cons, List.map_nil, List.filter_cons, hw', List.filter_nil]
  rfl

theorem iunit_single {g : Group} {v : IUnit} (hg : g.iunits = [v]) {uid : Nat} (h : v.uid = uid) : g.iunit uid = v := by
  rw [Group.iunit, hg]
  simp [h]

theorem iunit_single_ne {g : Group} {v : IUnit} (hg : g.iunits = [v]) {uid : Nat} (h : v.uid ≠ uid) : g.iunit uid = {} := by
  rw [Group.iunit, hg]
  simp [h]

/-! ### The groups that exit and regang leave -/

section
variable {s b : State} {x : Issue} {va : Va} {after : Wait}

/-- The issuing group once its unit has left its run for an address, at the end of the instruction. -/
def leftGroup (s b : State) (x : Issue) (va : Va) (after : Wait) : Group := finishUnit x (grp s b) (unit s s) {} [] (.leave va) after

/-- How `exit` and `regang` issue (R110, R267). -/
def exitIssue (e : Bool) : Issue := { i := .exit e, e := e, mustEnd := true, flush := true }
def regangIssue (e : Bool) : Issue := { i := .regang e, e := e, mustEnd := true }

theorem exec_exit {e : Bool} (h : issuesFlush (exitIssue e) s) :
    exec (.exit e) s = Slice0.Next (leaves (flushed s)
      ((leftGroup s (flushed s) (exitIssue e) ((unit s s).pc + 4) .exited).regang s.ictx.clk.toNat)) := by
  obtain ⟨-, hc, htile, hroom⟩ := h
  have hissue := issue_flush_fin (exitIssue e) s (flushed s) (fun x s => .fin s {} [] (.leave (x.u.pc + 4)) .exited)
    {} [] (.leave ((unit s s).pc + 4)) .exited rfl hc htile hroom rfl (.inl rfl)
  rw [completed_self (flushed_cur s), unit_flushed] at hissue
  exact (congrArg (afterIssue s.cur.1 s.cur.2.1 (fun g => g.regang s.ictx.clk.toNat)) hissue).trans (afterIssue_leaves (flushed_cur s) _ _)

theorem exec_regang {e : Bool} (h : issues (regangIssue e) s) (ht : targetIn s ((unit s s).pc + 4)) :
    exec (.regang e) s = Slice0.Next (leaves s
      ((leftGroup s s (regangIssue e) ((unit s s).pc + 4) .regang).regang s.ictx.clk.toNat)) := by
  obtain ⟨-, hc, -⟩ := h
  have hres : nextResident s s.cur.1 s.cur.2.1 s.cur.2.2 (.leave ((unit s s).pc + 4)) .regang := .inr (ht.resolve_left (by decide))
  have hissue := issue_fin (regangIssue e) s s (fun x s => .fin s {} [] (.leave (x.u.pc + 4)) .regang)
    {} [] (.leave ((unit s s).pc + 4)) .regang rfl rfl hc rfl hres
  rw [completed_self rfl] at hissue
  exact (congrArg (afterIssue s.cur.1 s.cur.2.1 (fun g => g.regang s.ictx.clk.toNat)) hissue).trans (afterIssue_leaves rfl _ _)

variable (hr : ready s) (hb : (grp s b).iunits = (grp s s).iunits)
include hr hb

theorem any_left : (grp s b).iunits.any (fun v => v.uid == (unit s s).uid) = true := by
  rw [hb]
  exact any_unit hr

theorem mem_left {v : IUnit} : v ∈ (leftGroup s b x va after).iunits ↔
    v = leftUnit x (grp s b) (unit s s) (.leave va) after ∨ (v ∈ (grp s s).iunits ∧ v.uid ≠ s.cur.2.2) := by
  rw [leftGroup, mem_finishUnit (any_left hr hb), hb, unit_uid hr]

theorem iunit_left : (leftGroup s b x va after).iunit s.cur.2.2 = leftUnit x (grp s b) (unit s s) (.leave va) after := by
  rw [← unit_uid hr]
  exact finishUnit_iunit_self _ _ _ _ _ (any_left hr hb)

theorem iunit_left_ne {uid : Nat} (h : uid ≠ s.cur.2.2) : (leftGroup s b x va after).iunit uid = (grp s s).iunit uid := by
  rw [← unit_uid hr] at h
  rw [leftGroup, finishUnit_iunit_ne _ _ _ _ _ h, Group.iunit, hb]
  rfl

/-- Its own unit is among the group's. -/
theorem any_own : (leftGroup s b x va after).iunits.any (fun v => v.uid == s.cur.2.2) = true :=
  List.any_eq_true.2 ⟨_, (mem_left hr hb).2 (.inl rfl), beq_iff_eq.2 (unit_uid hr)⟩

/-- With another unit elsewhere and no other streak to renew, the unit exits or waits, and no other unit changes. -/
theorem left_elsewhere (ho : ∃ u ∈ (grp s s).iunits, u.uid ≠ s.cur.2.2 ∧ u.wait ≠ .exited ∧ u.wait ≠ .regang) (hsteady : steady s) (clk : Nat) :
    ((leftGroup s b x va after).regang clk).iunit s.cur.2.2 = renewed clk (leftUnit x (grp s b) (unit s s) (.leave va) after) ∧
    ∀ uid, uid ≠ s.cur.2.2 → ((leftGroup s b x va after).regang clk).iunit uid = (grp s s).iunit uid := by
  obtain ⟨u, hu, hne, hw⟩ := ho
  rw [regang_waits ⟨u, (mem_left hr hb).2 (.inr ⟨hu, hne⟩), hw⟩]
  refine ⟨?_, fun uid huid => ?_⟩
  · rw [iunit_renew (any_own hr hb), iunit_left hr hb]
  · rw [← iunit_left_ne hr hb huid]
    refine iunit_map_of_fixed rfl (renewed_uid clk) fun v hv hvu => ?_
    rcases (mem_left hr hb).1 hv with rfl | ⟨hv, hvne⟩
    · exact absurd (hvu.symm.trans (unit_uid hr)) huid
    · exact renewed_of_steady (hsteady v hv hvne) clk

/-- With every other unit waiting or gone, so is every unit afterwards. -/
theorem left_waits (ho : ∀ u ∈ (grp s s).iunits, u.uid ≠ s.cur.2.2 → u.wait = .exited ∨ u.wait = .regang) (ha : after = .exited ∨ after = .regang) :
    ∀ v ∈ (leftGroup s b x va after).iunits, v.wait = .exited ∨ v.wait = .regang := by
  intro v hv
  rcases (mem_left hr hb).1 hv with rfl | ⟨hv, hne⟩
  · exact ha
  · exact ho v hv hne

end

/-- The end of the wait changes units only. -/
theorem regang_frame (g : Group) (clk : Nat) : g.regang clk = { g with iunits := (g.regang clk).iunits } := by
  unfold Group.regang
  dsimp only
  split <;> rfl

theorem leftGroup_frame (s b : State) (x : Issue) (va : Va) (after : Wait) (clk : Nat) : (leftGroup s b x va after).regang clk =
    { grp s b with sregs := ((leftGroup s b x va after).regang clk).sregs, vregs := ((leftGroup s b x va after).regang clk).vregs,
                   iunits := ((leftGroup s b x va after).regang clk).iunits } := by
  rw [regang_frame, leftGroup, finishUnit_frame]

theorem leftGroup_keeps {s b : State} (hcur : b.cur = s.cur) (hs : (grp s b).sregs = (grp s s).sregs) (hv : (grp s b).vregs = (grp s s).vregs)
    (x : Issue) (va : Va) (after : Wait) (clk : Nat) :
    keepsS s (leaves b ((leftGroup s b x va after).regang clk)) (fun _ => False) ∧ keepsV s (leaves b ((leftGroup s b x va after).regang clk)) (fun _ => False) := by
  refine keeps_leaves (x := x) hcur hs hv rfl ?_ ?_
  · rw [regang_frame]
    exact finishUnit_sregs _ _ _ (.leave va) after
  · rw [regang_frame]
    exact finishUnit_vregs _ _ _ (.leave va) after

/-! ### Exit and regang -/

theorem iunits_flushed (s : State) : (grp s (flushed s)).iunits = (grp s s).iunits := by
  rw [grp_flushed]

/-- An exit while a unit is elsewhere ends its own unit only. -/
theorem exit_elsewhere {e : Bool} {s : State} (h : issuesFlush (exitIssue e) s)
    (ho : ∃ u ∈ (grp s s).iunits, u.uid ≠ s.cur.2.2 ∧ u.wait ≠ .exited ∧ u.wait ≠ .regang) (hsteady : steady s) :
    ∃ t, exec (.exit e) s = Slice0.Next t ∧ (unit s t).wait = .exited ∧ (unit s t).loops = [] ∧ (unit s t).due = [] ∧ onlyUnit (flushed s) t ∧
      keepsS s t (fun _ => False) ∧ keepsV s t (fun _ => False) := by
  have hcur := flushed_cur s
  have he : e = true := boundary_of_clean h.2.1 rfl
  obtain ⟨hown, hothers⟩ := left_elsewhere (x := exitIssue e) (va := (unit s s).pc + 4) (after := .exited)
    h.1 (iunits_flushed s) ho hsteady s.ictx.clk.toNat
  refine ⟨_, exec_exit h, ?_, ?_, ?_, onlyUnit_leaves ?_ ?_, leftGroup_keeps hcur ?_ ?_ _ _ _ _⟩
  · rw [unit, grp_leaves hcur, hown, renewed_wait]
    rfl
  · rw [unit, grp_leaves hcur, hown, renewed_eq]
    rfl
  · rw [unit, grp_leaves hcur, hown, renewed_eq]
    exact if_pos he
  · rw [grp_flushed_self]
    exact leftGroup_frame ..
  · intro uid hne
    rw [hothers uid (hcur ▸ hne), grp_flushed_self, Group.iunit, Group.iunit, iunits_flushed]
  · rw [grp_flushed]
  · rw [grp_flushed]

/-- With the last unit that exits, none is live. -/
theorem exit_last {e : Bool} {s : State} (h : issuesFlush (exitIssue e) s)
    (ho : ∀ u ∈ (grp s s).iunits, u.uid ≠ s.cur.2.2 → u.wait = .exited) : ∃ t, exec (.exit e) s = Slice0.Next t ∧ (grp s t).live = [] := by
  have hb := iunits_flushed s
  refine ⟨_, exec_exit h, ?_⟩
  rw [grp_leaves (flushed_cur s), live_regang (left_waits h.1 hb (fun u hu hne => .inl (ho u hu hne)) (.inl rfl)), List.filter_eq_nil_iff.2, mergeUnits]
  intro v hv
  obtain ⟨u, hu, rfl⟩ := mem_renew.1 hv
  rw [renewed_wait]
  rcases (mem_left h.1 hb).1 hu with rfl | ⟨hu, hne⟩
  · show ¬ (Wait.exited == Wait.regang) = true
    decide
  · rw [ho u hu hne]
    decide

/-- A `regang` while a unit is elsewhere lets its own unit wait. -/
theorem regang_elsewhere {e : Bool} {s : State} (h : issues (regangIssue e) s) (ht : targetIn s ((unit s s).pc + 4))
    (ho : ∃ u ∈ (grp s s).iunits, u.uid ≠ s.cur.2.2 ∧ u.wait ≠ .exited ∧ u.wait ≠ .regang) (hsteady : steady s) :
    ∃ t, exec (.regang e) s = Slice0.Next t ∧ (unit s t).wait = .regang ∧ (unit s t).pc = (unit s s).pc + 4 ∧ onlyUnit s t := by
  obtain ⟨hown, hothers⟩ := left_elsewhere (b := s) (x := regangIssue e) (va := (unit s s).pc + 4) (after := .regang)
    h.1 rfl ho hsteady s.ictx.clk.toNat
  refine ⟨_, exec_regang h ht, ?_, ?_, onlyUnit_leaves (leftGroup_frame ..) hothers⟩
  · rw [unit, grp_leaves rfl, hown, renewed_wait]
    rfl
  · rw [unit, grp_leaves rfl, hown, renewed_eq]
    rfl

/-- The only unit of its group goes on behind its `regang`. -/
theorem regang_alone {e : Bool} {s : State} (h : issues (regangIssue e) s) (ht : targetIn s ((unit s s).pc + 4))
    (hone : (grp s s).iunits = [unit s s]) :
    ∃ t, exec (.regang e) s = Slice0.Next t ∧ jumped s t ((unit s s).pc + 4) (unit s s).loops ∧ onlyUnit s t := by
  have he : e = true := boundary_of_clean h.2.1 rfl
  subst he
  have hunits : (leftGroup s s (regangIssue true) ((unit s s).pc + 4) .regang).iunits =
      [leftUnit (regangIssue true) (grp s s) (unit s s) (.leave ((unit s s).pc + 4)) .regang] := by
    rw [leftGroup, finishUnit_iunits, hone]
    simp [updWhere]
  have hmerged := regang_single hunits rfl s.ictx.clk.toNat
  have huid : (renewed s.ictx.clk.toNat (leftUnit (regangIssue true) (grp s s) (unit s s) (.leave ((unit s s).pc + 4)) .regang)).uid = (unit s s).uid :=
    renewed_uid _ _
  refine ⟨_, exec_regang h ht, ?_, onlyUnit_leaves (leftGroup_frame ..) fun uid hne => ?_⟩
  · unfold jumped
    rw [unit, grp_leaves rfl, iunit_single hmerged (huid.trans (unit_uid h.1)), renewed_eq]
    exact ⟨rfl, rfl, rfl, rfl, rfl, rfl, rfl⟩
  · have hne' : (unit s s).uid ≠ uid := unit_uid h.1 ▸ hne.symm
    rw [iunit_single_ne hmerged (fun hu => hne' (huid.symm.trans hu)), iunit_single_ne hone hne']

/-- Where every other unit has exited or waits at a `regang`, and the issuing one comes to either, those that wait merge. -/
theorem merged_left {s b : State} (hcur : b.cur = s.cur) (hr : ready s) (hb : (grp s b).iunits = (grp s s).iunits) (x : Issue) {after : Wait}
    (ho : ∀ u ∈ (grp s s).iunits, u.uid ≠ s.cur.2.2 → u.wait = .exited ∨ u.wait = .regang) (ha : after = .exited ∨ after = .regang) (clk : Nat) :
    merged s (leaves b ((leftGroup s b x ((unit s s).pc + 4) after).regang clk))
      (ganged s ++ if after = .regang then [{ unit s s with pc := (unit s s).pc + 4 }] else []) := by
  unfold merged
  rw [grp_leaves hcur]
  refine mergesTo_of_alike (mergesTo_regang (left_waits hr hb ho ha) clk) (fun u hu => ?_) (fun v hv => ?_)
  · rcases List.mem_append.1 hu with hu | hu
    · obtain ⟨hu, hne, hw⟩ : u ∈ (grp s s).iunits ∧ u.uid ≠ s.cur.2.2 ∧ u.wait = .regang := by simpa [ganged] using hu
      exact ⟨u, List.mem_filter.2 ⟨(mem_left hr hb).2 (.inr ⟨hu, hne⟩), beq_iff_eq.2 hw⟩, rfl, rfl, rfl⟩
    · rcases ha with rfl | rfl
      · simp at hu
      · obtain rfl : u = { unit s s with pc := (unit s s).pc + 4 } := by simpa using hu
        exact ⟨_, List.mem_filter.2 ⟨(mem_left hr hb).2 (.inl rfl), rfl⟩, rfl, rfl, rfl⟩
  · obtain ⟨hv, hw⟩ := List.mem_filter.1 hv
    rcases (mem_left hr hb).1 hv with rfl | ⟨hv, hne⟩
    · obtain rfl : after = .regang := by simpa [leftUnit] using hw
      exact ⟨_, List.mem_append_right _ (List.mem_singleton.2 rfl), rfl, rfl, rfl⟩
    · exact ⟨v, List.mem_append_left _ (by simpa [ganged, hv, hne] using hw), rfl, rfl, rfl⟩

/-- The second part of O16. -/
theorem exitAndRegang : unitEndsPart := by
  refine ⟨fun e s h ho hst => exit_elsewhere h ho hst, fun e s h ho => exit_last h ho, fun e s h ht ho hst => regang_elsewhere h ht ho hst,
    fun e s h ht hone => regang_alone h ht hone, fun e s _ ho => ⟨fun h ht => ⟨_, exec_regang h ht, ?_⟩, fun h => ⟨_, exec_exit h, ?_⟩⟩⟩
  · exact merged_left rfl h.1 rfl _ ho (.inr rfl) _
  · simpa using merged_left (flushed_cur s) h.1 (iunits_flushed s) _ ho (.inl rfl) _

/-- Settles O16: each instruction is reduced to the group that it leaves; units that wait at a `regang` merge by induction on the list of them. -/
theorem unitEnds : Obligations.UnitEnds := ⟨yieldAndSafe, exitAndRegang⟩

end Sys2Proof.Slice0.Scheduling
end

section
/-! PROOF. O56 fails where a core lists its slots in no rising order: the slot of a completed task is listed again, and freeing it once leaves the task. -/

namespace Sys2Proof.Slice0.Scheduling

open Sys2Proof.Machine Sys2Proof.Slice0

/-- A machine whose core lists slot 65 before slot 64, each once, with a task in slot 64 that has exited. The table is none that `mput` makes, which keeps slots rising. -/
def slotsFalling : State :=
  let g : Group := { holder := .task, iunits := [{ wait := .exited }] }
  { State.reset with cores := [(0, { groups := [(65, {}), (64, g)] })], args := { slot := 64 } }

/-- Who holds slot 64 of core 0 after a step. -/
def holderAfter (r : Host.Outcome State Fault Refusal) : Option Holder :=
  match r with
  | .next t => some (t.group 0 64).holder
  | _ => none

/-- The retiring task is marked in front of slot 65, and its slot is freed there; the entry behind slot 65 stays. -/
theorem retire_leaves_task : holderAfter (exec .groupRetire slotsFalling) = some .task := by decide +kernel

/-- Refutes O56: a task that completes need not leave its slot free, although its core lists the slot once. Its completion marks the group before it frees the slot, and where the slots of the
core are not listed in rising order `mput` lists the marked group anew instead of over the old one. -/
theorem not_taskEvents : ¬ Obligations.TaskEvents := by
  unfold Obligations.TaskEvents groupsEnd
  rintro ⟨-, ends, -⟩
  obtain ⟨-, -, -, retires, -⟩ := ends slotsFalling
  obtain ⟨-, -, -, -, -, completes⟩ := retires (by decide +kernel) (by decide +kernel) rfl (by decide +kernel) (by decide +kernel) (by unfold listedOnce; decide +kernel)
  obtain ⟨t, ht, hfree, -⟩ := completes (by decide +kernel) (by decide +kernel) rfl rfl (by decide +kernel) (by decide +kernel) (by decide +kernel) rfl
  have hleft := retire_leaves_task
  rw [ht] at hleft
  exact absurd ((Option.some.inj hleft).symm.trans hfree) (by decide)

end Sys2Proof.Slice0.Scheduling
end

section
/-! PROOF. `cfetch` (O26): the segment it names, and the operation that it enters. -/

namespace Sys2Proof.Slice0.Cores

open Sys2Proof.Machine Sys2Proof.Slice0 Sys2Proof.Slice0.ButusFabric Sys2Proof.Slice0.Scheduling

/-- A memory operation that nothing holds back and that finds room on its path enters it, and is performed at once where it must be. -/
theorem enterMem_enteredNow {x : Ictx} {s : State} {now : Bool} {o : Op} (hu : unheld x s o) (hr : (s.group x.c x.sl).inFlight o.path < 63) :
    enterMem x s now o = .fin (enteredNow x s now o) {} [] .seq .ready := by
  have hu' : s.heldBack x.c x.sl (o.withHints x.u.hints) = none := hu
  unfold enterMem
  simp only [hu']
  rw [enterOp_enters (o := o.withHints x.u.hints) hr]
  rfl

/-- The address of the 4 KiB segment that a `cfetch` names. -/
def segmentAt (x : Ictx) (r : BitVec 7) (p : BitVec 15) : Nat := ((x.readS r).setWidth 57 + ((p.signExtend 57 : Va) <<< 12)).toNat / 4096 * 4096

/-- The load of a segment, as it enters its path. -/
def segmentLoad (t ia : Nat) (so : Bool) : Op :=
  { seq := 0, path := 5, pc := 0, kind := .cfetch, dvec := false, addrs := [t], ias := [ia], reqs := [(0, [])], so := so }

/-- What `cfetch` does once it has passed decode. -/
def fetchBody (r : BitVec 7) (p : BitVec 15) (x : Ictx) (s : State) : Done :=
  match (s.part x.g.part).xlate (segmentAt x r p) 4096 { rd := true, user := !x.g.privileged } with
  | .error _ => .trap 0x08 (d64 (segmentAt x r p))
  | .ok (ia, so) => enterMem x s false (segmentLoad (segmentAt x r p) ia so)

theorem exec_cfetch (e : Bool) (r : BitVec 7) (p : BitVec 15) (s : State) :
    exec (.cfetch e r p) s = issue { i := .cfetch e r p, e := e, fields := [sSrcF r] } s (fetchBody r p) := rfl

/-- Settles O26: the body of `cfetch` enters the load where a register grants the segment, and else traps. -/
theorem codeFetch : Obligations.CodeFetch := by
  unfold Obligations.CodeFetch
  intro e r p s _ hc hr t
  rw [exec_cfetch]
  constructor
  · intro ia so hx o s1 hu hn
    refine issue_goesOn hc rfl rfl ?_ hn
    have hx' : (s.part s.ictx.g.part).xlate (segmentAt s.ictx r p) 4096 { rd := true, user := !s.ictx.g.privileged } = .ok (ia, so) := hx
    simp only [fetchBody, hx']
    exact enterMem_enteredNow hu hr
  · intro v hx
    refine issue_trapped hc rfl rfl ?_
    have hx' : (s.part s.ictx.g.part).xlate (segmentAt s.ictx r p) 4096 { rd := true, user := !s.ictx.g.privileged } = .error v := hx
    simp only [fetchBody, hx']
    rfl

end Sys2Proof.Slice0.Cores
end

section
/-! PROOF. O24 fails at a vector register without lanes: its lane addresses and its lane sums differ there. -/

namespace Sys2Proof.Slice0.Cores

open Sys2Proof.Machine Sys2Proof.Slice0 Sys2Proof.Slice0.ButusFabric

/-- Refutes O24: as for O44, `laneAddrs` adds the scalar base to every active lane, `Ictx.sums` only to the lanes that the address register lists. From a register that lists
none, `ldg` traps RANGE_FAULT with TRX 0 where the statement has the base, 0x100. -/
theorem not_accessTraps : ¬ Obligations.AccessTraps := by
  unfold Obligations.AccessTraps
  rintro ⟨-, globals, -⟩
  have hready : ready laneless := ⟨by decide +kernel, by decide +kernel⟩
  have h := (globals (.ldg true 1 2 2 4) _ laneless rfl (by decide +kernel) hready (by unfold clean; decide +kernel) (by decide +kernel)).1 0x100
    (by decide +kernel)
  have hstated : trxAfter (exec (.ldg true 1 2 2 4) laneless) = some 0x100 := by rw [h]; decide +kernel
  have hgiven : trxAfter (exec (.ldg true 1 2 2 4) laneless) = some 0 := by decide +kernel
  exact absurd (hgiven.symm.trans hstated) (by decide)

end Sys2Proof.Slice0.Cores
end

section
/-! PROOF. Vector branches (O13): where the unit goes on at a flush point, and how it parts by slices. -/

namespace Sys2Proof.Slice0.Cores

open Sys2Proof.Machine Sys2Proof.Slice0 Sys2Proof.Slice0.Scheduling

/-! ### What an instruction at a flush point reads -/

/-- The issuing unit as the body of an instruction at a flush point sees it. -/
def flushedIctx (s : State) : Ictx := { s.ictx with g := grp s (flushed s) }

@[simp] theorem active_flushedIctx (s : State) : (flushedIctx s).active = s.ictx.active := by
  rw [flushedIctx, grp_flushed]
  rfl

@[simp] theorem readV_flushedIctx (s : State) (c : BitVec 7) : (flushedIctx s).readV c = s.ictx.readV c := by
  rw [flushedIctx, grp_flushed]
  rfl

@[simp] theorem readS_flushedIctx (s : State) (c : BitVec 7) : (flushedIctx s).readS c = s.ictx.readS c := by
  rw [flushedIctx, grp_flushed]
  rfl

theorem part_flushed (s : State) : (grp s (flushed s)).part = (grp s s).part := by
  rw [grp_flushed]

theorem resident_flushed (s : State) (p seg : Nat) : ((flushed s).core s.cur.1).resident p seg = (s.core s.cur.1).resident p seg := by
  rw [Core.resident, frames_flushed, Core.resident]

/-- The flush leaves what is resident of where the unit goes on. -/
theorem nextResident_flushed {s : State} {next : Machine.Next} {after : Wait} (h : nextResident s s.cur.1 s.cur.2.1 s.cur.2.2 next after) :
    nextResident (flushed s) s.cur.1 s.cur.2.1 s.cur.2.2 next after :=
  nextResident_congr (frames_flushed s _) (part_flushed s) (congrArg IUnit.pc (unit_flushed s)) (congrArg IUnit.loops (unit_flushed s)) h

/-! ### Where a unit stands that has ended its run -/

section
variable {s b : State} {x : Issue} {g : Group} {u : IUnit} {next : Machine.Next}

theorem unit_leaves (hcur : b.cur = s.cur) (hany : g.iunits.any (fun v => v.uid == u.uid) = true) (huid : u.uid = s.cur.2.2) :
    unit s (leaves b (finishUnit x g u {} [] next .ready)) = leftUnit x g u next .ready := by
  rw [unit, grp_leaves hcur, ← huid, finishUnit_iunit_self _ _ _ _ _ hany]

/-- An instruction that ends its run leaves its unit where it goes on. -/
theorem jumped_leaves (hcur : b.cur = s.cur) (he : x.e = true) (hany : g.iunits.any (fun v => v.uid == u.uid) = true) (huid : u.uid = s.cur.2.2) :
    jumped s (leaves b (finishUnit x g u {} [] next .ready)) (goesTo u next).1 (goesTo u next).2 := by
  unfold jumped
  rw [unit_leaves hcur hany huid, leftUnit, he]
  exact ⟨rfl, rfl, rfl, rfl, rfl, rfl, rfl⟩

/-- An instruction that changes no group of its own is all that its unit does. -/
theorem onlyUnit_finish (b : State) (hu : u.uid = b.cur.2.2) : onlyUnit b (leaves b (finishUnit x (grp b b) u {} [] next .ready)) :=
  onlyUnit_leaves (finishUnit_frame ..) fun _ hne => finishUnit_iunit_ne _ _ _ _ _ (hu ▸ hne)

end

/-- An instruction at a flush point that ends its run and does nothing else leaves its unit where it goes on. -/
theorem issue_jumps {x : Issue} {s : State} {body : Ictx → State → Done} {next : Machine.Next} (h : issuesFlush x s) (hf : x.flush = true) (hm : x.mustEnd = true)
    (hb : body (flushedIctx s) (flushed s) = .fin (flushed s) {} [] next .ready) (hres : nextResident s s.cur.1 s.cur.2.1 s.cur.2.2 next .ready) :
    ∃ u, issue x s body = Slice0.Next u ∧ jumped s u (goesTo (unit s s) next).1 (goesTo (unit s s) next).2 ∧ onlyUnit (flushed s) u := by
  obtain ⟨hready, hclean, htile, hroom⟩ := h
  have hcur := flushed_cur s
  have huid := unit_uid hready
  have hany : (grp s (flushed s)).iunits.any (fun v => v.uid == (unit s s).uid) = true := by
    rw [iunits_flushed]
    exact any_unit hready
  refine ⟨leaves (flushed s) (finishUnit x (grp s (flushed s)) (unit s s) {} [] next .ready), ?_, jumped_leaves hcur (boundary_of_clean hclean hm) hany huid, ?_⟩
  · rw [issue_flush_fin x s _ body _ _ _ _ hf hclean htile hroom hb (nextResident_flushed hres), completed_self hcur, unit_flushed]
  · rw [← grp_flushed_self]
    exact onlyUnit_finish _ (by rw [hcur, huid])

/-! ### The body of a vector branch -/

/-- A group with one more unit, which the slices that take a branch form at its target (R109). -/
def withBranch (x : Ictx) (take : BitVec 8) (va : Va) (g : Group) : Group :=
  let v : IUnit := { x.u with uid := g.nextUid, slices := take, pc := va, pos := 0, chain := [], hints := {}, due := [], streak := x.u.streak + 1 }
  { g with iunits := g.iunits ++ [v], nextUid := g.nextUid + 1 }

/-- A group whose unit parts: it goes on with the slices that do not take the branch (R109). -/
def partInto (x : Ictx) (take : BitVec 8) (va : Va) (g : Group) : Group :=
  (withBranch x take va g).setUnit { (withBranch x take va g).iunit x.u.uid with slices := x.u.slices &&& ~~~take }

/-- What a vector branch does once it has passed decode and the window is flushed. -/
def branchBody (all : Bool) (t : BitVec 2) (r : BitVec 7) (p : BitVec 15) (x : Ictx) (s : State) : Done :=
  let take := slicesTaking all t.toNat x.active x.u.slices (x.readV r)
  if take == 0 then .fin s {} [] .seq .ready
  else if take == x.u.slices then .fin s {} [] (.to (x.target p)) .ready
  else if (segOf (x.target p) != segOf x.u.pc) && ((s.core x.c).resident x.g.part (segOf (x.target p))).isNone then
    .trap 0x06 (d64 (x.target p).toNat)
  else .fin (s.setGroup x.c x.sl (partInto x take (x.target p) (s.group x.c x.sl))) {} [] .seq .ready

/-- Both vector branches issue that body, at a flush point and as the end of their run. -/
theorem exec_branch (e all : Bool) (t : BitVec 2) (r : BitVec 7) (p : BitVec 15) (s : State) :
    exec (if all then .brvAll e t r p else .brvAny e t r p) s =
      issue { i := if all then .brvAll e t r p else .brvAny e t r p, e := e, fields := [vSrcF r], mustEnd := true, flush := true } s (branchBody all t r p) := by
  cases all <;> rfl

section
variable {s : State} {all : Bool} {t : BitVec 2} {r : BitVec 7} {p : BitVec 15} {take : BitVec 8}

/-- A target that is resident needs no trap. -/
theorem target_resident (ht : targetIn s (disp s p)) :
    ((segOf (disp s p) != segOf (unit s s).pc) && (((flushed s).core s.cur.1).resident (grp s (flushed s)).part (segOf (disp s p))).isNone) = false := by
  rw [resident_flushed, part_flushed]
  by_cases hseg : segOf (disp s p) = segOf (unit s s).pc
  · simp [hseg]
  · obtain ht | ht := ht
    · cases ht
    · have hres : ((s.core s.cur.1).resident (grp s s).part (segOf (disp s p))).isSome = true := ht (disp s p) (if_neg hseg)
      rw [Option.isNone_eq_false_iff.2 hres, Bool.and_false]

variable (htake : slicesTaking all t.toNat s.ictx.active (unit s s).slices (s.ictx.readV r) = take)
include htake

theorem branchBody_eq : branchBody all t r p (flushedIctx s) (flushed s) =
    if take == 0 then .fin (flushed s) {} [] .seq .ready
    else if take == (unit s s).slices then .fin (flushed s) {} [] (.to (disp s p)) .ready
    else if (segOf (disp s p) != segOf (unit s s).pc) && (((flushed s).core s.cur.1).resident (grp s (flushed s)).part (segOf (disp s p))).isNone then
      .trap 0x06 (d64 (disp s p).toNat)
    else .fin ((flushed s).setGroup s.cur.1 s.cur.2.1 (partInto (flushedIctx s) take (disp s p) (grp s (flushed s)))) {} [] .seq .ready := by
  have htake' : slicesTaking all t.toNat (flushedIctx s).active (flushedIctx s).u.slices ((flushedIctx s).readV r) = take := by
    rw [active_flushedIctx, readV_flushedIctx]
    exact htake
  dsimp only [branchBody]
  rw [htake']
  rfl

end

/-! ### The parted group -/

section
variable {s : State} (take : BitVec 8) (va : Va)

/-- The unit that the slices that take a branch form, and the unit that goes on with the others. -/
def branching (s : State) (take : BitVec 8) (va : Va) : IUnit :=
  { unit s s with uid := (grp s s).nextUid, slices := take, pc := va, pos := 0, chain := [], hints := {}, due := [], streak := (unit s s).streak + 1 }
def staying (s : State) (take : BitVec 8) : IUnit := { unit s s with slices := (unit s s).slices &&& ~~~take }

/-- The issuing group behind the flush, with the unit that takes the branch, and with its own unit parted. -/
def joined (s : State) (take : BitVec 8) (va : Va) : Group := withBranch (flushedIctx s) take va (grp s (flushed s))
def parted (s : State) (take : BitVec 8) (va : Va) : Group := partInto (flushedIctx s) take va (grp s (flushed s))

theorem iunits_joined : (joined s take va).iunits = (grp s s).iunits ++ [branching s take va] := by
  rw [joined, grp_flushed]
  rfl

theorem any_joined (hr : ready s) : (joined s take va).iunits.any (fun v => v.uid == (staying s take).uid) = true := by
  rw [iunits_joined, List.any_append, show (grp s s).iunits.any (fun v => v.uid == (staying s take).uid) = true from any_unit hr, Bool.true_or]

theorem iunit_joined (hr : ready s) : (joined s take va).iunit (unit s s).uid = unit s s := by
  obtain ⟨u, hu⟩ := Option.isSome_iff_exists.1 (List.find?_isSome.2 (List.any_eq_true.1 hr.1))
  rw [unit_uid hr, unit, Group.iunit, Group.iunit, iunits_joined, List.find?_append, hu]
  rfl

theorem parted_eq (hr : ready s) : parted s take va = (joined s take va).setUnit (staying s take) := by
  show (joined s take va).setUnit { (joined s take va).iunit (unit s s).uid with slices := (unit s s).slices &&& ~~~take } = _
  rw [iunit_joined take va hr]
  rfl

theorem part_parted : (parted s take va).part = (grp s s).part := by
  rw [parted, grp_flushed]
  rfl

theorem iunit_parted (hr : ready s) : (parted s take va).iunit s.cur.2.2 = staying s take := by
  rw [parted_eq take va hr, ← unit_uid hr]
  exact Group.iunit_setUnit _ _ (any_joined take va hr)

theorem any_parted (hr : ready s) : (parted s take va).iunits.any (fun v => v.uid == (staying s take).uid) = true := by
  rw [parted_eq take va hr]
  obtain ⟨v, hv, hvu⟩ := List.any_eq_true.1 (any_joined take va hr)
  exact List.any_eq_true.2 ⟨_, List.mem_map.2 ⟨v, hv, if_pos hvu⟩, beq_self_eq_true _⟩

/-- With a number above those of all units, the new unit is the one of its number. -/
theorem iunit_parted_new (hr : ready s) (hnew : ∀ u ∈ (grp s s).iunits, u.uid < (grp s s).nextUid) :
    (parted s take va).iunit (grp s s).nextUid = branching s take va := by
  have hnone : (grp s s).iunits.find? (fun u => u.uid == (grp s s).nextUid) = none :=
    List.find?_eq_none.2 fun u hu => by simpa using (hnew u hu).ne
  have hne : (grp s s).nextUid ≠ (staying s take).uid := by
    obtain ⟨u, hu, huid⟩ := List.any_eq_true.1 (any_unit hr)
    exact ((beq_iff_eq.1 huid) ▸ hnew u hu).ne'
  rw [parted_eq take va hr, iunit_setUnit_ne _ _ hne, Group.iunit, iunits_joined, List.find?_append, hnone]
  simp [branching]

end

/-- A vector branch that only some slices take parts its unit. -/
theorem branch_parts {s : State} {x : Issue} {body : Ictx → State → Done} {take : BitVec 8} {va : Va} (h : issuesFlush x s) (hf : x.flush = true) (hm : x.mustEnd = true)
    (hb : body (flushedIctx s) (flushed s) = .fin ((flushed s).setGroup s.cur.1 s.cur.2.1 (parted s take va)) {} [] .seq .ready) (hn : nextIn s) :
    ∃ u, issue x s body = Slice0.Next u ∧ ((∀ u ∈ (grp s s).iunits, u.uid < (grp s s).nextUid) →
      jumped s u (loopStep (unit s s).pc (unit s s).loops).1 (loopStep (unit s s).pc (unit s s).loops).2 ∧ unit s u = leftUnit x (parted s take va) (staying s take) .seq .ready ∧
      (grp s u).iunit (grp s s).nextUid = branching s take va) := by
  obtain ⟨hready, hclean, htile, hroom⟩ := h
  have hcur := flushed_cur s
  have huid : (staying s take).uid = s.cur.2.2 := unit_uid hready
  have hunit := iunit_parted take va hready
  have hany := any_parted take va hready
  have hres : nextResident ((flushed s).setGroup s.cur.1 s.cur.2.1 (parted s take va)) s.cur.1 s.cur.2.1 s.cur.2.2 .seq .ready := by
    refine nextResident_congr ?_ ?_ ?_ ?_ hn
    · simp [frames_flushed]
    · rw [State.group_setGroup_self]
      exact part_parted take va
    · rw [State.group_setGroup_self, hunit]; rfl
    · rw [State.group_setGroup_self, hunit]; rfl
  have hleft : unit s (leaves (flushed s) (finishUnit x (parted s take va) (staying s take) {} [] .seq .ready)) = leftUnit x (parted s take va) (staying s take) .seq .ready :=
    unit_leaves hcur hany huid
  have hjump := jumped_leaves (next := .seq) hcur (boundary_of_clean hclean hm) hany huid
  refine ⟨leaves (flushed s) (finishUnit x (parted s take va) (staying s take) {} [] .seq .ready), ?_, fun hnew => ⟨hjump, hleft, ?_⟩⟩
  · rw [issue_flush_fin x s _ body _ _ _ _ hf hclean htile hroom hb hres, completed_setGroup hcur, hunit]
  · rw [grp_leaves hcur, finishUnit_iunit_ne, iunit_parted_new _ _ hready hnew]
    obtain ⟨u, hu, hu'⟩ := List.any_eq_true.1 (any_unit hready)
    exact (beq_iff_eq.1 hu' ▸ hnew u hu).ne'

/-- Settles O13: no slice takes the branch, all do, or some. -/
theorem vectorBranches : Obligations.VectorBranches := by
  unfold Obligations.VectorBranches
  rintro e all t r p s i rfl h ht hn take
  generalize htake : take = tk
  rw [exec_branch]
  have hbody := branchBody_eq (t := t) (r := r) (p := p) (all := all) (s := s) htake
  by_cases h0 : tk = 0
  · obtain ⟨u, hu, hj, ho⟩ := issue_jumps h rfl rfl (next := .seq) (hbody.trans (if_pos (beq_iff_eq.2 h0))) hn
    exact ⟨u, hu, fun _ => ⟨hj, ho⟩, fun h => absurd h0 h, fun h => absurd h0 h⟩
  replace hbody := hbody.trans (if_neg (by simpa using h0))
  by_cases hall : tk = (unit s s).slices
  · obtain ⟨u, hu, hj, ho⟩ := issue_jumps h rfl rfl (next := .to (disp s p)) (hbody.trans (if_pos (beq_iff_eq.2 hall))) ht
    exact ⟨u, hu, fun h => absurd h h0, fun _ _ => ⟨hj, ho⟩, fun _ h => absurd hall h⟩
  · obtain ⟨u, hu, hparts⟩ := branch_parts h rfl rfl (hbody.trans ((if_neg (by simpa using hall)).trans (if_neg (Bool.eq_false_iff.1 (target_resident ht))))) hn
    refine ⟨u, hu, fun h => absurd h h0, fun _ h => absurd h hall, fun _ _ hnew => ?_⟩
    obtain ⟨hj, hunit, hbranch⟩ := hparts hnew
    rw [hunit, hbranch]
    exact ⟨hj, rfl, rfl, rfl, rfl, rfl, rfl, rfl, rfl, h.1.2⟩

end Sys2Proof.Slice0.Cores
end

section
/-! PROOF. Where a result stands after its instruction: the end of an instruction with a latch value and writes of its own. -/

namespace Sys2Proof.Slice0.Cores

open Sys2Proof.Machine Sys2Proof.Slice0 Sys2Proof.Slice0.Scheduling

section
variable (x : Issue) (g : Group) (u : IUnit) (latch : Latch) (writes : List DueWrite) (next : Machine.Next) (after : Wait)

/-- A group once the due writes of its unit have landed, those of the instruction behind the others: those of one slot, at a run boundary all. -/
def landedWith : Group :=
  let r := landOne g (u.due ++ writes)
  if x.e then landAll r.1 r.2 else r.1

/-- The unit that an instruction leaves, with its latch value and its writes. -/
def leftWith : IUnit :=
  { leftUnit x g u next after with
    due := if x.e then [] else (landOne g (u.due ++ writes)).2, chain := if x.e then [] else (latch :: u.chain).take 8 }

theorem finishUnit_with : finishUnit x g u latch writes next after = (landedWith x g u writes).setUnit (leftWith x g u latch writes next after) := by
  unfold finishUnit landedWith leftWith leftUnit
  cases next <;> cases x.e <;> rfl

theorem landedWith_frame : g.sameButRegs (landedWith x g u writes) := by
  unfold landedWith
  dsimp only
  split
  · exact Group.sameButRegs_trans (landOne_frame _ _) (landAll_frame _ _)
  · exact landOne_frame _ _

theorem finishUnit_with_frame : finishUnit x g u latch writes next after =
    { g with sregs := (landedWith x g u writes).sregs, vregs := (landedWith x g u writes).vregs,
             iunits := (finishUnit x g u latch writes next after).iunits } := by
  have h := landedWith_frame x g u writes
  unfold Group.sameButRegs at h
  rw [finishUnit_with]
  unfold Group.setUnit
  rw [h]

theorem landedWith_iunits : (landedWith x g u writes).iunits = g.iunits := by
  have h := landedWith_frame x g u writes
  unfold Group.sameButRegs at h
  rw [h]

theorem finishUnit_with_ne {uid : Nat} (h : uid ≠ u.uid) : (finishUnit x g u latch writes next after).iunit uid = g.iunit uid := by
  rw [finishUnit_with, iunit_setUnit_ne _ (leftWith x g u latch writes next after) h, Group.iunit, landedWith_iunits]
  rfl

end

section
variable {x : Issue} {g : Group} {u : IUnit}

/-- A scalar result of one slot stands in its register, unless an earlier write of the register lands behind it at the boundary. -/
theorem landedWith_scalar {d : Nat} {v : Dword} (h : x.e = true → ∀ w ∈ u.due, w.w.namesS d = false) :
    (landedWith x g u [{ left := 1, w := .s d v }]).sreg d = v := by
  unfold landedWith
  simp only [landOne_append, le_refl, if_true, List.append_nil, Group.apply_s]
  split
  · next he => rw [landAll_sreg _ _ _ (landOne_due_namesS d _ g (h he)), Group.sreg_setS_self]
  · exact Group.sreg_setS_self _ _ _

/-- A vector register that no due write names keeps what it held beside a scalar result. -/
theorem landedWith_vreg {writes : List DueWrite} {n : Nat} (h : ∀ w ∈ u.due, w.w.namesV n = false) (hw : ∀ w ∈ writes, w.w.namesV n = false) :
    (landedWith x g u writes).vreg n = g.vreg n := by
  have hall : ∀ w ∈ u.due ++ writes, w.w.namesV n = false := fun w hm => (List.mem_append.1 hm).elim (h w) (hw w)
  unfold landedWith
  dsimp only
  split
  · rw [landAll_vreg _ _ _ (landOne_due_namesV n _ g hall), landOne_vreg n _ g hall]
  · exact landOne_vreg n _ g hall

end

/-! ### The state that it leaves -/

section
variable {s b : State} (hcur : b.cur = s.cur) (x : Issue) (latch : Latch) (writes : List DueWrite) (next : Machine.Next) (after : Wait)
include hcur

theorem completed_with_setGroup (g : Group) :
    completed x s (b.setGroup s.cur.1 s.cur.2.1 g) latch writes next after = leaves b (finishUnit x g (g.iunit s.cur.2.2) latch writes next after) := by
  rw [completed, leaves, hcur, setGroup_setGroup, State.group_setGroup_self]

theorem completed_with_self : completed x s b latch writes next after = leaves b (finishUnit x (grp s b) (unit s b) latch writes next after) := by
  rw [completed, leaves, hcur]
  rfl

end

/-- The end of an instruction leaves the quarters of its core. -/
theorem quarter_leaves {s b : State} (hcur : b.cur = s.cur) (g : Group) (q : Nat) : ((leaves b g).core s.cur.1).quarter q = (b.core s.cur.1).quarter q := by
  rw [← hcur]
  simp [leaves, Core.quarter]

end Sys2Proof.Slice0.Cores
end

section
/-! PROOF. Register units (O18): what `rgive` and `rclaim` move between the group and the pool of its quarter. -/

namespace Sys2Proof.Slice0.Cores

open Sys2Proof.Machine Sys2Proof.Slice0 Sys2Proof.Slice0.Scheduling Sys2Proof.Slice0.ButusFabric

/-! ### rgive -/

/-- The vector registers of the k top units of n, lowest first. -/
def topRegs (n k : Nat) : List Nat := (List.range (8 * k)).map (fun i => 8 * (n - k) + i)

theorem mem_topRegs {n k r : Nat} (hk : k ≤ n) : r ∈ topRegs n k ↔ 8 * (n - k) ≤ r ∧ r < 8 * n := by
  simp only [topRegs, List.mem_map, List.mem_range]
  exact ⟨by rintro ⟨i, hi, rfl⟩; omega, fun ⟨h1, h2⟩ => ⟨r - 8 * (n - k), by omega, by omega⟩⟩

/-- The pool of a quarter with k units more, which the slots that lack units take first (R132). -/
def quarterGiven (q : Quarter) (k : Nat) : Quarter := ({ q with pool := q.pool + k } : Quarter).fillShort

/-- What `rgive` does once it has passed decode. -/
def giveBody (k : BitVec 4) (x : Ictx) (s : State) : Done :=
  match (topRegs x.g.units k.toNat).find? x.g.vPending with
  | some r => .trap 0x04 (d64 r)
  | none =>
    finPlain ((if x.sl < 64 then s.setCore x.c ((s.core x.c).setQuarter (quarterOf x.sl) (quarterGiven ((s.core x.c).quarter (quarterOf x.sl)) k.toNat)) else s).onGroup x
      (fun g => { g with units := x.g.units - k.toNat }))

theorem exec_rgive (e : Bool) (k : BitVec 4) (s : State) :
    exec (.rgive e k) s = issue { i := .rgive e k, e := e, illegal := decide ((grp s s).units ≤ k.toNat) } s (giveBody k) := rfl

/-- `rgive` of fewer units than held is no illegal word. -/
theorem exec_rgive_legal {e : Bool} {k : BitVec 4} {s : State} (hk : k.toNat < (grp s s).units) :
    exec (.rgive e k) s = issue { i := .rgive e k, e := e } s (giveBody k) := by
  rw [exec_rgive, decide_eq_false (Nat.not_le.2 hk)]

theorem rgive_illegal {e : Bool} {k : BitVec 4} {s : State} (hr : ready s) (hk : (grp s s).units ≤ k.toNat) :
    exec (.rgive e k) s = Slice0.Next (s.trapNow s.cur.1 s.cur.2.1 s.cur.2.2 0x01 (d64 ((encode (.rgive e k)).getD 0).toNat) (unit s s).pc (unit s s).pc) := by
  rw [exec_rgive, decide_eq_true hk]
  exact issue_trap _ s _ _ _ hr.2 rfl

theorem rgive_pending {e : Bool} {k : BitVec 4} {s : State} {r : Nat} (hc : clean { i := .rgive e k, e := e } s) (hk : k.toNat < (grp s s).units)
    (hlo : 8 * ((grp s s).units - k.toNat) ≤ r) (hhi : r < 8 * (grp s s).units) (hp : (grp s s).vPending r = true)
    (hfirst : ∀ q, 8 * ((grp s s).units - k.toNat) ≤ q → q < r → (grp s s).vPending q = false) :
    exec (.rgive e k) s = Slice0.Next (trapped s 0x04 (d64 r)) := by
  rw [exec_rgive_legal hk]
  refine issue_trapped hc rfl rfl ?_
  have hfind : (topRegs s.ictx.g.units k.toNat).find? s.ictx.g.vPending = some r := by
    refine List.find?_eq_some_iff_getElem.2 ⟨hp, r - 8 * ((grp s s).units - k.toNat), ?_, ?_, fun j hj => ?_⟩
    · simp only [topRegs, List.length_map, List.length_range]
      show _ < 8 * k.toNat
      omega
    · simp only [topRegs, List.getElem_map, List.getElem_range]
      exact Nat.add_sub_cancel' hlo
    · simp only [topRegs, List.getElem_map, List.getElem_range]
      rw [show s.ictx.g = grp s s from rfl, hfirst _ (by omega) (by omega)]
      rfl
  simp only [giveBody, hfind]

/-! ### The quarter of the issuing group -/

/-- The quarter of the issuing group, and the machine with another in its place. -/
def quarterAt (s : State) : Quarter := (s.core s.cur.1).quarter (quarterOf s.cur.2.1)
def withQuarter (s : State) (q : Quarter) : State := s.setCore s.cur.1 ((s.core s.cur.1).setQuarter (quarterOf s.cur.2.1) q)

section
variable (s : State) (q : Quarter)

theorem quarterAt_withQuarter : ((withQuarter s q).core s.cur.1).quarter (quarterOf s.cur.2.1) = q := by
  simp [withQuarter]

/-- A change of a quarter leaves every group of the core. -/
theorem grp_withQuarter : grp s (withQuarter s q) = grp s s := by
  simp [grp, State.group, withQuarter]

variable {s q} in
theorem nextAt_withQuarter {g : Group} (hp : g.part = (grp s s).part) (hu : g.iunits = (grp s s).iunits) (hn : nextIn s) :
    nextAt s ((withQuarter s q).setGroup s.cur.1 s.cur.2.1 g) := by
  have hunit : g.iunit s.cur.2.2 = unit s s := by rw [Group.iunit, hu]; rfl
  refine nextResident_congr ?_ ?_ ?_ ?_ hn
  · simp [withQuarter]
  · rw [State.group_setGroup_self, hp]; rfl
  · rw [State.group_setGroup_self, hunit]; rfl
  · rw [State.group_setGroup_self, hunit]; rfl

end

/-- The issuing group with k units fewer. -/
def without (s : State) (k : Nat) : Group := { grp s s with units := (grp s s).units - k }

/-- The machine once k units are in the pool of the issuing group's quarter. -/
def pooled (s : State) (k : Nat) : State := withQuarter s (quarterGiven (quarterAt s) k)

theorem pooled_cur (s : State) (k : Nat) : (pooled s k).cur = s.cur := rfl

/-- `rgive` of units that no operation writes goes on without them. -/
theorem rgive_gives {e : Bool} {k : BitVec 4} {s : State} (h : issues { i := .rgive e k, e := e } s) (hk : k.toNat < (grp s s).units) (hsl : s.cur.2.1 < 64)
    (hfree : ∀ r, 8 * ((grp s s).units - k.toNat) ≤ r → r < 8 * (grp s s).units → (grp s s).vPending r = false) :
    exec (.rgive e k) s = Slice0.Next (leaves (pooled s k.toNat) (finishUnit { i := .rgive e k, e := e } (without s k.toNat) (unit s s) {} [] .seq .ready)) := by
  obtain ⟨-, hc, hn⟩ := h
  rw [exec_rgive_legal hk]
  have hfind : (topRegs s.ictx.g.units k.toNat).find? s.ictx.g.vPending = none :=
    List.find?_eq_none.2 fun r hr => by
      obtain ⟨hlo, hhi⟩ := (mem_topRegs hk.le).1 hr
      exact Bool.eq_false_iff.1 (hfree r hlo hhi)
  have hbody : giveBody k s.ictx s = .fin ((pooled s k.toNat).setGroup s.cur.1 s.cur.2.1 (without s k.toNat)) {} [] .seq .ready := by
    simp only [giveBody, hfind]
    rw [if_pos (show s.ictx.sl < 64 from hsl), State.onGroup]
    show finPlain ((pooled s k.toNat).setGroup s.cur.1 s.cur.2.1 { grp s (pooled s k.toNat) with units := _ }) = _
    rw [pooled, grp_withQuarter]
    rfl
  rw [issue_fin _ s _ _ _ _ _ _ rfl rfl hc hbody (nextAt_withQuarter rfl rfl hn), completed_setGroup (s := s) (b := pooled s k.toNat) rfl]
  rfl

/-! ### rclaim -/

/-- The group once it has claimed k units: their registers are as none had been written. -/
def claimed (s : State) (k : Nat) : Group :=
  { grp s s with units := (grp s s).units + k,
                 vregs := (grp s s).vregs.filter (fun r => !(decide (8 * (grp s s).units ≤ r.1) && decide (r.1 < 8 * ((grp s s).units + k)))) }

theorem mfind_filter_none {α : Type} {p : Nat × α → Bool} {n : Nat} (h : ∀ v, p (n, v) = false) : ∀ m : Map α, mfind (m.filter p) n = none
  | [] => rfl
  | (k, v) :: t => by
    have ih := mfind_filter_none h t
    by_cases hn : n = k
    · subst hn
      simpa [List.filter_cons, h v] using ih
    · rw [List.filter_cons]
      split
      · simpa [mfind, hn] using ih
      · exact ih

/-- A register of the claimed units reads zeros. -/
theorem vreg_claimed {s : State} {k r : Nat} (hlo : 8 * (grp s s).units ≤ r) (hhi : r < 8 * ((grp s s).units + k)) : (claimed s k).vreg r = {} := by
  rw [Group.vreg, mget, claimed, mfind_filter_none (by simp [hlo, hhi])]
  rfl

/-- The machine once k units have left the pool of the issuing group's quarter. -/
def drawn (s : State) (k : Nat) : State := withQuarter s { quarterAt s with pool := (quarterAt s).pool - k }

theorem drawn_cur (s : State) (k : Nat) : (drawn s k).cur = s.cur := rfl

/-- Whether a unit can claim k units: its quarter's pool has them, and the group stays within 12; a task claims of its own. -/
def canClaim (x : Ictx) (s : State) (k : Nat) : Bool :=
  (if x.sl < 64 then decide (k ≤ ((s.core x.c).quarter (quarterOf x.sl)).pool) else true) && decide (x.g.units + k ≤ 12)

theorem canClaim_iff {s : State} {k : Nat} (hsl : s.cur.2.1 < 64) : canClaim s.ictx s k = true ↔ k ≤ (quarterAt s).pool ∧ (grp s s).units + k ≤ 12 := by
  rw [canClaim, if_pos (show s.ictx.sl < 64 from hsl), Bool.and_eq_true, decide_eq_true_iff, decide_eq_true_iff]
  rfl

/-- What `rclaim` does once it has passed decode. -/
def claimBody (w : Bool) (d : BitVec 7) (k : BitVec 4) (x : Ictx) (s : State) : Done :=
  let n := x.g.units
  let q := (s.core x.c).quarter (quarterOf x.sl)
  if canClaim x s k.toNat then
    let s := if x.sl < 64 then s.setCore x.c ((s.core x.c).setQuarter (quarterOf x.sl) { q with pool := q.pool - k.toNat }) else s
    let fresh := fun (r : Nat × VReg) => decide (8 * n ≤ r.1) && decide (r.1 < 8 * (n + k.toNat))
    finScalar (s.onGroup x (fun g => { g with units := n + k.toNat, vregs := g.vregs.filter (fun r => !fresh r) })) w d 1 (d64 k.toNat)
  else finScalar s w d 1 0

theorem exec_rclaim (e w : Bool) (d : BitVec 7) (k : BitVec 4) (s : State) :
    exec (.rclaim e w d k) s = issue { i := .rclaim e w d k, e := e, fields := [sDstF d] } s (claimBody w d k) := rfl

/-- The latch value and the write of a scalar result of one slot. -/
def slotLatch (v : Dword) : Latch := { lat := 1, vec := false, val := v }
def slotWrites (w : Bool) (d : BitVec 7) (v : Dword) : List DueWrite := if w then [] else [{ left := 1, w := .s d.toNat v }]

section
variable {e w : Bool} {d : BitVec 7} {k : BitVec 4} {s : State}

theorem rclaim_claims (h : issues { i := .rclaim e w d k, e := e, fields := [sDstF d] } s) (hsl : s.cur.2.1 < 64) (hpool : k.toNat ≤ (quarterAt s).pool)
    (hmax : (grp s s).units + k.toNat ≤ 12) :
    exec (.rclaim e w d k) s = Slice0.Next (leaves (drawn s k.toNat) (finishUnit { i := .rclaim e w d k, e := e, fields := [sDstF d] } (claimed s k.toNat) (unit s s)
      (slotLatch (d64 k.toNat)) (slotWrites w d (d64 k.toNat)) .seq .ready)) := by
  obtain ⟨-, hc, hn⟩ := h
  have hbody : claimBody w d k s.ictx s =
      .fin ((drawn s k.toNat).setGroup s.cur.1 s.cur.2.1 (claimed s k.toNat)) (slotLatch (d64 k.toNat)) (slotWrites w d (d64 k.toNat)) .seq .ready := by
    dsimp only [claimBody]
    rw [if_pos ((canClaim_iff hsl).2 ⟨hpool, hmax⟩), if_pos (show s.ictx.sl < 64 from hsl), State.onGroup]
    show finScalar ((drawn s k.toNat).setGroup s.cur.1 s.cur.2.1 { grp s (drawn s k.toNat) with units := _, vregs := (grp s (drawn s k.toNat)).vregs.filter _ }) _ _ _ _ = _
    rw [drawn, grp_withQuarter]
    rfl
  rw [exec_rclaim, issue_fin _ s _ _ _ _ _ _ rfl rfl hc hbody (nextAt_withQuarter rfl rfl hn), completed_with_setGroup (s := s) (b := drawn s k.toNat) rfl]
  rfl

theorem rclaim_refused (h : issues { i := .rclaim e w d k, e := e, fields := [sDstF d] } s) (hsl : s.cur.2.1 < 64)
    (hno : (quarterAt s).pool < k.toNat ∨ 12 < (grp s s).units + k.toNat) :
    exec (.rclaim e w d k) s = Slice0.Next (leaves s (finishUnit { i := .rclaim e w d k, e := e, fields := [sDstF d] } (grp s s) (unit s s)
      (slotLatch 0) (slotWrites w d 0) .seq .ready)) := by
  obtain ⟨-, hc, hn⟩ := h
  have hbody : claimBody w d k s.ictx s = .fin s (slotLatch 0) (slotWrites w d 0) .seq .ready := by
    dsimp only [claimBody]
    rw [if_neg (mt (canClaim_iff hsl).1 (by omega))]
    rfl
  rw [exec_rclaim, issue_fin _ s _ _ _ _ _ _ rfl rfl hc hbody hn, completed_with_self rfl]

/-- The register of a scalar result of one slot after its instruction. -/
theorem sreg_slot {s b : State} (hcur : b.cur = s.cur) {x : Issue} {g : Group} {v : Dword} (hw : w = false) (hdue : x.e = true → ¬ dueS s d.toNat) {latch : Latch} {next : Machine.Next}
    {after : Wait} : (grp s (leaves b (finishUnit x g (unit s s) latch (slotWrites w d v) next after))).sreg d.toNat = v := by
  subst hw
  rw [grp_leaves hcur, finishUnit_with_frame]
  exact landedWith_scalar fun he => by simpa [dueS] using hdue he

end

/-- Settles O18: what `rgive` and `rclaim` leave, and when they trap or answer 0. -/
theorem registerUnits : Obligations.RegisterUnits := by
  unfold Obligations.RegisterUnits
  refine ⟨?_, fun e k s hr hk => rgive_illegal hr hk, fun e k s r _ hc hk hlo hhi hp hfirst => rgive_pending hc hk hlo hhi hp hfirst, ?_, ?_⟩
  · intro e k s h hk hsl hfree
    have hpool := (quarter_leaves (pooled_cur s k.toNat) (finishUnit { i := .rgive e k, e := e } (without s k.toNat) (unit s s) {} [] .seq .ready) (quarterOf s.cur.2.1)).trans
      (quarterAt_withQuarter ..)
    refine ⟨_, rgive_gives h hk hsl hfree, ?_, ⟨hpool, fun hshort => ?_⟩, ?_, ?_⟩
    · rw [grp_leaves (pooled_cur s k.toNat), finishUnit_frame]
      rfl
    · rw [hpool, quarterGiven, Quarter.fillShort]
      dsimp only
      rw [show (quarterAt s).short = [] from hshort]
      rfl
    · exact inOrder_leaves (g1 := without s k.toNat) (pooled_cur s k.toNat) (any_unit h.1) (unit_uid h.1) rfl rfl rfl
    · exact keeps_leaves (g1 := without s k.toNat) (u1 := unit s s) (pooled_cur s k.toNat) rfl rfl rfl (finishUnit_sregs ..) (finishUnit_vregs ..)
  · intro e w d k s h hsl hpool hmax
    have hcur := drawn_cur s k.toNat
    refine ⟨_, rclaim_claims h hsl hpool hmax, ?_, ?_, fun r hlo hhi hdue => ?_, fun hw hdue => ?_⟩
    · rw [grp_leaves hcur, finishUnit_with_frame]
      rfl
    · rw [quarter_leaves hcur, drawn, quarterAt_withQuarter]
      rfl
    · rw [grp_leaves hcur, finishUnit_with_frame]
      refine (landedWith_vreg (g := claimed s k.toNat) (by simpa [dueV] using hdue) ?_).trans (vreg_claimed hlo hhi)
      cases w <;> simp [slotWrites, RegWrite.namesV]
    · rw [sreg_slot hcur hw hdue]
      exact BitVec.eq_of_toNat_eq (by simp [d64])
  · intro e w d k s h hsl hno
    refine ⟨_, rclaim_refused h hsl hno, onlyUnit_leaves ?_ ?_, fun hw hdue => sreg_slot rfl hw hdue⟩
    · rw [finishUnit_with_frame]
    · exact fun uid hne => finishUnit_with_ne _ _ _ _ _ _ _ (by rwa [unit_uid h.1])

end Sys2Proof.Slice0.Cores
end

section
/-! PROOF. SFU instructions (O27): the entry that one takes in its quarter's queue, and how the oldest entry completes. -/

namespace Sys2Proof.Slice0.Cores

open Sys2Proof.Machine Sys2Proof.Slice0 Sys2Proof.Slice0.Scheduling Sys2Proof.Slice0.ButusFabric

/-! ### What stands beside the issuing group and its quarter -/

theorem core_leaves_ne {s b : State} (hcur : b.cur = s.cur) (g : Group) {c : Nat} (h : c ≠ s.cur.1) : (leaves b g).core c = b.core c := by
  rw [← hcur] at h
  rw [leaves, State.core_cycle_ne _ _ _ _ h, State.core_setGroup_ne _ _ _ _ _ h]

theorem quarter_setQuarter_ne (k : Core) {q n : Nat} (x : Quarter) (h : n ≠ q) : (k.setQuarter q x).quarter n = k.quarter n := mget_mput_ne _ _ _ _ _ h

theorem quarter_withQuarter_ne (s : State) (q : Quarter) {n : Nat} (h : n ≠ quarterOf s.cur.2.1) :
    ((withQuarter s q).core s.cur.1).quarter n = (s.core s.cur.1).quarter n := by
  rw [withQuarter, State.core_setCore_self, quarter_setQuarter_ne _ _ h]

/-! ### Counting events (R223) -/

/-- A group that differs in the adds that wait for their place at FXB only. -/
def sameButFx (g h : Group) : Prop := h = { g with fxAdds := h.fxAdds }

theorem sameButFx_trans {a b c : Group} (h : sameButFx a b) (k : sameButFx b c) : sameButFx a c := by
  unfold sameButFx at *
  rw [k, h]

theorem countEvent_sameButFx (g : Group) (fmt e n : Nat) : sameButFx g (g.countEvent fmt e n) := by
  unfold Group.countEvent
  split <;> rfl

theorem countEvents_sameButFx (g : Group) (fmt : Nat) (evs : List Ev) : sameButFx g (g.countEvents fmt evs) := by
  have step : ∀ (es : List Nat) (h : Group), sameButFx h (es.foldl (fun g e => g.countEvent fmt e (evs.filter (fun v => v.getLsbD e)).length) h) := by
    intro es
    induction es with
    | nil => exact fun _ => rfl
    | cons e es ih => exact fun h => sameButFx_trans (countEvent_sameButFx h fmt e _) (ih _)
  exact step _ g

/-! ### The entry -/

/-- Every SFU instruction issues the shape that they share. -/
theorem exec_sfu {i : Instr} {e : Bool} {d a : BitVec 7} {f : Nat → Nat → FpR} {s : State} (h : sfuSpec i = some (e, d, a, f)) :
    exec i s = sfuOp i e d a f s ∧ ({ i := i, e := e, fields := [vDstF d, vSrcF a] } : Issue).trapsAfter = false := by
  cases i <;> simp only [sfuSpec, reduceCtorEq, Option.some.injEq, Prod.mk.injEq] at h
  case rcp | rsqrt | sqrt | exp2 | log2 | sin | cos | tanh =>
    obtain ⟨rfl, rfl, rfl, rfl⟩ := h
    exact ⟨rfl, rfl⟩

/-- The operation of an SFU instruction, whose results are known as it enters (R126). -/
def sfuEntry (s : State) (d a : BitVec 7) (f : Nat → Nat → FpR) : Op :=
  { seq := 0, path := 6, pc := 0, kind := .sfu, d := d.toNat, dn := 1, mask := s.ictx.active, status := .performed,
    out := [.v d.toNat s.ictx.active (((s.ictx.readV a).map (fun v => f s.ictx.mode v.toNat)).map (fun r => w32 r.1)) 0 false] }

/-- The issuing group with the entry among its operations, and the events of its active lanes counted. -/
def sfuGroup (s : State) (d a : BitVec 7) (f : Nat → Nat → FpR) : Group :=
  ({ grp s s with ops := (grp s s).ops ++ [{ sfuEntry s d a f with seq := s.seq, pc := (unit s s).pc, priv := (grp s s).privileged }] } : Group).countEvents 0
    (activeEvents s.ictx.active ((s.ictx.readV a).map (fun v => f s.ictx.mode v.toNat)))

/-- The machine with the entry at the end of its quarter's queue. -/
def sfuQueued (s : State) : State := { withQuarter s { quarterAt s with sfu := (quarterAt s).sfu ++ [(s.cur.2.1, s.seq)] } with seq := s.seq + 1 }

/-- The machine once an operation has entered and its quarter's queue has become another. -/
def enteredQueue (s : State) (o : Op) (sfu : List (Nat × Nat)) : State :=
  let t := enteredRaw s.ictx s o
  t.setCore s.cur.1 ((t.core s.cur.1).setQuarter (quarterOf s.cur.2.1) { (t.core s.cur.1).quarter (quarterOf s.cur.2.1) with sfu := sfu })

theorem group_enteredQueue (s : State) (o : Op) (sfu : List (Nat × Nat)) : (enteredQueue s o sfu).group s.cur.1 s.cur.2.1 =
    { grp s s with ops := (grp s s).ops ++ [{ o with seq := s.seq, pc := (unit s s).pc, priv := (grp s s).privileged }] } := by
  have h : (enteredQueue s o sfu).group s.cur.1 s.cur.2.1 = (enteredRaw s.ictx s o).group s.cur.1 s.cur.2.1 := by
    simp [enteredQueue, State.group]
  rw [h]
  exact State.group_setGroup_self ..

/-- The order in which the group and the queue of its quarter are put makes no difference. -/
theorem enteredQueue_setGroup (s : State) (o : Op) (g : Group) :
    (enteredQueue s o ((quarterAt s).sfu ++ [(s.cur.2.1, s.seq)])).setGroup s.cur.1 s.cur.2.1 g = (sfuQueued s).setGroup s.cur.1 s.cur.2.1 g := by
  simp [enteredQueue, enteredRaw, sfuQueued, withQuarter, quarterAt, State.setGroup, State.setCore, State.core, Core.setGroup, Core.setQuarter, Core.quarter, State.ictx, mput_mput]

section
variable {i : Instr} {e : Bool} {d a : BitVec 7} {f : Nat → Nat → FpR} {s : State}

theorem sfuOp_idle (hc : clean { i := i, e := e, fields := [vDstF d, vSrcF a] } s) (ht : ({ i := i, e := e, fields := [vDstF d, vSrcF a] } : Issue).trapsAfter = false)
    (h0 : s.ictx.active = 0) (hn : nextIn s) : sfuOp i e d a f s = Slice0.Next (goesOn { i := i, e := e, fields := [vDstF d, vSrcF a] } s s) := by
  refine issue_goesOn hc rfl ht ?_ hn
  dsimp only
  rw [if_pos (beq_iff_eq.2 h0)]
  rfl

theorem iunits_sfuGroup : (sfuGroup s d a f).iunits = (grp s s).iunits := by
  rw [sfuGroup, countEvents_sameButFx]

theorem part_sfuGroup : (sfuGroup s d a f).part = (grp s s).part := by
  rw [sfuGroup, countEvents_sameButFx]

theorem iunit_sfuGroup : (sfuGroup s d a f).iunit s.cur.2.2 = unit s s := by
  rw [Group.iunit, iunits_sfuGroup]
  rfl

theorem sfuOp_enters (hc : clean { i := i, e := e, fields := [vDstF d, vSrcF a] } s) (ht : ({ i := i, e := e, fields := [vDstF d, vSrcF a] } : Issue).trapsAfter = false)
    (h0 : s.ictx.active ≠ 0) (hq : (quarterAt s).sfu.length < 16) (hr : room s 6) (hn : nextIn s) :
    sfuOp i e d a f s = Slice0.Next (leaves (sfuQueued s) (finishUnit { i := i, e := e, fields := [vDstF d, vSrcF a] } (sfuGroup s d a f) (unit s s) {} [] .seq .ready)) := by
  have hlen : ¬ 16 ≤ ((s.core s.ictx.c).quarter (quarterOf s.ictx.sl)).sfu.length := Nat.not_le.2 hq
  refine (issue_fin _ s ((sfuQueued s).setGroup s.cur.1 s.cur.2.1 (sfuGroup s d a f)) _ {} [] .seq .ready rfl ht hc ?_ ?_).trans ?_
  · dsimp only
    rw [if_neg (by simpa using h0), if_neg hlen]
    have hent : ∀ complete, enterOp s.ictx s complete (sfuEntry s d a f) = .fin (enteredRaw s.ictx s (sfuEntry s d a f)) {} [] .seq .ready := fun _ => enterOp_room hr
    unfold sfuEntry at hent
    rw [hent]
    have hstate : (enteredQueue s (sfuEntry s d a f) ((quarterAt s).sfu ++ [(s.cur.2.1, s.seq)])).onGroup s.ictx
        (fun g => g.countEvents 0 (activeEvents s.ictx.active ((s.ictx.readV a).map (fun v => f s.ictx.mode v.toNat)))) =
        (sfuQueued s).setGroup s.cur.1 s.cur.2.1 (sfuGroup s d a f) := by
      rw [State.onGroup, show s.ictx.c = s.cur.1 from rfl, show s.ictx.sl = s.cur.2.1 from rfl, group_enteredQueue, enteredQueue_setGroup]
      rfl
    exact congrArg (fun t => Done.fin t {} [] .seq .ready) hstate
  · refine nextResident_congr ?_ ?_ ?_ ?_ hn
    · simp [sfuQueued, withQuarter, State.core, State.setCore]
    · rw [State.group_setGroup_self, part_sfuGroup]; rfl
    · rw [State.group_setGroup_self, iunit_sfuGroup]; rfl
    · rw [State.group_setGroup_self, iunit_sfuGroup]; rfl
  · rw [completed_setGroup (s := s) (b := sfuQueued s) rfl, iunit_sfuGroup]

end

/-- The first part of O27: with no lane active nothing is done, else the entry is taken. -/
theorem sfuOps_enter : sfuOpsPart := by
  intro i e d a f s hf hr hc q rs o g1
  obtain ⟨he, ht⟩ := exec_sfu (s := s) hf
  rw [he]
  refine ⟨fun h0 hn => sfuOp_idle hc ht h0 hn, fun h0 hq hroom hn => ?_⟩
  have hcur : (sfuQueued s).cur = s.cur := rfl
  have hany : (sfuGroup s d a f).iunits.any (fun v => v.uid == (unit s s).uid) = true := by
    rw [iunits_sfuGroup]
    exact any_unit hr
  have hregs : (sfuGroup s d a f).sregs = (grp s s).sregs ∧ (sfuGroup s d a f).vregs = (grp s s).vregs := by
    rw [sfuGroup, countEvents_sameButFx]
    exact ⟨rfl, rfl⟩
  refine ⟨_, sfuOp_enters hc ht h0 hq hroom hn, rfl, ?_, ?_, ?_, fun n hne => ?_, fun c hne => ?_, inOrder_leaves hcur hany (unit_uid hr) rfl rfl rfl,
    keeps_leaves (u1 := unit s s) hcur hregs.1 hregs.2 rfl (finishUnit_sregs ..) (finishUnit_vregs ..)⟩
  · rw [grp_leaves hcur, finishUnit_frame]
    rfl
  · rw [grp_leaves hcur, finishUnit_frame]
    rfl
  · rw [quarter_leaves hcur]
    exact congrArg Quarter.sfu (quarterAt_withQuarter s _)
  · rw [quarter_leaves hcur]
    exact quarter_withQuarter_ne s _ hne
  · rw [core_leaves_ne hcur _ hne]
    exact State.core_setCore_ne _ _ _ _ hne

/-- The second part of O27: the oldest entry leaves the queue and its group. -/
theorem sfuEntry_completes : sfuCompletesPart := by
  intro s n sl rest o hq hop
  have hdone : s.sfuDone s.args.core s.args.quarter = s.setCore s.args.core (((s.core s.args.core).setGroup sl ((s.group s.args.core sl).retireOp o)).setQuarter s.args.quarter
      { (s.core s.args.core).quarter s.args.quarter with sfu := rest }) := by
    unfold State.sfuDone
    simp only [hq, hop]
  refine ⟨s.sfuDone s.args.core s.args.quarter, rfl, ?_⟩
  rw [hdone]
  refine ⟨?_, ?_, fun k hk => ?_, fun c hc => State.core_setCore_ne _ _ _ _ hc, rfl⟩
  · rw [State.core_setCore_self, Core.quarter_setQuarter_self]
  · rw [State.group, State.core_setCore_self, Core.group_setQuarter, Core.group_setGroup_self]
  · rw [State.group, State.core_setCore_self, Core.group_setQuarter, Core.group_setGroup_ne _ _ _ _ hk]
    rfl

/-- Settles O27: the entry that an instruction takes, and the oldest that completes. -/
theorem sfuOps : Obligations.SfuOps := ⟨sfuOps_enter, sfuEntry_completes⟩

end Sys2Proof.Slice0.Cores
end

section
/-! PROOF. Taking a trap (O30): the group and the core that it settles first, and the two ways that it goes on. -/

namespace Sys2Proof.Slice0.Cores

open Sys2Proof.Machine Sys2Proof.Slice0 Sys2Proof.Slice0.Scheduling

/-! ### What a trap settles (R127, R142) -/

/-- The core once the window is flushed and the SFU entries of the group are complete. -/
def settledCore (s : State) (c sl : Nat) : Core := (drainSfu ((s.flush c sl).core c) sl ((s.flush c sl).group c sl)).1

theorem drainSfu_frames (k : Core) (sl : Nat) (g : Group) : (drainSfu k sl g).1.frames = k.frames := by
  unfold drainSfu
  dsimp only
  split <;> rfl

theorem frames_flush (s : State) (c sl d : Nat) : ((s.flush c sl).core d).frames = (s.core d).frames := by
  rcases flush_shape s c sl with h | ⟨n, ops, -, h⟩ <;> rw [h]
  by_cases hd : d = c
  · subst hd
    simp
  · rw [State.core_setCore_ne _ _ _ _ hd]

theorem pkg_flush (s : State) (c sl : Nat) : (s.flush c sl).pkg = s.pkg := by
  rcases flush_shape s c sl with h | ⟨n, ops, -, h⟩ <;> rw [h]
  rfl

theorem resident_settledCore (s : State) (c sl p seg : Nat) : (settledCore s c sl).resident p seg = (s.core c).resident p seg := by
  rw [Core.resident, settledCore, drainSfu_frames, frames_flush, Core.resident]

/-! ### Where it goes on -/

/-- What is captured of a group at entry, with the core's next entry number (R118, R220). -/
def captureOf (g : Group) (cut uid : Nat) (resume : Va) (inst : Option Nat) : TrapSave :=
  let u := g.iunit uid
  { stat := g.stat, uid := uid, pos := u.pos, chain := u.chain, hints := u.hints, due := u.due, loops := u.loops, old := u.due.map (fun w => g.held w.w), resume := resume,
    inst := inst, arrived := u.arrived, passed := u.passed, cut := cut }

/-- What is captured, field by field; a write holds what its register held at entry. -/
theorem captureOf_holds (g : Group) (cut uid : Nat) (resume : Va) (inst : Option Nat) : let v := captureOf g cut uid resume inst
    let u := g.iunit uid
    v.stat = g.stat ∧ v.uid = uid ∧ v.pos = u.pos ∧ v.chain = u.chain ∧ v.hints = u.hints ∧ v.due = u.due ∧ v.loops = u.loops ∧ v.resume = resume ∧
      v.inst = inst ∧ v.arrived = u.arrived ∧ v.passed = u.passed ∧ v.traWritten = false ∧ v.old.length = u.due.length ∧
      ∀ (j : Nat) (w : DueWrite), u.due[j]? = some w → (∀ n x, w.w = .s n x → v.old[j]? = some (.s n (g.sreg n))) ∧
        (∀ n m ls tag p, w.w = .v n m ls tag p → v.old[j]? = some (.v n 0xFFFFFFFF (g.vreg n).lanes (g.vreg n).ptag (g.vreg n).poison)) ∧
        (∀ n tag, w.w = .tag n tag → v.old[j]? = some (.tag n (g.vreg n).ptag)) := by
  intro v u
  refine ⟨rfl, rfl, rfl, rfl, rfl, rfl, rfl, rfl, rfl, rfl, rfl, rfl, List.length_map _, fun j w hw => ?_⟩
  have hold : v.old[j]? = some (g.held w.w) := by simp [v, u, captureOf, hw]
  rw [hold]
  exact ⟨fun n x hx => by rw [hx]; rfl, fun n m ls tag p hx => by rw [hx]; rfl, fun n tag hx => by rw [hx]; rfl⟩

section
variable (t : State) (k : Core) (g : Group) (c sl uid cause : Nat) (trx : Dword) (tra resume : Va) (inst : Option Nat)

/-- The address of the cause's handler, and the unit that goes on there. -/
def handlerVa : Va := b57 (g.trv.toNat + 64 * cause)
def handlerUnit : IUnit :=
  { g.iunit uid with
    pc := handlerVa g cause, loops := [], pos := 0, chain := [], hints := {}, due := [], wait := .ready, arrived := false, passed := false, awaits := [] }

/-- No handler takes a trap inside a handler, without one set, or with one that is not resident. -/
def unhandled : Bool := statInTrapBit g.stat || g.trv == 0 || (k.resident g.part (segOf (handlerVa g cause))).isNone

/-- The group with the trap's registers written, and the one that goes on at the handler. -/
def trapGroup : Group := { g with trc := d64 cause, tra := d64 tra.toNat, trx := trx, pinStall := false }
def handlerGroup : Group :=
  { trapGroup g cause trx tra with stat := statInTrap g.stat, save := some (captureOf g k.entries uid resume inst) }.setUnit (handlerUnit g uid cause)

/-- A trap, once the window is flushed and the SFU entries are complete, which leaves the core and the group given. -/
def trapTaken : State :=
  let t := t.setCore c (k.setGroup sl g)
  if unhandled k g cause then (t.setGroup c sl (trapGroup g cause trx tra)).endGroup c sl 5 else t.setGroup c sl (handlerGroup k g uid cause trx tra resume inst)

theorem takeTrap_eq (s : State) : s.takeTrap c sl uid cause trx tra resume inst =
    trapTaken (s.flush c sl) (settledCore s c sl) (settledGroup s c sl) c sl uid cause trx tra resume inst := by
  unfold State.takeTrap settledCore settledGroup
  dsimp only
  generalize s.flush c sl = t
  generalize drainSfu (t.core c) sl (t.group c sl) = r
  rfl

theorem unhandled_iff : unhandled k g cause = false ↔
    statInTrapBit g.stat = false ∧ g.trv ≠ 0 ∧ (k.resident g.part (segOf (handlerVa g cause))).isSome = true := by
  rw [unhandled]
  simp [and_assoc, Option.isSome_iff_ne_none]

/-- Whether a handler takes it or not, the trap's registers are written and the others stand. -/
theorem trapTaken_registers : let h := (trapTaken t k g c sl uid cause trx tra resume inst).group c sl
    h.trc = d64 cause ∧ h.tra = tra.setWidth 64 ∧ h.trx = trx ∧ h.sregs = g.sregs ∧ h.vregs = g.vregs := by
  have htra : d64 tra.toNat = tra.setWidth 64 := BitVec.eq_of_toNat_eq (by simp [d64])
  rw [← htra, trapTaken]
  split
  · simp only [State.endGroup, State.group, State.core_postMgmt, State.core_setGroup_self, Core.group_setGroup_self]
    exact ⟨rfl, rfl, rfl, rfl, rfl⟩
  · simp only [State.group_setGroup_self]
    exact ⟨rfl, rfl, rfl, rfl, rfl⟩

variable {k g uid cause}

/-- With a handler, its unit goes on there, with STAT and what was captured. -/
theorem trapTaken_handled (h : unhandled k g cause = false) (hv : ∃ v ∈ g.iunits, v.uid = uid) (hu : (g.iunit uid).uid = uid) :
    let r := (trapTaken t k g c sl uid cause trx tra resume inst).group c sl
    r.stat = g.stat ||| 3 ∧ r.iunit uid = handlerUnit g uid cause ∧ r.save = some (captureOf g k.entries uid resume inst) := by
  have hgroup : (trapTaken t k g c sl uid cause trx tra resume inst).group c sl = handlerGroup k g uid cause trx tra resume inst := by
    rw [trapTaken, if_neg (Bool.eq_false_iff.1 h), State.group_setGroup_self]
  rw [hgroup]
  refine ⟨rfl, ?_, rfl⟩
  have hany : g.iunits.any (fun v => v.uid == (handlerUnit g uid cause).uid) = true := by
    obtain ⟨v, hv, hvu⟩ := hv
    exact List.any_eq_true.2 ⟨v, hv, beq_iff_eq.2 (hvu.trans hu.symm)⟩
  have hunit := Group.iunit_setUnit { trapGroup g cause trx tra with stat := statInTrap g.stat, save := some (captureOf g k.entries uid resume inst) } _ hany
  rwa [show (handlerUnit g uid cause).uid = uid from hu] at hunit

/-- Without one, the group ends and the management engine is told. -/
theorem trapTaken_unhandled (h : unhandled k g cause = true) : let r := trapTaken t k g c sl uid cause trx tra resume inst
    (r.group c sl).ended = some 5 ∧ (∀ v ∈ (r.group c sl).iunits, v.wait = .exited) ∧ (r.group c sl).save = none ∧ r.pkg.events = t.pkg.events ++ [.trapUnresumed c sl] := by
  rw [trapTaken, if_pos h]
  refine ⟨?_, fun v hv => ?_, ?_, ?_⟩
  · simp [State.endGroup, State.group]
  · simp only [State.endGroup, State.group, State.core_postMgmt, State.core_setGroup_self, Core.group_setGroup_self] at hv
    obtain ⟨u, -, rfl⟩ := List.mem_map.1 hv
    rfl
  · simp [State.endGroup, State.group]
  · simp [State.endGroup]

end

/-- Settles O30: a trap writes its registers, and goes on at its handler or ends the group. -/
theorem trapEntry : Obligations.TrapEntry := by
  unfold Obligations.TrapEntry
  constructor
  · intro s c sl uid cause trx tra resume inst
    exact ⟨fun h => if_neg (Bool.eq_false_iff.1 h), fun h => if_pos h⟩
  intro s c sl uid cause trx tra resume inst
  dsimp only
  rw [takeTrap_eq, ← resident_settledCore s c sl, ← pkg_flush s c sl]
  generalize settledCore s c sl = k
  generalize settledGroup s c sl = g
  generalize s.flush c sl = t
  obtain ⟨htrc, htra, htrx, hsregs, hvregs⟩ := trapTaken_registers t k g c sl uid cause trx tra resume inst
  refine ⟨htrc, htra, htrx, hsregs, hvregs, fun hh hv hu => ?_, fun hh => trapTaken_unhandled t c sl trx tra resume inst (by rwa [← Bool.not_eq_false, unhandled_iff])⟩
  obtain ⟨hstat, hunit, hsave⟩ := trapTaken_handled t c sl trx tra resume inst ((unhandled_iff k g cause).2 hh) hv hu
  exact ⟨hstat, hunit, _, hsave, captureOf_holds ..⟩

end Sys2Proof.Slice0.Cores
end


section
/-! PROOF. Unit commands (O39): their shared issue, when a command finds room, and which core is a pair's follower. -/

namespace Sys2Proof.Slice0.Cores

open Sys2Proof.Machine Sys2Proof.Slice0 Sys2Proof.Slice0.ButusFabric

/-- Every command of majors 0x32 to 0x37 issues through the one shape that they share. -/
theorem exec_unitCommand {i : Instr} {e : Bool} {x y : BitVec 7} {s : State} (h : tlSpec i = some (e, x, y)) :
    exec i s = tlCmd i e x y s ∧ ({ i := i, e := e } : Issue).trapsAfter = false := by
  cases i <;> simp only [tlSpec, reduceCtorEq, Option.some.injEq, Prod.mk.injEq] at h
  case mma | mdr | wbl | ttr | tscale | tzero | tzeroAcc | tcvt | tadd | tmov | pqry | pdot | pdotr | pbnd | selk | selkx | psel | lmerge |
      lsort | ssrch =>
    obtain ⟨rfl, rfl, rfl⟩ := h
    exact ⟨rfl, rfl⟩

/-- A command stalls only where the scoreboard is full, and the window too where the command may wait in it. -/
theorem boardRoom_iff_notFull {s : State} {direct : Bool} : boardRoom s direct ↔
    (decide (64 ≤ (s.core s.ictx.c).entered.length) && (direct || decide (8 ≤ ((s.core s.ictx.c).group s.ictx.sl).windowOps.length))) = false := by
  simp only [Bool.and_eq_false_iff, Bool.or_eq_false_iff, decide_eq_false_iff_not, Nat.not_le]
  rfl

/-- With a place on the scoreboard, a command that does not wait in the window enters the scoreboard. -/
theorem enterCmd_direct {s : State} {m : Cmd} (hb : boardRoom s true) (hr : room s 4) :
    enterCmd s.ictx s true m = .fin (cmdEntered s true m) {} [] .seq .ready := by
  simp only [enterCmd, cmdEntered, boardRoom_iff_notFull.1 hb, Bool.false_eq_true, if_false, if_true]
  rw [enterOp_room hr]
  rfl

/-- With a place and fewer than 63 operations in flight on path 4, a newly captured command enters. -/
theorem enterCmd_enters {s : State} {direct : Bool} {m : Cmd} (hm : m.entry = 0) (hb : boardRoom s direct) (hr : room s 4) :
    enterCmd s.ictx s direct m = .fin (cmdEntered s direct m) {} [] .seq .ready := by
  cases direct with
  | false => exact enterCmd_window hm hb hr
  | true => exact enterCmd_direct hb hr

/-- With no place, the unit stalls while the commands of the scoreboard run. -/
theorem enterCmd_stalls {s : State} {direct : Bool} {m : Cmd} (hb : ¬ boardRoom s direct) :
    enterCmd s.ictx s direct m = .stall (s.boardMoves s.cur.1) := by
  rw [boardRoom_iff_notFull, Bool.not_eq_false] at hb
  unfold enterCmd
  simp only [hb, if_true]
  rfl

/-- The issuing core acts as a pair's follower: the pair's register says so, and a team is held. -/
def actsAsFollower (s : State) : Bool := match (s.core s.cur.1).role with | .follower _ _ _ => true | _ => false

theorem actsAsFollower_iff {s : State} : actsAsFollower s = true ↔ isFollower s := by
  have hteam : (s.core s.cur.1).groups.any (fun e => e.2.holder == .group) = true ↔
      ∃ e ∈ (s.core s.cur.1).groups, e.2.holder = .group := by simp
  unfold actsAsFollower isFollower Core.role
  rw [← hteam]
  cases (s.core s.cur.1).groups.any (fun e => e.2.holder == .group) with
  | false => simp
  | true => cases (s.core s.cur.1).pair <;> simp

/-- The command that a unit instruction captures. -/
def unitCommand (s : State) (i : Instr) (x y : BitVec 7) : Cmd :=
  captured s i (some (s.ictx.readS x)) (some (s.ictx.readS y)) (some ((grp s s).sreg (((encode i).getD 0).toNat % 64))) [] [] 0

/-- What a unit instruction does as it issues: a matrix command of a follower traps, every other is entered. -/
theorem tlCmd_body (i : Instr) (e : Bool) (x y : BitVec 7) (s : State) :
    ∃ body, tlCmd i e x y s = issue { i := i, e := e, fields := [sSrcF x, sSrcF y] } s body ∧
      body s.ictx s = if (decide ((unitCommand s i x y).unit = 2) && actsAsFollower s) = true then .trap 0x14 1
        else enterCmd s.ictx s (decide (0x36 ≤ ((encode i).getD 0).toNat / 2 ^ 25 % 64)) (unitCommand s i x y) := by
  unfold tlCmd
  refine ⟨_, rfl, ?_⟩
  simp only [nbits_zero]
  rfl

/-- Settles O39: a unit instruction issues the command it captures, and the command traps on a follower, enters, or stalls on a full scoreboard. -/
theorem unitCommands : Obligations.UnitCommands := by
  intro i e x y s h I w m _ hc
  obtain ⟨he, ht⟩ := exec_unitCommand (s := s) h
  obtain ⟨body, hbody, hs⟩ := tlCmd_body i e x y s
  rw [he, hbody]
  have enters (hf : m.unit = 2 → ¬ isFollower s) :
      body s.ictx s = enterCmd s.ictx s (decide (0x36 ≤ w / 2 ^ 25 % 64)) m := by
    refine hs.trans (if_neg fun hn => ?_)
    obtain ⟨h2, ha⟩ := (Bool.and_eq_true_iff).1 hn
    exact hf (of_decide_eq_true h2) (actsAsFollower_iff.1 ha)
  refine ⟨fun hb hr hf hn => issue_goesOn hc rfl ht ((enters hf).trans (enterCmd_enters rfl hb hr)) hn,
    fun hb hf => issue_stalls hc rfl ht ((enters hf).trans (enterCmd_stalls hb)), fun h2 hf => issue_trapped hc rfl ht ?_⟩
  exact hs.trans (if_pos ((Bool.and_eq_true_iff).2 ⟨decide_eq_true h2, actsAsFollower_iff.2 hf⟩))

end Sys2Proof.Slice0.Cores
end


section
/-! PROOF. `waitc` (O37): how an instruction takes a report as it issues, and the three ways of a wait. -/

namespace Sys2Proof.Slice0.Cores

open Sys2Proof.Machine Sys2Proof.Slice0 Sys2Proof.Slice0.ButusFabric

/-- One that passes decode and takes a report traps at the address of the report, once the window has room. -/
theorem issue_reports {x : Issue} {s s1 : State} {body : Ictx → State → Done} {cause : Nat} {trx : Dword} {tra : Va} {inst : Option Nat}
    (hc : clean x s) (hf : x.flush = false) (ht : x.trapsAfter = false) (hr : roomy s) (hb : body s.ictx s = .report s1 cause trx tra inst) :
    issue x s body = Slice0.Next (s1.trapNow s.cur.1 s.cur.2.1 s.cur.2.2 cause trx tra (unit s s).pc inst) := by
  have hb' : body { s.ictx with g := s.group s.ictx.c s.ictx.sl } s = .report s1 cause trx tra inst := hb
  have hr' : (s.flush s.ictx.c s.ictx.sl).windowLeft s.ictx.c s.ictx.sl = false := hr
  unfold issue
  simp only [show decodeTrap x s.ictx.g s.ictx.u = none from hc, hf, ht, Bool.or_self, Bool.false_and, ite_self,
    Bool.false_eq_true, if_false, hb', hr']
  rfl

/-- The reports of a path that its wait takes: in a handler no TILE_FAULT (R153). -/
def reportsOf (g : Group) (path : Nat) : List Report :=
  g.reports.filter (fun r => r.path == path && !(statInTrapBit g.stat && r.cause == 0x14))

/-- What `waitc` does once the state to look at is known: on path 4 the one with the window flushed. -/
def waitcFrom (s s0 : State) (n p : Nat) : Done :=
  if (decide (p = 4) && s0.windowLeft s.cur.1 s.cur.2.1) = true then .stall (s0.completePath s.cur.1 s.cur.2.1 p)
  else if n < (grp s s0).inFlight p then .stall (s0.completePath s.cur.1 s.cur.2.1 p)
  else match firstReport (reportsOf (grp s s0) p) with
    | some r => .report (s0.setGroup s.cur.1 s.cur.2.1 ((grp s s0).dropReport r)) r.cause r.trx (r.tra.getD (unit s s).pc) r.inst
    | none => finPlain s0

theorem exec_waitc (e : Bool) (n : BitVec 6) (p : BitVec 3) (s : State) :
    ∃ body, exec (.waitc e n p) s = issue { i := .waitc e n p, e := e } s body ∧
      body s.ictx s = waitcFrom s (if p.toNat = 4 then flushed s else s) n.toNat p.toNat := by
  change ∃ body, execWaitc e n p s = issue { i := .waitc e n p, e := e } s body ∧ _
  unfold execWaitc
  exact ⟨_, rfl, rfl⟩

section
variable {s s0 : State} {n p : Nat}

/-- With more operations in flight than it waits for, it stalls while the oldest of the path completes. -/
theorem waitcFrom_stalls (h : n < (grp s s0).inFlight p) :
    waitcFrom s s0 n p = .stall (s0.completePath s.cur.1 s.cur.2.1 p) := by
  rw [waitcFrom, if_pos h, ite_self]

/-- With few enough, and on path 4 an empty window, it looks at the reports of its path. -/
theorem waitcFrom_looks (hw : p = 4 → s0.windowLeft s.cur.1 s.cur.2.1 = false) (h : (grp s s0).inFlight p ≤ n) :
    waitcFrom s s0 n p = match firstReport (reportsOf (grp s s0) p) with
      | some r => .report (s0.setGroup s.cur.1 s.cur.2.1 ((grp s s0).dropReport r)) r.cause r.trx (r.tra.getD (unit s s).pc) r.inst
      | none => finPlain s0 := by
  unfold waitcFrom
  rw [if_neg (by simpa using hw), if_neg (Nat.not_lt.2 h)]

end

/-- Settles O37: a wait looks at the state of its path, and goes on, takes the first report, or stalls. -/
theorem waits : Obligations.Waits := by
  intro e n p s x s0 g mine _ hc
  obtain ⟨body, he, hbody⟩ := exec_waitc e n p s
  have hp : p.toNat = 4 ↔ p = 4 := by rw [← BitVec.toNat_inj]; rfl
  have hs0 : body s.ictx s = waitcFrom s s0 n.toNat p.toNat := by
    rw [hbody]
    simp only [hp]
    rfl
  have hw (hr : p = 4 → roomy s) (h4 : p.toNat = 4) : s0.windowLeft s.cur.1 s.cur.2.1 = false := by
    rw [show s0 = flushed s from if_pos (hp.1 h4)]
    exact hr (hp.1 h4)
  rw [he]
  refine ⟨fun hr hn hnone hnext => issue_goesOn hc rfl rfl ?_ hnext, fun r hr hn hsome => issue_reports hc rfl rfl hr ?_,
    fun hn => issue_stalls hc rfl rfl (hs0.trans (waitcFrom_stalls hn))⟩
  · rw [hs0, waitcFrom_looks (hw hr) hn, show firstReport (reportsOf (grp s s0) p.toNat) = none from hnone]
    rfl
  · rw [hs0, waitcFrom_looks (hw fun _ => hr) hn, show firstReport (reportsOf (grp s s0) p.toNat) = some r from hsome]

end Sys2Proof.Slice0.Cores
end


section
/-! PROOF. Barriers (O38): how an instruction at a flush point issues when it does not complete, a fence in its place, and how a barrier completes. -/

namespace Sys2Proof.Slice0.Cores

open Sys2Proof.Machine Sys2Proof.Slice0 Sys2Proof.Slice0.ButusFabric Sys2Proof.Slice0.Scheduling

/-! ### How an instruction that does not complete issues -/

section
variable {x : Issue} {s s1 : State} {body : Ictx → State → Done} {cause : Nat} {trx : Dword} {w : Wait}

/-- The window of the issuing group as `issue` looks for it. -/
theorem windowLeft_of_roomy (h : roomy s) : (s.flush s.ictx.c s.ictx.sl).windowLeft s.ictx.c s.ictx.sl = false := h

/-- At a flush point, a body that stalls spends a cycle in the state that it leaves. -/
theorem issue_flush_stalls (h : issuesFlush x s) (hf : x.flush = true) (hb : body (flushedIctx s) (flushed s) = .stall s1) :
    issue x s body = Slice0.Next (s1.cycle s.cur.1) := by
  obtain ⟨-, hc, ht, hr⟩ := h
  have hb' : body { s.ictx with g := (s.flush s.ictx.c s.ictx.sl).group s.ictx.c s.ictx.sl } (s.flush s.ictx.c s.ictx.sl) = .stall s1 := hb
  unfold issue
  simp only [show decodeTrap x s.ictx.g s.ictx.u = none from hc, hf, show s.ictx.g.tileFault = none from ht, Bool.true_or, Bool.true_and, ite_self, if_true,
    windowLeft_of_roomy hr, Bool.false_eq_true, if_false, hb']
  rfl

/-- At a flush point, a body that waits leaves its unit waiting. -/
theorem issue_flush_waits (h : issuesFlush x s) (hf : x.flush = true) (hb : body (flushedIctx s) (flushed s) = .wait s1 w) :
    issue x s body = Slice0.Next (waitsAt w s s1) := by
  obtain ⟨-, hc, ht, hr⟩ := h
  have hb' : body { s.ictx with g := (s.flush s.ictx.c s.ictx.sl).group s.ictx.c s.ictx.sl } (s.flush s.ictx.c s.ictx.sl) = .wait s1 w := hb
  unfold issue
  simp only [show decodeTrap x s.ictx.g s.ictx.u = none from hc, hf, show s.ictx.g.tileFault = none from ht, Bool.true_or, Bool.true_and, ite_self, if_true,
    windowLeft_of_roomy hr, Bool.false_eq_true, if_false, hb']
  rfl

/-- At a flush point, a body that traps traps with the window flushed. -/
theorem issue_flush_traps (h : issuesFlush x s) (hf : x.flush = true) (hb : body (flushedIctx s) (flushed s) = .trap cause trx) :
    issue x s body = Slice0.Next ((flushed s).trapNow s.cur.1 s.cur.2.1 s.cur.2.2 cause trx (unit s s).pc (unit s s).pc) := by
  obtain ⟨-, hc, ht, hr⟩ := h
  have hb' : body { s.ictx with g := (s.flush s.ictx.c s.ictx.sl).group s.ictx.c s.ictx.sl } (s.flush s.ictx.c s.ictx.sl) = .trap cause trx := hb
  unfold issue
  simp only [show decodeTrap x s.ictx.g s.ictx.u = none from hc, hf, show s.ictx.g.tileFault = none from ht, Bool.true_or, Bool.true_and, ite_self, if_true,
    windowLeft_of_roomy hr, Bool.false_eq_true, if_false, hb']
  rfl

/-- At a flush point, a body that has done everything itself spends a cycle in the state that it leaves. -/
theorem issue_flush_done (h : issuesFlush x s) (hf : x.flush = true) (hb : body (flushedIctx s) (flushed s) = .done s1) :
    issue x s body = Slice0.Next (s1.cycle s.cur.1) := by
  obtain ⟨-, hc, ht, hr⟩ := h
  have hb' : body { s.ictx with g := (s.flush s.ictx.c s.ictx.sl).group s.ictx.c s.ictx.sl } (s.flush s.ictx.c s.ictx.sl) = .done s1 := hb
  unfold issue
  simp only [show decodeTrap x s.ictx.g s.ictx.u = none from hc, hf, show s.ictx.g.tileFault = none from ht, Bool.true_or, Bool.true_and, ite_self, if_true,
    windowLeft_of_roomy hr, Bool.false_eq_true, if_false, hb']
  rfl

/-- At a flush point, a body that completes without a result goes on in order. -/
theorem issue_flush_goesOn (h : issuesFlush x s) (hf : x.flush = true) (hb : body (flushedIctx s) (flushed s) = .fin s1 {} [] .seq .ready) (hn : nextAt s s1) :
    issue x s body = Slice0.Next (goesOn x s s1) := by
  obtain ⟨-, hc, ht, hr⟩ := h
  exact issue_flush_fin x s s1 body {} [] .seq .ready hf hc ht hr hb hn

/-- Without a flush point, a body that waits leaves its unit waiting. -/
theorem issue_waits (hc : clean x s) (hf : x.flush = false) (ht : x.trapsAfter = false) (hb : body s.ictx s = .wait s1 w) :
    issue x s body = Slice0.Next (waitsAt w s s1) := by
  have hb' : body { s.ictx with g := s.group s.ictx.c s.ictx.sl } s = .wait s1 w := hb
  unfold issue
  simp only [show decodeTrap x s.ictx.g s.ictx.u = none from hc, hf, ht, Bool.or_self, Bool.false_and, ite_self,
    Bool.false_eq_true, if_false, hb']
  rfl

end

/-! ### A fence -/

section
variable {s s0 : State} {order scope : Nat} {o : Op} {go : State → Done}

theorem fenceWaits_iff : fenceWaits order scope o = true ↔ notYet order scope o := by
  unfold fenceWaits notYet
  simp

/-- What a fence does before it goes on, with everything performed that it waits for. -/
def fenced (s s1 : State) (order scope : Nat) : State :=
  let s2 := if order ≠ 1 then s1.landFrom s.cur.1 scope else s1
  if order ≠ 2 ∧ 2 ≤ scope then s2.l1Acquire s.cur.1 else s2

/-- A fence with an order looks at the operations of its group once it has had performed what it waits for. -/
theorem fenceDo_ordered (hne : order ≠ 0) : fenceDo (flushedIctx s) s0 order scope go =
    match (grp s (fencePerformed s s0 order)).ops.find? (fenceWaits order scope) with
    | some o => .stall (if o.path = 3 then (fencePerformed s s0 order).pathOn s.cur.1 s.cur.2.1 o.seq else fencePerformed s s0 order)
    | none => go (fenced s (fencePerformed s s0 order) order scope) := by
  have hfenced (s1 : State) : fenced s s1 order scope =
      (let s2 := if (order != 1) = true then s1.landFrom s.cur.1 scope else s1
      if (order != 2 && decide (2 ≤ scope)) = true then s2.l1Acquire s.cur.1 else s2) := by
    simp [fenced]
  rw [fenceDo, if_neg hne, hfenced]
  rfl

theorem fenceDo_goesOn (hne : order ≠ 0) (h : ∀ o ∈ (grp s (fencePerformed s s0 order)).ops, ¬ notYet order scope o) :
    fenceDo (flushedIctx s) s0 order scope go = go (fenced s (fencePerformed s s0 order) order scope) := by
  have hnone : (grp s (fencePerformed s s0 order)).ops.find? (fenceWaits order scope) = none :=
    List.find?_eq_none.2 fun o ho hw => h o ho (fenceWaits_iff.1 hw)
  rw [fenceDo_ordered hne, hnone]

theorem fenceDo_stalls {pre post : List Op} (hne : order ≠ 0) (h : (grp s (fencePerformed s s0 order)).ops = pre ++ o :: post)
    (hpre : ∀ p ∈ pre, ¬ notYet order scope p) (ho : notYet order scope o) : fenceDo (flushedIctx s) s0 order scope go =
      .stall (if o.path = 3 then (fencePerformed s s0 order).pathOn s.cur.1 s.cur.2.1 o.seq else fencePerformed s s0 order) := by
  have hsome : (grp s (fencePerformed s s0 order)).ops.find? (fenceWaits order scope) = some o := by
    rw [h, List.find?_append, List.find?_eq_none.2 fun p hp hw => hpre p hp (fenceWaits_iff.1 hw), Option.none_or]
    exact List.find?_cons_of_pos (fenceWaits_iff.2 ho)
  rw [fenceDo_ordered hne, hsome]

end

/-- An instruction at a flush point that fences and then goes on ends as a fence. -/
theorem issue_fences {x : Issue} {s : State} {body : Ictx → State → Done} {order scope : Nat} (h : issuesFlush x s) (hf : x.flush = true)
    (hb : body (flushedIctx s) (flushed s) = fenceDo (flushedIctx s) (flushed s) order scope finPlain) :
    fenceEnds s (flushed s) order scope (issue x s body) (nextAt s) (goesOn x s) := by
  unfold fenceEnds
  refine ⟨fun h0 hn => issue_flush_goesOn h hf ?_ hn, fun hne hdone hn => issue_flush_goesOn h hf (hb.trans (fenceDo_goesOn hne hdone)) hn,
    fun pre o post hne hops hpre ho => issue_flush_stalls h hf (hb.trans (fenceDo_stalls hne hops hpre ho))⟩
  rw [hb, h0]
  rfl

/-- With an empty window and no access, a fence of both orders has nothing to wait for. -/
theorem fence_idle {s : State} {scope : Nat} (hw : (grp s s).windowOps = []) (hm : ∀ o ∈ (grp s s).ops, o.kind.isMem = false) (hs : scope < 4) :
    fencePerformed s (flushed s) 3 = s ∧ ∀ o ∈ (grp s s).ops, ¬ notYet 3 scope o := by
  have hflush : flushed s = s := State.flush_empty _ _ _ hw
  constructor
  · rw [hflush, fencePerformed, List.filter_eq_nil_iff.2 fun o ho => by simp [hm o ho]]
    rfl
  · rintro o ho ⟨-, ⟨hmem, -⟩ | ⟨-, h4⟩⟩
    · simp [hm o ho] at hmem
    · exact Nat.not_le.2 hs h4

/-! ### `bar` and `barc` -/

/-- What an instruction at a barrier does as it issues. -/
def barBody (w : Wait) (scope : Nat) (x : Ictx) (s : State) : Done :=
  if x.g.isTask then fenceDo x s 3 scope finPlain
  else if x.u.passed then finPlain (if 2 ≤ scope then s.l1Acquire x.c else s)
  else .wait ((s.performAll x.c x.sl).landFrom x.c scope) w

/-- The two barrier instructions, their waits and scopes. -/
def barForm (i : Instr) (e : Bool) (w : Wait) (scope : Nat) : Prop := i = .bar e ∧ w = .bar ∧ scope = 1 ∨ i = .barc e ∧ w = .barc ∧ scope = 2

theorem exec_bar {i : Instr} {e : Bool} {w : Wait} {scope : Nat} {s : State} (h : barForm i e w scope) :
    exec i s = issue { i := i, e := e, flush := (grp s s).isTask } s (barBody w scope) ∧
      ({ i := i, e := e, flush := (grp s s).isTask } : Issue).trapsAfter = false ∧ scope < 4 := by
  rcases h with ⟨rfl, rfl, rfl⟩ | ⟨rfl, rfl, rfl⟩
  · exact ⟨rfl, rfl, by decide⟩
  · exact ⟨rfl, rfl, by decide⟩

theorem isTask_flushed (s : State) : (grp s (flushed s)).isTask = (grp s s).isTask := by
  rw [grp_flushed]
  rfl

/-- The first part of O38: a task's barrier is a fence, and a group's unit goes on or waits. -/
theorem bars : barriersPart := by
  intro e s i w scope hform I
  obtain ⟨he, ht, hscope⟩ := exec_bar (s := s) hform
  rw [he]
  refine ⟨fun htask h => ?_, fun htask _ hc hp hn => issue_goesOn hc htask ht ?_ hn, fun htask _ hc hp => issue_waits hc htask ht ?_⟩
  · have hb : barBody w scope (flushedIctx s) (flushed s) = fenceDo (flushedIctx s) (flushed s) 3 scope finPlain :=
      if_pos ((isTask_flushed s).trans htask)
    have hfence := issue_fences h htask hb
    refine ⟨hfence, ?_⟩
    intro hw hm s1 hn
    obtain ⟨hidle, hnone⟩ := fence_idle hw hm hscope
    obtain ⟨-, hgo, -⟩ := hfence
    rw [hidle] at hgo
    have hs1 : s1 = fenced s s 3 scope := by
      rcases hform with ⟨-, -, rfl⟩ | ⟨-, -, rfl⟩ <;> rfl
    rw [hs1] at hn ⊢
    exact hgo (by decide) hnone hn
  · exact (if_neg (Bool.eq_false_iff.1 htask)).trans (if_pos hp)
  · exact (if_neg (Bool.eq_false_iff.1 htask)).trans (if_neg (Bool.eq_false_iff.1 hp))

/-! ### How a barrier completes -/

section
variable {w : Wait} (hw : w ≠ .ready)

include hw in
/-- A group that goes on from a barrier is no longer at it. -/
theorem atBar_passBar (g : Group) : (g.passBar w).atBar w = false := by
  refine Bool.eq_false_iff.2 fun h => ?_
  simp only [Group.atBar, Bool.and_eq_true, Bool.not_eq_true', List.isEmpty_eq_false_iff_exists_mem] at h
  obtain ⟨⟨⟨u, hu⟩, hall⟩, -⟩ := h
  have hwait : u.wait = w := beq_iff_eq.1 (List.all_eq_true.1 hall u hu)
  obtain ⟨v, -, hv⟩ := List.mem_map.1 (List.mem_filter.1 hu).1
  by_cases hvw : v.wait = w
  · rw [if_pos (beq_iff_eq.2 hvw)] at hv
    rw [← hv] at hwait
    exact hw hwait.symm
  · rw [if_neg (fun h => hvw (beq_iff_eq.1 h))] at hv
    exact hvw (hv ▸ hwait)

/-- One of the groups that meet goes on, if it is at the barrier. -/
def passOne (w : Wait) (s : State) (p : Nat × Nat) : State :=
  if (s.group p.1 p.2).atBar w then s.setGroup p.1 p.2 ((s.group p.1 p.2).passBar w) else s

theorem group_setGroup_ne {s : State} {p : Nat × Nat} {d k : Nat} {g : Group} (h : (d, k) ≠ p) : (s.setGroup p.1 p.2 g).group d k = s.group d k := by
  by_cases hd : d = p.1
  · subst hd
    exact State.group_setGroup_slot _ _ _ _ _ fun hk => h (by rw [hk])
  · exact State.group_setGroup_core _ _ _ _ _ _ hd

theorem group_passOne (s : State) (p : Nat × Nat) (d k : Nat) :
    (passOne w s p).group d k = if (d, k) = p ∧ (s.group d k).atBar w = true then (s.group d k).passBar w else s.group d k := by
  unfold passOne
  by_cases hp : (d, k) = p
  · subst hp
    split <;> simp_all
  · rw [if_neg fun h : _ ∧ _ => hp h.1]
    split
    · exact group_setGroup_ne hp
    · rfl

theorem passOne_frame (s : State) (p : Nat × Nat) : ∃ cs, passOne w s p = { s with cores := cs } := by
  unfold passOne
  split
  · exact ⟨_, rfl⟩
  · exact ⟨s.cores, rfl⟩

/-- Nothing but the cores changes as groups go on. -/
theorem passAll_frame (ps : List (Nat × Nat)) (s : State) : ∃ cs, ps.foldl (passOne w) s = { s with cores := cs } := by
  induction ps generalizing s with
  | nil => exact ⟨s.cores, rfl⟩
  | cons p ps ih =>
    obtain ⟨cs, hcs⟩ := passOne_frame (w := w) s p
    obtain ⟨ds, hds⟩ := ih (passOne w s p)
    exact ⟨ds, by rw [List.foldl_cons, hds, hcs]⟩

include hw in
/-- Of the groups that meet, each that is at the barrier goes on, once; no other group changes. -/
theorem group_passAll (ps : List (Nat × Nat)) (s : State) (d k : Nat) :
    (ps.foldl (passOne w) s).group d k = if (d, k) ∈ ps ∧ (s.group d k).atBar w = true then (s.group d k).passBar w else s.group d k := by
  induction ps generalizing s with
  | nil => simp
  | cons p ps ih =>
    rw [List.foldl_cons, ih, group_passOne]
    by_cases hp : (d, k) = p ∧ (s.group d k).atBar w = true
    · rw [if_pos hp, atBar_passBar hw, if_neg (by simp), if_pos ⟨hp.1 ▸ List.mem_cons_self, hp.2⟩]
    · rw [if_neg hp]
      by_cases hbar : (s.group d k).atBar w = true
      · have hne : (d, k) ≠ p := fun h => hp ⟨h, hbar⟩
        simp [hbar, hne]
      · simp [hbar]

/-- All who meet at a barrier have arrived or gone. -/
def allMet (s : State) (c sl : Nat) (w : Wait) : Bool := (s.partners c sl w).all (fun p => (s.group p.1 p.2).atBar w || (s.group p.1 p.2).gone)

theorem releaseBar_eq (s : State) (c sl : Nat) : s.releaseBar c sl w =
    if ((s.partners c sl w).any (fun p => (s.group p.1 p.2).atBar w) && allMet s c sl w) = true then (s.partners c sl w).foldl (passOne w) s else s := rfl

/-- Where one of those who meet has neither arrived nor gone, nothing moves. -/
theorem releaseBar_waits {s : State} {c sl : Nat} (h : allMet s c sl w = false) : s.releaseBar c sl w = s := by
  rw [releaseBar_eq, h, Bool.and_false]
  rfl

/-- Where all have, every one that has arrived goes on, which is nothing where none has. -/
theorem releaseBar_completes {s : State} {c sl : Nat} (h : allMet s c sl w = true) : s.releaseBar c sl w = (s.partners c sl w).foldl (passOne w) s := by
  rw [releaseBar_eq, h, Bool.and_true]
  split
  · rfl
  case isFalse hnone =>
    have hstays (ps : List (Nat × Nat)) (hps : ∀ p ∈ ps, ¬ (s.group p.1 p.2).atBar w = true) : ps.foldl (passOne w) s = s := by
      induction ps with
      | nil => rfl
      | cons p ps ih =>
        rw [List.foldl_cons, show passOne w s p = s from if_neg (hps p List.mem_cons_self)]
        exact ih fun q hq => hps q (List.mem_cons_of_mem _ hq)
    exact (hstays _ fun p hp hbar => hnone (List.any_eq_true.2 ⟨p, hp, hbar⟩)).symm

end

theorem passBar_units (g : Group) (w : Wait) :
    (g.passBar w).iunits = g.iunits.map (fun u => if u.wait = w then { u with wait := .ready, passed := true } else u) := by
  simp [Group.passBar]

/-- The second part of O38: the barrier completes when all who meet there have arrived or gone. -/
theorem barrierCompletes : barrierCompletesPart := by
  constructor
  · intro s c sl w hw ps
    have hready : w ≠ .ready := by
      rcases hw with rfl | rfl <;> decide
    constructor
    · rintro ⟨p, hp, hbar, hgone⟩
      refine releaseBar_waits (Bool.eq_false_iff.2 fun hall => ?_)
      have := List.all_eq_true.1 hall p hp
      simp [hbar, hgone] at this
    · intro hall
      have hmet : allMet s c sl w = true := List.all_eq_true.2 fun p hp => Bool.or_eq_true_iff.2 (hall p hp)
      rw [releaseBar_completes hmet]
      refine ⟨?_, fun d k hp hbar => ?_, fun d k hno => ?_⟩
      · obtain ⟨cs, hcs⟩ := passAll_frame (w := w) ps s
        rw [hcs]
      · rw [group_passAll hready, if_pos ⟨hp, hbar⟩]
      · rw [group_passAll hready, if_neg]
        rintro ⟨hp, hbar⟩
        rcases hno with hno | hno
        · exact hno hp
        · simp [hno] at hbar
  · intro g w hw h
    refine ⟨passBar_units g w, ?_, ?_, rfl, rfl, rfl⟩
    · rintro rfl
      exact ⟨rfl, rfl⟩
    · rintro rfl
      exact ⟨rfl, rfl⟩

/-- Settles O38: units wait at a barrier, and the last to arrive lets all go on. -/
theorem barriers : Obligations.Barriers := ⟨bars, barrierCompletes⟩

end Sys2Proof.Slice0.Cores
end


section
/-! PROOF. Progress of commands (O41): when one starts, what a local one leaves at its end, and two commands whole. -/

namespace Sys2Proof.Slice0.Cores

open Sys2Proof.Machine Sys2Proof.Slice0 Sys2Proof.Slice0.ButusFabric Sys2Proof.Slice0.CairnEngine

section
variable {s : State} {c sl seq : Nat} {o : Op} {m : Cmd}

/-- A command that has its check and its start before it. -/
def mayBegin (s : State) (c sl : Nat) (o : Op) (m : Cmd) : Bool := (s.core c).mayStart { sl := sl, op := o, m := m } && !s.segmentOut c m

/-- A command as it starts, and the machine then. -/
def begun (s : State) (c : Nat) (m : Cmd) : Cmd := { m with stage := .started, began := (s.core c).clk.toNat }
def withBegun (s : State) (c sl : Nat) (o : Op) (m : Cmd) : State := s.setGroup c sl ((s.group c sl).setOp { o with cmd := some (begun s c m) })

/-- What a start does with an operation that is a command. -/
theorem startCmd_eq (ho : (s.group c sl).op seq = some o) (hm : o.cmd = some m) : s.startCmd c sl seq =
    if (m.stage != .entered || o.status != .issued || s.segmentOut c m || !(s.core c).mayStart { sl := sl, op := o, m := m }) = true then s
    else match (begun s c m).startFault (s.core c) (s.group c sl) with
      | some a => (withBegun s c sl o m).finishCmd c sl { o with cmd := some (begun s c m) } (begun s c m) (some a)
      | none => withBegun s c sl o m := by
  simp only [State.startCmd, ho, hm]
  rfl

theorem startCmd_held (ho : (s.group c sl).op seq = some o) (hm : o.cmd = some m) (h : mayBegin s c sl o m = false) : s.startCmd c sl seq = s := by
  rw [startCmd_eq ho hm, if_pos]
  rcases Bool.and_eq_false_iff.1 h with h | h <;> simp_all

/-- A command that has started does not start again. -/
theorem startCmd_started (ho : (s.group c sl).op seq = some o) (hm : o.cmd = some m) (h : m.stage = .started) : s.startCmd c sl seq = s := by
  rw [startCmd_eq ho hm, if_pos]
  simp [h]

theorem startCmd_begins (ho : (s.group c sl).op seq = some o) (hm : o.cmd = some m) (he : m.stage = .entered) (hi : o.status = .issued)
    (h : mayBegin s c sl o m = true) : s.startCmd c sl seq =
    match (begun s c m).startFault (s.core c) (s.group c sl) with
      | some a => (withBegun s c sl o m).finishCmd c sl { o with cmd := some (begun s c m) } (begun s c m) (some a)
      | none => withBegun s c sl o m := by
  rw [startCmd_eq ho hm, if_neg]
  simpa [he, hi, mayBegin, and_comm] using h

end

theorem exec_commandStart {s : State} {x : Live} (h : (s.core s.args.core).entryOf s.args.id = some x) :
    exec .engineCommandStart s = Slice0.Next (s.startCmd s.args.core x.sl x.op.seq) := by
  change execEngineCommandStart s = _
  rw [execEngineCommandStart, h]

theorem exec_commandComplete {s : State} {x : Live} (h : (s.core s.args.core).entryOf s.args.id = some x) :
    exec .engineCommandComplete s = Slice0.Next ((s.startCmd s.args.core x.sl x.op.seq).runCmd s.args.core x.sl x.op.seq) := by
  change execEngineCommandComplete s = _
  rw [execEngineCommandComplete, h]

/-- The first part of O41: a command starts, ends with the fault of its check, or stays. -/
theorem commandStarts : commandStartsPart := by
  intro s x o m hx ho _ hm he hi started t may fault
  rw [exec_commandStart hx]
  refine ⟨fun hno => congrArg _ (startCmd_held ho hm hno), fun hmay hf => congrArg _ ?_, fun a hmay hf => congrArg _ ?_⟩
  · rw [startCmd_begins ho hm he hi hmay, show (begun s s.args.core m).startFault _ (s.group s.args.core x.sl) = none from hf]
    rfl
  · rw [startCmd_begins ho hm he hi hmay, show (begun s s.args.core m).startFault _ (s.group s.args.core x.sl) = some a from hf]
    rfl

/-! ### A local command at its end -/

theorem settleSectors_nil (s : State) (c : Nat) (g : Group) (b : Bool) : s.settleSectors c g [] b = s := rfl

section
variable {s : State} {c sl seq : Nat} {o : Op} {m : Cmd} {k : Core}

/-- A local command that counts at no barrier ends on the core that it leaves, as a performed operation. -/
def ranLocal (s : State) (c sl : Nat) (o : Op) (m : Cmd) (k : Core) : State :=
  (s.setCore c k).setGroup c sl (((s.setCore c k).group c sl).setOp (endCmd o m))

theorem runCmd_local (ho : (s.group c sl).op seq = some o) (hm : o.cmd = some m) (he : m.stage = .started) (hi : o.status = .issued)
    (hout : s.segmentOut c m = false) (hcopy : m.isCopy = false) (hpost : m.posted = []) (hinst : m.inst = none)
    (hrun : runLocal (s.core c) sl m = (k, none)) : s.runCmd c sl seq = ranLocal s c sl o m k := by
  have hgo : (m.stage != .started || o.status != .issued || s.segmentOut c m) = false := by simp [he, hi, hout]
  simp only [State.runCmd, ho, hm, hgo, hcopy, Bool.false_eq_true, if_false, hrun, State.finishCmd, hpost, hinst, settleSectors_nil]
  rfl

/-- The core it leaves, with the operation of the command ended. -/
theorem core_ranLocal : (ranLocal s c sl o m k).core c = k.setGroup sl ((k.group sl).setOp (endCmd o m)) := by
  simp [ranLocal, State.group]

theorem core_ranLocal_ne {d : Nat} (h : d ≠ c) : (ranLocal s c sl o m k).core d = s.core d := by
  rw [ranLocal, State.core_setGroup_ne _ _ _ _ _ h, State.core_setCore_ne _ _ _ _ h]

end

/-- The second part of O41: a local command runs to its end on its core alone. -/
theorem commandRuns : commandRunsPart := by
  intro s x o m k hx ho hseq hm he hi hout hcopy hpost hinst hrun hops
  refine ⟨ranLocal s s.args.core x.sl o m k, ?_, ?_, ?_, ?_, ?_, rfl, rfl, fun d hd => core_ranLocal_ne hd⟩
  · rw [exec_commandComplete hx, startCmd_started ho hm he, runCmd_local ho hm he hi hout hcopy hpost hinst hrun]
  · rw [core_ranLocal]
    rfl
  · rw [core_ranLocal]
    rfl
  · rw [core_ranLocal]
    rfl
  · have hop : (k.group x.sl).op x.op.seq = some o := by rw [Group.op, hops]; exact ho
    rw [State.group, core_ranLocal, Core.group_setGroup_self, ← hseq, show o.seq = (endCmd o m).seq from rfl, op_setOp (o := o) (hseq ▸ hop)]
    rfl

/-! ### `tzero.acc` and `pqry` -/

/-- Of a value below 2^(lo + len), the bits from lo on are all of the rest. -/
theorem nbits_top {v lo len : Nat} (h : v < 2 ^ (lo + len)) : nbits v lo len = v / 2 ^ lo :=
  Nat.mod_eq_of_lt (Nat.div_lt_of_lt_mul (by rwa [← pow_add]))

/-- The third part of O41: what the two leave. -/
theorem localCommands : localCommandsPart := by
  intro k sl m
  constructor
  · intro hmajor hacc
    have h35 : m.major = 0x35 := hmajor
    simp only [runLocal, h35, hacc, if_true, Cmd.zf, nbits_zero]
    rfl
  · intro hmajor hfn
    have h36 : m.major = 0x36 := hmajor
    have h0 : m.fn = 0 := by simpa [Cmd.fn, h36, nbits] using hfn
    have hscale : nbits (m.y.getD 0).toNat 32 32 = (m.y.getD 0).toNat / 2 ^ 32 := nbits_top (m.y.getD 0).isLt
    simp only [runLocal, h36, h0, if_true, Cmd.zf, Cmd.xn, Cmd.yn, nbits_zero, hscale]
    rfl

/-- Settles O41: commands start when they may, local ones run to their end, and two of them leave what they are for. -/
theorem commandProgress : Obligations.CommandProgress := ⟨commandStarts, commandRuns, localCommands⟩

end Sys2Proof.Slice0.Cores
end


section
/-! PROOF. The fields of a transaction barrier (O43): a barrier lies in one piece of local memory, and its bytes read back. -/

namespace Sys2Proof.Slice0.Cores

open Sys2Proof.Machine Sys2Proof.Slice0

/-! ### Local memory that lies in one piece -/

/-- Sixteen aligned bytes of a window lie in one page or share, in order. -/
theorem localPhys_add (g : Group) {a i : Nat} (ha : a % 16 = 0) (hi : i < 16) : g.localPhys (a + i) = g.localPhys a + i := by
  have hpage : (a + i) / 4096 = a / 4096 ∧ (a + i) % 4096 = a % 4096 + i := by omega
  have hshare : (a + i) / 6144 = a / 6144 ∧ (a + i) % 6144 = a % 6144 + i := by omega
  unfold Group.localPhys
  rw [hpage.1, hpage.2, hshare.1, hshare.2]
  split <;> omega

/-- Bytes set one by one at successive addresses are written in one piece. -/
theorem foldl_memSet_zip (bs : List Byte) (m : Memory) (p : Nat) :
    (((List.range bs.length).map (fun i => p + i)).zip bs).foldl (fun m e => memSet m e.1 e.2) m = memWrite m p bs := by
  induction bs generalizing m p with
  | nil => rfl
  | cons b bs ih =>
    have hshift : (List.range bs.length).map (fun i => p + (i + 1)) = (List.range bs.length).map (fun i => p + 1 + i) :=
      List.map_congr_left fun i _ => by omega
    rw [List.length_cons, List.range_succ_eq_map, List.map_cons, List.map_map, List.zip_cons_cons, List.foldl_cons, memWrite, ← ih]
    exact congrArg (fun l : List Nat => (l.zip bs).foldl (fun m e => memSet m e.1 e.2) (memSet m p b)) hshift

theorem lmem_lwrite (k : Core) (g : Group) {a : Nat} {bs : List Byte} (ha : a % 16 = 0) (hn : bs.length ≤ 16) :
    (k.lwrite g a bs).lmem = memWrite k.lmem (g.localPhys a) bs := by
  have hphys : (List.range bs.length).map (fun i => g.localPhys (a + i)) = (List.range bs.length).map (fun i => g.localPhys a + i) :=
    List.map_congr_left fun i hi => localPhys_add g ha (Nat.lt_of_lt_of_le (List.mem_range.1 hi) hn)
  rw [← foldl_memSet_zip, ← hphys]
  rfl

/-- Sixteen aligned bytes that are written read back. -/
theorem lread_lwrite (k : Core) (g : Group) {a : Nat} {bs : List Byte} (ha : a % 16 = 0) (hn : bs.length = 16) (hw : Memory.wf k.lmem = true) :
    (k.lwrite g a bs).lread g a 16 = bs := by
  refine List.ext_getElem (by simp [Core.lread, hn]) fun i hi hi' => ?_
  have hi16 : i < 16 := hn ▸ hi'
  simp only [Core.lread, List.getElem_map, List.getElem_range]
  rw [lmem_lwrite k g ha hn.le, localPhys_add g ha hi16, memByte_memWrite_in bs _ _ i hw hi', List.getD_eq_getElem _ _ hi']

/-! ### The bytes of a barrier -/

/-- The three flags as a number (R182). -/
def flagBits (err pois flt : Bool) : Nat := (if err then 1 else 0) + (if pois then 2 else 0) + (if flt then 4 else 0)

/-- The sixteen bytes of a barrier (R182). -/
def tbarBytes (goal done : Word) (flags : Nat) : List Byte := leBytes 4 goal.toNat ++ leBytes 4 done.toNat ++ leBytes 8 flags

theorem goal_tbarBytes (goal done : Word) (flags : Nat) : w32 (recField (tbarBytes goal done flags) 0 4) = goal := by
  refine BitVec.eq_of_toNat_eq ?_
  have := goal.isLt
  simp [tbarBytes, recField, bytesAt, leBytes, leNat, w32, List.range_succ]
  omega

theorem done_tbarBytes (goal done : Word) (flags : Nat) : w32 (recField (tbarBytes goal done flags) 4 4) = done := by
  refine BitVec.eq_of_toNat_eq ?_
  have := done.isLt
  simp [tbarBytes, recField, bytesAt, leBytes, leNat, w32, List.range_succ]
  omega

theorem flags_tbarBytes (goal done : Word) (flags : Nat) : recField (tbarBytes goal done flags) 8 1 = flags % 256 := by
  simp [tbarBytes, recField, bytesAt, leBytes, leNat, List.range_succ]

theorem nbit_flagBits (err pois flt : Bool) : nbit (flagBits err pois flt % 256) 0 = err ∧ nbit (flagBits err pois flt % 256) 1 = pois ∧
    nbit (flagBits err pois flt % 256) 2 = flt := by
  revert err pois flt
  decide

theorem setTbar_eq (k : Core) (g : Group) (a : Nat) (b : TBar) : k.setTbar g a b =
    k.lwrite g a (tbarBytes b.goal b.done (flagBits (b.err || decide (2 ^ 31 ≤ (b.goal - b.done).toNat)) b.pois b.flt)) := rfl

/-- The second part of O43: a barrier reads back, and what a wait looks at. -/
theorem barrierFields : barrierFieldsPart := by
  constructor
  · intro k g a b ha hw
    obtain ⟨herr, hpois, hflt⟩ := nbit_flagBits (b.err || decide (2 ^ 31 ≤ (b.goal - b.done).toNat)) b.pois b.flt
    rw [setTbar_eq, Core.tbar, lread_lwrite k g ha (by rfl) hw, goal_tbarBytes, done_tbarBytes, flags_tbarBytes, herr, hpois, hflt]
  · intro b v
    constructor
    · intro hdrain
      simp [TBar.holds, hdrain]
    · intro htarget
      rw [TBar.holds, if_neg (Bool.eq_false_iff.1 htarget), decide_eq_true_iff, w32, BitVec.ofNat_toNat]

end Sys2Proof.Slice0.Cores
end


section
/-! PROOF. Transaction barrier instructions (O43): the checks they share, how each is counted on path 4, and what each does. -/

namespace Sys2Proof.Slice0.Cores

open Sys2Proof.Machine Sys2Proof.Slice0 Sys2Proof.Slice0.ButusFabric Sys2Proof.Slice0.Scheduling

/-! ### The shape they share -/

/-- The checks of a transaction barrier instruction, and what it then does at the barrier's address. -/
def tbBody (b : BitVec 6) (act : Ictx → State → Nat → State × Op → Done) (x : Ictx) (s : State) : Done :=
  let addr := match x.u.wait with | .tbwait q _ => q | _ => nbits (x.g.sreg b.toNat).toNat 0 19
  if x.g.localSize < addr + 16 then .trap 0x0A (d64 addr)
  else if addr % 16 != 0 then .trap 0x09 (d64 addr)
  else act x s addr (s, tbOp)

theorem tbInst_eq (i : Instr) (e fl : Bool) (fs : List Field) (b : BitVec 6) (act : Ictx → State → Nat → State × Op → Done) (s : State) :
    tbInst i e fl fs b s act = issue (tbIssue i e fl fs b) s (tbBody b act) := rfl

section
variable {s s0 : State} {b : BitVec 6} {act : Ictx → State → Nat → State × Op → Done}

/-- A ready unit whose barrier lies in the window and is aligned acts on it. -/
theorem tbBody_acts (hr : ready s) (hok : tbOk s b) : tbBody b act s.ictx s = act s.ictx s (tbAt s b) (s, tbOp) := by
  obtain ⟨hfit, hal⟩ := hok
  have hwait : s.ictx.u.wait = .ready := hr.2
  have haddr : nbits (s.ictx.g.sreg b.toNat).toNat 0 19 = tbAt s b := nbits_zero _ _
  have hfit' : ¬ s.ictx.g.localSize < tbAt s b + 16 := Nat.not_lt.2 hfit
  simp [tbBody, hwait, haddr, hfit', hal]

/-- At a flush point too: the flush leaves the window and the registers. -/
theorem tbBody_acts_flushed (hr : ready s) (hok : tbOk s b) :
    tbBody b act (flushedIctx s) (flushed s) = act (flushedIctx s) (flushed s) (tbAt s b) (flushed s, tbOp) := by
  obtain ⟨hfit, hal⟩ := hok
  have hwait : (flushedIctx s).u.wait = .ready := hr.2
  have haddr : nbits ((flushedIctx s).g.sreg b.toNat).toNat 0 19 = tbAt s b := by
    rw [flushedIctx, grp_flushed, nbits_zero]
    rfl
  have hfit' : ¬ (flushedIctx s).g.localSize < tbAt s b + 16 := by
    rw [flushedIctx, grp_flushed]
    exact Nat.not_lt.2 hfit
  simp [tbBody, hwait, haddr, hfit', hal]

/-- With fewer than 63 operations in flight on path 4 the instruction is counted. -/
theorem tbEnter_counts {o : Op} (ho : o.path = 4) (h : (grp s s0).inFlight 4 < 63) : tbEnter s.ictx s0 o = .fin (tbCounted s s0 o) {} [] .seq .ready := by
  rw [tbEnter, enterOp_enters (by rw [ho]; exact h)]
  rfl

theorem tbEnter_counts_flushed {o : Op} (ho : o.path = 4) (h : room s 4) :
    tbEnter (flushedIctx s) (flushed s) o = .fin (tbCounted s (flushed s) o) {} [] .seq .ready := by
  have hroom : (grp s (flushed s)).inFlight 4 < 63 := lt_of_eq_of_lt (flush_inFlight s _ _ 4) h
  rw [tbEnter, enterOp_enters (by rw [ho]; exact hroom)]
  rfl

end

/-! ### What each does at its barrier -/

def tbinitAct (x : Ictx) (s : State) (addr : Nat) (p : State × Op) : Done :=
  match tbEnter x s p.2 with
  | .fin s l w n a => .fin (s.tbStep x.c x.g addr (fun _ => {})) l w n a
  | d => d

def tbarrAct (a : BitVec 7) (x : Ictx) (s : State) (addr : Nat) (p : State × Op) : Done :=
  let s := (s.performAll x.c x.sl).landFrom x.c 2
  if (s.group x.c x.sl).ops.any (fun o => o.kind.isMem && o.status != .performed) then .stall s
  else match tbEnter x s p.2 with
    | .fin s l w n q => .fin (s.tbStep x.c x.g addr (fun t => { t with done := t.done + w32 (x.readS a).toNat })) l w n q
    | d => d

def tbexpAct (a : BitVec 7) (x : Ictx) (s : State) (addr : Nat) (p : State × Op) : Done :=
  match tbEnter x s p.2 with
  | .fin s l w n q => .fin (s.tbStep x.c x.g addr (fun t => { t with goal := t.goal + w32 (x.readS a).toNat })) l w n q
  | d => d

def tbwaitAct (a : BitVec 7) (x : Ictx) (s : State) (addr : Nat) (p : State × Op) : Done :=
  let arg := match x.u.wait with | .tbwait _ v => v | _ => x.readS a
  if ((s.core x.c).tbar x.g addr).holds arg then
    match tbEnter x s p.2 with
    | .fin s l w n q => .fin (s.l1Acquire x.c) l w n q
    | d => d
  else .wait s (.tbwait addr arg)

/-- What `tbtest` answers of a barrier (R310). -/
def tbtestOut (t : TBar) (arg : Dword) (d : BitVec 7) : List RegWrite :=
  let flags := (if t.holds arg then 1 else 0) + (if t.err then 2 else 0) + (if t.pois then 4 else 0) + (if t.flt then 8 else 0)
  [.s d.toNat (d64 (t.goal.toNat + t.done.toNat * 2 ^ 32)), .s (d.toNat + 1) (d64 flags)]

def tbtestAct (d a : BitVec 7) (x : Ictx) (s : State) (addr : Nat) (p : State × Op) : Done :=
  let t := (s.core x.c).tbar x.g addr
  match tbEnter x s { p.2 with d := d.toNat, dn := 2, out := tbtestOut t (x.readS a) d } with
  | .fin s l w n q => .fin (if t.holds (x.readS a) then s.l1Acquire x.c else s) l w n q
  | r => r

theorem exec_tbinit (e : Bool) (b : BitVec 6) (s : State) :
    exec (.tbinit e b) s = issue (tbIssue (.tbinit e b) e false [] b) s (tbBody b tbinitAct) := rfl
theorem exec_tbarr (e : Bool) (a : BitVec 7) (b : BitVec 6) (s : State) :
    exec (.tbarr e a b) s = issue (tbIssue (.tbarr e a b) e false [sSrcF a] b) s (tbBody b (tbarrAct a)) := by
  change execTbarr e a b s = _
  rw [execTbarr, tbInst_eq]
  unfold tbarrAct
  rfl
theorem exec_tbexp (e : Bool) (a : BitVec 7) (b : BitVec 6) (s : State) :
    exec (.tbexp e a b) s = issue (tbIssue (.tbexp e a b) e false [sSrcF a] b) s (tbBody b (tbexpAct a)) := rfl
theorem exec_tbwait (e : Bool) (a : BitVec 7) (b : BitVec 6) (s : State) :
    exec (.tbwait e a b) s = issue (tbIssue (.tbwait e a b) e true [sSrcF a] b) s (tbBody b (tbwaitAct a)) := rfl
theorem exec_tbtest (e : Bool) (d a : BitVec 7) (b : BitVec 6) (s : State) :
    exec (.tbtest e d a b) s = issue (tbIssue (.tbtest e d a b) e true [(sDstF d).many 2, sSrcF a] b) s (tbBody b (tbtestAct d a)) := rfl

theorem w32_toNat (v : Dword) : w32 v.toNat = v.setWidth 32 := BitVec.ofNat_toNat 32 v

section
variable {s : State} {p : State × Op} {addr : Nat} (hp : p.2.path = 4)
include hp

theorem tbinitAct_steps (h : room s 4) : tbinitAct s.ictx s addr p =
    .fin ((tbCounted s s p.2).tbStep s.cur.1 (grp s s) addr (fun _ => { goal := 0, done := 0, err := false, pois := false, flt := false })) {} [] .seq .ready := by
  rw [tbinitAct, tbEnter_counts hp h]
  rfl

theorem tbexpAct_steps (a : BitVec 7) (h : room s 4) : tbexpAct a s.ictx s addr p =
    .fin ((tbCounted s s p.2).tbStep s.cur.1 (grp s s) addr (fun t => { t with goal := t.goal + (s.ictx.readS a).setWidth 32 })) {} [] .seq .ready := by
  rw [tbexpAct, tbEnter_counts hp h, ← w32_toNat]
  rfl

end

/-! ### `tbarr`, a release -/

section
variable {s : State} {p : State × Op} {addr : Nat} {a : BitVec 7}

/-- The machine once a release at cluster scope has had performed what it can. -/
def released (s : State) : State := (s.performAll s.cur.1 s.cur.2.1).landFrom s.cur.1 2

/-- An access that the release waits for. -/
def unreleased (s : State) : Bool := (grp s (released s)).ops.any (fun o => o.kind.isMem && o.status != .performed)

theorem tbarrAct_steps (hp : p.2.path = 4) (hdone : unreleased s = false) (h : (grp s (released s)).inFlight 4 < 63) : tbarrAct a s.ictx s addr p =
    .fin ((tbCounted s (released s) p.2).tbStep s.cur.1 (grp s s) addr (fun t => { t with done := t.done + (s.ictx.readS a).setWidth 32 })) {} [] .seq .ready := by
  refine (if_neg (Bool.eq_false_iff.1 hdone)).trans ?_
  rw [show tbEnter s.ictx ((s.performAll s.ictx.c s.ictx.sl).landFrom s.ictx.c 2) p.2 = _ from tbEnter_counts hp h, ← w32_toNat]
  rfl

theorem tbarrAct_stalls (h : unreleased s = true) : tbarrAct a s.ictx s addr p = .stall (released s) := if_pos h

end

/-! ### `tbwait` and `tbtest`, at a flush point -/

/-- The flush changes no barrier. -/
theorem tbar_flushed (s : State) (a : Nat) : ((flushed s).core s.cur.1).tbar (grp s (flushed s)) a = (s.core s.cur.1).tbar (grp s s) a := by
  have hlmem : ((flushed s).core s.cur.1).lmem = (s.core s.cur.1).lmem := by
    rcases flush_shape s s.cur.1 s.cur.2.1 with h | ⟨n, ops, -, h⟩ <;> rw [flushed, h]
    simp [Core.setGroup]
  have hread (n : Nat) : ((flushed s).core s.cur.1).lread (grp s (flushed s)) a n = (s.core s.cur.1).lread (grp s s) a n := by
    rw [Core.lread, hlmem, grp_flushed]
    rfl
  rw [Core.tbar, hread]
  rfl

section
variable {s : State} {p : State × Op} {addr : Nat} {a : BitVec 7}

/-- The barrier, as an instruction at a flush point looks at it. -/
def tbSeen (s : State) (addr : Nat) : TBar := (s.core s.cur.1).tbar (grp s s) addr

theorem tbwaitAct_goesOn (hr : ready s) (hp : p.2.path = 4) (h : room s 4) (hb : (tbSeen s addr).holds (s.ictx.readS a) = true) :
    tbwaitAct a (flushedIctx s) (flushed s) addr p = .fin ((tbCounted s (flushed s) p.2).l1Acquire s.cur.1) {} [] .seq .ready := by
  have hwait : (flushedIctx s).u.wait = .ready := hr.2
  have hb' : (((flushed s).core (flushedIctx s).c).tbar (flushedIctx s).g addr).holds (s.ictx.readS a) = true := by
    rw [show ((flushed s).core (flushedIctx s).c).tbar (flushedIctx s).g addr = tbSeen s addr from tbar_flushed s addr, hb]
  simp only [tbwaitAct, hwait, readS_flushedIctx, hb', if_true, tbEnter_counts_flushed hp h]
  rfl

theorem tbwaitAct_waits (hr : ready s) (hb : (tbSeen s addr).holds (s.ictx.readS a) = false) :
    tbwaitAct a (flushedIctx s) (flushed s) addr p = .wait (flushed s) (.tbwait addr (s.ictx.readS a)) := by
  have hwait : (flushedIctx s).u.wait = .ready := hr.2
  have hb' : (((flushed s).core (flushedIctx s).c).tbar (flushedIctx s).g addr).holds (s.ictx.readS a) = false := by
    rw [show ((flushed s).core (flushedIctx s).c).tbar (flushedIctx s).g addr = tbSeen s addr from tbar_flushed s addr, hb]
  simp only [tbwaitAct, hwait, readS_flushedIctx, hb', Bool.false_eq_true, if_false]

theorem tbtestAct_answers (d : BitVec 7) (hp : p.2.path = 4) (h : room s 4) :
    let s1 := tbCounted s (flushed s) { p.2 with d := d.toNat, dn := 2, out := tbtestOut (tbSeen s addr) (s.ictx.readS a) d }
    tbtestAct d a (flushedIctx s) (flushed s) addr p =
      .fin (if (tbSeen s addr).holds (s.ictx.readS a) then s1.l1Acquire s.cur.1 else s1) {} [] .seq .ready := by
  intro s1
  have hseen : ((flushed s).core (flushedIctx s).c).tbar (flushedIctx s).g addr = tbSeen s addr := tbar_flushed s addr
  have hcount : tbEnter (flushedIctx s) (flushed s) { p.2 with d := d.toNat, dn := 2, out := tbtestOut (tbSeen s addr) (s.ictx.readS a) d } =
      .fin s1 {} [] .seq .ready := tbEnter_counts_flushed hp h
  simp only [tbtestAct, hseen, readS_flushedIctx, hcount]
  rfl

end

/-- A unit that waits has done nothing else. -/
theorem waitsAt_flushed {s : State} (hr : ready s) (w : Wait) : let t := waitsAt w s (flushed s)
    (unit s t).wait = w ∧ (unit s t).pc = (unit s s).pc ∧ onlyUnit (flushed s) t := by
  intro t
  have hcur := flushed_cur s
  have ht : t = leaves (flushed s) ((grp s (flushed s)).setUnit { unit s s with wait := w, arrived := true }) := by
    rw [leaves, hcur, ← unit_flushed s]
    rfl
  have huid := unit_uid hr
  have hany : (grp s (flushed s)).iunits.any (fun v => v.uid == ({ unit s s with wait := w, arrived := true } : IUnit).uid) = true := by
    rw [grp_flushed]
    exact any_unit hr
  have hunit : unit s t = { unit s s with wait := w, arrived := true } := by
    have := Group.iunit_setUnit (grp s (flushed s)) _ hany
    rw [show ({ unit s s with wait := w, arrived := true } : IUnit).uid = s.cur.2.2 from huid] at this
    rw [unit, ht, grp_leaves hcur, this]
  refine ⟨by rw [hunit], by rw [hunit], ?_⟩
  rw [ht]
  refine onlyUnit_leaves (by rw [grp_flushed_self]; rfl) fun uid hne => ?_
  rw [grp_flushed_self]
  exact iunit_setUnit_ne _ _ fun h => hne (h.trans (huid.trans (by rw [hcur])))

/-! ### The count on path 4 -/

section
variable {s s0 : State} {o : Op}

/-- The operation as it enters. -/
def counted (s s0 : State) (o : Op) : Op := { o with seq := s0.seq, pc := (unit s s).pc, priv := (grp s s0).privileged }

theorem grp_enteredRaw : grp s (enteredRaw s.ictx s0 o) = { grp s s0 with ops := (grp s s0).ops ++ [counted s s0 o] } :=
  State.group_setGroup_self _ _ _ _

/-- The operations of path 4, the last of them the one that enters. -/
theorem path4_enteredRaw (ho : o.path = 4) : (grp s (enteredRaw s.ictx s0 o)).ops.filter (fun q => q.path == 4) =
    (grp s s0).ops.filter (fun q => q.path == 4) ++ [counted s s0 o] := by
  rw [grp_enteredRaw, List.filter_append]
  simp [counted, ho]

/-- Behind an older operation of the path the count stands. -/
theorem tbCounted_behind (ho : o.path = 4) {q : Op} (hq : q ∈ (grp s s0).ops) (hq4 : q.path = 4) : tbCounted s s0 o = enteredRaw s.ictx s0 o := by
  have hmem : q ∈ (grp s s0).ops.filter (fun q => q.path == 4) := List.mem_filter.2 ⟨hq, by simp [hq4]⟩
  obtain ⟨r, rs, hrs⟩ := List.exists_cons_of_ne_nil (List.ne_nil_of_mem hmem)
  have hpath : ((enteredRaw s.ictx s0 o).group s.cur.1 s.cur.2.1).ops.filter (fun q => q.path == 4) = r :: (rs ++ [counted s s0 o]) :=
    (path4_enteredRaw ho).trans (by rw [hrs]; rfl)
  rw [tbCounted, State.tbFall, hpath]
  cases rs <;> rfl

/-- With none it has fallen. -/
theorem grp_tbCounted_alone (ho : o.path = 4) (hdone : o.status = .performed) (h : ∀ q ∈ (grp s s0).ops, q.path ≠ 4) :
    grp s (tbCounted s s0 o) = ({ grp s s0 with ops := (grp s s0).ops ++ [counted s s0 o] } : Group).retireOp (counted s s0 o) := by
  have hpath : ((enteredRaw s.ictx s0 o).group s.cur.1 s.cur.2.1).ops.filter (fun q => q.path == 4) = [counted s s0 o] := by
    refine (path4_enteredRaw ho).trans ?_
    rw [List.filter_eq_nil_iff.2 fun q hq => by simpa using h q hq, List.nil_append]
  have hgrp : (enteredRaw s.ictx s0 o).group s.cur.1 s.cur.2.1 = _ := grp_enteredRaw (s := s) (s0 := s0) (o := o)
  have hperf : ((counted s s0 o).status == .performed) = true := by simp [counted, hdone]
  rw [tbCounted, State.tbFall, hpath]
  simp only [hperf, if_true, hgrp]
  exact State.group_setGroup_self _ _ _ _

end

/-- Register writes change the registers alone, from the registers alone. -/
theorem foldl_apply_ops (ws : List RegWrite) (g : Group) (os : List Op) :
    ws.foldl Group.apply { g with ops := os } = { ws.foldl Group.apply g with ops := os } := by
  induction ws generalizing g with
  | nil => rfl
  | cons w ws ih =>
    have happly : Group.apply { g with ops := os } w = { g.apply w with ops := os } := by cases w <;> rfl
    rw [List.foldl_cons, happly, ih]
    rfl

theorem retireOp_last (g : Group) (o : Op) (h : ∀ q ∈ g.ops, q.seq ≠ o.seq) : let r := ({ g with ops := g.ops ++ [o] } : Group).retireOp o
    r.ops = g.ops ∧ r.sregs = (o.out.foldl Group.apply g).sregs := by
  intro r
  have hr : r = { o.out.foldl Group.apply g with ops := (g.ops ++ [o]).filter (fun x => x.seq != o.seq), reports := (o.out.foldl Group.apply g).reports ++ o.reports } := by
    change Group.retireOp _ _ = _
    rw [Group.retireOp, foldl_apply_ops]
  rw [hr]
  refine ⟨?_, rfl⟩
  simp only [List.filter_append, List.filter_eq_self.2 fun q hq => bne_iff_ne.2 (h q hq)]
  simp

/-- The count of O43: it stands behind an older operation of the path, and else has fallen. -/
theorem tbCounts {s s0 : State} {o : Op} (ho : o.path = 4) (hdone : o.status = .performed) (h : ∀ q ∈ (grp s s0).ops, q.path ≠ 4 ∧ q.seq ≠ s0.seq) :
    (grp s (tbCounted s s0 o)).ops = (grp s s0).ops ∧ (grp s (tbCounted s s0 o)).inFlight 4 = 0 ∧
      (grp s (tbCounted s s0 o)).sregs = (o.out.foldl Group.apply (grp s s0)).sregs := by
  have hgrp := grp_tbCounted_alone ho hdone fun q hq => (h q hq).1
  obtain ⟨hops, hsregs⟩ := retireOp_last (grp s s0) (counted s s0 o) fun q hq => (h q hq).2
  rw [hgrp]
  refine ⟨hops, ?_, hsregs⟩
  rw [Group.inFlight, hops, List.length_eq_zero_iff, List.filter_eq_nil_iff]
  exact fun q hq => by simpa using (h q hq).1

/-- The first part of O43: each instruction checks its barrier, is counted, and acts on it. -/
theorem transactionBarrierInsts : transactionBarriersPart := by
  refine ⟨?_, ?_, ?_, ?_, ?_, ?_⟩
  · intro e b s hr hc hok hroom s1 hn
    rw [exec_tbinit]
    exact issue_goesOn hc rfl rfl ((tbBody_acts hr hok).trans (tbinitAct_steps rfl hroom)) hn
  · intro e a b s hr hc hok s0
    rw [exec_tbarr]
    refine ⟨fun hdone hroom hn => issue_goesOn hc rfl rfl ((tbBody_acts hr hok).trans (tbarrAct_steps rfl ?_ hroom)) hn,
      fun o ho hmem hst => issue_stalls hc rfl rfl ((tbBody_acts hr hok).trans (tbarrAct_stalls ?_))⟩
    · refine Bool.eq_false_iff.2 fun hany => ?_
      obtain ⟨o, ho, hwait⟩ := List.any_eq_true.1 hany
      obtain ⟨hmem, hst⟩ := (Bool.and_eq_true_iff).1 hwait
      exact bne_iff_ne.1 hst (hdone o ho hmem)
    · exact List.any_eq_true.2 ⟨o, ho, (Bool.and_eq_true_iff).2 ⟨hmem, bne_iff_ne.2 hst⟩⟩
  · intro e a b s hr hc hok hroom s1 hn
    rw [exec_tbexp]
    exact issue_goesOn hc rfl rfl ((tbBody_acts hr hok).trans (tbexpAct_steps rfl a hroom)) hn
  · intro e a b s I h hok hroom
    have hr := h.1
    rw [exec_tbwait]
    refine ⟨fun hb hn => issue_flush_goesOn h rfl ((tbBody_acts_flushed hr hok).trans (tbwaitAct_goesOn hr rfl hroom hb)) hn, fun hb => ?_⟩
    exact ⟨_, issue_flush_waits h rfl ((tbBody_acts_flushed hr hok).trans (tbwaitAct_waits hr hb)), waitsAt_flushed hr _⟩
  · intro e d a b s I h hok hroom t ok flags out s1 s2 hn
    rw [exec_tbtest]
    exact issue_flush_goesOn h rfl ((tbBody_acts_flushed h.1 hok).trans (tbtestAct_answers d rfl hroom)) hn
  · intro s s0 o ho hdone
    exact ⟨fun q hq hq4 => tbCounted_behind ho hq hq4, fun h => tbCounts ho hdone h⟩

/-- Settles O43: the instructions of transaction barriers, and the fields of the barrier word. -/
theorem transactionBarriers : Obligations.TransactionBarriers := ⟨transactionBarrierInsts, barrierFields⟩

end Sys2Proof.Slice0.Cores
end


section
/-! PROOF. `sret` (O31): what comes back of a captured state, register by register, and where the unit goes on. -/

namespace Sys2Proof.Slice0.Cores

open Sys2Proof.Machine Sys2Proof.Slice0 Sys2Proof.Slice0.Scheduling

/-! ### Lists of register writes -/

theorem foldl_apply_sreg {ws : List RegWrite} {n : Nat} (g : Group) (h : ∀ w ∈ ws, w.namesS n = false) : (ws.foldl Group.apply g).sreg n = g.sreg n := by
  induction ws generalizing g with
  | nil => rfl
  | cons w ws ih =>
    rw [List.foldl_cons, ih _ fun q hq => h q (List.mem_cons_of_mem _ hq), Group.apply_sreg g w n (h w List.mem_cons_self)]

theorem foldl_apply_vreg {ws : List RegWrite} {n : Nat} (g : Group) (h : ∀ w ∈ ws, w.namesV n = false) : (ws.foldl Group.apply g).vreg n = g.vreg n := by
  induction ws generalizing g with
  | nil => rfl
  | cons w ws ih =>
    rw [List.foldl_cons, ih _ fun q hq => h q (List.mem_cons_of_mem _ hq), Group.apply_vreg g w n (h w List.mem_cons_self)]

theorem foldl_apply_frame (ws : List RegWrite) (g : Group) : g.sameButRegs (ws.foldl Group.apply g) := by
  induction ws generalizing g with
  | nil => exact Group.sameButRegs_refl g
  | cons w ws ih => exact Group.sameButRegs_trans (Group.sameButRegs_apply g w) (ih _)

/-- A blend of every lane takes all that is new. -/
theorem blend_all {ls old : List Word} (h : ls.length = 32) : blend 0xFFFFFFFF ls old = ls := by
  refine List.ext_getElem (by simp [blend, h]) fun i hi hi' => ?_
  have hbit : ∀ j < 32, (0xFFFFFFFF : Word).getLsbD j = true := by decide
  simp only [blend, List.getElem_map, List.getElem_range, hbit i (h ▸ hi'), if_true]
  exact List.getD_eq_getElem _ _ hi'

/-- What a register holds after a list of writes of which the last that names it is known. -/
theorem foldl_apply_last {pre post : List RegWrite} {w : RegWrite} (g : Group) :
    (∀ n x, w = .s n x → (∀ q ∈ post, q.namesS n = false) → ((pre ++ w :: post).foldl Group.apply g).sreg n = x) ∧
    (∀ n ls tag p, w = .v n 0xFFFFFFFF ls tag p → ls.length = 32 → (∀ q ∈ post, q.namesV n = false) →
      ((pre ++ w :: post).foldl Group.apply g).vreg n = { lanes := ls, ptag := tag, poison := p }) ∧
    (∀ n tag, w = .tag n tag → (∀ q ∈ post, q.namesV n = false) → (((pre ++ w :: post).foldl Group.apply g).vreg n).ptag = tag) := by
  rw [List.foldl_append, List.foldl_cons]
  generalize pre.foldl Group.apply g = h
  refine ⟨?_, ?_, ?_⟩
  · rintro n x rfl hpost
    rw [foldl_apply_sreg _ hpost, Group.apply_s, Group.sreg_setS_self]
  · rintro n ls tag p rfl hlen hpost
    rw [foldl_apply_vreg _ hpost, Group.apply, Group.vreg_setV_self, blend_all hlen]
    simp
  · rintro n tag rfl hpost
    rw [foldl_apply_vreg _ hpost, Group.apply, Group.vreg_setV_self]

/-! ### What a return gives back (R118, R352) -/

/-- The registers of the captured writes, given back; at the start of a run the writes have landed. -/
def givenBack (g : Group) (v : TrapSave) : Group :=
  if v.pos = 0 then landAll (v.old.foldl Group.apply g) v.due else v.old.foldl Group.apply g

/-- The unit as it was captured, where it goes on. -/
def givenBackUnit (g : Group) (uid : Nat) (v : TrapSave) : IUnit :=
  { g.iunit uid with
    pc := if v.traWritten then b57 g.tra.toNat else v.resume, pos := v.pos, chain := v.chain, hints := v.hints, loops := v.loops,
    due := if v.pos = 0 then [] else v.due, arrived := v.arrived, passed := v.passed, wait := .ready }

/-- The group after a return. -/
def returned (g : Group) (uid : Nat) (v : TrapSave) : Group :=
  { givenBack g v with stat := v.stat, save := none }.setUnit (givenBackUnit (givenBack g v) uid v)

theorem trapReturn_eq {s : State} {c sl : Nat} {v : TrapSave} (uid : Nat) (h : (s.group c sl).save = some v) :
    s.trapReturn c sl uid = s.setGroup c sl (returned (s.group c sl) uid v) := by
  rw [State.trapReturn]
  generalize s.group c sl = g at h
  simp only [h]
  rfl

section
variable (g : Group) (v : TrapSave)

theorem givenBack_frame : g.sameButRegs (givenBack g v) := by
  unfold givenBack
  split
  · exact Group.sameButRegs_trans (foldl_apply_frame _ _) (landAll_frame _ _)
  · exact foldl_apply_frame _ _

variable {g v} {n uid : Nat}

theorem givenBack_sreg (ho : ∀ w ∈ v.old, w.namesS n = false) (hd : ∀ w ∈ v.due, w.w.namesS n = false) : (givenBack g v).sreg n = g.sreg n := by
  unfold givenBack
  split
  · rw [landAll_sreg _ _ _ hd, foldl_apply_sreg _ ho]
  · exact foldl_apply_sreg _ ho

theorem givenBack_vreg (ho : ∀ w ∈ v.old, w.namesV n = false) (hd : ∀ w ∈ v.due, w.w.namesV n = false) : (givenBack g v).vreg n = g.vreg n := by
  unfold givenBack
  split
  · rw [landAll_vreg _ _ _ hd, foldl_apply_vreg _ ho]
  · exact foldl_apply_vreg _ ho

/-- Outside the registers, STAT, the units and the captured state, a return changes nothing of the group. -/
theorem returned_frame : returned g uid v =
    { g with sregs := (returned g uid v).sregs, vregs := (returned g uid v).vregs, stat := v.stat, save := none, iunits := (returned g uid v).iunits } := by
  have h := givenBack_frame g v
  unfold Group.sameButRegs at h
  unfold returned
  generalize givenBackUnit (givenBack g v) uid v = u
  rw [h]
  rfl

theorem iunits_givenBack : (givenBack g v).iunits = g.iunits := by
  have h := givenBack_frame g v
  unfold Group.sameButRegs at h
  rw [h]

theorem tra_givenBack : (givenBack g v).tra = g.tra := by
  have h := givenBack_frame g v
  unfold Group.sameButRegs at h
  rw [h]

theorem iunit_returned (hany : g.iunits.any (fun u => u.uid == uid) = true) : (returned g uid v).iunit uid = givenBackUnit (givenBack g v) uid v := by
  have huid : (givenBackUnit (givenBack g v) uid v).uid = uid := iunit_uid (by rwa [iunits_givenBack])
  have hset := Group.iunit_setUnit { givenBack g v with stat := v.stat, save := none } (givenBackUnit (givenBack g v) uid v)
  rw [huid] at hset
  exact hset (by rw [← iunits_givenBack (v := v)] at hany; exact hany)

end

/-! ### The instruction -/

/-- What `sret` asks of issue. -/
def sretIssue (e : Bool) : Issue := { i := .sret e, e := e, priv := true, mustEnd := true, flush := true }

/-- Where a return goes on. -/
def returnTarget (g : Group) (v : TrapSave) : Va := if v.traWritten then g.tra.setWidth 57 else v.resume

/-- What `sret` does at its flush point. -/
def sretBody (x : Ictx) (s : State) : Done :=
  match x.g.returnsTo.filter (fun t => segOf t != segOf x.u.pc && ((s.core x.c).resident x.g.part (segOf t)).isNone) with
  | some t => .trap 0x06 (d64 t.toNat)
  | none =>
    if (s.core x.c).returnStalls (s.group x.c x.sl) then .stall (s.boardMoves x.c) else
    let s := s.onGroup x (fun g => (landAll g (g.iunit x.u.uid).due).setUnit { g.iunit x.u.uid with due := [], streak := x.u.streak + 1 })
    let s := match x.g.save with
      | some v => match v.inst with
        | some id => s.replay x.c x.sl id v.cut
        | none => s
      | none => s
    .done (s.trapReturn x.c x.sl x.u.uid)

theorem exec_sret (e : Bool) (s : State) : exec (.sret e) s = issue (sretIssue e) s sretBody := rfl

section
variable {s : State} {v : TrapSave}

theorem save_flushed : (grp s (flushed s)).save = (grp s s).save := by rw [grp_flushed]
theorem tra_flushed : (grp s (flushed s)).tra = (grp s s).tra := by rw [grp_flushed]

theorem returnsTo_flushed (hv : (grp s s).save = some v) : (flushedIctx s).g.returnsTo = some (returnTarget (grp s s) v) := by
  have hva : b57 (grp s s).tra.toNat = (grp s s).tra.setWidth 57 := BitVec.ofNat_toNat 57 _
  rw [flushedIctx, Group.returnsTo, save_flushed, tra_flushed, hv, hva]
  rfl

/-- The target lies in another segment, which is not resident. -/
def returnAbsent (s : State) (v : TrapSave) : Bool :=
  segOf (returnTarget (grp s s) v) != segOf (unit s s).pc &&
    ((s.core s.cur.1).resident (grp s s).part (segOf (returnTarget (grp s s) v))).isNone

theorem returnsTo_filter (hv : (grp s s).save = some v) :
    (flushedIctx s).g.returnsTo.filter (fun t => segOf t != segOf (flushedIctx s).u.pc &&
      (((flushed s).core (flushedIctx s).c).resident (flushedIctx s).g.part (segOf t)).isNone) =
    if returnAbsent s v then some (returnTarget (grp s s) v) else none := by
  have hres (t : Va) : ((flushed s).core (flushedIctx s).c).resident (flushedIctx s).g.part (segOf t) =
      (s.core s.cur.1).resident (grp s s).part (segOf t) := by
    rw [flushedIctx, part_flushed]
    exact resident_flushed s _ _
  simp only [returnsTo_flushed hv, hres]
  rfl

theorem sretBody_absent (hv : (grp s s).save = some v) (h : returnAbsent s v = true) :
    sretBody (flushedIctx s) (flushed s) = .trap 0x06 (d64 (returnTarget (grp s s) v).toNat) := by
  rw [sretBody, returnsTo_filter hv, if_pos h]

/-- The group once the issuing unit's due writes have landed. -/
def landedGroup (s : State) : Group :=
  (landAll (grp s (flushed s)) (unit s (flushed s)).due).setUnit { unit s (flushed s) with due := [], streak := (unit s s).streak + 1 }

theorem grp_dueLanded : grp s (dueLanded s (flushed s)) = landedGroup s := State.group_setGroup_self _ _ _ _

/-- With its target at hand, `sret` stalls for its originals, or enters them and returns. -/
theorem sretBody_present (hr : ready s) (hv : (grp s s).save = some v) (h : returnAbsent s v = false) : sretBody (flushedIctx s) (flushed s) =
    if ((flushed s).core s.cur.1).returnStalls (grp s (flushed s)) then .stall ((flushed s).boardMoves s.cur.1)
    else .done ((match v.inst with
      | some id => (dueLanded s (flushed s)).replay s.cur.1 s.cur.2.1 id v.cut
      | none => dueLanded s (flushed s)).trapReturn s.cur.1 s.cur.2.1 s.cur.2.2) := by
  have huid : (flushedIctx s).u.uid = s.cur.2.2 := unit_uid hr
  have hsave : (flushedIctx s).g.save = some v := save_flushed.trans hv
  rw [sretBody, returnsTo_filter hv, if_neg (Bool.eq_false_iff.1 h)]
  simp only [huid, hsave]
  rfl

theorem returnStalls_iff (k : Core) (g : Group) : k.returnStalls g = true ↔ g.returning ≠ [] ∧ k.onBoard ≠ 0 ∧ 64 < k.onBoard + g.returning.length := by
  simp [Core.returnStalls, and_assoc]

end

/-! ### A return that enters no originals -/

section
variable {s : State} {v : TrapSave} {n : Nat}

theorem landedGroup_save : (landedGroup s).save = (grp s s).save := by
  have h := landAll_frame (grp s (flushed s)) (unit s (flushed s)).due
  unfold Group.sameButRegs at h
  rw [landedGroup, Group.setUnit_save, h]
  exact save_flushed

theorem landedGroup_trap : let g := landedGroup s
    g.trc = (grp s s).trc ∧ g.tra = (grp s s).tra ∧ g.trx = (grp s s).trx ∧ g.trv = (grp s s).trv := by
  have h := landAll_frame (grp s (flushed s)) (unit s (flushed s)).due
  unfold Group.sameButRegs at h
  dsimp only
  simp only [landedGroup, Group.setUnit_trc, Group.setUnit_tra, Group.setUnit_trx, Group.setUnit_trv]
  rw [h, grp_flushed]
  exact ⟨rfl, rfl, rfl, rfl⟩

theorem landedGroup_any (hr : ready s) : (landedGroup s).iunits.any (fun u => u.uid == s.cur.2.2) = true := by
  have h := landAll_frame (grp s (flushed s)) (unit s (flushed s)).due
  unfold Group.sameButRegs at h
  have hany : (landAll (grp s (flushed s)) (unit s (flushed s)).due).iunits.any (fun u => u.uid == s.cur.2.2) = true := by
    rw [h]
    have hunits := hr.1
    rwa [← iunits_flushed] at hunits
  obtain ⟨u, hu, huid⟩ := List.any_eq_true.1 hany
  have hunit : (unit s (flushed s)).uid = s.cur.2.2 := (congrArg IUnit.uid (unit_flushed s)).trans (unit_uid hr)
  refine List.any_eq_true.2 ⟨_, List.mem_map_of_mem hu, ?_⟩
  split
  · simpa using hunit
  · exact huid

theorem landedGroup_sreg (h : ¬ dueS s n) : (landedGroup s).sreg n = (grp s s).sreg n := by
  have hdue : ∀ w ∈ (unit s (flushed s)).due, w.w.namesS n = false := fun w hw => by
    rw [unit_flushed] at hw
    exact Bool.eq_false_iff.2 fun hn => h ⟨w, hw, hn⟩
  rw [landedGroup, Group.sreg_setUnit, landAll_sreg _ _ _ hdue, grp_flushed]
  rfl

theorem vreg_setUnit (g : Group) (u : IUnit) (k : Nat) : (g.setUnit u).vreg k = g.vreg k := rfl

theorem landedGroup_vreg (h : ¬ dueV s n) : (landedGroup s).vreg n = (grp s s).vreg n := by
  have hdue : ∀ w ∈ (unit s (flushed s)).due, w.w.namesV n = false := fun w hw => by
    rw [unit_flushed] at hw
    exact Bool.eq_false_iff.2 fun hn => h ⟨w, hw, hn⟩
  rw [landedGroup, vreg_setUnit, landAll_vreg _ _ _ hdue, grp_flushed]
  rfl

/-- The machine after a return without originals. -/
def afterSret (s : State) : State := ((dueLanded s (flushed s)).trapReturn s.cur.1 s.cur.2.1 s.cur.2.2).cycle s.cur.1

theorem grp_afterSret (hv : (grp s s).save = some v) : grp s (afterSret s) = returned (landedGroup s) s.cur.2.2 v := by
  have hgrp : (dueLanded s (flushed s)).group s.cur.1 s.cur.2.1 = landedGroup s := grp_dueLanded
  rw [afterSret, trapReturn_eq _ (hgrp ▸ landedGroup_save.trans hv), hgrp, grp, State.group_cycle, State.group_setGroup_self]

theorem unit_afterSret (hr : ready s) (hv : (grp s s).save = some v) :
    unit s (afterSret s) = givenBackUnit (givenBack (landedGroup s) v) s.cur.2.2 v := by
  rw [unit, grp_afterSret hv, iunit_returned (landedGroup_any hr)]

theorem memory_afterSret (hv : (grp s s).save = some v) : (afterSret s).hbm = s.hbm ∧ (afterSret s).l2 = s.l2 := by
  have hgrp : (dueLanded s (flushed s)).group s.cur.1 s.cur.2.1 = landedGroup s := grp_dueLanded
  rw [afterSret, trapReturn_eq _ (hgrp ▸ landedGroup_save.trans hv), hgrp]
  have hflush : (flushed s).hbm = s.hbm ∧ (flushed s).l2 = s.l2 := by
    rcases flush_shape s s.cur.1 s.cur.2.1 with h | ⟨n, ops, -, h⟩ <;> rw [flushed, h] <;> exact ⟨rfl, rfl⟩
  exact hflush

end

end Sys2Proof.Slice0.Cores
end


section
/-! PROOF. A return from a TILE_FAULT of KIND 3 (O31): the originals that enter again, and the commands that they hold. -/

namespace Sys2Proof.Slice0.Cores

open Sys2Proof.Machine Sys2Proof.Slice0 Sys2Proof.Slice0.Scheduling

/-! ### What a replay enters (R154) -/

/-- The machine without the faulted replacement, whose sectors are counted. -/
def withoutInstance (s : State) (c sl id : Nat) : State :=
  s.setGroup c sl ({ s.group c sl with instances := (s.group c sl).instances.filter (fun j => j.id != id) }.countRw 64)

/-- The unstarted commands of the group that entered after the faulted replacement and before the trap. -/
def enteredBetween (k : Core) (sl cut : Nat) (i : Instance) : List Live :=
  k.entered.filter (fun y => y.sl == sl && y.m.stage == .entered && decide (i.fault.getD 0 < y.m.entry) && decide (y.m.entry < cut))

/-- An original as it enters, with the numbers of the commands that it holds. -/
def holding (k : Core) (sl : Nat) (between : List Live) (o : Op) : Op :=
  { o with cmd := o.cmd.map (fun m => { m with holds := (k.heldFor { sl := sl, op := o, m := m } between).map (·.op.seq) }) }

/-- The originals that enter, in order. -/
def originalsEntering (s : State) (c sl id cut : Nat) (i : Instance) : List Op :=
  let k := (withoutInstance s c sl id).core c
  ((List.range i.originals.length).filterMap (fun j => (i.originals[j]?).map (replayOp (s.group c sl) (s.seq + j) (k.entries + j)))).map
    (holding k sl (enteredBetween k sl cut i))

/-- The machine with the originals in the scoreboard, before their sectors count. -/
def originalsEntered (s : State) (c sl id cut : Nat) (i : Instance) : State :=
  let s1 := withoutInstance s c sl id
  let k := s1.core c
  let ops := originalsEntering s c sl id cut i
  { s1.setCore c ({ k with entries := k.entries + ops.length }.setGroup sl { k.group sl with ops := (k.group sl).ops ++ ops }) with seq := s1.seq + ops.length }

/-- The sectors of entered commands count. -/
def postAll (c sl : Nat) (ops : List Op) (s : State) : State :=
  ops.foldl (fun s o => s.postSectors c (s.group c sl) ((o.cmd.map (·.posted)).getD [])) s

theorem replay_eq {s : State} {c sl id : Nat} {i : Instance} (cut : Nat) (h : (s.group c sl).instances.find? (fun j => j.id == id) = some i) :
    s.replay c sl id cut = postAll c sl (originalsEntering s c sl id cut i) (originalsEntered s c sl id cut i) := by
  simp only [State.replay, h]
  rfl

/-! ### Sectors count in local memory alone -/

/-- The two machines have the same groups on a core, and the same entry number next. -/
def sameBoard (c : Nat) (s t : State) : Prop := (t.core c).groups = (s.core c).groups ∧ (t.core c).entries = (s.core c).entries

theorem sameBoard_trans {c : Nat} {s t u : State} (h : sameBoard c s t) (h' : sameBoard c t u) : sameBoard c s u :=
  ⟨h'.1.trans h.1, h'.2.trans h.2⟩

theorem sameBoard_tbStep (s : State) (c : Nat) (g : Group) (a : Nat) (f : TBar → TBar) : sameBoard c s (s.tbStep c g a f) := by
  rw [sameBoard, State.tbStep, State.core_setCore_self]
  exact ⟨rfl, rfl⟩

theorem sameBoard_postSectors (c : Nat) (g : Group) (posts : List (Nat × Nat)) (s : State) : sameBoard c s (s.postSectors c g posts) := by
  induction posts generalizing s with
  | nil => exact ⟨rfl, rfl⟩
  | cons p ps ih => exact sameBoard_trans (sameBoard_tbStep s c g p.1 _) (ih _)

theorem sameBoard_postAll (c sl : Nat) (ops : List Op) (s : State) : sameBoard c s (postAll c sl ops s) := by
  induction ops generalizing s with
  | nil => exact ⟨rfl, rfl⟩
  | cons o os ih => exact sameBoard_trans (sameBoard_postSectors c _ _ s) (ih _)

theorem group_of_sameBoard {c sl : Nat} {s t : State} (h : sameBoard c s t) : t.group c sl = s.group c sl := by
  rw [State.group, Core.group, h.1]
  rfl

/-! ### The originals, one by one -/

theorem filterMap_range_getElem {α β : Type} (l : List α) (f : Nat → α → β) :
    (List.range l.length).filterMap (fun j => (l[j]?).map (f j)) = l.mapIdx f := by
  induction l using List.reverseRecOn with
  | nil => rfl
  | append_singleton l a ih =>
    have hinit : (List.range l.length).filterMap (fun j => ((l ++ [a])[j]?).map (f j)) = (List.range l.length).filterMap (fun j => (l[j]?).map (f j)) :=
      List.filterMap_congr fun j hj => by rw [List.getElem?_append_left (List.mem_range.1 hj)]
    rw [List.length_append, List.length_singleton, List.range_succ, List.filterMap_append, hinit, ih, List.mapIdx_concat]
    simp

/-- A command of between is held if it overlaps the original, or is behind a held one. -/
def holdNext (k : Core) (o : Live) (acc : List Live) (y : Live) : List Live :=
  if clash k o y || acc.any (fun z => clash k z y || z.oneUnit y) then acc ++ [y] else acc

theorem heldFor_eq (k : Core) (o : Live) (between : List Live) : k.heldFor o between = between.foldl (holdNext k o) [] := rfl

section
variable {k : Core} {o y : Live}

theorem mem_holdNext {acc : List Live} (z : Live) (h : y ∈ acc) : y ∈ holdNext k o acc z := by
  unfold holdNext
  split
  · exact List.mem_append_left _ h
  · exact h

theorem mem_holdNext_self (acc : List Live) (hc : clash k o y = true) : y ∈ holdNext k o acc y := by
  simp [holdNext, hc]

theorem mem_foldl_holdNext {l acc : List Live} (h : y ∈ acc) : y ∈ l.foldl (holdNext k o) acc := by
  induction l generalizing acc with
  | nil => exact h
  | cons z zs ih => exact ih (mem_holdNext z h)

/-- What an original holds is held: a command of between that overlaps it. -/
theorem mem_heldFor {between : List Live} (hy : y ∈ between) (hc : clash k o y = true) : y ∈ k.heldFor o between := by
  obtain ⟨pre, post, rfl⟩ := List.append_of_mem hy
  rw [heldFor_eq, List.foldl_append, List.foldl_cons]
  exact mem_foldl_holdNext (mem_holdNext_self _ hc)

end

section
variable {s : State} {c sl id cut : Nat} {i : Instance}

theorem countRw_ops (g : Group) (n : Nat) : (g.countRw n).ops = g.ops := by
  unfold Group.countRw
  split <;> rfl

theorem countRw_instances (g : Group) (n : Nat) : (g.countRw n).instances = g.instances := by
  unfold Group.countRw
  split <;> rfl

theorem group_withoutInstance : (withoutInstance s c sl id).group c sl =
    { s.group c sl with instances := (s.group c sl).instances.filter (fun j => j.id != id) }.countRw 64 := State.group_setGroup_self _ _ _ _

theorem entries_withoutInstance : ((withoutInstance s c sl id).core c).entries = (s.core c).entries := by
  rw [withoutInstance, State.core_setGroup_self]
  rfl

theorem originalsEntering_eq : originalsEntering s c sl id cut i =
    (i.originals.mapIdx (fun j => replayOp (s.group c sl) (s.seq + j) ((s.core c).entries + j))).map
      (holding ((withoutInstance s c sl id).core c) sl (enteredBetween ((withoutInstance s c sl id).core c) sl cut i)) := by
  rw [originalsEntering, entries_withoutInstance, filterMap_range_getElem]

theorem length_originalsEntering : (originalsEntering s c sl id cut i).length = i.originals.length := by
  rw [originalsEntering_eq, List.length_map, List.length_mapIdx]

theorem getElem_originalsEntering {n : Nat} {m : Cmd} (h : i.originals[n]? = some m) : (originalsEntering s c sl id cut i)[n]? =
    some (holding ((withoutInstance s c sl id).core c) sl (enteredBetween ((withoutInstance s c sl id).core c) sl cut i)
      (replayOp (s.group c sl) (s.seq + n) ((s.core c).entries + n) m)) := by
  rw [originalsEntering_eq, List.getElem?_map, List.getElem?_mapIdx, h]
  rfl

theorem group_originalsEntered : (originalsEntered s c sl id cut i).group c sl =
    { (withoutInstance s c sl id).group c sl with ops := ((withoutInstance s c sl id).group c sl).ops ++ originalsEntering s c sl id cut i } := by
  change State.group (State.setCore _ _ _) c sl = _
  rw [State.group, State.core_setCore_self, Core.group_setGroup_self]
  rfl

theorem entries_originalsEntered : ((originalsEntered s c sl id cut i).core c).entries = (s.core c).entries + i.originals.length := by
  change (State.core (State.setCore _ _ _) c).entries = _
  rw [State.core_setCore_self]
  change ((withoutInstance s c sl id).core c).entries + (originalsEntering s c sl id cut i).length = _
  rw [entries_withoutInstance, length_originalsEntering]

theorem group_replay (h : (s.group c sl).instances.find? (fun j => j.id == id) = some i) : (s.replay c sl id cut).group c sl =
    { (withoutInstance s c sl id).group c sl with ops := (s.group c sl).ops ++ originalsEntering s c sl id cut i } := by
  rw [replay_eq cut h, group_of_sameBoard (sameBoard_postAll c sl _ _), group_originalsEntered, group_withoutInstance, countRw_ops]

theorem entries_replay (h : (s.group c sl).instances.find? (fun j => j.id == id) = some i) :
    ((s.replay c sl id cut).core c).entries = (s.core c).entries + i.originals.length := by
  rw [replay_eq cut h, (sameBoard_postAll c sl _ _).2, entries_originalsEntered]

end

/-! ### The instruction -/

section
variable {e : Bool} {s : State} {v : TrapSave} (h : issuesFlush (sretIssue e) s) (hv : (grp s s).save = some v)
include h hv

/-- A target that is not resident traps first. -/
theorem sret_absent (ha : returnAbsent s v = true) : exec (.sret e) s = Slice0.Next (trapped (flushed s) 0x06 (d64 (returnTarget (grp s s) v).toNat)) := by
  have hpc : (unit (flushed s) (flushed s)).pc = (unit s s).pc := by
    rw [unit, grp_flushed_self, flushed_cur]
    exact congrArg IUnit.pc (unit_flushed s)
  rw [exec_sret, issue_flush_traps h rfl (sretBody_absent hv ha), trapped, flushed_cur, hpc]

/-- From a trap that is not of a replacement it returns. -/
theorem sret_returns (ha : returnAbsent s v = false) (hi : v.inst = none) : exec (.sret e) s = Slice0.Next (afterSret s) := by
  have hstall : ¬ ((flushed s).core s.cur.1).returnStalls (grp s (flushed s)) = true := fun hs => by
    refine ((returnStalls_iff _ _).1 hs).1 ?_
    rw [Group.returning, save_flushed, hv, Option.bind_some, hi]
  rw [exec_sret]
  refine issue_flush_done h rfl ?_
  rw [sretBody_present h.1 hv ha, if_neg hstall, hi]

/-- From that of a replacement it enters the originals and returns, or stalls for them. -/
theorem sret_replays {id : Nat} {i : Instance} (ha : returnAbsent s v = false) (hi : v.inst = some id)
    (hfind : (grp s (flushed s)).instances.find? (fun j => j.id == id) = some i) : let k := (flushed s).core s.cur.1
    (i.originals = [] ∨ k.onBoard = 0 ∨ k.onBoard + i.originals.length ≤ 64 →
      exec (.sret e) s = Slice0.Next ((((dueLanded s (flushed s)).replay s.cur.1 s.cur.2.1 id v.cut).trapReturn s.cur.1 s.cur.2.1 s.cur.2.2).cycle s.cur.1)) ∧
    (i.originals ≠ [] → k.onBoard ≠ 0 → 64 < k.onBoard + i.originals.length → exec (.sret e) s = Slice0.Next (((flushed s).boardMoves s.cur.1).cycle s.cur.1)) := by
  intro k
  rw [exec_sret]
  have hreturning : (grp s (flushed s)).returning = i.originals := by
    rw [Group.returning, save_flushed, hv, Option.bind_some, hi]
    simp only [hfind]
    rfl
  have hstalls : k.returnStalls (grp s (flushed s)) = true ↔ i.originals ≠ [] ∧ k.onBoard ≠ 0 ∧ 64 < k.onBoard + i.originals.length := by
    rw [returnStalls_iff, hreturning]
  constructor
  · intro hroom
    have hno : ¬ k.returnStalls (grp s (flushed s)) = true := fun hs => by
      obtain ⟨hsome, hboard, hfull⟩ := hstalls.1 hs
      rcases hroom with hroom | hroom | hroom
      · exact hsome hroom
      · exact hboard hroom
      · omega
    refine issue_flush_done h rfl ?_
    rw [sretBody_present h.1 hv ha, if_neg hno, hi]
  · intro hsome hboard hfull
    refine issue_flush_stalls h rfl ?_
    rw [sretBody_present h.1 hv ha, if_pos (hstalls.2 ⟨hsome, hboard, hfull⟩)]

end

/-- What the statement says of a target at hand. -/
theorem returnAbsent_eq_false {s : State} {v : TrapSave} (h : segOf (returnTarget (grp s s) v) = segOf (unit s s).pc ∨
    ((s.core s.cur.1).resident (grp s s).part (segOf (returnTarget (grp s s) v))).isSome = true) : returnAbsent s v = false := by
  rcases h with h | h
  · simp [returnAbsent, h]
  · simp only [returnAbsent, Bool.and_eq_false_iff]
    exact .inr (by simpa using h)

/-- The captured address comes back, or the handler's. -/
theorem pc_givenBackUnit {s : State} {v : TrapSave} (uid : Nat) : (givenBackUnit (givenBack (landedGroup s) v) uid v).pc = returnTarget (grp s s) v := by
  obtain ⟨-, htra, -, -⟩ := landedGroup_trap (s := s)
  have hva : b57 (grp s s).tra.toNat = (grp s s).tra.setWidth 57 := BitVec.ofNat_toNat 57 _
  rw [givenBackUnit, tra_givenBack, htra, hva]
  rfl

section
variable {g : Group} {v : TrapSave} {uid n : Nat}

theorem returned_sreg : (returned g uid v).sreg n = (givenBack g v).sreg n := rfl
theorem returned_vreg : (returned g uid v).vreg n = (givenBack g v).vreg n := rfl

/-- A return leaves the trap's registers. -/
theorem returned_trap : (returned g uid v).trc = g.trc ∧ (returned g uid v).tra = g.tra ∧ (returned g uid v).trx = g.trx ∧ (returned g uid v).trv = g.trv := by
  rw [returned_frame]
  exact ⟨rfl, rfl, rfl, rfl⟩

end

/-- Settles O31: `sret` traps on an absent target, returns, or enters the originals of a faulted replacement, each holding what it overlaps, and returns. -/
theorem trapReturns : Obligations.TrapReturns := by
  unfold Obligations.TrapReturns
  constructor
  · intro e s v h hv target
    refine ⟨fun hseg hres => sret_absent h hv ?_, fun hinst hat => ?_, fun id i hinst hfind hat => sret_replays h hv (returnAbsent_eq_false hat) hinst hfind⟩
    · simpa [returnAbsent, show returnTarget (grp s s) v = target from rfl, hres] using hseg
    refine ⟨afterSret s, sret_returns h hv (returnAbsent_eq_false hat) hinst, ?_⟩
    obtain ⟨hhbm, hl2⟩ := memory_afterSret hv
    obtain ⟨htrc, htra, htrx, htrv⟩ := returned_trap (g := landedGroup s) (v := v) (uid := s.cur.2.2)
    obtain ⟨htrc', htra', htrx', htrv'⟩ := landedGroup_trap (s := s)
    rw [unit_afterSret h.1 hv, grp_afterSret hv]
    refine ⟨rfl, rfl, pc_givenBackUnit _, rfl, rfl, rfl, rfl, rfl, rfl, rfl, fun hp => if_neg hp, fun hp => if_pos hp,
      htrc.trans htrc', htra.trans htra', htrx.trans htrx', htrv.trans htrv',
      fun n hd ho hn => ?_, fun n hd ho hn => ?_, fun hp pre w post hold => ?_, hhbm, hl2⟩
    · rw [returned_sreg, givenBack_sreg ho hn, landedGroup_sreg hd]
    · rw [returned_vreg, givenBack_vreg ho hn, landedGroup_vreg hd]
    · have hback : givenBack (landedGroup s) v = (pre ++ w :: post).foldl Group.apply (landedGroup s) := by
        rw [givenBack, if_neg hp, hold]
      simp only [returned_sreg, returned_vreg, hback]
      exact foldl_apply_last _
  · intro s c sl id cut i hfind s1 k t
    refine ⟨originalsEntering s c sl id cut i, ?_, length_originalsEntering, entries_replay hfind, fun j hj => ?_, fun n o m ho hm => ?_⟩
    · rw [group_replay hfind]
    · rw [group_replay hfind] at hj
      change j ∈ ((withoutInstance s c sl id).group c sl).instances at hj
      rw [group_withoutInstance, countRw_instances] at hj
      exact bne_iff_ne.1 (List.mem_filter.1 hj).2
    · rw [getElem_originalsEntering hm, Option.some.injEq] at ho
      subst ho
      refine ⟨rfl, rfl, rfl, _, rfl, rfl, rfl, rfl, rfl, rfl, rfl, rfl, rfl, rfl, rfl, rfl, fun y hy hsl hst hlo hhi hclash => ?_⟩
      have hbetween : y ∈ enteredBetween k sl cut i := List.mem_filter.2 ⟨hy, by simp [hsl, hst, hlo, hhi]⟩
      exact List.mem_map_of_mem (mem_heldFor hbetween hclash)

end Sys2Proof.Slice0.Cores
end

section
/-! PROOF. `fence` (O36): an instruction at a flush point that only fences. -/

namespace Sys2Proof.Slice0.Reckoner

open Sys2Proof.Machine Sys2Proof.Slice0 Sys2Proof.Slice0.Cores

theorem exec_fence (e : Bool) (sc o : BitVec 3) (s : State) :
    exec (.fence e sc o) s = issue { i := .fence e sc o, e := e, flush := true } s (fun x s => fenceDo x s o.toNat sc.toNat finPlain) := rfl

/-- Settles O36: the body of `fence` is the fence of its order and scope, behind the flush of the window. -/
theorem fences : Obligations.Fences := by
  intro e sc o s x h
  rw [exec_fence]
  exact issue_fences h rfl rfl

end Sys2Proof.Slice0.Reckoner
end

section
/-! PROOF. `wrsr` (O32): the adds that come first, what is written, and the trap of a user. -/

namespace Sys2Proof.Slice0.Reckoner

open Sys2Proof.Machine Sys2Proof.Slice0 Sys2Proof.Slice0.ButusFabric

/-- A privileged instruction at user level, legal in its word and fields, traps PRIV (R251). -/
theorem issue_priv {x : Issue} {s : State} (body : Ictx → State → Done) (hr : ready s) (hp : x.priv = true) (hl : x.illegal = false)
    (hu : (grp s s).stat.getLsbD 0 = false) (hf : illegalField (grp s s) (unit s s) (d64 ((encode x.i).getD 0).toNat) x.fields = none) :
    issue x s body = Slice0.Next (trapped s 0x05 (d64 ((encode x.i).getD 0).toNat)) := by
  have hpriv : (x.priv && !(grp s s).privileged) = true := by
    rw [hp, Group.privileged, hu]
    rfl
  refine issue_trap x s body _ _ hr.2 ?_
  change decodeTrap x (grp s s) (unit s s) = _
  simp only [decodeTrap, hf, hl, hpriv, Bool.false_eq_true, if_false, if_true]

/-! ### The write (R221, R252) -/

/-- Each writable register takes the bits of its fields; the last case is a read-only register. -/
theorem writeSys_eq (g : Group) (n : Nat) (v : Dword) : g.writeSys n v = sysWritten g n v := by
  unfold Group.writeSys
  split
  case h_1 | h_2 | h_3 | h_4 | h_6 | h_7 | h_8 => simp [sysWritten, field, nbits]
  case h_5 | h_9 | h_10 | h_11 | h_12 => simp [sysWritten, setAt]
  case h_13 => simp_all [sysWritten]

/-- The registers whose `wrsr` is privileged, by number. -/
theorem sysPriv_iff (n : Nat) : sysPriv n = true ↔ n = 1 ∨ n = 2 ∨ n = 3 ∨ n = 4 ∨ n = 7 ∨ n = 8 ∨ n = 9 ∨ n = 10 := by
  simp only [sysPriv, Bool.or_eq_true, Bool.and_eq_true, decide_eq_true_iff]
  omega

/-! ### The adds of the old register (R155, R214, R223) -/

/-- What `wrsr` does once it has passed decode, from the state in which what was counted has been added. -/
def wrsrFrom (s s0 : State) (n : Nat) (v : Dword) : Done :=
  if ((n = 9 || n = 10) && !(grp s s0).fxAdds.isEmpty) || (n = 8 && !(grp s s0).rwAdds.isEmpty) then .stall s0
  else finPlain (s0.setGroup s.cur.1 s.cur.2.1 (sysWritten (grp s s0) n v))

theorem exec_wrsr (e : Bool) (a : BitVec 7) (n : BitVec 8) (s : State) :
    ∃ body, exec (.wrsr e a n) s = issue { i := .wrsr e a n, e := e, fields := [sSrcF a], priv := sysPriv n.toNat } s body ∧
      body s.ictx s = wrsrFrom s (countsAdded s n.toNat) n.toNat (s.ictx.readS a) := by
  change ∃ body, execWrsr e a n s = issue { i := .wrsr e a n, e := e, fields := [sSrcF a], priv := sysPriv n.toNat } s body ∧ _
  unfold execWrsr
  refine ⟨_, rfl, ?_⟩
  have hadded : (if (n.toNat = 9 || n.toNat = 10) = true then s.flushFx s.cur.1 s.cur.2.1
      else if n.toNat = 8 then s.flushRw s.cur.1 s.cur.2.1 else s) = countsAdded s n.toNat := by
    simp [countsAdded]
  rw [← hadded, wrsrFrom, ← writeSys_eq]
  rfl

theorem addsWait_iff {s s0 : State} {n : Nat} :
    (((n = 9 || n = 10) && !(grp s s0).fxAdds.isEmpty) || (n = 8 && !(grp s s0).rwAdds.isEmpty)) = true ↔ ¬ addsLanded s0 s n := by
  simp only [addsLanded, Bool.or_eq_true, Bool.and_eq_true, decide_eq_true_iff, Bool.not_eq_true', List.isEmpty_eq_false_iff]
  tauto

section
variable {e : Bool} {a : BitVec 7} {n : BitVec 8} {s : State}
  (hc : clean { i := .wrsr e a n, e := e, fields := [sSrcF a], priv := sysPriv n.toNat } s)
include hc

theorem wrsr_stalls (h : ¬ addsLanded (countsAdded s n.toNat) s n.toNat) :
    exec (.wrsr e a n) s = Slice0.Next ((countsAdded s n.toNat).cycle s.cur.1) := by
  obtain ⟨body, he, hb⟩ := exec_wrsr e a n s
  rw [he]
  exact issue_stalls hc rfl rfl (hb.trans (if_pos (addsWait_iff.2 h)))

theorem wrsr_writes {s1 : State} (h : addsLanded (countsAdded s n.toNat) s n.toNat)
    (hs1 : (countsAdded s n.toNat).setGroup s.cur.1 s.cur.2.1 (sysWritten (grp s (countsAdded s n.toNat)) n.toNat (s.ictx.readS a)) = s1) (hn : nextAt s s1) :
    exec (.wrsr e a n) s = Slice0.Next (goesOn { i := .wrsr e a n, e := e, fields := [sSrcF a], priv := sysPriv n.toNat } s s1) := by
  obtain ⟨body, he, hb⟩ := exec_wrsr e a n s
  rw [he]
  refine issue_goesOn hc rfl rfl (hb.trans ?_) hn
  rw [wrsrFrom, if_neg fun hw => addsWait_iff.1 hw h, hs1]
  rfl

end

/-- Settles O32: `wrsr` stalls on an add that waits, or writes; at user level a privileged register traps. -/
theorem registerWrites : Obligations.RegisterWrites := by
  intro e a n s hr
  refine ⟨fun hc => ⟨wrsr_stalls hc, fun hl hn => wrsr_writes hc hl rfl hn⟩, fun hu hpriv hf => ?_⟩
  obtain ⟨body, he, -⟩ := exec_wrsr e a n s
  rw [he]
  exact issue_priv body hr ((sysPriv_iff _).2 hpriv) rfl hu hf

end Sys2Proof.Slice0.Reckoner
end

section
/-! PROOF. `rwctl` and `rwld` (O33): how a report is taken at a flush point, the checks of a rule load, its read, and what becomes of the image. -/

namespace Sys2Proof.Slice0.Reckoner

open Sys2Proof.Machine Sys2Proof.Slice0 Sys2Proof.Slice0.Scheduling Sys2Proof.Slice0.Cores

/-! ### The flushed state -/

section
variable (s : State)

/-- The flush changes no partition. -/
theorem partitions_flushed (p : Nat) : (flushed s).part p = s.part p := by
  rcases flush_shape s s.cur.1 s.cur.2.1 with h | ⟨n, ops, -, h⟩ <;> rw [flushed, h]
  rfl

theorem privileged_flushed : (grp s (flushed s)).privileged = (grp s s).privileged := by
  rw [grp_flushed]
  rfl

theorem waitRec_flushed : (grp s (flushed s)).waitRec = (grp s s).waitRec := by rw [grp_flushed]

theorem rwp_flushed : (grp s (flushed s)).rwp = (grp s s).rwp := by rw [grp_flushed]

/-- A precise trap with the window flushed stands at the address of the instruction. -/
theorem trapped_flushed (cause : Nat) (trx : Dword) :
    trapped (flushed s) cause trx = (flushed s).trapNow s.cur.1 s.cur.2.1 s.cur.2.2 cause trx (unit s s).pc (unit s s).pc := by
  have hpc : (unit (flushed s) (flushed s)).pc = (unit s s).pc := by
    rw [unit, grp_flushed_self, flushed_cur]
    exact congrArg IUnit.pc (unit_flushed s)
  rw [trapped, flushed_cur, hpc]

end

/-- At a flush point, a body that takes a report traps at the address of the report. -/
theorem issue_flush_reports {x : Issue} {s s1 : State} {body : Ictx → State → Done} {cause : Nat} {trx : Dword} {tra : Va} {inst : Option Nat}
    (h : issuesFlush x s) (hf : x.flush = true) (hb : body (flushedIctx s) (flushed s) = .report s1 cause trx tra inst) :
    issue x s body = Slice0.Next (s1.trapNow s.cur.1 s.cur.2.1 s.cur.2.2 cause trx tra (unit s s).pc inst) := by
  obtain ⟨-, hc, ht, hr⟩ := h
  have hb' : body { s.ictx with g := (s.flush s.ictx.c s.ictx.sl).group s.ictx.c s.ictx.sl } (s.flush s.ictx.c s.ictx.sl) = .report s1 cause trx tra inst := hb
  have hempty : ((flushed s).group s.cur.1 s.cur.2.1).windowOps = [] := by simpa [roomy, State.windowLeft] using hr
  have hleft : ((s.flush s.ictx.c s.ictx.sl).flush s.ictx.c s.ictx.sl).windowLeft s.ictx.c s.ictx.sl = false := State.windowLeft_empty _ _ _ hempty
  unfold issue
  simp only [show decodeTrap x s.ictx.g s.ictx.u = none from hc, hf, show s.ictx.g.tileFault = none from ht, Bool.true_or, Bool.true_and, ite_self, if_true,
    windowLeft_of_roomy hr, hleft, Bool.false_eq_true, if_false, hb']
  rfl

/-! ### `rwctl` -/

theorem exec_rwctl (e : Bool) (k : BitVec 3) (s : State) : exec (.rwctl e k) s = issue { i := .rwctl e k, e := e, priv := s.rwPriv, flush := true } s
    (fun x s => finPlain (s.onGroup x (fun g => { g with rwp := g.rwp &&& k }))) := rfl

theorem rwctl_narrows {e : Bool} {k : BitVec 3} {s s1 : State} (h : issuesFlush { i := .rwctl e k, e := e, priv := s.rwPriv, flush := true } s)
    (hs1 : (flushed s).setGroup s.cur.1 s.cur.2.1 { grp s (flushed s) with rwp := (grp s s).rwp &&& k } = s1) (hn : nextAt s s1) :
    exec (.rwctl e k) s = Slice0.Next (goesOn { i := .rwctl e k, e := e, priv := s.rwPriv, flush := true } s s1) := by
  rw [exec_rwctl]
  refine issue_flush_goesOn h rfl ?_ hn
  rw [← hs1, ← rwp_flushed]
  rfl

/-! ### What `rwld` does once the window is flushed (R152, R353) -/

/-- How `rwld` issues. -/
def rwldIssue (s : State) (e : Bool) (a b : BitVec 7) : Issue := { i := .rwld e a b, e := e, fields := [sSrcF a, sSrcF b], priv := s.rwPriv, flush := true }

/-- The unit that issues, as its fault record names it. -/
def ruleFaulter (s : State) : Faulter := { core := s.cur.1, slot := s.cur.2.1, iaddr := (unit s s).pc.toNat }

/-- RULE_INVALID for slot n, at the address of the instruction. -/
def ruleReported (s t : State) (n : Dword) : Done := .report t 0x18 n (unit s s).pc none

/-- What becomes of an image that has been read for slot n of the group's partition: it clears the slot, is stored, or is refused. -/
def ruleTaken (s t : State) (n : Dword) (img : List Byte) : Done :=
  let p := t.part (grp s s).part
  if !ruleValid img then finPlain (t.setPart (grp s s).part { p with rules := mdel p.rules n.toNat })
  else if ruleOk img then finPlain (t.setPart (grp s s).part { p with rules := mput p.rules n.toNat img })
  else .trap 0x18 n

/-- What the answer to its read of an image leads to. -/
def ruleAnswered (s : State) (ia : Nat) (n : Dword) : State × MemRes (List Byte × Bool) → Done
  | (t, .ok (img, bad)) => if bad then ruleReported s t n else ruleTaken s t n img
  | (t, .page) => (flushedIctx s).waitOn t ia false
  | (t, .held) => .stall t
  | (t, .fatal) => ruleReported s (t.fault (grp s s).part ia false true (ruleFaulter s)).1 n

/-- The state in which it looks for what comes before its read. -/
def beforeRule (s : State) : State := (flushed s).performAll s.cur.1 s.cur.2.1

/-- With its checks passed: what comes first, then its read. -/
def ruleRun (s : State) (ia : Nat) (so : Bool) (n : Dword) : Done :=
  match (beforeRule s).comesFirst s.cur.1 s.cur.2.1 ia 64 so with
  | some o => .stall ((beforeRule s).completePath s.cur.1 s.cur.2.1 o.path)
  | none => ruleAnswered s ia n (ruleRead s ((beforeRule s).l1Land s.cur.1) ia so)

/-- The address of the image, and how the group's partition grants it. -/
def ruleVa (s : State) (a : BitVec 7) : Nat := vaMod (s.ictx.readS a).toNat
def ruleGrant (s : State) (a : BitVec 7) : Except Nat (Nat × Bool) :=
  (s.part (grp s s).part).xlate (ruleVa s a) 64 { rd := true, user := !(grp s s).privileged }

/-- Its checks in their order, then the fault record that it waits for, if any, then its run. -/
def ruleBody (s : State) (a b : BitVec 7) : Done :=
  match ruleGrant s a with
  | .error _ => .trap 0x08 (s.ictx.readS a)
  | .ok (ia, so) =>
    if ruleVa s a % 64 != 0 then .trap 0x09 (s.ictx.readS a)
    else if 63 < (s.ictx.readS b).toNat then .trap 0x18 (s.ictx.readS b)
    else (flushedIctx s).resumed (flushed s) (fun t => ruleReported s t (s.ictx.readS b)) (fun _ => ruleRun s ia so (s.ictx.readS b))

/-- What runs matters in the state that runs only. -/
theorem resumed_congr {x : Ictx} {s : State} {fatal run run' : State → Done} (h : run s = run' s) : x.resumed s fatal run = x.resumed s fatal run' := by
  unfold Ictx.resumed
  split
  · exact h
  all_goals rfl

theorem exec_rwld (e : Bool) (a b : BitVec 7) (s : State) :
    ∃ body, exec (.rwld e a b) s = issue (rwldIssue s e a b) s body ∧ body (flushedIctx s) (flushed s) = ruleBody s a b := by
  change ∃ body, execRwld e a b s = issue (rwldIssue s e a b) s body ∧ _
  unfold execRwld
  refine ⟨_, rfl, ?_⟩
  have hc : (flushedIctx s).c = s.cur.1 := rfl
  have hsl : (flushedIctx s).sl = s.cur.2.1 := rfl
  have hu : (flushedIctx s).u = unit s s := rfl
  have hg : (flushedIctx s).g = grp s (flushed s) := rfl
  simp only [readS_flushedIctx, hc, hsl, hu, hg, part_flushed, privileged_flushed, partitions_flushed]
  unfold ruleBody ruleGrant ruleVa
  cases (s.part (grp s s).part).xlate (vaMod (s.ictx.readS a).toNat) 64 { rd := true, user := !(grp s s).privileged } with
  | error v => rfl
  | ok y =>
    refine ite_congr rfl (fun _ => rfl) fun _ => ite_congr rfl (fun _ => rfl) fun _ => resumed_congr ?_
    unfold ruleRun beforeRule
    cases ((flushed s).performAll s.cur.1 s.cur.2.1).comesFirst s.cur.1 s.cur.2.1 y.1 64 y.2 with
    | some o => rfl
    | none =>
      unfold ruleRead
      dsimp only
      generalize State.homeRead _ _ _ _ = r
      obtain ⟨t, ⟨img, bad⟩ | _ | _ | _⟩ := r
      all_goals rfl

section
variable {s t : State} {a b : BitVec 7} {ia : Nat} {so : Bool} {n : Dword} {img : List Byte}

theorem ruleBody_denied {v : Nat} (hx : ruleGrant s a = .error v) : ruleBody s a b = .trap 0x08 (s.ictx.readS a) := by
  rw [ruleBody, hx]

theorem ruleBody_misaligned {y : Nat × Bool} (hx : ruleGrant s a = .ok y) (hal : ruleVa s a % 64 ≠ 0) : ruleBody s a b = .trap 0x09 (s.ictx.readS a) := by
  rw [ruleBody, hx]
  exact if_pos (bne_iff_ne.2 hal)

theorem ruleBody_noSlot {y : Nat × Bool} (hx : ruleGrant s a = .ok y) (hal : ruleVa s a % 64 = 0) (hslot : 63 < (s.ictx.readS b).toNat) :
    ruleBody s a b = .trap 0x18 (s.ictx.readS b) := by
  rw [ruleBody, hx]
  exact (if_neg (by simp [hal])).trans (if_pos hslot)

theorem ruleBody_runs (hx : ruleGrant s a = .ok (ia, so)) (hal : ruleVa s a % 64 = 0) (hslot : (s.ictx.readS b).toNat ≤ 63) (hw : (grp s s).waitRec = none) :
    ruleBody s a b = ruleRun s ia so (s.ictx.readS b) := by
  have hw' : (flushedIctx s).g.waitRec = none := (waitRec_flushed s).trans hw
  rw [ruleBody, hx]
  refine ((if_neg (by simp [hal])).trans (if_neg (Nat.not_lt.2 hslot))).trans ?_
  rw [Ictx.resumed, hw']

theorem ruleRun_waits {o : Op} (ho : (beforeRule s).comesFirst s.cur.1 s.cur.2.1 ia 64 so = some o) :
    ruleRun s ia so n = .stall ((beforeRule s).completePath s.cur.1 s.cur.2.1 o.path) := by
  rw [ruleRun, ho]

theorem ruleRun_reads (ho : (beforeRule s).comesFirst s.cur.1 s.cur.2.1 ia 64 so = none) :
    ruleRun s ia so n = ruleAnswered s ia n (ruleRead s ((beforeRule s).l1Land s.cur.1) ia so) := by
  rw [ruleRun, ho]

theorem ruleTaken_cleared (hv : ruleValid img = false) : let p := t.part (grp s s).part
    ruleTaken s t n img = finPlain (t.setPart (grp s s).part { p with rules := mdel p.rules n.toNat }) := by
  simp [ruleTaken, hv]

theorem ruleTaken_stored (hv : ruleValid img = true) (hok : ruleOk img = true) : let p := t.part (grp s s).part
    ruleTaken s t n img = finPlain (t.setPart (grp s s).part { p with rules := mput p.rules n.toNat img }) := by
  simp [ruleTaken, hv, hok]

theorem ruleTaken_refused (hv : ruleValid img = true) (hok : ruleOk img = false) : ruleTaken s t n img = .trap 0x18 n := by
  simp [ruleTaken, hv, hok]

/-- On a page fault a group waits for the record of the fault (R214). -/
theorem ruleAnswered_page (htask : (grp s s).isTask = false) : let f := t.fault (grp s s).part ia false false (ruleFaulter s)
    ruleAnswered s ia n (t, .page) =
      .stall (f.1.setGroup s.cur.1 s.cur.2.1 { grp s f.1 with waitRec := some (f.2, false), waitIa := (ia, false) }) := by
  have htask' : (flushedIctx s).g.isTask = false := (isTask_flushed s).trans htask
  have hpart : (flushedIctx s).g.part = (grp s s).part := part_flushed s
  intro f
  rw [ruleAnswered, Ictx.waitOn, htask', hpart]
  rfl

end

/-! ### How `rwld` ends -/

section
variable {s t : State} {e : Bool} {a b : BitVec 7} {n : Dword} (h : issuesFlush (rwldIssue s e a b) s)
include h

theorem rwld_traps {cause : Nat} {trx : Dword} (hb : ruleBody s a b = .trap cause trx) : exec (.rwld e a b) s = Slice0.Next (trapped (flushed s) cause trx) := by
  obtain ⟨body, he, hbody⟩ := exec_rwld e a b s
  rw [he, issue_flush_traps h rfl (hbody.trans hb), trapped_flushed]

theorem rwld_stalls (hb : ruleBody s a b = .stall t) : exec (.rwld e a b) s = Slice0.Next (t.cycle s.cur.1) := by
  obtain ⟨body, he, hbody⟩ := exec_rwld e a b s
  rw [he, issue_flush_stalls h rfl (hbody.trans hb)]

theorem rwld_reports (hb : ruleBody s a b = ruleReported s t n) :
    exec (.rwld e a b) s = Slice0.Next (t.trapNow s.cur.1 s.cur.2.1 s.cur.2.2 0x18 n (unit s s).pc (unit s s).pc) := by
  obtain ⟨body, he, hbody⟩ := exec_rwld e a b s
  rw [he, issue_flush_reports h rfl (hbody.trans hb)]

theorem rwld_goesOn (hb : ruleBody s a b = finPlain t) (hn : nextAt s t) : exec (.rwld e a b) s = Slice0.Next (goesOn (rwldIssue s e a b) s t) := by
  obtain ⟨body, he, hbody⟩ := exec_rwld e a b s
  rw [he, issue_flush_goesOn h rfl (hbody.trans hb) hn]

end

/-- Settles O33: `rwctl` narrows RWP; `rwld` checks, waits, and takes the image that it reads; a `wrsr` to RWP leaves what it writes; both trap a user. -/
theorem ruleLoads : Obligations.RuleLoads := by
  refine ⟨fun e k s h hn => rwctl_narrows h rfl hn, ?_, ?_, fun e a s _ hc hn => ?_, fun e k a b s hr hu huser => ?_⟩
  · intro e a b s t ia so img x va n h hx hal hslot hw s1 ho hread p
    have htaken : ruleBody s a b = ruleTaken s t n img := by
      rw [ruleBody_runs hx hal hslot hw, ruleRun_reads ho, show ruleRead s ((beforeRule s).l1Land s.cur.1) ia so = (t, .ok (img, false)) from hread]
      rfl
    exact ⟨fun hv hn => rwld_goesOn h (htaken.trans (ruleTaken_cleared hv)) hn, fun hv hok hn => rwld_goesOn h (htaken.trans (ruleTaken_stored hv hok)) hn,
      fun hv hok => rwld_traps h (htaken.trans (ruleTaken_refused hv hok))⟩
  · intro e a b s x va n r h
    refine ⟨fun v hx => rwld_traps h (ruleBody_denied hx), fun y hx hal => rwld_traps h (ruleBody_misaligned hx hal),
      fun y hx hal hslot => rwld_traps h (ruleBody_noSlot hx hal hslot), ?_⟩
    intro ia so hx hal hslot hw s1 read who invalid
    have hruns := ruleBody_runs hx hal hslot hw
    refine ⟨fun o ho => rwld_stalls h (hruns.trans (ruleRun_waits ho)), fun ho => ?_⟩
    have hread (z : State × MemRes (List Byte × Bool)) (hz : read = z) : ruleBody s a b = ruleAnswered s ia n z := by
      rw [hruns, ruleRun_reads ho, ← hz]
      rfl
    exact ⟨fun t img ht => rwld_reports h (hread _ ht), fun t ht => rwld_reports h (hread _ ht),
      fun t ht htask => rwld_stalls h ((hread _ ht).trans (ruleAnswered_page htask))⟩
  · have hl : addsLanded (countsAdded s 7) s 7 := by simp [addsLanded]
    exact wrsr_writes (n := 7) hc hl rfl hn
  · have hpriv : s.rwPriv = true := by
      rw [State.rwPriv, show s.ictx.g = grp s s from rfl, huser]
      rfl
    obtain ⟨body, he, -⟩ := exec_rwld e a b s
    refine ⟨?_, fun hf => ?_⟩
    · rw [exec_rwctl]
      exact issue_priv _ hr hpriv rfl hu rfl
    · rw [he]
      exact issue_priv body hr hpriv rfl hu hf

end Sys2Proof.Slice0.Reckoner
end

section
/-! PROOF. Per-thread and plane accesses (O22): the checks that the lanes pass, a task's pins, and the operation that enters. -/

namespace Sys2Proof.Slice0.MemoryAndPlanes

open Sys2Proof.Machine Sys2Proof.Slice0 Sys2Proof.Slice0.ButusFabric Sys2Proof.Slice0.Scheduling Sys2Proof.Slice0.Cores

/-! ### Accesses that translate -/

/-- The accesses of a list that have translated so far, or the first failure. -/
abbrev Translated := Except Nat (List (Nat × Nat) × List Bool)

/-- One more access translates, unless an earlier one has failed. -/
def xlateNext (s : State) (g : Group) (need : Need) (n : Nat) (acc : Translated) (v : Nat × Nat) : Translated :=
  match acc with
  | .error e => .error e
  | .ok (l, so) =>
    match (s.part g.part).xlate v.2 n { need with user := !g.privileged } with
    | .error e => .error e
    | .ok (ia, r) => .ok (l ++ [(v.1, ia)], so ++ [r])

section
variable {s : State} {g : Group} {need : Need} {n : Nat}

theorem xlateAll_eq (vas : List (Nat × Nat)) : s.xlateAll g need n vas = vas.foldl (xlateNext s g need n) (.ok ([], [])) := rfl

theorem foldl_xlateNext_error (vas : List (Nat × Nat)) (e : Nat) : vas.foldl (xlateNext s g need n) (.error e) = .error e := by
  induction vas with
  | nil => rfl
  | cons v vas ih => exact ih

/-- What translates is as many accesses as are asked for, each of which translates by itself. -/
theorem foldl_xlateNext_ok {vas : List (Nat × Nat)} {acc r : List (Nat × Nat) × List Bool} (h : vas.foldl (xlateNext s g need n) (.ok acc) = .ok r) :
    r.1.length = acc.1.length + vas.length ∧ ∀ v ∈ vas, ∃ x, (s.part g.part).xlate v.2 n { need with user := !g.privileged } = .ok x := by
  induction vas generalizing acc with
  | nil =>
    cases h
    simp
  | cons v vas ih =>
    rw [List.foldl_cons, xlateNext] at h
    cases hx : (s.part g.part).xlate v.2 n { need with user := !g.privileged } with
    | error e =>
      simp only [hx, foldl_xlateNext_error] at h
      cases h
    | ok x =>
      simp only [hx] at h
      obtain ⟨hlen, hall⟩ := ih h
      refine ⟨?_, List.forall_mem_cons.2 ⟨⟨x, hx⟩, hall⟩⟩
      simp only [List.length_append, List.length_cons, List.length_nil] at hlen ⊢
      omega

/-- Accesses that each translate do so together. -/
theorem foldl_xlateNext_isOk {vas : List (Nat × Nat)} (acc : List (Nat × Nat) × List Bool)
    (h : ∀ v ∈ vas, ∃ x, (s.part g.part).xlate v.2 n { need with user := !g.privileged } = .ok x) :
    ∃ r, vas.foldl (xlateNext s g need n) (.ok acc) = .ok r := by
  induction vas generalizing acc with
  | nil => exact ⟨acc, rfl⟩
  | cons v vas ih =>
    obtain ⟨⟨x, hx⟩, hall⟩ := List.forall_mem_cons.1 h
    rw [List.foldl_cons, xlateNext]
    simp only [hx]
    exact ih _ hall

/-- The accesses of part of a list translate where those of the list do; what they are kept under does not matter. -/
theorem xlateAll_of_subset {vas ws : List (Nat × Nat)} {r : List (Nat × Nat) × List Bool} (h : s.xlateAll g need n vas = .ok r)
    (hsub : ∀ w ∈ ws, ∃ v ∈ vas, v.2 = w.2) : ∃ q, s.xlateAll g need n ws = .ok q := by
  rw [xlateAll_eq]
  refine foldl_xlateNext_isOk _ fun w hw => ?_
  obtain ⟨v, hv, he⟩ := hsub w hw
  rw [← he]
  exact (foldl_xlateNext_ok h).2 v hv

theorem length_xlateAll {vas : List (Nat × Nat)} {r : List (Nat × Nat) × List Bool} (h : s.xlateAll g need n vas = .ok r) : r.1.length = vas.length := by
  simpa using (foldl_xlateNext_ok h).1

end

/-! ### A task's pins -/

/-- A store that finds its lines free passes R219. -/
theorem pinGuard_unpinned {s : State} {f : LForm} {lines : List Nat} {first : Nat → Nat} {go : State → Done} (hk : f.kind = .stg ∨ f.kind = .stt ∨ f.kind = .stp)
    (h : unpinned s f lines) : pinGuard s.ictx s lines first go = go s := by
  unfold pinGuard
  cases ht : s.ictx.g.isTask with
  | false => rfl
  | true =>
    obtain ⟨hfree, hstall⟩ := h hk ht
    have hfree' : pinCheck (s.core s.ictx.c) s.ictx.sl s.ictx.g lines = .free := hfree
    have hstall' : s.ictx.g.pinStall = false := hstall
    simp only [hfree', hstall', Bool.not_true, Bool.false_eq_true, if_false]

/-! ### Per-thread accesses -/

/-- Every per-thread access issues the body that they share. -/
theorem exec_thread {i : Instr} {f : LForm} {s : State} (h : threadForm i = some f) (ho : badOrder (unit s s) f.kind = false) :
    exec i s = issue (f.issue i) s (fun x s => threadLanes x s f.kind f.k f.d f.dn f.a f.b (f.data x)) ∧ (f.issue i).trapsAfter = false := by
  have hexec : exec i s = issue { f.issue i with illegal := badOrder (unit s s) f.kind } s
      (fun x s => threadLanes x s f.kind f.k f.d f.dn f.a f.b (f.data x)) ∧ (f.issue i).trapsAfter = false := by
    cases i <;> simp only [threadForm, reduceCtorEq, Option.some.injEq] at h
    case ldt | stt =>
      subst h
      exact ⟨rfl, rfl⟩
  rw [ho] at hexec
  exact hexec

/-- What the form of a per-thread access says of its kind. -/
theorem threadForm_kind {i : Instr} {f : LForm} (h : threadForm i = some f) :
    f.n = widthBytes f.k ∧ (f.kind = .ldt ∧ f.path = 1 ∨ f.kind = .stt ∧ f.path = 2) := by
  cases i <;> simp only [threadForm, reduceCtorEq, Option.some.injEq] at h
  case ldt | stt =>
    subst h
    simp

section
variable {s : State} {f : LForm} {ias : List (Nat × Nat)} {so : List Bool}

/-- The sums of lanes whose offsets lie in their arrays and are aligned do so too: a lane that the address register does not list sums to 0. -/
theorem sums_fit_within {size : Nat} (h : ∀ v ∈ laneAddrs s 32 f, v.2 + f.n ≤ size ∧ v.2 % f.n = 0) {i : Nat} (hi : i ∈ laneList s.ictx.active) :
    (s.ictx.sums 32 f.a f.b).getD i 0 + f.n ≤ size ∧ (s.ictx.sums 32 f.a f.b).getD i 0 % f.n = 0 := by
  rcases sums_le_or (f := f) 32 i hi with ⟨v, hv, he⟩ | he
  · rw [he]
    exact h v hv
  · rw [he]
    have := (h _ (List.mem_map.2 ⟨i, hi, rfl⟩)).1
    exact ⟨by omega, Nat.zero_mod _⟩

/-- No lane of a per-thread access fails its range checks where all of its words translate. -/
theorem threadFails_none {i : Nat} (hfit : (s.ictx.sums 32 f.a f.b).getD i 0 + widthBytes f.k ≤ 4 * min (s.part s.ictx.g.part).ptms 16384)
    (hx : s.xlateAll s.ictx.g f.need (if 1 < widthRegs f.k then 4 else widthBytes f.k) (threadAt s f) = .ok (ias, so)) (hi : i ∈ laneList s.ictx.active) :
    s.threadFails s.ictx f.need (widthBytes f.k) (widthRegs f.k) ((s.ictx.sums 32 f.a f.b).getD i 0)
      (threadVa (s.part s.ictx.g.part) s.ictx.c s.ictx.sl i ((s.ictx.sums 32 f.a f.b).getD i 0)) = none := by
  obtain ⟨r, hr⟩ := xlateAll_of_subset (ws := (List.range (widthRegs f.k)).map (fun q => (q,
    vaMod (threadVa (s.part s.ictx.g.part) s.ictx.c s.ictx.sl i ((s.ictx.sums 32 f.a f.b).getD i 0) + 128 * q)))) hx (by
      simp only [List.forall_mem_map]
      exact fun q hq => ⟨_, List.mem_flatMap.2 ⟨i, hi, List.mem_map.2 ⟨q, hq, rfl⟩⟩, rfl⟩)
  unfold State.threadFails
  rw [if_neg (Nat.not_lt.2 hfit), hr]

/-- A per-thread access whose lanes pass their checks enters. -/
theorem threadLanes_enters (hn : f.n = widthBytes f.k) (hk : f.kind = .ldt ∧ f.path = 1 ∨ f.kind = .stt ∧ f.path = 2) (hact : s.ictx.active ≠ 0)
    (hr : room s f.path) (hfit : ∀ v ∈ laneAddrs s 32 f, v.2 + f.n ≤ 4 * min (s.part (grp s s).part).ptms 16384 ∧ v.2 % f.n = 0)
    (hx : s.xlateAll (grp s s) f.need (if 1 < widthRegs f.k then 4 else f.n) (threadAt s f) = .ok (ias, so))
    (hpin : unpinned s f ((threadOp s f ias so).reqs.map (fun r => (threadOp s f ias so).ias.getD (r.2.headD 0 * widthRegs f.k + r.1) 0 / 128)))
    (hmix : ∀ i ∈ laneList s.ictx.active, s.mixesRR (grp s s).part ((List.range (widthRegs f.k)).map (fun q =>
      (threadOp s f ias so).ias.getD (i * widthRegs f.k + q) 0)) = false) (hu : unheld s.ictx s (threadOp s f ias so)) :
    threadLanes s.ictx s f.kind f.k f.d f.dn f.a f.b (f.data s.ictx) =
      .fin (enteredNow s.ictx s ((grp s s).isTask && f.kind == .stt) (threadOp s f ias so)) {} [] .seq .ready := by
  have hact' : (s.ictx.active == 0) = false := by simpa using hact
  have hneed : ({ rd := f.kind == .ldt, wr := f.kind == .stt } : Need) = f.need := by
    rcases hk with ⟨h, -⟩ | ⟨h, -⟩ <;> rw [LForm.need, h] <;> rfl
  have hpath : (if f.kind == .ldt then 1 else 2) = f.path := by
    rcases hk with ⟨h, h'⟩ | ⟨h, h'⟩ <;> rw [h, h'] <;> rfl
  have hsums := fun i (hi : i ∈ laneList s.ictx.active) => sums_fit_within hfit hi
  rw [hn] at hx hsums
  have hrange : (laneList s.ictx.active).findSome? (fun i => s.threadFails s.ictx f.need (widthBytes f.k) (widthRegs f.k) ((s.ictx.sums 32 f.a f.b).getD i 0)
      (threadVa (s.part s.ictx.g.part) s.ictx.c s.ictx.sl i ((s.ictx.sums 32 f.a f.b).getD i 0))) = none :=
    List.findSome?_eq_none_iff.2 fun i hi => threadFails_none (hsums i hi).1 hx hi
  have hx' : s.xlateAll s.ictx.g f.need (if 1 < widthRegs f.k then 4 else widthBytes f.k) ((laneList s.ictx.active).flatMap (fun i =>
      (List.range (widthRegs f.k)).map (fun q => (i * widthRegs f.k + q,
        vaMod (threadVa (s.part s.ictx.g.part) s.ictx.c s.ictx.sl i ((s.ictx.sums 32 f.a f.b).getD i 0) + 128 * q))))) = .ok (ias, so) := hx
  have halign : (laneList s.ictx.active).find? (fun i => (s.ictx.sums 32 f.a f.b).getD i 0 % widthBytes f.k != 0 ||
      s.mixesRR s.ictx.g.part ((List.range (widthRegs f.k)).map (fun q => (spread (32 * widthRegs f.k) ias).getD (i * widthRegs f.k + q) 0))) = none :=
    List.find?_eq_none.2 fun i hi => by
      have hmix' : s.mixesRR s.ictx.g.part ((List.range (widthRegs f.k)).map (fun q => (spread (32 * widthRegs f.k) ias).getD (i * widthRegs f.k + q) 0)) = false :=
        hmix i hi
      rw [(hsums i hi).2, hmix']
      decide
  have henter := enterMem_enteredNow (now := (grp s s).isTask && f.kind == .stt) hu hr
  unfold threadLanes
  simp only [hact', hneed, hpath, hrange, hx', halign, Bool.false_eq_true, if_false]
  by_cases hstore : f.kind = .stt
  · rw [if_pos (beq_iff_eq.2 hstore)]
    exact (pinGuard_unpinned (.inr (.inl hstore)) hpin).trans henter
  · rw [if_neg (mt beq_iff_eq.1 hstore)]
    exact henter

end

theorem threadAccesses_enter : threadAccessesPart := by
  intro i f s ias so hf ho _ hc hact hr hfit hx hpin s1 hmix hu hn
  obtain ⟨he, ht⟩ := exec_thread (s := s) hf ho
  obtain ⟨hwidth, hk⟩ := threadForm_kind hf
  rw [he]
  exact issue_goesOn hc rfl ht (threadLanes_enters hwidth hk hact hr hfit hx hpin hmix hu) hn

/-! ### Plane accesses -/

/-- What the body of a plane access takes from its instruction: the ptag of the register that it refines or stores. -/
def tagOf (x : Ictx) : Instr → BitVec 16
  | .ldpr _ d _ _ _ => (x.g.vreg d.toNat).ptag
  | .stp _ d _ _ _ => x.g.readTag x.u d.toNat
  | _ => 0

theorem tagOf_ictx (s : State) (i : Instr) : tagOf s.ictx i = planeTag s i := by cases i <;> rfl

/-- Every plane access issues the body that they share. -/
theorem exec_plane {i : Instr} {f : LForm} {s : State} (h : planeForm i = some f) (ho : badOrder (unit s s) f.kind = false) :
    exec i s = issue (f.issue i) s (fun x s => planeAccess x s f.kind f.k f.d f.dn f.a f.b (f.data x) (tagOf x i)) ∧ (f.issue i).trapsAfter = false := by
  have hexec : exec i s = issue { f.issue i with illegal := badOrder (unit s s) f.kind } s
      (fun x s => planeAccess x s f.kind f.k f.d f.dn f.a f.b (f.data x) (tagOf x i)) ∧ (f.issue i).trapsAfter = false := by
    cases i <;> simp only [planeForm, reduceCtorEq, Option.some.injEq] at h
    case ldp | ldpr | stp =>
      subst h
      exact ⟨rfl, rfl⟩
  rw [ho] at hexec
  exact hexec

theorem planeForm_path {i : Instr} {f : LForm} (h : planeForm i = some f) : (if f.kind == .stp then 2 else 1) = f.path := by
  cases i <;> simp only [planeForm, reduceCtorEq, Option.some.injEq] at h
  case ldp | ldpr | stp =>
    subst h
    rfl

/-- A plane access of a block that is aligned and granted enters. -/
theorem planeAccess_enters {s : State} {f : LForm} {tag : BitVec 16} {ias : List (Nat × Nat)} {so : List Bool} (hpath : (if f.kind == .stp then 2 else 1) = f.path)
    (hact : s.ictx.active ≠ 0) (hr : room s f.path) (hx : s.xlateAll (grp s s) f.need 4 (planeAt s f) = .ok (ias, so)) (hva : planeVa s f % 4 = 0)
    (hstride : planeStride s f ≠ 0) (hstride4 : planeStride s f % 4 = 0) (hpin : unpinned s f (((ias.map (·.2)).map (· / 128)).eraseDups))
    (hmix : s.mixesRR (grp s s).part (ias.map (·.2)) = false) (hu : unheld s.ictx s (planeOp s f tag ias so)) :
    planeAccess s.ictx s f.kind f.k f.d f.dn f.a f.b (f.data s.ictx) tag =
      .fin (enteredNow s.ictx s ((grp s s).isTask && f.kind == .stp) (planeOp s f tag ias so)) {} [] .seq .ready := by
  have hact' : (s.ictx.active == 0) = false := by simpa using hact
  have hx' : s.xlateAll s.ictx.g { rd := f.kind.reads, wr := f.kind.writes } 4 ((List.range (f.k + 2)).map (fun w => (w,
      vaMod ((s.ictx.sums 57 f.a f.b).getD (lowLane s.ictx.active) 0 + w * (s.ictx.g.sreg (f.b.toNat + 1)).toNat)))) = .ok (ias, so) := hx
  have hok : ¬ ((planeVa s f % 4 != 0 || decide (planeStride s f = 0) || planeStride s f % 4 != 0 || s.mixesRR (grp s s).part (ias.map (·.2))) = true) := by
    rw [hva, decide_eq_false hstride, hstride4, hmix]
    decide
  have henter := enterMem_enteredNow (now := (grp s s).isTask && f.kind == .stp) hu hr
  unfold planeAccess
  simp only [hact', hx', hpath, Bool.false_eq_true, if_false]
  refine (if_neg hok).trans ?_
  by_cases hstore : f.kind = .stp
  · rw [if_pos (beq_iff_eq.2 hstore)]
    exact (pinGuard_unpinned (.inr (.inr hstore)) hpin).trans henter
  · rw [if_neg (mt beq_iff_eq.1 hstore)]
    exact henter

theorem planeAccesses_enter : planeAccessesPart := by
  intro i f s ias so hf ho _ hc hact hr hx hva hstride hstride4 hpin s1 hmix hu hn
  obtain ⟨he, ht⟩ := exec_plane (s := s) hf ho
  rw [he]
  refine issue_goesOn hc rfl ht ?_ hn
  rw [tagOf_ictx]
  exact planeAccess_enters (planeForm_path hf) hact hr hx hva hstride hstride4 hpin hmix hu

/-- Settles O22: per-thread and plane accesses pass their checks and a task's pins, and enter the operation they capture. -/
theorem threadAndPlaneAccesses : Obligations.ThreadAndPlaneAccesses := ⟨threadAccesses_enter, planeAccesses_enter⟩

end Sys2Proof.Slice0.MemoryAndPlanes
end

section
/-! PROOF. Cache instructions (O28): lines brought, trimmed, dropped and written back, and the priorities that they take. -/

namespace Sys2Proof.Slice0.MemoryAndPlanes

open Sys2Proof.Machine Sys2Proof.Slice0 Sys2Proof.Slice0.ButusFabric Sys2Proof.Slice0.Scheduling Sys2Proof.Slice0.Cores

/-! ### Lines that are trimmed, dropped and written back (R305) -/

/-- What the three cache control instructions that check ranges do to the line of an IA. -/
def dropLine (t : State) (x : Ictx) (ia : Nat) : State := (t.l1Evict x.c x.g.part ia).invalidate (x.asks t) x.c ia
def cleanLine (t : State) (x : Ictx) (ia : Nat) : State :=
  ((t.l1Clean x.c x.g.part ia).reachSlice (x.asks t) ia).cleanWhere (fun l => l.namedBy x.g.part ia) (x.asks t).forBack
def trimL1 (n : BitVec 7) (t : State) (x : Ictx) (ia : Nat) : State :=
  match (t.core x.c).l1Find x.g.part ia true none with
  | some l => if n == 0 then t.l1Drop x.c x.g.part ia true
              else if n.toNat < l.depth then t.setCore x.c ((t.core x.c).l1Put { l with depth := n.toNat }) else t
  | none => t
def trimLine (n : BitVec 7) (t : State) (x : Ictx) (ia : Nat) : State :=
  let u := trimL1 n (t.l2Trim (x.asks t) ia n.toNat) x ia
  if n == 0 then (u.l1Evict x.c x.g.part ia).flushWhere (fun l => l.holdsIa x.g.part ia) (x.asks t).forBack else u

theorem exec_cinv (e : Bool) (a : BitVec 7) (b : BitVec 6) (s : State) : exec (.cinv e a b) s = cacheLines (.cinv e a b) e a b dropLine s := rfl
theorem exec_cwb (e : Bool) (a : BitVec 7) (b : BitVec 6) (s : State) : exec (.cwb e a b) s = cacheLines (.cwb e a b) e a b cleanLine s := rfl
theorem exec_ctrim (e : Bool) (n a : BitVec 7) (b : BitVec 6) (s : State) : exec (.ctrim e n a b) s = cacheLines (.ctrim e n a b) e a b (trimLine n) s := rfl

theorem dropLine_eq (s t : State) (ia : Nat) : dropLine t s.ictx ia = dropped s t ia := rfl

/-- One IA names the lines that the list of it names. -/
theorem namedBy_singleton (p ia : Nat) : (fun l : Line => l.namedBy p ia) = namedBy p [ia] := by
  funext l
  simp [Line.namedBy, namedBy]

theorem cleanLine_eq (s t : State) (ia : Nat) : cleanLine t s.ictx ia = writtenBack s t ia := by
  rw [cleanLine, namedBy_singleton]
  rfl

theorem trimLine_eq (n : BitVec 7) (s t : State) (ia : Nat) : trimLine n t s.ictx ia = trimmed n s t ia := by
  unfold trimLine trimL1 trimmed
  simp only [beq_iff_eq]
  cases hl : ((t.l2Trim (asksOf s t) ia n.toNat).core s.cur.1).l1Find (grp s s).part ia true none with
  | none =>
    have hl' : ((t.l2Trim (s.ictx.asks t) ia n.toNat).core s.ictx.c).l1Find s.ictx.g.part ia true none = none := hl
    rw [hl']
    rfl
  | some l =>
    have hl' : ((t.l2Trim (s.ictx.asks t) ia n.toNat).core s.ictx.c).l1Find s.ictx.g.part ia true none = some l := hl
    rw [hl']
    rfl

/-- Every cache control instruction that checks ranges issues the body that they share, with the act that is stated of it. -/
theorem exec_lines {i : Instr} {e : Bool} {a : BitVec 7} {b : BitVec 6} {f : State → State → Nat → State} {s : State} (h : lineSpec i = some (e, a, b, f)) :
    ∃ act : State → Ictx → Nat → State, exec i s = cacheLines i e a b act s ∧ (∀ t ia, act t s.ictx ia = f s t ia) ∧
      ({ i := i, e := e, fields := [vSrcF a, sRegF b] } : Issue).trapsAfter = false := by
  cases i <;> simp only [lineSpec, reduceCtorEq, Option.some.injEq, Prod.mk.injEq] at h
  case cinv =>
    obtain ⟨rfl, rfl, rfl, rfl⟩ := h
    exact ⟨dropLine, exec_cinv _ _ _ s, dropLine_eq s, rfl⟩
  case cwb =>
    obtain ⟨rfl, rfl, rfl, rfl⟩ := h
    exact ⟨cleanLine, exec_cwb _ _ _ s, cleanLine_eq s, rfl⟩
  case ctrim n _ _ =>
    obtain ⟨rfl, rfl, rfl, rfl⟩ := h
    exact ⟨trimLine n, exec_ctrim _ n _ _ s, trimLine_eq n s, rfl⟩

/-- The accesses of a cache instruction: each active lane names a byte. -/
def namedAt (s : State) (a : BitVec 7) (b : BitVec 6) : List (Nat × Nat) := (laneList s.ictx.active).map (fun i => (i, (s.ictx.sums 57 a b).getD i 0))

/-- An earlier access of the group to one of some lines that is not performed yet (R311). -/
def isAhead (ias : List (Nat × Nat)) (o : Op) : Bool :=
  o.kind.isMem && o.status != .performed && o.touched.any (fun t => ias.any (fun v => v.2 / 128 == t / 128))

theorem isAhead_iff {ias : List (Nat × Nat)} {o : Op} : isAhead ias o = true ↔
    o.kind.isMem = true ∧ o.status ≠ .performed ∧ ∃ t ∈ o.touched, ∃ v ∈ ias, v.2 / 128 = t / 128 := by
  simp [isAhead, and_assoc]

/-- A mask with an active lane lists one. -/
theorem laneList_ne_nil {m : Word} (h : m ≠ 0) : laneList m ≠ [] := by
  intro hnil
  refine h (BitVec.eq_of_getLsbD_eq fun i hi => ?_)
  have := List.filter_eq_nil_iff.1 hnil i (List.mem_range.2 hi)
  simpa using this

section
variable {i : Instr} {e : Bool} {a : BitVec 7} {b : BitVec 6} {act : State → Ictx → Nat → State} {s : State} {ias : List (Nat × Nat)} {so : List Bool}

/-- The lines of an instruction whose lanes a register grants: it acts on them once no earlier access to one of them is ahead, and stalls until then. -/
theorem cacheLines_acts (hc : clean { i := i, e := e, fields := [vSrcF a, sRegF b] } s)
    (ht : ({ i := i, e := e, fields := [vSrcF a, sRegF b] } : Issue).trapsAfter = false) (hx : s.xlateAll (grp s s) { rd := true } 1 (namedAt s a b) = .ok (ias, so)) :
    let s0 := if ias.isEmpty then s else s.performAll s.cur.1 s.cur.2.1
    let s1 := ias.foldl (fun t v => act t s.ictx v.2) s0
    ((grp s s0).ops.any (isAhead ias) = false → nextAt s s1 →
      cacheLines i e a b act s = Slice0.Next (goesOn { i := i, e := e, fields := [vSrcF a, sRegF b] } s s1)) ∧
    ((grp s s0).ops.any (isAhead ias) = true →
      cacheLines i e a b act s = Slice0.Next ((s0.onUnit s.ictx (fun u => { u with awaits := ias.map (fun v => v.2 / 128) })).cycle s.cur.1)) := by
  intro s0 s1
  have hx' : s.xlateAll s.ictx.g { rd := true } 1 ((laneList s.ictx.active).map (fun i => (i, (s.ictx.sums 57 a b).getD i 0))) = .ok (ias, so) := hx
  refine ⟨fun hahead hn => issue_goesOn hc rfl ht ?_ hn, fun hahead => issue_stalls hc rfl ht ?_⟩
  · simp only [hx']
    exact if_neg (Bool.eq_false_iff.1 hahead)
  · simp only [hx']
    exact if_pos hahead

end

theorem cacheLines_act : cacheLinesPart := by
  intro i e a b f s hf hr hc named
  obtain ⟨act, he, hact, ht⟩ := exec_lines (s := s) hf
  rw [he]
  refine ⟨fun v hx => issue_trapped hc rfl ht ?_, fun hidle hn => ?_, fun ias so hx hactive => ?_⟩
  · have hx' : s.xlateAll s.ictx.g { rd := true } 1 ((laneList s.ictx.active).map (fun i => (i, (s.ictx.sums 57 a b).getD i 0))) = .error v := hx
    simp only [hx']
  · have hnil : s.xlateAll (grp s s) { rd := true } 1 (namedAt s a b) = .ok ([], []) := by
      rw [namedAt, hidle]
      rfl
    exact (cacheLines_acts (act := act) hc ht hnil).1 (by simp [isAhead]) hn
  · have hlen : ias.length = (laneList s.ictx.active).length := (length_xlateAll hx).trans (List.length_map _)
    have hne : ias.isEmpty = false := by
      have := List.length_pos_iff.2 (laneList_ne_nil hactive)
      rw [List.isEmpty_eq_false_iff, ← List.length_pos_iff, hlen]
      exact this
    dsimp only
    set s0 := s.performAll s.cur.1 s.cur.2.1
    have hacts := cacheLines_acts (act := act) hc ht hx
    simp only [hne, hact, Bool.false_eq_true, if_false] at hacts
    rw [← List.foldl_map] at hacts
    have hany : (grp s s0).ops.any (isAhead ias) = true ↔ ∃ o ∈ (grp s s0).ops,
        o.kind.isMem = true ∧ o.status ≠ .performed ∧ ∃ t ∈ o.touched, ∃ v ∈ ias, v.2 / 128 = t / 128 := by
      rw [List.any_eq_true]
      exact exists_congr fun o => and_congr_right fun _ => isAhead_iff
    refine ⟨fun hnone hn => hacts.1 ?_ hn, fun hsome => (hacts.2 (hany.2 hsome)).trans ?_⟩
    · rw [← Bool.not_eq_true, hany]
      rintro ⟨o, ho, hah⟩
      exact hnone o ho hah
    · have huid : s.ictx.u.uid = s.cur.2.2 := unit_uid hr
      rw [State.onUnit, huid]
      rfl

/-! ### Lines that are brought (R305) -/

/-- What an instruction that never faults does for one active lane: nothing where no register grants the read. -/
def hintLane (f : State → Ictx → Nat → Bool → State) (x : Ictx) (a : BitVec 7) (b : BitVec 6) (t : State) (i : Nat) : State :=
  match (t.part x.g.part).xlate ((x.sums 57 a b).getD i 0) 1 { rd := true, user := !x.g.privileged } with
  | .error _ => t
  | .ok (ia, so) => f t x ia so

theorem cacheHint_eq (i : Instr) (e : Bool) (a : BitVec 7) (b : BitVec 6) (f : State → Ictx → Nat → Bool → State) (s : State) :
    cacheHint i e a b f s = issue { i := i, e := e, fields := [vSrcF a, sRegF b] } s
      (fun x s => finPlain ((laneList x.active).foldl (hintLane f x a b) s)) := rfl

theorem exec_cpf2 (e : Bool) (a : BitVec 7) (b : BitVec 6) (s : State) : exec (.cpf2 e a b) s = cacheHint (.cpf2 e a b) e a b (prefetchLine false) s := rfl
theorem exec_cpf1 (e : Bool) (a : BitVec 7) (b : BitVec 6) (s : State) : exec (.cpf1 e a b) s = cacheHint (.cpf1 e a b) e a b (prefetchLine true) s := rfl

/-- What the partition grants a lane of a cache instruction in a state: the IA and SOR of its byte, or none. -/
def granted (s t : State) (a : BitVec 7) (b : BitVec 6) (i : Nat) : Except Nat (Nat × Bool) :=
  (t.part (grp s s).part).xlate ((s.ictx.sums 57 a b).getD i 0) 1 { rd := true, user := !(grp s s).privileged }

theorem hintLane_granted {f : State → Ictx → Nat → Bool → State} {s t : State} {a : BitVec 7} {b : BitVec 6} {i ia : Nat} {so : Bool}
    (h : granted s t a b i = .ok (ia, so)) : hintLane f s.ictx a b t i = f t s.ictx ia so := by
  have h' : (t.part s.ictx.g.part).xlate ((s.ictx.sums 57 a b).getD i 0) 1 { rd := true, user := !s.ictx.g.privileged } = .ok (ia, so) := h
  rw [hintLane, h']

theorem hintLane_denied {f : State → Ictx → Nat → Bool → State} {s t : State} {a : BitVec 7} {b : BitVec 6} {i v : Nat}
    (h : granted s t a b i = .error v) : hintLane f s.ictx a b t i = t := by
  have h' : (t.part s.ictx.g.part).xlate ((s.ictx.sums 57 a b).getD i 0) 1 { rd := true, user := !s.ictx.g.privileged } = .error v := h
  rw [hintLane, h']

theorem hintLane_prefetch (one : Bool) (s : State) (a : BitVec 7) (b : BitVec 6) : hintLane (prefetchLine one) s.ictx a b = prefetchLane one s a b := by
  funext t i
  unfold prefetchLane
  cases h : granted s t a b i with
  | error v =>
    rw [hintLane_denied h]
    unfold granted at h
    rw [h]
  | ok r =>
    rw [hintLane_granted h]
    unfold granted at h
    rw [h]

theorem prefetches_bring : prefetchesPart := by
  rintro i e one a b s hi - hc s1 hn
  have he : exec i s = cacheHint i e a b (prefetchLine one) s ∧ ({ i := i, e := e, fields := [vSrcF a, sRegF b] } : Issue).trapsAfter = false := by
    rcases hi with ⟨rfl, rfl⟩ | ⟨rfl, rfl⟩
    · exact ⟨exec_cpf2 e a b s, rfl⟩
    · exact ⟨exec_cpf1 e a b s, rfl⟩
  rw [he.1, cacheHint_eq]
  refine issue_goesOn hc rfl he.2 ?_ hn
  rw [hintLane_prefetch]
  rfl

/-! ### Priorities (R171, R305) -/

/-- An access reaches a home slice: what it notes there is all that it changes. -/
theorem touchChan_frame (s : State) (n : Nat) : ∃ ts, s.touchChan n = { s with hbm := { s.hbm with touched := ts } } := by
  unfold State.touchChan
  split
  · exact ⟨s.hbm.touched, rfl⟩
  · exact ⟨_, rfl⟩

theorem reachSlice_frame (s : State) (a : Acc) (ia : Nat) : ∃ ts, s.reachSlice a ia = { s with hbm := { s.hbm with touched := ts } } := by
  obtain ⟨ts, hts⟩ := touchChan_frame s (sliceMark (homeSlice ia))
  unfold State.reachSlice
  rw [hts]
  dsimp only
  split
  · exact ⟨ts, rfl⟩
  · obtain ⟨us, hus⟩ := touchChan_frame { s with hbm := { s.hbm with touched := ts } } saddleMark
    exact ⟨us, hus⟩

/-- A line once the lanes of some IAs have set its priority to v: an evict-last line stays one. -/
def prioritised (p v : Nat) (ias : List Nat) (l : Line) : Line := if namedBy p ias l then { l with prio := if l.prio = 2 then 2 else v } else l

theorem prioritised_nil (p v : Nat) : prioritised p v [] = id := by
  funext l
  simp [prioritised, namedBy]

/-- Lanes that set a priority one after the other set it together. -/
theorem prioritised_cons (p v ia : Nat) (ias : List Nat) : prioritised p v (ia :: ias) = prioritised p v ias ∘ prioritised p v [ia] := by
  funext l
  have hsame : ∀ is n, namedBy p is { l with prio := n } = namedBy p is l := fun _ _ => rfl
  have hcons : namedBy p (ia :: ias) l = (namedBy p [ia] l || namedBy p ias l) := by simp [namedBy, Bool.and_or_distrib_left]
  unfold prioritised
  rw [Function.comp_apply, hcons]
  by_cases h1 : namedBy p [ia] l = true <;> by_cases h2 : namedBy p ias l = true
  · by_cases hp : l.prio = 2 <;> by_cases hv : v = 2 <;> simp [h1, h2, hsame, hp, hv]
  · simp [h1, h2, hsame]
  · simp [h1, h2]
  · simp [h1, h2]

/-- How far a state is from `t` once lanes of core `c` have set the priority of the lines that some IAs name. -/
structure Raised (c p v : Nat) (ias : List Nat) (t u : State) : Prop where
  frame : u = { t with cores := u.cores, l2 := t.l2.map (prioritised p v ias), hbm := { t.hbm with touched := u.hbm.touched } }
  own : u.core c = { t.core c with l1 := (t.core c).l1.map (prioritised p v ias) }
  others : ∀ d, d ≠ c → u.core d = t.core d

theorem raised_nil (c p v : Nat) (t : State) : Raised c p v [] t t := by
  constructor <;> simp [prioritised_nil]

theorem raised_cons {c p v ia : Nat} {ias : List Nat} {t u w : State} (h : Raised c p v [ia] t u) (k : Raised c p v ias u w) : Raised c p v (ia :: ias) t w where
  frame := by
    rw [prioritised_cons p v ia ias, ← List.map_map]
    rw [k.frame, h.frame]
  own := by rw [k.own, h.own, prioritised_cons p v ia ias, ← List.map_map]
  others := fun d hd => (k.others d hd).trans (h.others d hd)

/-- Lines whose priority an access of a policy sets are those that its IA names. -/
theorem updWhere_prio {pol v : Nat} (hv : ∀ n, prioAfter pol n = if n = 2 then 2 else v) (p ia : Nat) (ls : List Line) :
    updWhere (fun l => l.namedBy p ia) (fun l => { l with prio := prioAfter pol l.prio }) ls = ls.map (prioritised p v [ia]) := by
  refine List.map_congr_left fun l _ => ?_
  dsimp only
  rw [prioritised, ← congrFun (namedBy_singleton p ia) l, hv]

theorem raised_setPrio {pol v : Nat} (hv : ∀ n, prioAfter pol n = if n = 2 then 2 else v) (x : Ictx) (t : State) (ia : Nat) (so : Bool) :
    Raised x.c x.g.part v [ia] t (setPrio pol t x ia so) := by
  obtain ⟨ts, hts⟩ := reachSlice_frame t (x.asks t) ia
  unfold setPrio
  rw [hts]
  dsimp only
  rw [updWhere_prio hv, updWhere_prio hv]
  exact ⟨rfl, State.core_setCore_self _ _ _, fun d hd => State.core_setCore_ne _ _ _ _ hd⟩

/-- The IA of an access that a register grants. -/
def grantedIa : Except Nat (Nat × Bool) → Option Nat
  | .ok (ia, _) => some ia
  | .error _ => none

theorem hintIas_eq (s : State) (a : BitVec 7) (b : BitVec 6) : hintIas s a b = (laneList s.ictx.active).filterMap (fun i => grantedIa (granted s s a b i)) := rfl

/-- The lanes of an instruction that sets a priority v: they raise the lines of the IAs that a register grants them. -/
theorem raised_lanes {pol v : Nat} (hv : ∀ n, prioAfter pol n = if n = 2 then 2 else v) (s : State) (a : BitVec 7) (b : BitVec 6) (lanes : List Nat) (t : State)
    (hparts : t.parts = s.parts) :
    Raised s.cur.1 (grp s s).part v (lanes.filterMap (fun i => grantedIa (granted s s a b i))) t
      (lanes.foldl (hintLane (setPrio pol) s.ictx a b) t) := by
  induction lanes generalizing t with
  | nil => exact raised_nil _ _ _ t
  | cons i lanes ih =>
    have hg : granted s t a b i = granted s s a b i := by
      unfold granted State.part
      rw [hparts]
    rw [List.foldl_cons, List.filterMap_cons]
    cases h : granted s s a b i with
    | error e =>
      rw [hintLane_denied (hg.trans h)]
      exact ih t hparts
    | ok r =>
      rw [hintLane_granted (hg.trans h)]
      have hone := raised_setPrio hv s.ictx t r.1 r.2
      have hrest := ih (setPrio pol t s.ictx r.1 r.2) (by rw [hone.frame]; exact hparts)
      exact raised_cons hone hrest

/-- Every instruction that sets a priority is one that never faults, of the policy that sets it. -/
theorem exec_prio {i : Instr} {e : Bool} {a : BitVec 7} {b : BitVec 6} {v : Nat} {s : State} (h : prioSpec i = some (e, a, b, v)) :
    ∃ pol, exec i s = cacheHint i e a b (setPrio pol) s ∧ (∀ n, prioAfter pol n = if n = 2 then 2 else v) ∧
      ({ i := i, e := e, fields := [vSrcF a, sRegF b] } : Issue).trapsAfter = false := by
  cases i <;> simp only [prioSpec, reduceCtorEq, Option.some.injEq, Prod.mk.injEq] at h
  case cef =>
    obtain ⟨rfl, rfl, rfl, rfl⟩ := h
    exact ⟨1, rfl, fun _ => rfl, rfl⟩
  case cnm =>
    obtain ⟨rfl, rfl, rfl, rfl⟩ := h
    exact ⟨3, rfl, fun _ => rfl, rfl⟩
  case cel =>
    obtain ⟨rfl, rfl, rfl, rfl⟩ := h
    exact ⟨2, rfl, fun _ => rfl, rfl⟩

theorem cachePriorities_set : cachePrioritiesPart := by
  rintro i e a b v s hi ⟨hr, hc, hn⟩
  obtain ⟨pol, he, hv, ht⟩ := exec_prio (s := s) hi
  set u := (laneList s.ictx.active).foldl (hintLane (setPrio pol) s.ictx a b) s with hu
  have hraised : Raised s.cur.1 (grp s s).part v (hintIas s a b) s u := by
    rw [hintIas_eq]
    exact raised_lanes hv s a b _ s rfl
  have hcur : u.cur = s.cur := by rw [hraised.frame]
  have hgrp : grp s u = grp s s := by
    rw [grp, State.group, hraised.own]
    rfl
  have hunit : unit s u = unit s s := by rw [unit, hgrp, unit]
  have hnext : nextAt s u := nextResident_congr (by rw [hraised.own]) (congrArg Group.part hgrp) (congrArg IUnit.pc hunit) (congrArg IUnit.loops hunit) hn
  have hkeeps := keeps_leaves (x := { i := i, e := e, fields := [vSrcF a, sRegF b] }) (g := finishUnit _ (grp s s) (unit s s) {} [] .seq .ready) hcur
    rfl rfl rfl (finishUnit_sregs _ _ _ _ _) (finishUnit_vregs _ _ _ _ _)
  refine ⟨leaves u (finishUnit { i := i, e := e, fields := [vSrcF a, sRegF b] } (grp s s) (unit s s) {} [] .seq .ready), ?_, ?_, ?_, ?_, ?_, ?_, hkeeps⟩
  · rw [he, cacheHint_eq, issue_goesOn hc rfl ht rfl hnext, goesOn, completed_self hcur, hgrp, hunit]
  · exact inOrder_leaves hcur (any_unit hr) (unit_uid hr) rfl rfl rfl
  · exact congrArg State.l2 hraised.frame
  · simp [leaves, hcur, hraised.own, prioritised]
  · exact congrArg State.hbm hraised.frame
  · exact fun c hc => (core_leaves_ne hcur _ hc).trans (hraised.others c hc)

/-- Settles O28: instructions that set priorities and that prefetch go lane by lane, and those that check ranges act on the lines of all lanes. -/
theorem cacheLines : Obligations.CacheLines := ⟨cachePriorities_set, prefetches_bring, cacheLines_act⟩

end Sys2Proof.Slice0.MemoryAndPlanes
end

section
/-! PROOF. Bytes in lists and in memories (O23): patched lists, little-endian words, merged sectors, and bytes set one by one. -/

namespace Sys2Proof.Slice0.MemoryAndPlanes

open Sys2Proof.Machine Sys2Proof.Slice0

/-! ### Bytes of a list -/

/-- Byte j of a list over whose bytes from an offset on some others are written. -/
def overwritten (old : List Byte) (off : Nat) (bs : List Byte) (j : Nat) : Byte :=
  if off ≤ j ∧ j < off + bs.length then bs.getD (j - off) 0 else old.getD j 0

theorem overwritten_in {old bs : List Byte} {off j : Nat} (h : off ≤ j) (h' : j < off + bs.length) : overwritten old off bs j = bs.getD (j - off) 0 :=
  if_pos ⟨h, h'⟩

theorem overwritten_out {old bs : List Byte} {off j : Nat} (h : j < off ∨ off + bs.length ≤ j) : overwritten old off bs j = old.getD j 0 :=
  if_neg (by omega)

theorem length_patch {l bs : List Byte} {off : Nat} (h : off + bs.length ≤ l.length) : (patch l off bs).length = l.length := by
  simp [patch]
  omega

/-- A patch inside a list overwrites its bytes. -/
theorem getD_patch {l bs : List Byte} {off : Nat} (h : off + bs.length ≤ l.length) (j : Nat) : (patch l off bs).getD j 0 = overwritten l off bs j := by
  have htake : bs.take (l.length - off) = bs := List.take_of_length_le (by omega)
  have hlen : (l.take off).length = off := List.length_take_of_le (by omega)
  rw [patch, htake, List.append_assoc]
  rcases lt_or_ge j off with hlow | hlow
  · rw [overwritten_out (.inl hlow), List.getD_append _ _ _ _ (by omega)]
    simp [hlow]
  · rw [List.getD_append_right _ _ _ _ (by omega), hlen]
    rcases lt_or_ge j (off + bs.length) with hin | hin
    · rw [overwritten_in hlow hin, List.getD_append _ _ _ _ (by omega)]
    · rw [overwritten_out (.inr hin), List.getD_append_right _ _ _ _ (by omega)]
      simp only [List.getD_eq_getElem?_getD, List.getElem?_drop]
      congr 2
      omega

@[simp] theorem length_bytesAt (l : List Byte) (off n : Nat) : (bytesAt l off n).length = n := by simp [bytesAt]

theorem getD_bytesAt {l : List Byte} {off n i : Nat} (h : i < n) : (bytesAt l off n).getD i 0 = l.getD (off + i) 0 := by
  simp [bytesAt, List.getD_eq_getElem?_getD, h]

/-- Lists of bytes that agree from two offsets on give the same bytes there. -/
theorem bytesAt_congr {l m : List Byte} {off off' n : Nat} (h : ∀ i < n, l.getD (off + i) 0 = m.getD (off' + i) 0) : bytesAt l off n = bytesAt m off' n := by
  refine List.map_congr_left fun i hi => ?_
  simpa [List.getD_eq_getElem?_getD, List.getElem?_drop] using h i (List.mem_range.1 hi)

/-- All bytes of a list. -/
theorem bytesAt_self (l : List Byte) : bytesAt l 0 l.length = l := by
  refine List.ext_getElem (length_bytesAt _ _ _) fun i hi hi' => ?_
  simp [bytesAt, hi']

/-- A field of a record that is read through some of its bytes. -/
theorem recField_bytesAt {l : List Byte} {off n k : Nat} (h : n ≤ k) : recField (bytesAt l off k) 0 n = recField l off n := by
  refine congrArg leNat (bytesAt_congr fun i hi => ?_)
  rw [Nat.zero_add, getD_bytesAt (by omega)]

@[simp] theorem length_leBytes (n v : Nat) : (leBytes n v).length = n := by
  induction n generalizing v with
  | zero => rfl
  | succ n ih => simp [leBytes, ih]

/-- The number of a number's low bytes. -/
theorem leNat_leBytes (n v : Nat) : leNat (leBytes n v) = v % 256 ^ n := by
  induction n generalizing v with
  | zero => simp [leBytes, leNat, Nat.mod_one]
  | succ n ih =>
    have hbyte : (BitVec.ofNat 8 v).toNat = v % 256 := BitVec.toNat_ofNat v 8
    rw [leBytes, leNat, ih, hbyte, pow_succ', Nat.mod_mul]

/-- A word's bytes give it back. -/
theorem leNat_word (w : Word) : leNat (leBytes 4 w.toNat) = w.toNat := by
  rw [leNat_leBytes, Nat.mod_eq_of_lt (by have := w.isLt; omega)]

/-! ### Merging into a sector without poison (R34) -/

/-- One granule of a sector without poison takes the bytes that lie in it. -/
def granuleMerged (d : List Byte) (off : Nat) (bs : List Byte) (k : Nat) : List Byte :=
  let lo := max off (64 * k)
  let hi := min (off + bs.length) (64 * k + 64)
  if hi ≤ lo then d else patch d lo (bytesAt bs (lo - off) (hi - lo))

/-- A fold that leaves the second part of a pair alone folds the first. -/
theorem foldl_fst {α β γ : Type} {f : α × β → γ → α × β} {g : α → γ → α} {b : β} (h : ∀ a c, f (a, b) c = (g a c, b)) (l : List γ) (a : α) :
    l.foldl f (a, b) = (l.foldl g a, b) := by
  induction l generalizing a with
  | nil => rfl
  | cons c l ih => rw [List.foldl_cons, h, ih, List.foldl_cons]

theorem mergeSector_clean (old : List Byte) (off : Nat) (bs : List Byte) :
    mergeSector old [] off bs [] = (granuleMerged (granuleMerged old off bs 0) off bs 1, []) := by
  refine foldl_fst (g := fun d k => granuleMerged d off bs k) (fun d k => ?_) (List.range 2) old
  unfold granuleMerged
  dsimp only
  split
  · rfl
  · simp

section
variable {d bs : List Byte} {off : Nat}

theorem length_granuleMerged (hd : d.length = 128) (k : Nat) (hk : k < 2) : (granuleMerged d off bs k).length = 128 := by
  unfold granuleMerged
  dsimp only
  split
  · exact hd
  · rw [length_patch (by rw [length_bytesAt]; omega), hd]

/-- A granule that is merged takes the bytes that lie in it, and the others stand. -/
theorem getD_granuleMerged (hd : d.length = 128) (k : Nat) (hk : k < 2) (j : Nat) : (granuleMerged d off bs k).getD j 0 =
    if j / 64 = k then overwritten d off bs j else d.getD j 0 := by
  unfold granuleMerged
  dsimp only
  split
  · next hempty =>
    split
    · exact (overwritten_out (by omega)).symm
    · rfl
  · rw [getD_patch (by rw [length_bytesAt]; omega)]
    by_cases hj : max off (64 * k) ≤ j ∧ j < min (off + bs.length) (64 * k + 64)
    · rw [overwritten_in hj.1 (by rw [length_bytesAt]; omega), getD_bytesAt (by omega), if_pos (by omega), overwritten_in (by omega) (by omega)]
      congr 1
      omega
    · rw [overwritten_out (by rw [length_bytesAt]; omega)]
      split
      · exact (overwritten_out (by omega)).symm
      · rfl

end

/-- Bytes that lie in a sector without poison are written there. -/
theorem mergeSector_overwrites {d bs : List Byte} {off : Nat} (hd : d.length = 128) (h : off + bs.length ≤ 128) :
    ∃ m, mergeSector d [] off bs [] = (m, []) ∧ m.length = 128 ∧ ∀ j, m.getD j 0 = overwritten d off bs j := by
  have hfirst := length_granuleMerged (off := off) (bs := bs) hd 0 (by omega)
  refine ⟨_, mergeSector_clean d off bs, length_granuleMerged hfirst 1 (by omega), fun j => ?_⟩
  rw [getD_granuleMerged hfirst 1 (by omega)]
  by_cases h1 : j / 64 = 1
  · rw [if_pos h1, overwritten, overwritten, getD_granuleMerged hd 0 (by omega), if_neg (by omega : ¬ j / 64 = 0)]
  · rw [if_neg h1, getD_granuleMerged hd 0 (by omega)]
    by_cases h0 : j / 64 = 0
    · rw [if_pos h0]
    · rw [if_neg h0, overwritten_out (by omega)]

/-! ### Bytes set one by one -/

/-- Bytes set in a memory, each at its own address. -/
def memSets (m : Memory) (es : List (Nat × Byte)) : Memory := es.foldl (fun m e => memSet m e.1 e.2) m

theorem memSets_append (m : Memory) (es fs : List (Nat × Byte)) : memSets m (es ++ fs) = memSets (memSets m es) fs := List.foldl_append

theorem memByte_memSets_out {es : List (Nat × Byte)} {m : Memory} {a : Nat} (hw : Memory.wf m = true) (h : ∀ e ∈ es, e.1 ≠ a) :
    memByte (memSets m es) a = memByte m a := by
  induction es generalizing m with
  | nil => rfl
  | cons e es ih =>
    obtain ⟨hne, hrest⟩ := List.forall_mem_cons.1 h
    rw [memSets, List.foldl_cons]
    exact (ih (memSet_wf m _ _ hw) hrest).trans ((memByte_memSet m _ _ _ hw).trans (if_neg (Ne.symm hne)))

/-- An address to which only one value is set reads that value. -/
theorem memByte_memSets_in {es : List (Nat × Byte)} {m : Memory} {a : Nat} {v : Byte} (hw : Memory.wf m = true) (hmem : (a, v) ∈ es)
    (h : ∀ e ∈ es, e.1 = a → e.2 = v) : memByte (memSets m es) a = v := by
  induction es generalizing m with
  | nil => cases hmem
  | cons e es ih =>
    obtain ⟨hfirst, hrest⟩ := List.forall_mem_cons.1 h
    rw [memSets, List.foldl_cons]
    by_cases hlater : ∃ f ∈ es, f.1 = a
    · obtain ⟨f, hf, rfl⟩ := hlater
      have hval : f.2 = v := hrest f hf rfl
      exact ih (memSet_wf m _ _ hw) (hval ▸ hf) hrest
    · have hout : ∀ f ∈ es, f.1 ≠ a := fun f hf hfa => hlater ⟨f, hf, hfa⟩
      refine (memByte_memSets_out (memSet_wf m _ _ hw) hout).trans ((memByte_memSet m _ _ _ hw).trans ?_)
      rcases List.mem_cons.1 hmem with rfl | hmem
      · exact if_pos rfl
      · exact absurd rfl (hout _ hmem)

end Sys2Proof.Slice0.MemoryAndPlanes
end

section
/-! PROOF. Local accesses performed (O23): what stores, loads and atomics do to the core's local memory. -/

namespace Sys2Proof.Slice0.MemoryAndPlanes

open Sys2Proof.Machine Sys2Proof.Slice0 Sys2Proof.Slice0.Cores

/-! ### Widths (R292) -/

theorem length_storeBytes (k : Nat) (ws : List Word) : (storeBytes k ws).length = widthBytes k := length_bytesAt _ _ _

/-- An access that goes in one piece writes as many bytes as it is wide. -/
theorem length_laneBytes {o : Op} (h : o.pieces = 1) (i piece : Nat) : (o.laneBytes i piece).length = widthBytes o.k := by
  rw [Op.laneBytes, h, if_neg (by decide)]
  exact length_storeBytes _ _

/-! ### Local memory -/

/-- The bytes that a local write sets, each at its place in the core's local memory. -/
def localSets (g : Group) (a : Nat) (bs : List Byte) : List (Nat × Byte) := ((List.range bs.length).map (fun i => g.localPhys (a + i))).zip bs

/-- A local write changes its bytes of the core's local memory, and what is poisoned there. -/
theorem lwrite_eq (k : Core) (g : Group) (a : Nat) (bs : List Byte) :
    k.lwrite g a bs = { k with lmem := memSets k.lmem (localSets g a bs), lpoison := (k.lwrite g a bs).lpoison } := rfl

theorem localSets_eq (g : Group) (a : Nat) (bs : List Byte) :
    localSets g a bs = (List.range bs.length).map (fun p => (g.localPhys (a + p), bs.getD p 0)) := by
  refine List.ext_getElem (by simp [localSets]) fun p hp hp' => ?_
  have hlt : p < bs.length := by simpa using hp'
  simp [localSets, hlt]

theorem mem_localSets {g : Group} {a : Nat} {bs : List Byte} {e : Nat × Byte} :
    e ∈ localSets g a bs ↔ ∃ p < bs.length, (g.localPhys (a + p), bs.getD p 0) = e := by
  rw [localSets_eq, List.mem_map]
  exact exists_congr fun p => and_congr_left fun _ => List.mem_range

section
variable (g : Group) (o : Op)

/-- The bytes that the lanes of a local store set, lane by lane. -/
def laneSets (lanes : List Nat) : List (Nat × Byte) := lanes.flatMap (fun i => localSets g (o.addrs.getD i 0) (o.laneBytes i 0))

/-- The core after the lanes of a local store have written. -/
def lanesWritten (k : Core) (lanes : List Nat) : Core := lanes.foldl (fun k i => k.lwrite g (o.addrs.getD i 0) (o.laneBytes i 0)) k

theorem lanesWritten_frame (k : Core) (lanes : List Nat) :
    lanesWritten g o k lanes = { k with lmem := memSets k.lmem (laneSets g o lanes), lpoison := (lanesWritten g o k lanes).lpoison } := by
  induction lanes generalizing k with
  | nil => rfl
  | cons i lanes ih =>
    rw [lanesWritten, List.foldl_cons, lwrite_eq, laneSets, List.flatMap_cons, memSets_append]
    exact ih _

variable {g o}

/-- A byte that a lane writes reads back where no other lane, and no other byte of its own, lies at its place. -/
theorem memByte_laneSets_in {m : Memory} {lanes : List Nat} {n i p : Nat} (hw : Memory.wf m = true) (hlen : ∀ i, (o.laneBytes i 0).length = n)
    (hi : i ∈ lanes) (hp : p < n)
    (h : ∀ j ∈ lanes, ∀ q < n, g.localPhys (o.addrs.getD j 0 + q) = g.localPhys (o.addrs.getD i 0 + p) → j = i ∧ q = p) :
    memByte (memSets m (laneSets g o lanes)) (g.localPhys (o.addrs.getD i 0 + p)) = (o.laneBytes i 0).getD p 0 := by
  refine memByte_memSets_in hw (List.mem_flatMap.2 ⟨i, hi, mem_localSets.2 ⟨p, by rwa [hlen], rfl⟩⟩) fun e he hea => ?_
  obtain ⟨j, hj, he⟩ := List.mem_flatMap.1 he
  obtain ⟨q, hq, rfl⟩ := mem_localSets.1 he
  obtain ⟨rfl, rfl⟩ := h j hj q (hlen j ▸ hq) hea
  rfl

theorem memByte_laneSets_out {m : Memory} {lanes : List Nat} {n a : Nat} (hw : Memory.wf m = true) (hlen : ∀ i, (o.laneBytes i 0).length = n)
    (h : ∀ i ∈ lanes, ∀ p < n, a ≠ g.localPhys (o.addrs.getD i 0 + p)) : memByte (memSets m (laneSets g o lanes)) a = memByte m a := by
  refine memByte_memSets_out hw fun e he => ?_
  obtain ⟨j, hj, he⟩ := List.mem_flatMap.1 he
  obtain ⟨q, hq, rfl⟩ := mem_localSets.1 he
  exact (h j hj q (hlen j ▸ hq)).symm

end

theorem localReq_stl {s : State} {c sl : Nat} {g : Group} {o : Op} {lanes : List Nat} (hk : o.kind = .stl) :
    localReq s c sl g o lanes = (s.setCore c (lanesWritten g o (s.core c) lanes), .done [] []) := by
  rw [localReq, hk]
  rfl

theorem localReq_ldl {s : State} {c sl : Nat} {g : Group} {o : Op} {lanes : List Nat} (hk : o.kind = .ldl)
    (h : ∀ i ∈ lanes, (s.core c).lbad g (o.addrs.getD i 0) (widthBytes o.k) = false) : localReq s c sl g o lanes =
      (s, .done (laneWrites o.d o.dn (lanes.map (fun i => (i, loadWords o.k ((s.core c).lread g (o.addrs.getD i 0) (widthBytes o.k))))) 0 false) []) := by
  have hbad : lanes.any (fun i => (s.core c).lbad g (o.addrs.getD i 0) (widthBytes o.k)) = false := List.any_eq_false.2 fun i hi => Bool.eq_false_iff.1 (h i hi)
  rw [localReq, hk]
  exact if_neg (Bool.eq_false_iff.1 hbad)

theorem localReq_atoml {s : State} {c sl : Nat} {g : Group} {o : Op} {lanes : List Nat} (hk : o.kind = .atoml)
    (h : (s.core c).lbad g (o.addrs.getD (lanes.headD 0) 0) 4 = false) :
    let a := o.addrs.getD (lanes.headD 0) 0
    let r := atomRun o.k (lanes.map (fun i => (i, o.data.map (fun w => w.getD i 0)))) (leNat ((s.core c).lread g a 4))
    let t := s.setCore c ((s.core c).lwrite g a (leBytes 4 r.1))
    localReq s c sl g o lanes = (t.setGroup c sl ((t.group c sl).countFmts r.2.2), .done (laneWrites o.d 1 r.2.1 0 false) []) := by
  rw [localReq, hk]
  exact if_neg (Bool.eq_false_iff.1 h)

theorem local_performed : localPerformedPart := by
  intro s c sl g o lanes
  refine ⟨fun hk hw hlanes _ hbytes => ?_, fun hk _ hbad => localReq_ldl hk hbad, fun hk hbad _ => ?_⟩
  · have hlen := fun i => length_laneBytes (o := o) (by rw [Op.pieces, hk]; rfl) i 0
    have hcore : (s.setCore c (lanesWritten g o (s.core c) lanes)).core c = lanesWritten g o (s.core c) lanes := State.core_setCore_self _ _ _
    refine ⟨_, localReq_stl hk, rfl, fun k hk => State.core_setCore_ne _ _ _ _ hk, ?_, fun i hi p hp => ?_, fun a ha => ?_⟩
    · rw [hcore, lanesWritten_frame]
    · rw [hcore, lanesWritten_frame]
      refine memByte_laneSets_in hw hlen hi hp fun j hj q hq he => ?_
      by_cases hji : j = i
      · subst hji
        refine ⟨rfl, ?_⟩
        by_contra hqp
        exact hbytes j hj q hq p hp hqp he
      · exact absurd he (hlanes j hj i hi hji q hq p hp)
    · rw [hcore, lanesWritten_frame]
      exact memByte_laneSets_out hw hlen ha
  · refine ⟨_, localReq_atoml hk hbad, ?_⟩
    simp

end Sys2Proof.Slice0.MemoryAndPlanes
end

section
/-! PROOF. Writes at a home slice (O23): finding a line after others were put, cleaned or written, and what a write of an open line leaves (R193). -/

namespace Sys2Proof.Slice0.MemoryAndPlanes

open Sys2Proof.Machine Sys2Proof.Slice0

/-! ### Finding lines in a list that is updated -/

section
variable {α : Type} {p q : α → Bool} {f : α → α}

/-- An update of elements that a search passes over, before and after it, does not change what the search finds. -/
theorem find_updWhere_of_not (l : List α) (h : ∀ x, q x = true → p x = false) (hf : ∀ x, q x = true → p (f x) = false) :
    (updWhere q f l).find? p = l.find? p := by
  induction l with
  | nil => rfl
  | cons x l ih =>
    rw [updWhere, List.map_cons, List.find?_cons, List.find?_cons]
    by_cases hx : q x = true
    · rw [if_pos hx, hf x hx, h x hx]
      exact ih
    · rw [if_neg hx]
      split
      · rfl
      · exact ih

/-- The first element that a search finds is found as it is updated, if only such as the search finds are updated. -/
theorem find_updWhere_of_found {l : List α} {x : α} (h : ∀ y, q y = true → p y = true) (hl : l.find? p = some x) (hx : q x = true) (hf : p (f x) = true) :
    (updWhere q f l).find? p = some (f x) := by
  induction l with
  | nil => cases hl
  | cons y l ih =>
    rw [updWhere, List.map_cons, List.find?_cons]
    by_cases hy : p y = true
    · rw [List.find?_cons, hy] at hl
      cases hl
      rw [if_pos hx, hf]
    · rw [List.find?_cons, Bool.eq_false_iff.2 hy] at hl
      rw [if_neg (mt (h y) hy), Bool.eq_false_iff.2 hy]
      exact ih hl

end

/-! ### Lines by their place -/

/-- A line is that of a partition, an IA and a kind. -/
def isAt (p ia : Nat) (plane : Bool) (l : Line) : Bool := l.part == p && l.ia == ia && l.plane == plane

theorem l2Find_eq (s : State) (p ia : Nat) (plane : Bool) : s.l2Find p ia plane = s.l2.find? (isAt p ia plane) := rfl

theorem isAt_iff {p ia : Nat} {plane : Bool} {l : Line} : isAt p ia plane l = true ↔ l.part = p ∧ l.ia = ia ∧ l.plane = plane := by
  simp [isAt, and_assoc]

theorem same_iff {l m : Line} : l.same m = true ↔ l.part = m.part ∧ l.ia = m.ia ∧ l.plane = m.plane ∧ l.owner = m.owner := by
  simp [Line.same, and_assoc]

theorem isAt_of_same {p ia : Nat} {plane : Bool} {l m : Line} (h : l.same m = true) : isAt p ia plane l = isAt p ia plane m := by
  obtain ⟨hp, hi, hk, -⟩ := same_iff.1 h
  rw [isAt, isAt, hp, hi, hk]

theorem l2Find_place {s : State} {p ia : Nat} {plane : Bool} {l : Line} (h : s.l2Find p ia plane = some l) : l.part = p ∧ l.ia = ia ∧ l.plane = plane :=
  isAt_iff.1 (List.find?_some h)

/-- A line that is put where one is found is found there. -/
theorem l2Find_l2Put {s : State} {p ia : Nat} {plane : Bool} {l m : Line} (h : s.l2Find p ia plane = some l) (hm : l.same m = true) :
    (s.l2Put m).l2Find p ia plane = some { m with used := s.lru } := by
  have hl : isAt p ia plane l = true := List.find?_some h
  have hat : isAt p ia plane m = true := isAt_of_same hm ▸ hl
  exact find_updWhere_of_found (f := fun _ => { m with used := s.lru }) (fun y hy => (isAt_of_same hy).trans hat) h hm hat

/-- A line that is put leaves every other place. -/
theorem l2Find_l2Put_ne {s : State} {p ia : Nat} {plane : Bool} {m : Line} (h : isAt p ia plane m = false) : (s.l2Put m).l2Find p ia plane = s.l2Find p ia plane :=
  find_updWhere_of_not _ (fun _ hy => (isAt_of_same hy).trans h) (fun _ _ => h)

/-! ### Who else sees a write -/

/-- A state differs in what the Cairn and the watchers of queues note of a write, and in the free values drawn. -/
structure SeenOnly (s t : State) : Prop where
  frame : t = { s with parts := t.parts, draws := t.draws }
  walks : ∀ q, (t.part q).walks = (s.part q).walks

theorem seenOnly_trans {s t u : State} (h : SeenOnly s t) (k : SeenOnly t u) : SeenOnly s u where
  frame := by rw [k.frame, h.frame]
  walks q := (k.walks q).trans (h.walks q)

/-- A partition that is put with the cached walks it has changes none. -/
theorem seenOnly_setPart (s : State) (p n : Nat) (x : Part) (h : x.walks = (s.part p).walks) : SeenOnly s ({ s with draws := n }.setPart p x) where
  frame := rfl
  walks q := by
    by_cases hq : q = p
    · subst hq
      rw [State.part_setPart_self, h]
    · rw [State.part_setPart_ne _ _ _ _ hq]
      rfl

theorem seenOnly_seen (s : State) (a : Acc) (ia n : Nat) : SeenOnly s (s.seen a ia n) := by
  have hqueue : SeenOnly s (s.queueHit a ia n) := by
    unfold State.queueHit
    dsimp only
    split
    · exact ⟨rfl, fun _ => rfl⟩
    · exact seenOnly_setPart s a.part _ _ rfl
  refine seenOnly_trans hqueue ?_
  unfold State.seen State.notifyQueues
  dsimp only
  split
  · exact seenOnly_setPart _ a.part _ _ rfl
  · exact ⟨rfl, fun _ => rfl⟩

theorem dead_of_walks {s t : State} {p ia : Nat} (h : (t.part p).walks = (s.part p).walks) : t.dead p ia = s.dead p ia := by
  rw [State.dead, State.dead, h]

/-! ### A write of an open line (R193) -/

/-- Beside the ordinary line of a place, two states agree in what cores, homes and hosts read. -/
structure BesideLine (p base : Nat) (s t : State) : Prop where
  lines : ∀ q ib, (q ≠ p ∨ ib ≠ base) → t.l2Find q ib false = s.l2Find q ib false
  planes : ∀ q ib, t.l2Find q ib true = s.l2Find q ib true
  hbm : t.hbm = { s.hbm with touched := t.hbm.touched }
  hostMem : t.hostMem = s.hostMem
  cores : t.cores = s.cores

theorem besideLine_trans {p base : Nat} {s t u : State} (h : BesideLine p base s t) (k : BesideLine p base t u) : BesideLine p base s u where
  lines q ib hq := (k.lines q ib hq).trans (h.lines q ib hq)
  planes q ib := (k.planes q ib).trans (h.planes q ib)
  hbm := by rw [k.hbm, h.hbm]
  hostMem := k.hostMem.trans h.hostMem
  cores := k.cores.trans h.cores

theorem besideLine_refl (p base : Nat) (s : State) : BesideLine p base s s := ⟨fun _ _ _ => rfl, fun _ _ => rfl, rfl, rfl, rfl⟩

/-- An open line that an access reaches is answered, with the priority that the access gives it. -/
theorem l2Line_found {s : State} {a : Acc} {ia : Nat} {l : Line} (hdead : s.dead a.part (ia / 128 * 128) = false) (hl : s.l2Find a.part (ia / 128 * 128) false = some l)
    (hw : (a.write && !l.writable || l.ord == 1 && !a.sor) = false) (hwp : (a.write && l.wp) = false) :
    s.l2Line a ia = ((s.reachSlice a (ia / 128 * 128)).l2Put { l with prio := prioAfter a.pol l.prio }, .ok { l with prio := prioAfter a.pol l.prio }) := by
  unfold State.l2Line
  simp only [hdead, hl, hw, hwp, Bool.false_eq_true, if_false]

theorem besideLine_reachSlice (p base : Nat) (s : State) (a : Acc) (ia : Nat) : BesideLine p base s (s.reachSlice a ia) := by
  obtain ⟨ts, hts⟩ := reachSlice_frame s a ia
  rw [hts]
  exact ⟨fun _ _ _ => rfl, fun _ _ => rfl, rfl, rfl, rfl⟩

theorem besideLine_farWrite (p base : Nat) (s : State) (a : Acc) (ia : Nat) : BesideLine p base s (s.farWrite a ia) := by
  unfold State.farWrite
  split
  · exact ⟨fun _ _ _ => rfl, fun _ _ => rfl, rfl, rfl, rfl⟩
  · exact besideLine_refl _ _ _

theorem besideLine_seen (p base : Nat) (s : State) (a : Acc) (ia n : Nat) : BesideLine p base s (s.seen a ia n) := by
  rw [(seenOnly_seen s a ia n).frame]
  exact ⟨fun _ _ _ => rfl, fun _ _ => rfl, rfl, rfl, rfl⟩

/-- A line that is put in the place of an ordinary one leaves all that is beside it. -/
theorem besideLine_l2Put {p base : Nat} {s : State} {m : Line} (hm : isAt p base false m = true) : BesideLine p base s (s.l2Put m) := by
  obtain ⟨hp, hb, hk⟩ := isAt_iff.1 hm
  refine ⟨fun q ib hq => l2Find_l2Put_ne (Bool.eq_false_iff.2 fun h => ?_), fun q ib => l2Find_l2Put_ne (Bool.eq_false_iff.2 fun h => ?_), rfl, rfl, rfl⟩
  · obtain ⟨h1, h2, -⟩ := isAt_iff.1 h
    exact hq.elim (fun hne => hne (h1.symm.trans hp)) (fun hne => hne (h2.symm.trans hb))
  · obtain ⟨-, -, h3⟩ := isAt_iff.1 h
    cases hk.symm.trans h3

theorem l2Find_reachSlice (s : State) (a : Acc) (ia p ib : Nat) (plane : Bool) : (s.reachSlice a ia).l2Find p ib plane = s.l2Find p ib plane := by
  obtain ⟨ts, hts⟩ := reachSlice_frame s a ia
  rw [hts]
  rfl

theorem part_reachSlice (s : State) (a : Acc) (ia p : Nat) : (s.reachSlice a ia).part p = s.part p := by
  obtain ⟨ts, hts⟩ := reachSlice_frame s a ia
  rw [hts]
  rfl

theorem part_farWrite (s : State) (a : Acc) (base p : Nat) : (s.farWrite a base).part p = s.part p := by
  unfold State.farWrite
  split <;> rfl

theorem l2_farWrite (s : State) (a : Acc) (base : Nat) : (s.farWrite a base).l2 = s.l2 := by
  unfold State.farWrite
  split <;> rfl

/-- An access that reaches an open line is answered the line with the priority that it gives it; the line stays open, and nothing beside it changes. -/
theorem l2Line_open {s : State} {a : Acc} {ia : Nat} {l : Line} (h : openLine s a.part (ia / 128 * 128) l) :
    ∃ t n, s.l2Line a ia = (t, .ok { l with prio := n }) ∧ openLine t a.part (ia / 128 * 128) { l with prio := n, used := s.lru } ∧
      BesideLine a.part (ia / 128 * 128) s t := by
  obtain ⟨hdead, hl, hlen, hbad, hw, hwp, hord⟩ := h
  have hord1 : (l.ord == 1) = false := by rcases hord with h | h <;> rw [h] <;> rfl
  have hreach : (s.reachSlice a (ia / 128 * 128)).l2Find a.part (ia / 128 * 128) false = some l := (l2Find_reachSlice _ _ _ _ _ _).trans hl
  have hlru : (s.reachSlice a (ia / 128 * 128)).lru = s.lru := by
    obtain ⟨ts, hts⟩ := reachSlice_frame s a (ia / 128 * 128)
    rw [hts]
  have hsame : l.same { l with prio := prioAfter a.pol l.prio } = true := same_iff.2 ⟨rfl, rfl, rfl, rfl⟩
  have hat : isAt a.part (ia / 128 * 128) false { l with prio := prioAfter a.pol l.prio } = true := isAt_of_same hsame ▸ List.find?_some hl
  refine ⟨_, prioAfter a.pol l.prio, l2Line_found hdead hl (by simp [hw, hord1]) (by simp [hwp]), ⟨?_, hlru ▸ l2Find_l2Put hreach hsame, hlen, hbad, hw, hwp, hord⟩,
    besideLine_trans (besideLine_reachSlice _ _ _ _ _) (besideLine_l2Put hat)⟩
  rw [← hdead]
  exact dead_of_walks (congrArg Part.walks (part_reachSlice _ _ _ _))

/-- What a write puts in the place of an open line is open once it has been seen; nothing beside it changes. -/
theorem openLine_put {s : State} {p base : Nat} {l m : Line} (h : openLine s p base l) (hm : l.same m = true) (hlen : m.data.length = 128) (hbad : m.bad = [])
    (hw : m.writable = true) (hwp : m.wp = false) (hord : m.ord = 0 ∨ m.ord = 2) (a : Acc) (x ia n : Nat) :
    openLine (((s.l2Put m).farWrite a x).seen a ia n) p base { m with used := s.lru } ∧ BesideLine p base s (((s.l2Put m).farWrite a x).seen a ia n) := by
  obtain ⟨hdead, hl, -⟩ := h
  have hseen := seenOnly_seen ((s.l2Put m).farWrite a x) a ia n
  have hl2 : (((s.l2Put m).farWrite a x).seen a ia n).l2 = (s.l2Put m).l2 := by
    rw [hseen.frame]
    exact l2_farWrite _ _ _
  refine ⟨⟨?_, ?_, hlen, hbad, hw, hwp, hord⟩, besideLine_trans (besideLine_l2Put ?_) (besideLine_trans (besideLine_farWrite _ _ _ _ _) (besideLine_seen _ _ _ _ _ _))⟩
  · rw [← hdead]
    exact dead_of_walks ((hseen.walks p).trans (congrArg Part.walks (part_farWrite _ _ _ _)))
  · rw [l2Find_eq, hl2]
    exact l2Find_l2Put hl hm
  · exact isAt_of_same hm ▸ List.find?_some hl

/-- A write inside an open line overwrites its bytes there; the line stays open, and nothing beside it changes. -/
theorem homeWrite_open {s : State} {a : Acc} {ia : Nat} {bs : List Byte} {l : Line} (h : openLine s a.part (ia / 128 * 128) l) (hfit : ia % 128 + bs.length ≤ 128) :
    ∃ t m, s.homeWrite a ia bs [] = (t, .ok ()) ∧ openLine t a.part (ia / 128 * 128) m ∧ (∀ j, m.data.getD j 0 = overwritten l.data (ia % 128) bs j) ∧
      BesideLine a.part (ia / 128 * 128) s t := by
  obtain ⟨u, n, hline, hopen, hbeside⟩ := l2Line_open (a := { a with write := true }) h
  obtain ⟨-, hl, hlen, hbad, hw, hwp, hord⟩ := id hopen
  obtain ⟨d, hmerge, hdlen, hd⟩ := mergeSector_overwrites (d := l.data) (bs := bs) (off := ia % 128) hlen hfit
  have hord3 : ¬ l.ord = 3 := by rcases hord with h | h <;> rw [show l.ord = _ from h] <;> decide
  have hia : l.ia = ia / 128 * 128 := (l2Find_place hl).2.1
  have hsome : (u.l2Find a.part l.ia false).isSome = true := by
    rw [hia]
    exact Option.isSome_iff_exists.2 ⟨_, hl⟩
  unfold State.homeWrite
  simp only [hline, show l.bad = [] from hbad, hmerge, hord3, hsome, if_true, if_false]
  obtain ⟨hput, hbeside'⟩ := openLine_put (m := { l with prio := n, data := d, bad := [], dirty := _ }) hopen (same_iff.2 ⟨rfl, rfl, rfl, rfl⟩) hdlen rfl hw hwp hord a l.ia ia
    bs.length
  exact ⟨_, _, rfl, hput, hd, besideLine_trans hbeside hbeside'⟩

theorem homeWrite_performed : homeWritePerformedPart := by
  intro s a l ia bs hl hlen hbad hw hwp hord hfit hdead
  obtain ⟨t, m, hwrite, ⟨-, hm, hmlen, -⟩, hdata, hbeside⟩ := homeWrite_open (a := a) (bs := bs) ⟨hdead, hl, hlen, hbad, hw, hwp, hord⟩ hfit
  refine ⟨t, m, hwrite, hm, hmlen, fun j hj => ?_, fun j hj => ?_, hbeside.lines, hbeside.planes, hbeside.hbm, hbeside.hostMem, hbeside.cores⟩
  · rw [hdata, overwritten_in (by omega) (by omega), Nat.add_sub_cancel_left]
  · rw [hdata, overwritten_out hj]

end Sys2Proof.Slice0.MemoryAndPlanes
end

section
/-! PROOF. Global and per-thread loads performed (O23): the line that a load sees, and what it gives its lanes (R293, R295). -/

namespace Sys2Proof.Slice0.MemoryAndPlanes

open Sys2Proof.Machine Sys2Proof.Slice0

/-! ### The line that a load sees (R160, R161, R193, R194) -/

section
variable {s : State} {a : Acc} {c ia : Nat} {owner : Option Nat}

/-- A load that hits in L1 uses the line there. -/
theorem loadLine_hit {l : Line} (hdead : s.dead a.part (ia / 128 * 128) = false) (hl : (s.core c).l1Find a.part (ia / 128 * 128) false owner = some l) :
    let m : Line := { l with prio := prioAfter a.pol l.prio, used := s.lru }
    s.loadLine a c owner ia = ({ s.setCore c ((s.core c).l1Put m) with lru := s.lru + 1 }, .ok m) := by
  unfold State.loadLine
  simp only [hdead, hl, Bool.false_eq_true, if_false]

/-- A load that misses in L1 and finds no far copy goes to the home slice, with L1 holding no other line of the IA. -/
theorem loadLine_miss (hdead : s.dead a.part (ia / 128 * 128) = false) (hl : (s.core c).l1Find a.part (ia / 128 * 128) false owner = none)
    (hdead' : (s.l1Evict c a.part (ia / 128 * 128)).dead a.part (ia / 128 * 128) = false)
    (hfar : (s.l1Evict c a.part (ia / 128 * 128)).far.find? (fun f => f.die == dieOf c && f.part == a.part && f.ia == ia / 128 * 128) = none)
    {t : State} {r : MemRes Line} (hr : (s.l1Evict c a.part (ia / 128 * 128)).l2Line { a with die := dieOf c } (ia / 128 * 128) = (t, r)) :
    (∀ m, r = .ok m → ∃ u n, s.loadLine a c owner ia = (u, .ok n) ∧ n.data = m.data ∧ n.bad = m.bad) ∧
    (r = .page → s.loadLine a c owner ia = (t, .page)) ∧ (r = .fatal → s.loadLine a c owner ia = (t, .fatal)) := by
  unfold State.loadLine
  simp only [hdead, hl, hdead', hfar, hr, Bool.false_eq_true, if_false]
  refine ⟨fun m hm => ?_, fun hm => ?_, fun hm => ?_⟩
  all_goals subst hm
  · dsimp only
    split
    · exact ⟨_, _, rfl, rfl, rfl⟩
    · exact ⟨_, _, rfl, rfl, rfl⟩
  · rfl
  · rfl

/-- A load of a line that its group sees is answered with the bytes and the poison of that line. -/
theorem loadLine_seen {sl : Nat} {g : Group} {o : Op} {l : Line} (hp : a.part = g.part) (hw : a.write = false)
    (howner : owner = if o.kind = .ldt then some sl else none) (h : seenLine s c sl g o (ia / 128 * 128) l) :
    ∃ t m, s.loadLine a c owner ia = (t, .ok m) ∧ m.data = l.data ∧ m.bad = l.bad := by
  obtain ⟨hdead, hcase⟩ := h
  rw [← howner, ← hp] at hcase
  rw [← hp] at hdead
  rcases hcase with hit | ⟨hmiss, hdead', hfar, hl, hord⟩
  · exact ⟨_, _, loadLine_hit hdead hit, rfl, rfl⟩
  · have hbase : ia / 128 * 128 / 128 * 128 = ia / 128 * 128 := by omega
    have hord1 : (l.ord == 1) = false := by simpa using hord
    have hline := l2Line_found (s := s.l1Evict c a.part (ia / 128 * 128)) (a := { a with die := dieOf c }) (ia := ia / 128 * 128) (l := l) (by rwa [hbase]) (by rwa [hbase])
      (by simp [hw, hord1]) (by simp [hw])
    obtain ⟨t, m, hload, hdata, hbad⟩ := (loadLine_miss hdead hmiss hdead' hfar hline).1 _ rfl
    exact ⟨t, m, hload, hdata, hbad⟩

end

/-! ### Loads -/

section
variable {s t : State} {c sl : Nat} {g : Group} {o : Op} {piece : Nat} {lanes : List Nat} {l m : Line}

/-- The line that a load request asks for. -/
def loadOf (s : State) (c sl : Nat) (g : Group) (o : Op) (piece : Nat) (lanes : List Nat) : State × MemRes Line :=
  s.loadLine (o.acc c sl g false s.pkg.tick (lanes.headD 0 * o.pieces + piece)) c (if o.kind = .ldt then some sl else none) (o.laneIa (lanes.headD 0) piece)

theorem loadReq_clean (h : loadOf s c sl g o piece lanes = (t, .ok m)) (hdata : m.data = l.data) (hbad : m.bad = l.bad)
    (hp : ∀ i ∈ lanes, readsPoison g o piece l i = false) : loadReq s c sl g o piece lanes =
      (t, .done (laneWrites (o.regsOf piece).1 (o.regsOf piece).2 (lanes.map (fun i => (i, loaded g o piece l i))) 0 false) []) := by
  have hany : lanes.any (readsPoison g o piece l) = false := List.any_eq_false.2 fun i hi => Bool.eq_false_iff.1 (hp i hi)
  unfold loadOf at h
  unfold readsPoison at hany
  unfold loadReq
  simp only [beq_iff_eq, h, hbad, hdata, hany, Bool.false_eq_true, if_false, List.map_map]
  rfl

theorem loadReq_poisoned (h : loadOf s c sl g o piece lanes = (t, .ok m)) (hbad : m.bad = l.bad) (hp : ∃ i ∈ lanes, readsPoison g o piece l i = true) :
    loadReq s c sl g o piece lanes = o.poisoned t lanes (o.laneVa (lanes.headD 0) piece) piece := by
  have hany : lanes.any (readsPoison g o piece l) = true := List.any_eq_true.2 hp
  unfold loadOf at h
  unfold readsPoison at hany
  unfold loadReq
  simp only [beq_iff_eq, h, hbad, hany, if_true]

theorem loadReq_page (h : loadOf s c sl g o piece lanes = (t, .page)) : loadReq s c sl g o piece lanes = (t, .page (o.laneIa (lanes.headD 0) piece)) := by
  unfold loadOf at h
  unfold loadReq
  simp only [beq_iff_eq, h]

theorem loadReq_fatal (h : loadOf s c sl g o piece lanes = (t, .fatal)) :
    (loadReq s c sl g o piece lanes).2 = o.fatal lanes (o.laneVa (lanes.headD 0) piece) piece := by
  unfold loadOf at h
  unfold loadReq
  simp only [beq_iff_eq, h]

/-- Poison reaches the lanes of an operation that writes lanes as free values. -/
theorem poisoned_lanes (hd : o.dvec = true) (s : State) (va : Nat) : ∃ (t : State) (v : Nat → List Word), o.poisoned s lanes va piece =
    (t, .done (laneWrites (o.regsOf piece).1 (o.regsOf piece).2 (lanes.map (fun i => (i, v i))) 0 true) [o.report 0x11 va]) := by
  unfold Op.poisoned
  simp only [hd, if_true]
  exact ⟨_, fun i => (List.range (o.regsOf piece).2).map (fun j => w32 (s.draw.2 / 2 ^ (32 * (i + 32 * j)))), rfl⟩

theorem fatal_lanes (hd : o.dvec = true) (va : Nat) : o.fatal lanes va piece =
    .done (laneWrites (o.regsOf piece).1 (o.regsOf piece).2 (lanes.map (fun i => (i, []))) 0 false) [o.report 0x10 va] := by
  unfold Op.fatal
  simp only [hd, if_true]

end

/-- Where L2 holds no line of a place and its walk ends at no translation, so does the access. -/
theorem l2Line_unwalked {s : State} {a : Acc} {base : Nat} (hbase : base / 128 * 128 = base) (hw : a.write = false) (hdead : s.dead a.part base = false)
    (hl : s.l2Find a.part base false = none) :
    ((s.walk a.part base false).2 = .page → s.l2Line a base = ((s.walk a.part base false).1, .page)) ∧
    ((s.walk a.part base false).2 = .fatal → s.l2Line a base = ((s.walk a.part base false).1, .fatal)) := by
  unfold State.l2Line
  rw [hbase, hw]
  simp only [hdead, hl, Bool.false_eq_true, if_false]
  rcases s.walk a.part base false with ⟨t, r⟩
  exact ⟨fun h => by cases h; rfl, fun h => by cases h; rfl⟩

theorem loads_performed : loadsPerformedPart := by
  intro s c sl g o piece lanes _ hd
  have hbase : ∀ x, x / 128 * 128 / 128 * 128 = x / 128 * 128 := fun x => by omega
  refine ⟨fun l hl hp => ?_, fun l hl hp => ?_, fun l own hown hdead hl hp => ?_, fun own hown hdead hl hdead' hfar hl2 => ?_⟩
  · obtain ⟨t, m, hload, hdata, hbad⟩ := loadLine_seen (a := o.acc c sl g false s.pkg.tick (lanes.headD 0 * o.pieces + piece)) rfl rfl rfl hl
    exact ⟨t, loadReq_clean hload hdata hbad hp⟩
  · obtain ⟨t, m, hload, _, hbad⟩ := loadLine_seen (a := o.acc c sl g false s.pkg.tick (lanes.headD 0 * o.pieces + piece)) rfl rfl rfl hl
    rw [loadReq_poisoned hload hbad hp]
    exact poisoned_lanes hd _ _
  · subst hown
    have hload := loadLine_hit (a := o.acc c sl g false s.pkg.tick (lanes.headD 0 * o.pieces + piece)) hdead hl
    dsimp only
    rw [loadReq_clean hload rfl rfl hp]
    exact ⟨rfl, fun k hk => State.core_setCore_ne _ _ _ _ hk⟩
  · subst hown
    have hwalk := l2Line_unwalked (a := { o.acc c sl g false s.pkg.tick (lanes.headD 0 * o.pieces + piece) with die := dieOf c }) (hbase _) rfl hdead' hl2
    have hmiss := fun {t r} => (loadLine_miss (a := o.acc c sl g false s.pkg.tick (lanes.headD 0 * o.pieces + piece)) (t := t) (r := r) hdead hl hdead' hfar)
    refine ⟨fun h => ?_, fun h => ?_⟩
    · rw [loadReq_page ((hmiss (hwalk.1 h)).2.1 rfl)]
    · rw [loadReq_fatal ((hmiss (hwalk.2 h)).2.2 rfl), fatal_lanes hd]

end Sys2Proof.Slice0.MemoryAndPlanes
end

section
/-! PROOF. Stores of a line (O23): the bytes that writes one after the other leave, in a sector and at a home slice (R193, R293). -/

namespace Sys2Proof.Slice0.MemoryAndPlanes

open Sys2Proof.Machine Sys2Proof.Slice0

/-! ### Writes of a line, one after the other -/

/-- A write, an address and bytes, covers byte j of its line. -/
def covers (w : Nat × List Byte) (j : Nat) : Bool := decide (w.1 % 128 ≤ j) && decide (j < w.1 % 128 + w.2.length)

/-- Byte j of a line after writes, b having been there. -/
def lineByte (ws : List (Nat × List Byte)) (b : Byte) (j : Nat) : Byte :=
  ws.foldl (fun b w => if covers w j then w.2.getD (j - w.1 % 128) 0 else b) b

theorem covers_iff {w : Nat × List Byte} {j : Nat} : covers w j = true ↔ w.1 % 128 ≤ j ∧ j < w.1 % 128 + w.2.length := by simp [covers]

theorem overwritten_eq (old : List Byte) (w : Nat × List Byte) (j : Nat) :
    overwritten old (w.1 % 128) w.2 j = if covers w j then w.2.getD (j - w.1 % 128) 0 else old.getD j 0 := by
  simp only [overwritten, covers_iff]

theorem lineByte_cons (w : Nat × List Byte) (ws : List (Nat × List Byte)) (old : List Byte) (j : Nat) :
    lineByte (w :: ws) (old.getD j 0) j = lineByte ws (overwritten old (w.1 % 128) w.2 j) j := by
  rw [overwritten_eq]
  rfl

theorem lineByte_append (vs ws : List (Nat × List Byte)) (b : Byte) (j : Nat) : lineByte (vs ++ ws) b j = lineByte ws (lineByte vs b j) j := List.foldl_append

theorem lineByte_uncovered {ws : List (Nat × List Byte)} {j : Nat} (h : ∀ w ∈ ws, covers w j = false) (b : Byte) : lineByte ws b j = b := by
  induction ws with
  | nil => rfl
  | cons w ws ih =>
    obtain ⟨hw, hrest⟩ := List.forall_mem_cons.1 h
    rw [lineByte, List.foldl_cons, hw]
    exact ih hrest

/-- A byte that some write covers has nothing of what was there. -/
theorem lineByte_covered {ws : List (Nat × List Byte)} {j : Nat} (h : ∃ w ∈ ws, covers w j = true) (b b' : Byte) : lineByte ws b j = lineByte ws b' j := by
  induction ws generalizing b b' with
  | nil => simp at h
  | cons w ws ih =>
    by_cases hw : covers w j = true
    · rw [lineByte, lineByte, List.foldl_cons, List.foldl_cons, if_pos hw, if_pos hw]
    · have hrest : ∃ w ∈ ws, covers w j = true := by simpa [hw] using h
      exact ih hrest _ _

/-- Writes that only cover what others after them cover are not seen. -/
theorem lineByte_hidden {vs ws : List (Nat × List Byte)} {j : Nat} (h : ∀ v ∈ vs, covers v j = true → ∃ w ∈ ws, covers w j = true) (b : Byte) :
    lineByte (vs ++ ws) b j = lineByte ws b j := by
  rw [lineByte_append]
  by_cases hw : ∃ w ∈ ws, covers w j = true
  · exact lineByte_covered hw _ _
  · rw [lineByte_uncovered fun v hv => Bool.eq_false_iff.2 fun hc => hw (h v hv hc)]

/-- The last write that covers a byte gives it. -/
theorem lineByte_eq_last (ws : List (Nat × List Byte)) (b : Byte) (j : Nat) :
    lineByte ws b j = (ws.reverse.find? (covers · j)).elim b (fun w => w.2.getD (j - w.1 % 128) 0) := by
  induction ws using List.reverseRecOn with
  | nil => rfl
  | append_singleton ws w ih =>
    rw [lineByte_append, List.reverse_append, List.reverse_singleton, List.singleton_append, List.find?_cons, ih]
    rcases hw : covers w j
    · simp [lineByte, hw]
    · simp [lineByte, hw]

/-- The writes that the lanes of a store make, in their order. -/
def laneStores (o : Op) (piece : Nat) (lanes : List Nat) : List (Nat × List Byte) := lanes.map (fun i => (o.laneIa i piece, o.laneBytes i piece))

/-- The highest lane's bytes stand. -/
theorem stored_eq (o : Op) (piece : Nat) (lanes : List Nat) (old : List Byte) (j : Nat) :
    stored o piece lanes old j = lineByte (laneStores o piece lanes) (old.getD j 0) j := by
  rw [lineByte_eq_last, laneStores, ← List.map_reverse, List.find?_map]
  unfold stored
  change _ = Option.elim (Option.map _ (lanes.reverse.find? (fun i => decide (o.laneIa i piece % 128 ≤ j) &&
    decide (j < o.laneIa i piece % 128 + (o.laneBytes i piece).length)))) _ _
  cases lanes.reverse.find? _ <;> rfl

/-! ### Granules that all lanes together cover (R34) -/

/-- Where a list is mapped with no failure, each of its elements is, and the result is as long. -/
theorem mapM_some {α β : Type} {f : α → Option β} {l : List α} {r : List β} (h : l.mapM f = some r) : r.length = l.length ∧ ∀ x ∈ l, (f x).isSome = true := by
  induction l generalizing r with
  | nil =>
    cases h
    simp
  | cons x l ih =>
    simp only [List.mapM_cons, Option.bind_eq_bind, Option.bind_eq_some_iff, Option.pure_def, Option.some.injEq] at h
    obtain ⟨y, hy, rs, hrs, rfl⟩ := h
    obtain ⟨hlen, hall⟩ := ih hrs
    exact ⟨by simp [hlen], List.forall_mem_cons.2 ⟨by simp [hy], hall⟩⟩

/-- The full granules among some places that writes cover, each as a write. -/
def fullStores (ws : List (Nat × List Byte)) (los : List Nat) : List (Nat × List Byte) := los.filterMap (fun lo => (fullGranule ws lo).map (fun bs => (lo, bs)))

/-- A full granule is 64 bytes, each of which some write covers. -/
theorem fullStores_covered {ws : List (Nat × List Byte)} {los : List Nat} {v : Nat × List Byte} (h : v ∈ fullStores ws los) :
    v.1 ∈ los ∧ v.2.length = 64 ∧ ∀ i < 64, ∃ w ∈ ws, w.1 ≤ v.1 + i ∧ v.1 + i < w.1 + w.2.length := by
  obtain ⟨lo, hlo, hv⟩ := List.mem_filterMap.1 h
  obtain ⟨bs, hbs, rfl⟩ := Option.map_eq_some_iff.1 hv
  obtain ⟨hlen, hall⟩ := mapM_some hbs
  refine ⟨hlo, by simpa using hlen, fun i hi => ?_⟩
  have hsome := hall i (List.mem_range.2 hi)
  rw [Option.isSome_map, List.find?_isSome] at hsome
  obtain ⟨w, hw, hcov⟩ := hsome
  simp only [Bool.and_eq_true, decide_eq_true_eq] at hcov
  exact ⟨w, List.mem_reverse.1 hw, hcov⟩

/-- Writes all in one line: each in the 128 B from a base on. -/
def inLine (base : Nat) (ws : List (Nat × List Byte)) : Prop := ∀ w ∈ ws, w.1 / 128 * 128 = base ∧ w.1 % 128 + w.2.length ≤ 128

section
variable {base : Nat} {ws : List (Nat × List Byte)}

theorem inLine_fullStores (hbase : base % 128 = 0) (h : inLine base ws) : inLine base (fullStores ws [base, base + 64] ++ ws) := by
  refine List.forall_mem_append.2 ⟨fun v hv => ?_, h⟩
  obtain ⟨hmem, hlen, -⟩ := fullStores_covered hv
  rw [hlen]
  simp only [List.mem_cons, List.not_mem_nil, or_false] at hmem
  omega

/-- Writing granules full before the writes that make them up leaves what those leave. -/
theorem lineByte_fullStores (hbase : base % 128 = 0) (h : inLine base ws) (b : Byte) (j : Nat) :
    lineByte (fullStores ws [base, base + 64] ++ ws) b j = lineByte ws b j := by
  refine lineByte_hidden (fun v hv hc => ?_) b
  obtain ⟨hmem, hlen, hcov⟩ := fullStores_covered hv
  obtain ⟨hlo, hhi⟩ := covers_iff.1 hc
  obtain ⟨w, hw, h1, h2⟩ := hcov (j - v.1 % 128) (by omega)
  obtain ⟨hwbase, hwlen⟩ := h w hw
  simp only [List.mem_cons, List.not_mem_nil, or_false] at hmem
  exact ⟨w, hw, covers_iff.2 (by omega)⟩

end

/-! ### Merging writes into a sector without poison -/

theorem mergeSectors_overwrite {ws : List (Nat × List Byte)} {d : List Byte} (hd : d.length = 128) (h : ∀ w ∈ ws, w.1 < 128 ∧ w.1 + w.2.length ≤ 128) :
    ∃ m, ws.foldl (fun (d : List Byte × List Nat) w => mergeSector d.1 d.2 w.1 w.2 []) (d, []) = (m, []) ∧ m.length = 128 ∧
      ∀ j, m.getD j 0 = lineByte ws (d.getD j 0) j := by
  induction ws generalizing d with
  | nil => exact ⟨d, rfl, hd, fun _ => rfl⟩
  | cons w ws ih =>
    obtain ⟨⟨hlt, hw⟩, hrest⟩ := List.forall_mem_cons.1 h
    obtain ⟨m, hm, hmlen, hbyte⟩ := mergeSector_overwrites hd hw
    obtain ⟨r, hr, hrlen, hrbyte⟩ := ih hmlen hrest
    refine ⟨r, ?_, hrlen, fun j => ?_⟩
    · rw [List.foldl_cons, hm, hr]
    · rw [lineByte_cons, Nat.mod_eq_of_lt hlt, ← hbyte, hrbyte]

/-! ### Writes at a home slice -/

/-- Writes at the home slices, until one does not complete. -/
def homeWritten (a : Acc) (s : State) (ws : List (Nat × List Byte)) : State × MemRes Unit :=
  ws.foldl (fun acc w => match acc.2 with
    | .ok _ => acc.1.homeWrite a w.1 w.2 []
    | e => (acc.1, e)) (s, .ok ())

/-- Writes of an open line leave it open with the bytes of the last of them, and nothing beside it changes. -/
theorem homeWritten_open {a : Acc} {base : Nat} {ws : List (Nat × List Byte)} {s : State} {l : Line} (h : openLine s a.part base l) (hws : inLine base ws) :
    ∃ t m, homeWritten a s ws = (t, .ok ()) ∧ openLine t a.part base m ∧ (∀ j, m.data.getD j 0 = lineByte ws (l.data.getD j 0) j) ∧ BesideLine a.part base s t := by
  induction ws generalizing s l with
  | nil => exact ⟨s, l, rfl, h, fun _ => rfl, besideLine_refl _ _ _⟩
  | cons w ws ih =>
    obtain ⟨⟨hbase, hfit⟩, hrest⟩ := List.forall_mem_cons.1 hws
    obtain ⟨t, m, hwrite, hopen, hdata, hbeside⟩ := homeWrite_open (bs := w.2) (hbase ▸ h) hfit
    rw [hbase] at hopen hbeside
    obtain ⟨u, n, hwrites, hopen', hdata', hbeside'⟩ := ih hopen hrest
    refine ⟨u, n, ?_, hopen', fun j => ?_, besideLine_trans hbeside hbeside'⟩
    · rw [homeWritten, List.foldl_cons]
      exact (congrArg (List.foldl _ · ws) hwrite).trans hwrites
    · rw [lineByte_cons, ← hdata, hdata']

/-! ### The core's own copy (R293) -/

/-- The updates that writes make of a core's L1 copy. -/
def l1Updated (c p pol : Nat) (s : State) (ws : List (Nat × List Byte)) : State := ws.foldl (fun s w => s.l1Update c p w.1 w.2 pol) s

/-- A state differs in what one core's L1 holds. -/
structure InL1 (c : Nat) (s t : State) : Prop where
  frame : t = { s with cores := t.cores }
  others : ∀ k, k ≠ c → t.core k = s.core k
  own : t.core c = { s.core c with l1 := (t.core c).l1 }

theorem inL1_trans {c : Nat} {s t u : State} (h : InL1 c s t) (k : InL1 c t u) : InL1 c s u where
  frame := by rw [k.frame, h.frame]
  others x hx := (k.others x hx).trans (h.others x hx)
  own := by rw [k.own, h.own]

theorem inL1_refl (c : Nat) (s : State) : InL1 c s s := ⟨rfl, fun _ _ => rfl, rfl⟩

theorem inL1_l1Update (s : State) (c p ia : Nat) (bs : List Byte) (pol : Nat) : InL1 c s (s.l1Update c p ia bs pol) := by
  unfold State.l1Update
  split
  · exact inL1_refl _ _
  · refine ⟨rfl, fun k hk => State.core_setCore_ne _ _ _ _ hk, ?_⟩
    rw [State.core_setCore_self]
    rfl

theorem inL1_l1Updated (c p pol : Nat) (s : State) (ws : List (Nat × List Byte)) : InL1 c s (l1Updated c p pol s ws) := by
  induction ws generalizing s with
  | nil => exact inL1_refl _ _
  | cons w ws ih => exact inL1_trans (inL1_l1Update _ _ _ _ _ _) (ih _)

theorem holdsIa_of_same {p ia : Nat} {l m : Line} (h : l.same m = true) : l.holdsIa p ia = m.holdsIa p ia := by
  obtain ⟨hp, hi, hk, -⟩ := same_iff.1 h
  rw [Line.holdsIa, Line.holdsIa, hp, hi, hk]

theorem holdsIa_base {p ia base : Nat} (h : ia / 128 * 128 = base) (l : Line) : l.holdsIa p ia = l.holdsIa p base := by
  rw [Line.holdsIa, Line.holdsIa, h]
  congr 3
  omega

/-- A line that is put in L1 where a search finds one is found there. -/
theorem find_l1Put {k : Core} {q : Line → Bool} {l m : Line} (hq : ∀ y, y.same m = true → q y = q m) (h : k.l1.find? q = some l) (hm : l.same m = true) :
    (k.l1Put m).l1.find? q = some m := by
  have hat : q m = true := hq l hm ▸ List.find?_some h
  exact find_updWhere_of_found (f := fun _ => m) (fun y hy => (hq y hy).trans hat) h hm hat

/-- A write of a line that L1 holds without poison overwrites its bytes there. -/
theorem l1Update_holds {s : State} {c p ia base pol : Nat} {bs : List Byte} {x : Line} (hbase : ia / 128 * 128 = base) (hfit : ia % 128 + bs.length ≤ 128)
    (hx : (s.core c).l1.find? (fun y => y.holdsIa p base) = some x) (hlen : x.data.length = 128) (hbad : x.bad = []) :
    ∃ y, ((s.l1Update c p ia bs pol).core c).l1.find? (fun y => y.holdsIa p base) = some y ∧ y.owner = x.owner ∧ y.data.length = 128 ∧ y.bad = [] ∧
      ∀ j, y.data.getD j 0 = overwritten x.data (ia % 128) bs j := by
  obtain ⟨d, hmerge, hdlen, hd⟩ := mergeSector_overwrites hlen hfit
  have hfind : (s.core c).l1.find? (fun y => y.holdsIa p ia) = some x := by simpa only [holdsIa_base hbase] using hx
  unfold State.l1Update
  simp only [hfind, hbad, hmerge, State.core_setCore_self]
  exact ⟨_, find_l1Put (fun _ => holdsIa_of_same) hx (same_iff.2 ⟨rfl, rfl, rfl, rfl⟩), rfl, hdlen, rfl, hd⟩

theorem l1Updated_holds {s : State} {c p base pol : Nat} {ws : List (Nat × List Byte)} {x : Line} (hws : inLine base ws)
    (hx : (s.core c).l1.find? (fun y => y.holdsIa p base) = some x) (hlen : x.data.length = 128) (hbad : x.bad = []) :
    ∃ y, ((l1Updated c p pol s ws).core c).l1.find? (fun y => y.holdsIa p base) = some y ∧ y.owner = x.owner ∧
      ∀ j, y.data.getD j 0 = lineByte ws (x.data.getD j 0) j := by
  induction ws generalizing s x with
  | nil => exact ⟨x, hx, rfl, fun _ => rfl⟩
  | cons w ws ih =>
    obtain ⟨⟨hbase, hfit⟩, hrest⟩ := List.forall_mem_cons.1 hws
    obtain ⟨y, hy, hown, hylen, hybad, hydata⟩ := l1Update_holds (pol := pol) hbase hfit hx hlen hbad
    obtain ⟨z, hz, hown', hzdata⟩ := ih hrest hy hylen hybad
    exact ⟨z, hz, hown'.trans hown, fun j => by rw [lineByte_cons, ← hydata, hzdata]⟩

/-! ### Global stores -/

theorem landFar_frame (s : State) : s.landFar = { s with far := s.landFar.far } := by
  unfold State.landFar
  split <;> rfl

end Sys2Proof.Slice0.MemoryAndPlanes
end

section
/-! PROOF. Stores and atomics performed (O23): a task's buffer, a global store at its home slice, a per-thread store in L1, and an atomic location. -/

namespace Sys2Proof.Slice0.MemoryAndPlanes

open Sys2Proof.Machine Sys2Proof.Slice0

section
variable {s t : State} {c sl : Nat} {g : Group} {o : Op} {piece : Nat} {lanes : List Nat}

/-! ### A task's stores (R202) -/

/-- What a lane of a task's store leaves in the task's buffer. -/
def buffered (o : Op) (piece i : Nat) : BufStore := .bytes (o.laneIa i piece) (o.laneBytes i piece) (o.sors.getD (i * o.pieces + piece) o.so) o.ask

theorem storeReq_task (h : g.isTask = true) :
    storeReq s c sl g o piece lanes = (s.setGroup c sl { g with tbuf := g.tbuf ++ lanes.map (buffered o piece) }, .done [] []) := by
  unfold storeReq
  rw [if_pos h]
  rfl

theorem threadStoreReq_task (h : g.isTask = true) : threadStoreReq s c sl g o piece lanes = storeReq s c sl g o piece lanes := by
  unfold threadStoreReq
  rw [if_pos h]

/-! ### Global stores (R193, R200, R293) -/

/-- The line that a store writes. -/
def storeBase (o : Op) (piece : Nat) (lanes : List Nat) : Nat := o.laneIa (lanes.headD 0) piece / 128 * 128

/-- The writes that a store of one line makes at its home slice: the granules that its lanes together cover, and the lanes' own. -/
def storeWrites (o : Op) (piece : Nat) (lanes : List Nat) : List (Nat × List Byte) :=
  fullStores (laneStores o piece lanes) [storeBase o piece lanes, storeBase o piece lanes + 64] ++ laneStores o piece lanes

theorem storeReq_home (htask : g.isTask = false)
    (h : homeWritten (o.acc c sl g true s.pkg.tick (lanes.headD 0 * o.pieces + piece)) (s.l1Clean c g.part (storeBase o piece lanes)) (storeWrites o piece lanes) = (t, .ok ())) :
    let u := l1Updated c g.part o.pol t (storeWrites o piece lanes)
    storeReq s c sl g o piece lanes = (if o.so then u.landFar else u, .done [] []) := by
  unfold storeReq
  rw [if_neg (by simp [htask])]
  dsimp only
  generalize hfold : List.foldl _ (s.l1Clean c g.part (o.laneIa (lanes.headD 0) piece / 128 * 128), MemRes.ok ()) _ = r
  obtain rfl : r = (t, .ok ()) := hfold.symm.trans h
  rfl

theorem inLine_storeWrites (h : ∀ i ∈ lanes, o.laneIa i piece / 128 * 128 = storeBase o piece lanes ∧ o.laneIa i piece % 128 + (o.laneBytes i piece).length ≤ 128) :
    inLine (storeBase o piece lanes) (laneStores o piece lanes) ∧ inLine (storeBase o piece lanes) (storeWrites o piece lanes) := by
  have hlanes : inLine (storeBase o piece lanes) (laneStores o piece lanes) := List.forall_mem_map.2 h
  exact ⟨hlanes, inLine_fullStores (by rw [storeBase]; omega) hlanes⟩

theorem lineByte_storeWrites (h : inLine (storeBase o piece lanes) (laneStores o piece lanes)) (old : List Byte) (j : Nat) :
    lineByte (storeWrites o piece lanes) (old.getD j 0) j = stored o piece lanes old j := by
  rw [stored_eq]
  exact lineByte_fullStores (by rw [storeBase]; omega) h _ _

/-- What `.so` adds to a store, that far copies land, changes only those. -/
theorem landed_frame (b : Bool) (s : State) : (if b then s.landFar else s) = { s with far := (if b then s.landFar else s).far } := by
  split
  · exact landFar_frame s
  · rfl

end

theorem core_of_cores {s t : State} (h : t.cores = s.cores) (k : Nat) : t.core k = s.core k := by rw [State.core, State.core, h]

/-- A global store of an open line gives each byte the highest lane's value there, changes nothing beside it, and the core's L1 copy follows. -/
theorem storeReq_open {s : State} {c sl : Nat} {g : Group} {o : Op} {piece : Nat} {lanes : List Nat} {l : Line} (htask : g.isTask = false)
    (hlanes : ∀ i ∈ lanes, o.laneIa i piece / 128 * 128 = storeBase o piece lanes ∧ o.laneIa i piece % 128 + (o.laneBytes i piece).length ≤ 128)
    (h : openLine (s.l1Clean c g.part (storeBase o piece lanes)) g.part (storeBase o piece lanes) l) :
    let base := storeBase o piece lanes
    let s0 := s.l1Clean c g.part base
    ∃ t m, storeReq s c sl g o piece lanes = (t, .done [] []) ∧ t.l2Find g.part base false = some m ∧ m.data.length = 128 ∧
      (∀ j, m.data.getD j 0 = stored o piece lanes l.data j) ∧ (∀ p ib, (p ≠ g.part ∨ ib ≠ base) → t.l2Find p ib false = s0.l2Find p ib false) ∧
      (∀ p ib, t.l2Find p ib true = s0.l2Find p ib true) ∧ t.hbm = { s0.hbm with touched := t.hbm.touched } ∧ t.hostMem = s0.hostMem ∧
      (∀ k, k ≠ c → t.core k = s0.core k) ∧ t.core c = { s0.core c with l1 := (t.core c).l1 } ∧
      (∀ x, (s0.core c).l1.find? (fun y => y.holdsIa g.part base) = some x → x.data.length = 128 → x.bad = [] →
        ∃ y, (t.core c).l1.find? (fun y => y.holdsIa g.part base) = some y ∧ y.owner = x.owner ∧ ∀ j, y.data.getD j 0 = stored o piece lanes x.data j) := by
  intro base s0
  obtain ⟨hin, hall⟩ := inLine_storeWrites hlanes
  obtain ⟨t, m, hwritten, ⟨-, hm, hmlen, -⟩, hdata, hbeside⟩ :=
    homeWritten_open (a := o.acc c sl g true s.pkg.tick (lanes.headD 0 * o.pieces + piece)) h hall
  have hcore : ∀ k, t.core k = s0.core k := fun k => core_of_cores hbeside.cores k
  have hl1 := inL1_l1Updated c g.part o.pol t (storeWrites o piece lanes)
  set u := l1Updated c g.part o.pol t (storeWrites o piece lanes) with hu
  refine ⟨if o.so then u.landFar else u, m, storeReq_home htask hwritten, ?_⟩
  rw [landed_frame, hl1.frame]
  refine ⟨hm, hmlen, fun j => ?_, hbeside.lines, hbeside.planes, hbeside.hbm, hbeside.hostMem, fun k hk => (hl1.others k hk).trans (hcore k), ?_, fun x hx hxlen hxbad => ?_⟩
  · rw [hdata, lineByte_storeWrites hin]
  · exact hl1.own.trans (by rw [hcore]; rfl)
  · obtain ⟨y, hy, hown, hydata⟩ := l1Updated_holds (pol := o.pol) hall (by rwa [hcore]) hxlen hxbad
    exact ⟨y, hy, hown, fun j => by rw [hydata, lineByte_storeWrites hin]⟩

/-! ### Per-thread stores (R161, R295) -/

/-- The 16-byte chunks of a line that some writes, by their offsets, begin in. -/
def chunksOf (ws : List (Nat × List Byte)) (dirty : BitVec 8) : BitVec 8 := ws.foldl (fun b w => b ||| BitVec.ofNat 8 (2 ^ (w.1 / 16))) dirty

theorem chunksOf_bit (ws : List (Nat × List Byte)) (dirty : BitVec 8) {b : Nat} (hb : b < 8) :
    (chunksOf ws dirty).getLsbD b = (dirty.getLsbD b || ws.any (fun w => w.1 / 16 == b)) := by
  induction ws generalizing dirty with
  | nil => simp [chunksOf]
  | cons w ws ih =>
    rw [chunksOf, List.foldl_cons]
    refine (ih _).trans ?_
    have hbit : (BitVec.ofNat 8 (2 ^ (w.1 / 16))).getLsbD b = (w.1 / 16 == b) := by
      rw [BitVec.getLsbD_ofNat, Nat.testBit_two_pow, decide_eq_true hb, Bool.true_and]
      rfl
    rw [BitVec.getLsbD_or, hbit, List.any_cons, Bool.or_assoc]

/-- The writes that the lanes of a store make, by their offsets in the line. -/
def offsetStores (o : Op) (piece : Nat) (lanes : List Nat) : List (Nat × List Byte) := lanes.map (fun i => (o.laneIa i piece % 128, o.laneBytes i piece))

/-- A line of L1 that has taken a per-thread store: its bytes, the chunks that the store begins in dirty, and the bytes that it has stored. -/
def threadStored (o : Op) (piece : Nat) (lanes : List Nat) (m : Line) (d : List Byte) (b : BitVec 128) : Line :=
  { m with data := d, dirty := chunksOf (offsetStores o piece lanes) m.dirty, stored := b, bad := [] }

section
variable {s s1 t : State} {c sl : Nat} {g : Group} {o : Op} {piece : Nat} {lanes : List Nat} {x : Xlat} {l m : Line} {d : List Byte}

/-- A per-thread store whose line L1 holds merges its writes there. -/
theorem threadStoreReq_held (htask : g.isTask = false) (hwalk : s.walk g.part (storeBase o piece lanes) true = (s1, .ok x)) (hwp : x.wp = false)
    (hload : s1.loadLine (o.acc c sl g false s1.pkg.tick (lanes.headD 0 * o.pieces + piece)) c (some sl) (o.laneIa (lanes.headD 0) piece) = (t, .ok m))
    (hl : (t.core c).l1Find g.part (storeBase o piece lanes) false (some sl) = some m) (hbad : m.bad = [])
    (hmerge : (fullStores (offsetStores o piece lanes) [0, 64] ++ offsetStores o piece lanes).foldl
      (fun (d : List Byte × List Nat) w => mergeSector d.1 d.2 w.1 w.2 []) (m.data, []) = (d, [])) :
    ∃ b, threadStoreReq s c sl g o piece lanes = (t.setCore c ((t.core c).l1Put (threadStored o piece lanes m d b)), .done [] []) := by
  have hkept : (offsetStores o piece lanes).filter (fun _ => !false) = offsetStores o piece lanes := List.filter_eq_self.2 fun _ _ => rfl
  unfold storeBase at hwalk hl
  unfold fullStores offsetStores at hmerge
  unfold offsetStores at hkept
  unfold threadStoreReq
  rw [if_neg (by simp [htask])]
  simp only [hwalk, hwp, hload, hl, hbad, hmerge, List.contains_nil, hkept, Bool.false_eq_true, if_false]
  exact ⟨_, rfl⟩

theorem lineByte_offsetStores (b : Byte) (j : Nat) : lineByte (offsetStores o piece lanes) b j = lineByte (laneStores o piece lanes) b j := by
  have hcov : ∀ a bs, covers (a % 128, bs) j = covers (a, bs) j := fun a bs => by simp only [covers, Nat.mod_mod]
  simp only [lineByte, offsetStores, laneStores, List.foldl_map, hcov, Nat.mod_mod]

/-- Lines of L1 are found by their place and owner. -/
theorem l1Find_l1Put {k : Core} {p ia : Nat} {plane : Bool} {owner : Option Nat} (h : k.l1Find p ia plane owner = some l) (hm : l.same m = true) :
    (k.l1Put m).l1Find p ia plane owner = some m := by
  refine find_l1Put (fun y hy => ?_) h hm
  obtain ⟨hp, hi, hk, ho⟩ := same_iff.1 hy
  rw [hp, hi, hk, ho]

/-- A state differs in what a core holds and in the order of use. -/
structure CoreOnly (c : Nat) (s t : State) : Prop where
  frame : t = { s with cores := t.cores, lru := t.lru }
  others : ∀ k, k ≠ c → t.core k = s.core k

theorem coreOnly_trans {u : State} (h : CoreOnly c s t) (k : CoreOnly c t u) : CoreOnly c s u where
  frame := by rw [k.frame, h.frame]
  others x hx := (k.others x hx).trans (h.others x hx)

theorem coreOnly_setCore (s : State) (c : Nat) (k : Core) (n : Nat) : CoreOnly c s { s.setCore c k with lru := n } :=
  ⟨rfl, fun _ hk => State.core_setCore_ne _ _ _ _ hk⟩

/-- A load that hits in L1 leaves the line that it uses there. -/
theorem loadLine_held {a : Acc} {owner : Option Nat} {ia : Nat} (hdead : s.dead a.part (ia / 128 * 128) = false)
    (hl : (s.core c).l1Find a.part (ia / 128 * 128) false owner = some l) :
    ∃ t m, s.loadLine a c owner ia = (t, .ok m) ∧ (t.core c).l1Find a.part (ia / 128 * 128) false owner = some m ∧ m.data = l.data ∧ m.bad = l.bad ∧ m.dirty = l.dirty ∧
      CoreOnly c s t :=
  ⟨_, _, loadLine_hit hdead hl, (congrArg (Core.l1Find · _ _ _ _) (State.core_setCore_self _ _ _)).trans (l1Find_l1Put hl (same_iff.2 ⟨rfl, rfl, rfl, rfl⟩)), rfl, rfl, rfl,
    coreOnly_setCore _ _ _ _⟩

/-- A per-thread store of a line that L1 holds without poison gives each byte the highest lane's value there, marks the chunks that it begins in dirty, and changes nothing else. -/
theorem threadStoreReq_open (htask : g.isTask = false)
    (hlanes : ∀ i ∈ lanes, o.laneIa i piece / 128 * 128 = storeBase o piece lanes ∧ o.laneIa i piece % 128 + (o.laneBytes i piece).length ≤ 128)
    (hwalk : s.walk g.part (storeBase o piece lanes) true = (s1, .ok x)) (hwp : x.wp = false) (hdead : s1.dead g.part (storeBase o piece lanes) = false)
    (hl : (s1.core c).l1Find g.part (storeBase o piece lanes) false (some sl) = some l) (hlen : l.data.length = 128) (hbad : l.bad = []) :
    ∃ t m, threadStoreReq s c sl g o piece lanes = (t, .done [] []) ∧ (t.core c).l1Find g.part (storeBase o piece lanes) false (some sl) = some m ∧
      (∀ j, m.data.getD j 0 = stored o piece lanes l.data j) ∧
      (∀ b < 8, m.dirty.getLsbD b = (l.dirty.getLsbD b || lanes.any (fun i => o.laneIa i piece % 128 / 16 == b))) ∧
      t = { s1 with cores := t.cores, lru := t.lru } ∧ ∀ k, k ≠ c → t.core k = s1.core k := by
  have hin : inLine 0 (offsetStores o piece lanes) := List.forall_mem_map.2 fun i hi => by
    have := (hlanes i hi).2
    dsimp only
    omega
  have hall := inLine_fullStores rfl hin
  obtain ⟨d, hmerge, -, hd⟩ := mergeSectors_overwrite hlen (ws := fullStores (offsetStores o piece lanes) [0, 64] ++ offsetStores o piece lanes) fun w hw => by
    obtain ⟨hw0, hwlen⟩ := hall w hw
    omega
  obtain ⟨t, m, hload, hm, hdata, hmbad, hdirty, hframe⟩ := loadLine_held (a := o.acc c sl g false s1.pkg.tick (lanes.headD 0 * o.pieces + piece)) hdead hl
  obtain ⟨b, hreq⟩ := threadStoreReq_held htask hwalk hwp hload hm (hmbad.trans hbad) (by rw [hdata]; exact hmerge)
  have hframe' := coreOnly_trans hframe (coreOnly_setCore t c ((t.core c).l1Put (threadStored o piece lanes m d b)) t.lru)
  refine ⟨_, threadStored o piece lanes m d b, hreq, ?_, fun j => ?_, fun b hb => ?_, hframe'.frame, hframe'.others⟩
  · rw [State.core_setCore_self]
    exact l1Find_l1Put hm (same_iff.2 ⟨rfl, rfl, rfl, rfl⟩)
  · rw [stored_eq, ← lineByte_offsetStores, ← lineByte_fullStores rfl hin]
    exact hd j
  · rw [← hdirty]
    exact (chunksOf_bit _ _ hb).trans (by rw [offsetStores, List.any_map]; rfl)

end

theorem stores_performed : storesPerformedPart := by
  intro s c sl g o piece lanes
  refine ⟨fun htask _ => ⟨lanes.map (buffered o piece), by simp, fun n hn => ⟨o.sors.getD (lanes.getD n 0 * o.pieces + piece) o.so, ?_⟩, storeReq_task htask,
    threadStoreReq_task htask⟩, fun l htask _ _ hlanes hopen => ?_, fun s1 x l htask _ _ hlanes hwalk hwp hdead hl hlen hbad => ?_⟩
  · simp [hn, buffered]
  · obtain ⟨t, m, hreq, hm, hmlen, hdata, hlines, hplanes, hhbm, hhost, hothers, hown, hcopy⟩ := storeReq_open htask hlanes hopen
    refine ⟨t, m, hreq, hm, hmlen, fun j _ => hdata j, hlines, hplanes, hhbm, hhost, hothers, hown, fun x hx hxlen hxbad => ?_⟩
    obtain ⟨y, hy, hyown, hydata⟩ := hcopy x hx hxlen hxbad
    exact ⟨y, hy, hyown, fun j _ => hydata j⟩
  · obtain ⟨t, m, hreq, hm, hdata, hdirty, hframe, hothers⟩ := threadStoreReq_open htask hlanes hwalk hwp hdead hl hlen hbad
    exact ⟨t, m, hreq, hm, fun j _ => hdata j, hdirty, hframe, hothers⟩

/-! ### Atomics (R162, R301) -/

/-- A core's L1 holds nothing of a line that it has let go. -/
theorem l1Evict_holds (s : State) (c p ia : Nat) : ∀ y ∈ ((s.l1Evict c p ia).core c).l1, y.holdsIa p ia = false := by
  intro y hy
  unfold State.l1Evict at hy
  dsimp only at hy
  split at hy
  · rw [State.core_setCore_self] at hy
    simpa using (List.mem_filter.1 hy).2
  · next hnone =>
    exact Bool.eq_false_iff.2 fun h => hnone (List.any_eq_true.2 ⟨y, hy, h⟩)

theorem atomLine_open {s : State} {a : Acc} {ia : Nat} {l : Line} (h : openLine s a.part (ia / 128 * 128) l) :
    ∃ t m, s.atomLine a ia = (t, .ok m) ∧ m.data = l.data ∧ m.bad = [] ∧ openLine t a.part (ia / 128 * 128) { m with used := s.lru } ∧
      BesideLine a.part (ia / 128 * 128) s t := by
  obtain ⟨t, n, hline, hopen, hbeside⟩ := l2Line_open h
  obtain ⟨-, -, -, hbad, -, -, hord⟩ := h
  have hord3 : ¬ l.ord = 3 := by rcases hord with h | h <;> rw [h] <;> decide
  refine ⟨t, { l with prio := n }, ?_, rfl, hbad, hopen, hbeside⟩
  unfold State.atomLine
  simp only [hline, hord3, if_false]

/-- What an atomic leaves of its location, what its lanes read there, and its lanes' events. -/
def atomResult (o : Op) (lanes : List Nat) (l : Line) (ia : Nat) :=
  atomRun o.k (lanes.map (fun i => (i, o.data.map (fun w => w.getD i 0)))) (recField l.data (ia % 128) (atomBytes o.k))

theorem atomBytes_le (k : Nat) : atomBytes k ≤ 8 := by
  unfold atomBytes
  split <;> omega

/-- What an atomic leaves: the line as it was written, with the events of its lanes counted. -/
theorem atomReq_ok {s t u : State} {c sl : Nat} {g : Group} {o : Op} {lanes : List Nat} {l m : Line}
    (hline : (s.l1Evict c g.part (o.laneIa (lanes.headD 0) 0)).atomLine (o.acc c sl g true s.pkg.tick (lanes.headD 0)) (o.laneIa (lanes.headD 0) 0) = (t, .ok m))
    (hdata : m.data = l.data) (hbad : m.bad = [])
    (hwrite : t.homeWrite (o.acc c sl g true s.pkg.tick (lanes.headD 0)) (o.laneIa (lanes.headD 0) 0)
      (leBytes (atomBytes o.k) (atomResult o lanes l (o.laneIa (lanes.headD 0) 0)).1) [] = (u, .ok ())) :
    ∃ h : Group, let v := u.setGroup c sl h
      atomReq s c sl g o lanes = (if o.so then v.landFar else v, .done (laneWrites o.d (atomWrites o.k) (atomResult o lanes l (o.laneIa (lanes.headD 0) 0)).2.1 0 false) []) := by
  unfold atomResult at hwrite ⊢
  unfold atomReq
  simp only [hline, hbad, hdata, recField_bytesAt (atomBytes_le _), hwrite, List.contains_nil, Bool.false_eq_true, if_false]
  exact ⟨_, rfl⟩

theorem atom_performed : atomPerformedPart := by
  intro s c sl g o lanes l _ ia s0 hopen hfit r
  obtain ⟨t, m, hline, hmdata, hmbad, hopen', hbeside⟩ := atomLine_open (a := o.acc c sl g true s.pkg.tick (lanes.headD 0)) hopen
  obtain ⟨u, n, hwrite, ⟨-, hn, hnlen, -⟩, hdata, hbeside'⟩ :=
    homeWrite_open (a := o.acc c sl g true s.pkg.tick (lanes.headD 0)) (bs := leBytes (atomBytes o.k) r.1) hopen' (by rwa [length_leBytes])
  obtain ⟨h, hreq⟩ := atomReq_ok hline hmdata hmbad hwrite
  have hall := besideLine_trans hbeside hbeside'
  have hcore := core_of_cores hall.cores
  refine ⟨_, n, hreq, ?_⟩
  rw [landed_frame]
  refine ⟨hn, hnlen, fun j hj => ?_, fun j hj => ?_, hall.lines, hall.planes, hall.hbm, fun y hy => ?_, fun k hk => ?_⟩
  · rw [hdata, overwritten_in (by omega) (by rw [length_leBytes]; omega), Nat.add_sub_cancel_left]
  · rw [hdata, overwritten_out (by rwa [length_leBytes])]
    exact congrArg (List.getD · j 0) hmdata
  · rw [landed_frame] at hy
    refine l1Evict_holds s c g.part ia y ?_
    have hl1 : ((u.setGroup c sl h).core c).l1 = (s0.core c).l1 := by
      rw [State.setGroup, State.core_setCore_self, Core.setGroup_l1, hcore]
    exact hl1 ▸ hy
  · exact (State.core_setCore_ne _ _ _ _ hk).trans (hcore k)

end Sys2Proof.Slice0.MemoryAndPlanes
end

section
/-! PROOF. Plane loads and refines performed (O23): a block that L1 holds deep enough, whole and refined (R167, R174, R176, R297, R298). -/

namespace Sys2Proof.Slice0.MemoryAndPlanes

open Sys2Proof.Machine Sys2Proof.Slice0

section
variable {s t t' : State} {c sl : Nat} {g : Group} {o : Op} {lanes : List Nat} {l m m' : Line}

/-! ### The plane line that a load sees (R167) -/

/-- A plane load of a block that L1 holds deep enough uses the line there. -/
theorem loadPlane_hit {a : Acc} {ias : List Nat} {pstr d : Nat} (hdead : ias.any (s.dead a.part) = false)
    (hl : (s.core c).l1Find a.part (ias.getD 0 0) true none = some l) (hp : l.pstr = pstr) (hd : d ≤ l.depth) :
    ∃ t m, s.loadPlane a c ias pstr d = (t, .ok m) ∧ (t.core c).l1Find a.part (ias.getD 0 0) true none = some m ∧ m.data = l.data ∧ m.bad = l.bad ∧ m.pstr = l.pstr ∧
      m.depth = l.depth ∧ CoreOnly c s t := by
  refine ⟨{ s.setCore c ((s.core c).l1Put { l with prio := prioAfter a.pol l.prio, used := s.lru }) with lru := s.lru + 1 },
    { l with prio := prioAfter a.pol l.prio, used := s.lru }, ?_,
    (congrArg (Core.l1Find · _ _ _ _) (State.core_setCore_self _ _ _)).trans (l1Find_l1Put hl (same_iff.2 ⟨rfl, rfl, rfl, rfl⟩)), rfl, rfl, rfl, rfl, coreOnly_setCore _ _ _ _⟩
  unfold State.loadPlane
  simp only [hl, hp, hdead, hd, if_true, Bool.false_eq_true, if_false]

/-- The load of its block that a plane operation makes, to a depth. -/
def planeLoad (s : State) (c sl : Nat) (g : Group) (o : Op) (d : Nat) : State × MemRes Line :=
  s.loadPlane (o.acc c sl g false s.pkg.tick) c (o.ias.take (d + 2)) (o.vals.getD 0 0).toNat d

/-- A block that a plane operation finds in L1: its line there, for its stride, and no word of it dead to a depth. -/
structure PlaneHeld (s : State) (c : Nat) (g : Group) (o : Op) (d : Nat) (l : Line) : Prop where
  alive : (o.ias.take (d + 2)).any (s.dead g.part) = false
  found : (s.core c).l1Find g.part (o.ias.getD 0 0) true none = some l
  stride : l.pstr = (o.vals.getD 0 0).toNat

/-- A load of a held block, as deep as it is held, finds its bytes and its poison, and leaves it held. -/
theorem planeLoad_held {d e : Nat} (h : PlaneHeld s c g o e l) (hde : d ≤ e) (hd : d ≤ l.depth) :
    ∃ t m, planeLoad s c sl g o d = (t, .ok m) ∧ PlaneHeld t c g o e m ∧ m.data = l.data ∧ m.bad = l.bad ∧ m.depth = l.depth ∧ CoreOnly c s t := by
  obtain ⟨halive, hfound, hstride⟩ := h
  have hhead : (o.ias.take (d + 2)).getD 0 0 = o.ias.getD 0 0 := by simp [List.getD_eq_getElem?_getD]
  have hshort : (o.ias.take (d + 2)).any (s.dead g.part) = false := List.any_eq_false.2 fun x hx =>
    List.any_eq_false.1 halive x (List.take_subset_take_left o.ias (by omega) hx)
  obtain ⟨t, m, hload, hm, hdata, hbad, hpstr, hdepth, hframe⟩ := loadPlane_hit (a := o.acc c sl g false s.pkg.tick) (c := c) (ias := o.ias.take (d + 2)) hshort
    (by rw [hhead]; exact hfound) hstride hd
  refine ⟨t, m, hload, ⟨?_, ?_, hpstr.trans hstride⟩, hdata, hbad, hdepth, hframe⟩
  · rw [← halive, hframe.frame]
    rfl
  · rw [← hhead]
    exact hm

/-! ### What a plane load answers (R297, R298) -/

/-- Whether a refine's D, as its ptag says, is of another block than H is, so that it loads the block whole. -/
def refinesWhole (o : Op) (h : Nat) : Bool :=
  !o.ptag.getLsbD 13 || h % 256 != o.ptag.toNat % 256 || nbit h 13 != o.ptag.getLsbD 14 || decide (hV h < tagDepth o.ptag)

theorem refinesWhole_eq_false {o : Op} {h : Nat} : refinesWhole o h = false ↔
    o.ptag.getLsbD 13 = true ∧ h % 256 = o.ptag.toNat % 256 ∧ nbit h 13 = o.ptag.getLsbD 14 ∧ tagDepth o.ptag ≤ hV h := by
  simp [refinesWhole, and_assoc]

/-- A block's poisoned words, of those that an access reads, are ones that its task has buffered over. -/
def planeClean (g : Group) (o : Op) (l : Line) (n : Nat) (reads : Nat → Prop) : Prop :=
  ∀ w ∈ l.bad, (w = 0 ∨ w < n + 2 ∧ reads w) → bufCovers g.tbuf (o.ias.getD w 0) 4 = true

/-- What a plane load of a depth writes (R174, R297). -/
def planeLoaded (g : Group) (o : Op) (lanes : List Nat) (l : Line) : ReqRes :=
  let word := planeWord g.tbuf o.ias l
  let n := min o.k (hV (word 0))
  .done (laneWrites o.d 1 (lanes.map (fun i => (i, [planarLane word n i]))) (planarTag (word 0) n) false) []

/-- What a refine gives a lane: its value in D, with the bits of the planes that D lacks (R176, R298). -/
def refinedLane (word : Nat → Nat) (lo n i : Nat) (old : Word) : Word :=
  (List.range n).foldl (fun (a : Word) k => if decide (lo ≤ k) && nbit (word (k + 2)) i then a ||| w32 (2 ^ (23 - k)) else a) old

/-- The ptag that a refine writes (R298). -/
def refinedTag (old : BitVec 16) (n : Nat) : BitVec 16 :=
  BitVec.ofNat 16 (old.toNat % 256 + max (tagDepth old) n * 256 + 8192 + (if old.getLsbD 14 then 16384 else 0))

/-- What a refine writes (R176, R298). -/
def planeRefined (g : Group) (o : Op) (lanes : List Nat) (l : Line) : ReqRes :=
  let word := planeWord g.tbuf o.ias l
  let n := min o.k (hV (word 0))
  .done (laneWrites o.d 1 (lanes.map (fun i => (i, [refinedLane word (tagDepth o.ptag) n i ((o.data.getD 0 []).getD i 0)]))) (refinedTag o.ptag n) false) []

theorem planeWord_of_data (hdata : m.data = l.data) (bufs : List BufStore) (ias : List Nat) : planeWord bufs ias m = planeWord bufs ias l := by
  funext w
  rw [planeWord, planeWord, hdata]

section
variable {n : Nat} {reads : Nat → Prop}

theorem planeClean_header (h : planeClean g o l n reads) (hbad : m.bad = l.bad) : (m.bad.contains 0 && !bufCovers g.tbuf (o.ias.getD 0 0) 4) = false := by
  rw [Bool.and_eq_false_iff, hbad]
  by_cases h0 : 0 ∈ l.bad
  · exact .inr (by rw [h 0 h0 (.inl rfl)]; rfl)
  · exact .inl (by simp [h0])

theorem planeClean_reads {r : Nat → Bool} (h : planeClean g o l n reads) (hbad : m.bad = l.bad) (hr : ∀ w, r w = true → w = 0 ∨ w < n + 2 ∧ reads w) :
    m.bad.any (fun w => r w && !bufCovers g.tbuf (o.ias.getD w 0) 4) = false := by
  rw [hbad]
  refine List.any_eq_false.2 fun w hw hpoison => ?_
  obtain ⟨hread, hcov⟩ := Bool.and_eq_true_iff.1 hpoison
  rw [h w hw (hr w hread)] at hcov
  cases hcov

end

theorem planeReq_ldp (hk : o.kind = .ldp) (hload : planeLoad s c sl g o o.k = (t, .ok m)) (hdata : m.data = l.data) (hbad : m.bad = l.bad)
    (hclean : planeClean g o l (min o.k (hV (planeWord g.tbuf o.ias l 0))) (fun _ => True)) : planeReq s c sl g o lanes = (t, planeLoaded g o lanes l) := by
  have hword := planeWord_of_data hdata g.tbuf o.ias
  have hheader := planeClean_header hclean hbad
  have hreads := planeClean_reads (r := fun w => w == 0 || (decide (w < min o.k (hV (planeWord g.tbuf o.ias l 0)) + 2) && true)) hclean hbad (by simp)
  have hkind : (OpKind.ldp == OpKind.ldpr) = false := rfl
  unfold planeLoad at hload
  unfold planeReq
  simp only [hk, hkind, hload, hword, hheader, hreads, beq_self_eq_true, Bool.true_or, Bool.not_true, Bool.false_and, Bool.false_eq_true, if_true, if_false]
  rfl

section
variable (hk : o.kind = .ldpr) (hfirst : planeLoad s c sl g o 1 = (t, .ok m)) (hdata : m.data = l.data) (hbad : m.bad = l.bad)
include hk hfirst hdata hbad

theorem planeReq_ldpr_none (hsame : refinesWhole o (planeWord g.tbuf o.ias l 0) = false) (hdeep : o.k ≤ tagDepth o.ptag) {n : Nat} {reads : Nat → Prop}
    (hclean : planeClean g o l n reads) : planeReq s c sl g o lanes = (t, .done [] []) := by
  have hword := planeWord_of_data hdata g.tbuf o.ias
  have hheader := planeClean_header hclean hbad
  have hkind : (OpKind.ldpr == OpKind.ldp) = false := rfl
  unfold planeLoad at hfirst
  unfold refinesWhole at hsame
  unfold planeReq
  simp only [hk, hkind, hfirst, hword, hheader, hsame, hdeep, beq_self_eq_true, Bool.false_or, Bool.not_false, Bool.true_and, Bool.false_eq_true, if_true, if_false,
    decide_true]

variable (hsecond : planeLoad t c sl g o o.k = (t', .ok m')) (hdata' : m'.data = l.data) (hbad' : m'.bad = l.bad)
include hsecond hdata' hbad'

theorem planeReq_ldpr_whole (hother : refinesWhole o (planeWord g.tbuf o.ias l 0) = true)
    (hclean : planeClean g o l (min o.k (hV (planeWord g.tbuf o.ias l 0))) (fun _ => True)) : planeReq s c sl g o lanes = (t', planeLoaded g o lanes l) := by
  have hword := planeWord_of_data hdata g.tbuf o.ias
  have hword' := planeWord_of_data hdata' g.tbuf o.ias
  have hheader := planeClean_header hclean hbad
  have hreads := planeClean_reads (r := fun w => w == 0 || (decide (w < min o.k (hV (planeWord g.tbuf o.ias l 0)) + 2) && true)) hclean hbad' (by simp)
  have hkind : (OpKind.ldpr == OpKind.ldp) = false := rfl
  unfold planeLoad at hfirst hsecond
  unfold refinesWhole at hother
  unfold planeReq
  simp only [hk, hkind, hfirst, hsecond, hword, hword', hheader, hreads, hother, beq_self_eq_true, Bool.false_or, Bool.true_or, Bool.not_true, Bool.false_and,
    Bool.false_eq_true, if_true, if_false]
  rfl

theorem planeReq_ldpr_refines (hsame : refinesWhole o (planeWord g.tbuf o.ias l 0) = false) (hless : tagDepth o.ptag < o.k)
    (hclean : planeClean g o l (min o.k (hV (planeWord g.tbuf o.ias l 0))) (fun w => tagDepth o.ptag + 2 ≤ w)) :
    planeReq s c sl g o lanes = (t', planeRefined g o lanes l) := by
  have hword := planeWord_of_data hdata g.tbuf o.ias
  have hword' := planeWord_of_data hdata' g.tbuf o.ias
  have hheader := planeClean_header hclean hbad
  have hreads := planeClean_reads (r := fun w => w == 0 || (decide (w < min o.k (hV (planeWord g.tbuf o.ias l 0)) + 2) && decide (tagDepth o.ptag + 2 ≤ w))) hclean hbad'
    (by simp)
  have hkind : (OpKind.ldpr == OpKind.ldp) = false := rfl
  have hdeep : ¬ o.k ≤ tagDepth o.ptag := by omega
  unfold planeLoad at hfirst hsecond
  unfold refinesWhole at hsame
  unfold planeReq
  simp only [hk, hkind, hfirst, hsecond, hword, hword', hheader, hreads, hsame, hdeep, beq_self_eq_true, Bool.false_or, Bool.not_false,
    Bool.false_eq_true, if_true, if_false, decide_false, Bool.and_false]
  rfl

end
end

/-! ### A refine's ptag and lanes (R176) -/

theorem hV_le (h : Nat) : hV h ≤ 24 := Nat.min_le_right _ _

theorem tagDepth_le (tag : BitVec 16) : tagDepth tag ≤ 24 := Nat.min_le_right _ _

/-- A refined D has the deeper of the two depths, and is otherwise of the block that it was of. -/
theorem refinedTag_fields (old : BitVec 16) {n : Nat} (hn : n ≤ 24) : tagDepth (refinedTag old n) = max (tagDepth old) n ∧ (refinedTag old n).getLsbD 13 = true ∧
    (refinedTag old n).getLsbD 14 = old.getLsbD 14 ∧ (refinedTag old n).toNat % 256 = old.toNat % 256 := by
  have hlo := tagDepth_le old
  have hnat : (refinedTag old n).toNat = old.toNat % 256 + max (tagDepth old) n * 256 + 8192 + (if old.getLsbD 14 then 16384 else 0) := by
    rw [refinedTag, BitVec.toNat_ofNat, Nat.mod_eq_of_lt]
    split <;> omega
  refine ⟨?_, ?_, ?_, ?_⟩
  · rw [tagDepth, nbits, hnat]
    split <;> omega
  · rw [BitVec.getLsbD, hnat, Nat.testBit_eq_decide_div_mod_eq, decide_eq_true_eq]
    split <;> omega
  · rw [BitVec.getLsbD, hnat, Nat.testBit_eq_decide_div_mod_eq]
    split
    · next h => exact (decide_eq_true (by omega)).trans h.symm
    · next h => exact (decide_eq_false (by omega)).trans (Bool.eq_false_iff.2 h).symm
  · rw [hnat]
    split <;> omega

/-- A refined lane has its old bits and, of the planes that D lacks, those read. -/
theorem refinedLane_bit (word : Nat → Nat) (lo i : Nat) (old : Word) {n : Nat} (hn : n ≤ 24) {b : Nat} (hb : b < 32) : (refinedLane word lo n i old).getLsbD b =
    (old.getLsbD b || (decide (b ≤ 23) && decide (lo ≤ 23 - b) && decide (23 - b < n) && nbit (word (25 - b)) i)) := by
  induction n with
  | zero => simp [refinedLane]
  | succ n ih =>
    have hbit : (w32 (2 ^ (23 - n))).getLsbD b = decide (23 - n = b) := by
      rw [w32, BitVec.getLsbD_ofNat, Nat.testBit_two_pow, decide_eq_true hb, Bool.true_and]
    have hstep : (refinedLane word lo (n + 1) i old).getLsbD b =
        ((refinedLane word lo n i old).getLsbD b || (decide (lo ≤ n) && nbit (word (n + 2)) i && decide (23 - n = b))) := by
      rw [refinedLane, List.range_succ, List.foldl_append, List.foldl_cons, List.foldl_nil, ← refinedLane]
      split
      · next hread => rw [BitVec.getLsbD_or, hbit, hread, Bool.true_and]
      · next hread => rw [Bool.eq_false_iff.2 hread, Bool.false_and, Bool.or_false]
    rw [hstep, ih (by omega), Bool.or_assoc]
    congr 1
    by_cases hat : 23 - n = b
    · obtain rfl : n = 23 - b := by omega
      have hword : 23 - b + 2 = 25 - b := by omega
      have hlow : b ≤ 23 := by omega
      simp [hlow, hword, hat]
    · rw [decide_eq_false hat, Bool.and_false, Bool.or_false]
      by_cases hlow : b ≤ 23
      · have hlast : 23 - b < n ↔ 23 - b < n + 1 := by omega
        rw [decide_eq_decide.2 hlast]
      · simp [hlow]

/-! ### Plane loads performed -/

/-- What the statement says of a plane load or refine of a block that L1 holds. -/
theorem planeReq_load {s : State} {c sl : Nat} {g : Group} {o : Op} {lanes : List Nat} {l : Line} (hk : o.kind = .ldp ∨ o.kind = .ldpr)
    (hheld : PlaneHeld s c g o (max 1 o.k) l) (hdeep : o.k ≤ l.depth) (hone : 1 ≤ l.depth) :
    let h := planeWord g.tbuf o.ias l 0
    let n := min o.k (hV h)
    ∃ t, CoreOnly c s t ∧
      ((o.kind = .ldp ∨ refinesWhole o h = true) → planeClean g o l n (fun _ => True) → planeReq s c sl g o lanes = (t, planeLoaded g o lanes l)) ∧
      (o.kind = .ldpr → refinesWhole o h = false → o.k ≤ tagDepth o.ptag → planeClean g o l n (fun _ => False) → planeReq s c sl g o lanes = (t, .done [] [])) ∧
      (o.kind = .ldpr → refinesWhole o h = false → tagDepth o.ptag < o.k → planeClean g o l n (fun w => tagDepth o.ptag + 2 ≤ w) →
        planeReq s c sl g o lanes = (t, planeRefined g o lanes l)) := by
  intro h n
  rcases hk with hk | hk
  · obtain ⟨t, m, hload, -, hdata, hbad, -, hframe⟩ := planeLoad_held (sl := sl) hheld (le_max_right 1 o.k) hdeep
    have hnot : o.kind ≠ .ldpr := by rw [hk]; decide
    exact ⟨t, hframe, fun _ hclean => planeReq_ldp hk hload hdata hbad hclean, fun h => absurd h hnot, fun h => absurd h hnot⟩
  · obtain ⟨t, m, hfirst, hheld', hdata, hbad, hdepth, hframe⟩ := planeLoad_held (sl := sl) hheld (le_max_left 1 o.k) hone
    obtain ⟨t', m', hsecond, -, hdata', hbad', -, hframe'⟩ := planeLoad_held (sl := sl) hheld' (le_max_right 1 o.k) (hdepth ▸ hdeep)
    have hnot : o.kind ≠ .ldp := by rw [hk]; decide
    by_cases hnone : refinesWhole o h = false ∧ o.k ≤ tagDepth o.ptag
    · obtain ⟨hsame, hless⟩ := hnone
      refine ⟨t, hframe, fun hwhole => ?_, fun _ _ _ hclean => planeReq_ldpr_none hk hfirst hdata hbad hsame hless hclean, fun _ _ hmore => by omega⟩
      rcases hwhole with h | h
      · exact absurd h hnot
      · cases hsame.symm.trans h
    · refine ⟨t', coreOnly_trans hframe hframe', fun hwhole hclean => ?_, fun _ hsame hless => absurd ⟨hsame, hless⟩ hnone, fun _ hsame hmore hclean => ?_⟩
      · exact planeReq_ldpr_whole hk hfirst hdata hbad hsecond (hdata'.trans hdata) (hbad'.trans hbad) (hwhole.resolve_left hnot) hclean
      · exact planeReq_ldpr_refines hk hfirst hdata hbad hsecond (hdata'.trans hdata) (hbad'.trans hbad) hsame hmore hclean

end Sys2Proof.Slice0.MemoryAndPlanes
end

section
/-! PROOF. Plane stores performed (O23): what cleaning and write-backs leave of plane lines, and the words of the block in L2 and in L1 (R168, R299). -/

namespace Sys2Proof.Slice0.MemoryAndPlanes

open Sys2Proof.Machine Sys2Proof.Slice0

/-! ### Writing back leaves plane lines and cores (R173) -/

/-- Two states agree in the plane lines of L2 and in the cores. -/
structure KeepsPlanes (s t : State) : Prop where
  planes : ∀ p ia, t.l2Find p ia true = s.l2Find p ia true
  cores : t.cores = s.cores

theorem keepsPlanes_refl (s : State) : KeepsPlanes s s := ⟨fun _ _ => rfl, rfl⟩

theorem keepsPlanes_trans {s t u : State} (h : KeepsPlanes s t) (k : KeepsPlanes t u) : KeepsPlanes s u where
  planes p ia := (k.planes p ia).trans (h.planes p ia)
  cores := k.cores.trans h.cores

/-- A fold of steps that keep plane lines keeps them. -/
theorem keepsPlanes_foldl {α : Type} {f : State → α → State} {l : List α} (h : ∀ x ∈ l, ∀ s, KeepsPlanes s (f s x)) (s : State) : KeepsPlanes s (l.foldl f s) := by
  induction l generalizing s with
  | nil => exact keepsPlanes_refl s
  | cons x l ih =>
    obtain ⟨hx, hrest⟩ := List.forall_mem_cons.1 h
    exact keepsPlanes_trans (hx s) (ih hrest _)

/-- An update of ordinary lines keeps plane lines. -/
theorem keepsPlanes_updWhere (s : State) {q : Line → Bool} {f : Line → Line} (hq : ∀ l, q l = true → l.plane = false) (hf : ∀ l, (f l).plane = l.plane) :
    KeepsPlanes s { s with l2 := updWhere q f s.l2 } := by
  refine ⟨fun p ia => find_updWhere_of_not _ (fun l hl => ?_) (fun l hl => ?_), rfl⟩
  · simp [hq l hl]
  · simp [hf, hq l hl]

theorem keepsPlanes_touchChan (s : State) (g : Nat) : KeepsPlanes s (s.touchChan g) := by
  unfold State.touchChan
  split <;> exact ⟨fun _ _ => rfl, rfl⟩

theorem keepsPlanes_countDeadline (s : State) (r n : Nat) : KeepsPlanes s (s.countDeadline r n) := by
  unfold State.countDeadline
  split <;> exact ⟨fun _ _ => rfl, rfl⟩

theorem keepsPlanes_hbm (s : State) (h : Hbm) : KeepsPlanes s { s with hbm := h } := ⟨fun _ _ => rfl, rfl⟩

theorem keepsPlanes_memWriteAt (s : State) (pa : Nat) (bs : List Byte) (bad : List Nat) (cls stamp r : Nat) : KeepsPlanes s (s.memWriteAt pa bs bad cls stamp r) := by
  unfold State.memWriteAt
  exact keepsPlanes_trans (keepsPlanes_touchChan s _) (keepsPlanes_trans (keepsPlanes_hbm _ _) (keepsPlanes_countDeadline _ _ _))

theorem keepsPlanes_backing (s : State) (a : Acc) (die tier pa : Nat) (bs : List Byte) (bad : List Nat) : KeepsPlanes s (s.backing a die tier pa bs bad) := by
  have hcross : KeepsPlanes s (s.crossStack die pa) := by
    unfold State.crossStack
    split
    · exact keepsPlanes_refl s
    · exact keepsPlanes_touchChan _ _
  unfold State.backing
  split
  · exact ⟨fun _ _ => rfl, rfl⟩
  · exact keepsPlanes_trans hcross (keepsPlanes_memWriteAt _ _ _ _ _ _ _)

theorem keepsPlanes_wordBack (s : State) (l : Line) (w : Nat) (a : Acc) : KeepsPlanes s (s.wordBack l w a) := by
  unfold State.wordBack State.wordTo
  refine keepsPlanes_trans (keepsPlanes_backing _ _ _ _ _ _ _) (keepsPlanes_updWhere _ (fun l hl => ?_) fun _ => rfl)
  simp only [Bool.and_eq_true, Bool.not_eq_true'] at hl
  exact hl.1.1.1

theorem keepsPlanes_writeBack (s : State) (l : Line) (a : Acc) : KeepsPlanes s (s.writeBack l a) := by
  unfold State.writeBack
  split
  · exact keepsPlanes_refl s
  · split
    · exact keepsPlanes_foldl (fun w _ s => keepsPlanes_wordBack s l w a) s
    · exact keepsPlanes_foldl (fun k _ s => keepsPlanes_backing _ _ _ _ _ _ _) s

theorem keepsPlanes_l2Clean (s : State) {l : Line} (a : Acc) (hl : l.plane = false) : KeepsPlanes s (s.l2Clean l a) := by
  unfold State.l2Clean
  refine keepsPlanes_trans (keepsPlanes_trans (keepsPlanes_writeBack s l a) (keepsPlanes_touchChan _ _)) (keepsPlanes_updWhere _ (fun m hm => ?_) fun _ => rfl)
  obtain ⟨-, -, hplane, -⟩ := same_iff.1 hm
  exact hplane.trans hl

/-- Ordinary lines that are written back under a plane access keep plane lines. -/
theorem keepsPlanes_cleanUnder (s : State) (xs : List Xlat) : KeepsPlanes s (s.cleanUnder xs) := by
  unfold State.cleanUnder State.cleanWhere
  refine keepsPlanes_foldl (fun l hl s => keepsPlanes_l2Clean s _ ?_) s
  unfold planesLast at hl
  simp only [List.mem_append, List.mem_filter, Bool.and_eq_true, Bool.not_eq_true'] at hl
  rcases hl with h | h
  · exact h.2
  · exact h.1.2.1.1

/-! ### Words of a block -/

/-- The words of a block from the first on, written over bytes. -/
def wordsPatched (n : Nat) (words : List Word) (data : List Byte) : List Byte :=
  (List.range n).foldl (fun d w => patch d (4 * w) (leBytes 4 (words.getD w 0).toNat)) data

theorem wordsPatched_succ (n : Nat) (words : List Word) (data : List Byte) :
    wordsPatched (n + 1) words data = patch (wordsPatched n words data) (4 * n) (leBytes 4 (words.getD n 0).toNat) := by
  rw [wordsPatched, List.range_succ, List.foldl_append]
  rfl

theorem length_wordsPatched {n : Nat} {words : List Word} {data : List Byte} (h : 4 * n ≤ data.length) : (wordsPatched n words data).length = data.length := by
  induction n with
  | zero => rfl
  | succ n ih =>
    have hprev := ih (by omega)
    rw [wordsPatched_succ, length_patch (by rw [length_leBytes]; omega), hprev]

theorem getD_wordsPatched {n : Nat} {words : List Word} {data : List Byte} (h : 4 * n ≤ data.length) {w i : Nat} (hw : w < n) (hi : i < 4) :
    (wordsPatched n words data).getD (4 * w + i) 0 = (leBytes 4 (words.getD w 0).toNat).getD i 0 := by
  induction n with
  | zero => omega
  | succ n ih =>
    rw [wordsPatched_succ, getD_patch (by rw [length_leBytes, length_wordsPatched (by omega)]; omega)]
    by_cases hlast : w = n
    · subst hlast
      rw [overwritten_in (by omega) (by rw [length_leBytes]; omega), Nat.add_sub_cancel_left]
    · rw [overwritten_out (by omega)]
      exact ih (by omega) (by omega)

/-- A word whose four bytes a list holds from its place on is read back. -/
theorem recField_word {data : List Byte} {w : Nat} {x : Word} (h : ∀ i < 4, data.getD (4 * w + i) 0 = (leBytes 4 x.toNat).getD i 0) : recField data (4 * w) 4 = x.toNat := by
  have hbytes : bytesAt data (4 * w) 4 = leBytes 4 x.toNat := by
    rw [bytesAt_congr (m := leBytes 4 x.toNat) (off' := 0) (by simpa only [Nat.zero_add] using h)]
    exact bytesAt_self (leBytes 4 x.toNat)
  rw [recField, hbytes, leNat_word]

theorem length_wordBytes (ws : List Word) : (wordBytes ws).length = 4 * ws.length := by
  induction ws with
  | nil => rfl
  | cons x ws ih =>
    rw [wordBytes, List.flatMap_cons, List.length_append, ← wordBytes, ih, length_leBytes, List.length_cons]
    omega

theorem getD_wordBytes {ws : List Word} {w i : Nat} (hw : w < ws.length) (hi : i < 4) : (wordBytes ws).getD (4 * w + i) 0 = (leBytes 4 (ws.getD w 0).toNat).getD i 0 := by
  induction ws generalizing w with
  | nil => simp at hw
  | cons x ws ih =>
    have hlen := length_leBytes 4 x.toNat
    rw [wordBytes, List.flatMap_cons, ← wordBytes]
    cases w with
    | zero => rw [Nat.mul_zero, Nat.zero_add, List.getD_append _ _ _ _ (by omega), List.getD_cons_zero]
    | succ w =>
      have hoff : 4 * (w + 1) + i - 4 = 4 * w + i := by omega
      rw [List.getD_append_right _ _ _ _ (by omega), hlen, hoff, List.getD_cons_succ]
      exact ih (by simpa using hw)

theorem length_planeWords (d : Nat) (tag : BitVec 16) (mask : Word) (lanes : List Word) : (planeWords d tag mask lanes).length = d + 2 := by
  unfold planeWords
  split <;> simp

/-! ### A plane store at the home slice (R168) -/

/-- The watchers of words told of a store of them. -/
def toldOf (a : Acc) (ias : List Nat) (s : State) : State := ias.foldl (fun s ia => s.seen a ia 4) s

theorem seenOnly_toldOf (a : Acc) (ias : List Nat) (s : State) : SeenOnly s (toldOf a ias s) := by
  induction ias generalizing s with
  | nil => exact ⟨rfl, fun _ => rfl⟩
  | cons ia ias ih => exact seenOnly_trans (seenOnly_seen s a ia 4) (ih _)

section
variable {s s1 : State} {a : Acc} {ias : List Nat} {d pstr : Nat} {words : List Word} {xs : List Xlat} {l : Line}

/-- The words of a plane store in a line without poison. -/
theorem takeWords_clean (n : Nat) (hbad : l.bad = []) : (l.takeWords n words [] l.bad.contains).data = wordsPatched n words l.data := by
  rw [Line.takeWords, hbad]
  rfl

/-- A plane store of a block that L2 holds deep enough writes its line, after write-backs, and tells the watchers of its words. -/
theorem planeStore_line (hwalk : (s.reachSlice a (ias.getD 0 0)).walkWords { a with write := true } 0 (ias.take (d + 2)) [] = (s1, .ok xs)) (hord : ∀ x ∈ xs, x.ord ≠ 3)
    (hl : (s1.cleanUnder xs).l2Find a.part (ias.getD 0 0) true = some l) (hp : l.pstr = pstr) (hd : d ≤ l.depth) :
    ∃ u m, KeepsPlanes (s1.cleanUnder xs) u ∧ s.planeStore a ias pstr d words [] = (toldOf a (ias.take (d + 2)) (u.l2Put m), .ok ()) ∧ l.same m = true ∧
      m.depth = d ∧ m.pstr = l.pstr ∧ m.data = (l.takeWords (d + 2) words [] l.bad.contains).data := by
  have hkinds : (xs.map (·.ord)).contains 3 = false := by simpa using fun x hx => hord x hx
  have hmin : min l.depth d = d := Nat.min_eq_right hd
  have hrest : (List.range (d + 2)).filter (fun w => decide (d + 2 ≤ w)) = [] := List.filter_eq_nil_iff.2 fun w hw => by
    have := List.mem_range.1 hw
    simpa using this
  unfold State.planeStore
  simp only [hwalk, hkinds, hl, hp, hmin, hrest, Bool.false_and, Bool.false_eq_true, if_true, if_false]
  exact ⟨_, _, keepsPlanes_foldl (fun w _ s => keepsPlanes_wordBack s l w (backAcc l)) _, rfl, same_iff.2 ⟨rfl, rfl, rfl, rfl⟩, rfl, hp, rfl⟩

/-- A plane store of a block that L2 holds deep enough and without poison leaves its words there, to its depth, and the cores as they were. -/
theorem planeStore_held (hwalk : (s.reachSlice a (ias.getD 0 0)).walkWords { a with write := true } 0 (ias.take (d + 2)) [] = (s1, .ok xs)) (hord : ∀ x ∈ xs, x.ord ≠ 3)
    (hl : s1.l2Find a.part (ias.getD 0 0) true = some l) (hp : l.pstr = pstr) (hd : d ≤ l.depth) (hd24 : d ≤ 24) (hlen : l.data.length = 104) (hbad : l.bad = []) :
    ∃ t m, s.planeStore a ias pstr d words [] = (t, .ok ()) ∧ t.l2Find a.part (ias.getD 0 0) true = some m ∧ m.depth = d ∧ m.pstr = pstr ∧
      (∀ w < d + 2, m.word w = (words.getD w 0).toNat) ∧ t.cores = s1.cores := by
  have hclean := keepsPlanes_cleanUnder s1 xs
  obtain ⟨u, m, hkeep, hstore, hsame, hdepth, hpstr, hdata⟩ := planeStore_line (words := words) hwalk hord ((hclean.planes _ _).trans hl) hp hd
  obtain ⟨hplanes, hcores⟩ := keepsPlanes_trans hclean hkeep
  have htold := (seenOnly_toldOf a (ias.take (d + 2)) (u.l2Put m)).frame
  refine ⟨_, { m with used := u.lru }, hstore, ?_, hdepth, hpstr.trans hp, fun w hw => ?_, ?_⟩
  · rw [htold]
    exact l2Find_l2Put ((hplanes _ _).trans hl) hsame
  · refine recField_word fun i hi => ?_
    rw [hdata, takeWords_clean _ hbad]
    exact getD_wordsPatched (by omega) hw hi
  · rw [htold]
    exact hcores

/-! ### The storing core's own copy (R168) -/

theorem l1PlaneStore_others (s : State) (c p ia pstr d : Nat) (words : List Word) (pol : Nat) (k : Nat) (hk : k ≠ c) :
    (s.l1PlaneStore c p ia pstr d words pol).core k = s.core k := by
  unfold State.l1PlaneStore State.l1Drop
  split
  · rfl
  · split
    · exact State.core_setCore_ne _ _ _ _ hk
    · dsimp only
      split
      · rfl
      · exact State.core_setCore_ne _ _ _ _ hk

theorem l1PlaneStore_l2 (s : State) (c p ia pstr d : Nat) (words : List Word) (pol : Nat) : (s.l1PlaneStore c p ia pstr d words pol).l2 = s.l2 := by
  unfold State.l1PlaneStore State.l1Drop
  split
  · rfl
  · split
    · rfl
    · dsimp only
      split <;> rfl

/-- A plane store of a block that the core's L1 holds deep enough leaves its words there, to its depth. -/
theorem l1PlaneStore_held {c p ia pol : Nat} {x : Line} (hx : (s.core c).l1Find p ia true none = some x) (hp : x.pstr = pstr) (hd : d ≤ x.depth) (hd24 : d ≤ 24)
    (hlen : x.data.length = 104) (hwords : words.length = d + 2) :
    ∃ y, ((s.l1PlaneStore c p ia pstr d words pol).core c).l1Find p ia true none = some y ∧ y.depth = d ∧ ∀ w < d + 2, y.word w = (words.getD w 0).toNat := by
  have hall : words.take (d + 2) = words := List.take_of_length_le (by omega)
  have hbytes : 0 + (wordBytes words).length ≤ x.data.length := by
    rw [length_wordBytes]
    omega
  unfold State.l1PlaneStore
  simp only [hx, hp, Nat.min_eq_right hd, hall, if_true, State.core_setCore_self]
  refine ⟨_, l1Find_l1Put hx (same_iff.2 ⟨rfl, rfl, rfl, rfl⟩), rfl, fun w hw => recField_word fun i hi => ?_⟩
  rw [getD_patch hbytes, overwritten_in (by omega) (by rw [length_wordBytes]; omega), Nat.sub_zero]
  exact getD_wordBytes (by omega) hi

end

/-! ### Plane accesses performed -/

section
variable {s t : State} {c sl : Nat} {g : Group} {o : Op} {lanes : List Nat}

theorem planeReq_stp_task (hk : o.kind = .stp) (htask : g.isTask = true) : planeReq s c sl g o lanes =
    (s.setGroup c sl { g with tbuf := g.tbuf ++ [.plane o.ias (o.vals.getD 0 0).toNat (planeWords o.k o.ptag o.mask (o.data.getD 0 [])) o.sors o.ask] }, .done [] []) := by
  unfold planeReq
  simp only [hk, htask, if_true]

theorem planeReq_stp (hk : o.kind = .stp) (htask : g.isTask = false)
    (h : s.planeStore (o.acc c sl g true s.pkg.tick) o.ias (o.vals.getD 0 0).toNat o.k (planeWords o.k o.ptag o.mask (o.data.getD 0 [])) [] = (t, .ok ())) :
    let u := t.l1PlaneStore c g.part (o.ias.getD 0 0) (o.vals.getD 0 0).toNat o.k (planeWords o.k o.ptag o.mask (o.data.getD 0 [])) o.pol
    planeReq s c sl g o lanes = (if o.so then u.landFar else u, .done [] []) := by
  unfold planeReq
  simp only [hk, htask, h, Bool.false_eq_true, if_false]

end

theorem planes_performed : planesPerformedPart := by
  intro s c sl g o lanes
  refine ⟨fun l hk halive hl hp hdeep hone => ?_, fun hk => ⟨fun htask => planeReq_stp_task hk htask, fun s1 xs l htask hwalk hord hl hp hdeep hd24 hlen hbad => ?_⟩⟩
  · obtain ⟨t, hframe, hwhole, hnone, hrefine⟩ := planeReq_load (sl := sl) (lanes := lanes) hk ⟨halive, hl, hp⟩ hdeep hone
    refine ⟨t, hframe.frame, hframe.others, fun hcase hclean => hwhole (hcase.imp_right fun hnot => ?_) hclean, fun hk hsame hless hclean => ?_,
      fun hk hsame hmore hclean => ?_⟩
    · exact Bool.eq_true_of_not_eq_false (mt refinesWhole_eq_false.1 hnot)
    · exact hnone hk (refinesWhole_eq_false.2 hsame) hless hclean
    · have hn : min o.k (hV (planeWord g.tbuf o.ias l 0)) ≤ 24 := (Nat.min_le_right _ _).trans (hV_le _)
      obtain ⟨hdepth, hvalid, hsign, hexp⟩ := refinedTag_fields o.ptag hn
      exact ⟨_, _, hrefine hk (refinesWhole_eq_false.2 hsame) hmore hclean, hdepth, hvalid, hsign, hexp, fun i b hb => refinedLane_bit _ _ _ _ hn hb⟩
  · obtain ⟨t, m, hstore, hm, hdepth, hpstr, hwords, hcores⟩ := planeStore_held (a := o.acc c sl g true s.pkg.tick) (words := planeWords o.k o.ptag o.mask (o.data.getD 0 []))
      hwalk hord hl hp hdeep hd24 hlen hbad
    have hcore := core_of_cores hcores
    refine ⟨_, m, planeReq_stp hk htask hstore, ?_⟩
    rw [landed_frame]
    refine ⟨?_, hdepth, hpstr, hwords, fun k hk => (l1PlaneStore_others _ _ _ _ _ _ _ _ _ hk).trans (hcore k), fun x hx hxp hxd hxlen => ?_⟩
    · rw [l2Find_eq, ← hm, l2Find_eq]
      exact congrArg (List.find? _) (l1PlaneStore_l2 _ _ _ _ _ _ _ _)
    · exact l1PlaneStore_held (by rwa [hcore]) hxp hxd hd24 hxlen (length_planeWords _ _ _ _)

/-- Settles O23: the parts, each proved above of the request that performs it. -/
theorem accessesPerformed : Obligations.AccessesPerformed :=
  ⟨local_performed, homeWrite_performed, loads_performed, stores_performed, atom_performed, planes_performed⟩

end Sys2Proof.Slice0.MemoryAndPlanes
end

section
/-! PROOF. `kvapp` (O34): an append waits for the group's acquires, then ends as its step of the table answers; what answers a status before anything is written. -/

namespace Sys2Proof.Slice0.KvPages

open Sys2Proof.Machine Sys2Proof.Slice0 Sys2Proof.Slice0.ButusFabric

/-! ### What `kvapp` does once it has issued (R191, R355) -/

/-- How `kvapp` issues. -/
def appendIssue (e : Bool) (a v : BitVec 7) (d : BitVec 6) : Issue :=
  { i := .kvapp e a v d, e := e, fields := [{ sRegF d with wr := true }, sSrcF a, (vSrcF v).many 16] }

/-- The operand of a channel: its lane of the eight registers from `r` on, counted from v(N). -/
def channelLane (s : State) (v : BitVec 7) (r ch : Nat) : Nat :=
  (((grp s s).vreg (v.toNat + r + ch / 32)).lanes.getD (ch % 32) 0).toNat

/-- Who appends, in the class that the hint asks for. -/
def appendAcc (s : State) : Acc :=
  let cp := (unit s s).hints.cp.getD (0, 1, 0)
  { part := (grp s s).part, die := dieOf s.cur.1, pol := cp.1, cls := cp.2.1, stamp := stampFor s.pkg.tick cp.2.2, requester := s.cur.1,
    user := !(grp s s).privileged, who := { core := s.cur.1, slot := s.cur.2.1, iaddr := (unit s s).pc.toNat } }

/-- The state in which it looks for what comes before its references. -/
def beforeAppend (s : State) : State := s.performAll s.cur.1 s.cur.2.1

/-- What the append of its token comes to. -/
def appended (s : State) (a v : BitVec 7) : State × KvApp :=
  ((beforeAppend s).l1Land s.cur.1).kvAppend s.cur.1 s.cur.2.1 (appendAcc s) (s.ictx.readS a) (channelLane s v 0) (channelLane s v 8)

/-- What is written for the next instruction: the status, and the ptags of the key registers whose blocks were written. -/
def appendWrites (v : BitVec 7) (d : BitVec 6) (n : Nat) (heads : List Nat) : List DueWrite :=
  dueNext (.s d.toNat (d64 n)) ::
    ((List.range 8).filter (fun j => decide (32 * j < heads.length))).map (fun j => dueNext (.tag (v.toNat + j) (appendTag (heads.getD (32 * j) 0))))

/-- What the answer to its append leads to. -/
def appendAnswered (s : State) (v : BitVec 7) (d : BitVec 6) : State × KvApp → Done
  | (t, .page ia w) => s.ictx.waitOn t ia w
  | (t, .held) => .stall t
  | (_, .straddles ia) => .trap 0x09 (d64 ia)
  | (t, .status n heads) => .fin t {} (appendWrites v d n heads) .seq .ready

/-- An acquire that has not been performed. -/
def outstandingAcquire (o : Op) : Bool := o.status != .performed && o.acquires

/-- An acquire of its group that is outstanding comes first (R197, R349), then the append. -/
def appendRun (s : State) (a v : BitVec 7) (d : BitVec 6) : Done :=
  match (grp s (beforeAppend s)).ops.find? outstandingAcquire with
  | some o => .stall ((beforeAppend s).completePath s.cur.1 s.cur.2.1 o.path)
  | none => appendAnswered s v d (appended s a v)

/-- A group that waits for no fault record runs its append. -/
theorem exec_kvapp {e : Bool} {a v : BitVec 7} {d : BitVec 6} {s : State} (hw : (grp s s).waitRec = none) :
    ∃ body, exec (.kvapp e a v d) s = issue (appendIssue e a v d) s body ∧ body s.ictx s = appendRun s a v d := by
  change ∃ body, execKvapp e a v d s = issue (appendIssue e a v d) s body ∧ _
  unfold execKvapp
  refine ⟨_, rfl, ?_⟩
  have hw' : s.ictx.g.waitRec = none := hw
  simp only [Ictx.resumed, hw']
  rfl

theorem outstandingAcquire_eq_true {o : Op} : outstandingAcquire o = true ↔ o.status ≠ .performed ∧ o.acquires = true := by
  simp [outstandingAcquire]

theorem outstandingAcquire_eq_false {o : Op} : outstandingAcquire o = false ↔ o.status = .performed ∨ o.acquires = false := by
  simp [outstandingAcquire, Decidable.imp_iff_not_or]

section
variable {s : State} {a v : BitVec 7} {d : BitVec 6}

theorem appendRun_waits {pre post : List Op} {o : Op} (h : (grp s (beforeAppend s)).ops = pre ++ o :: post)
    (hpre : ∀ q ∈ pre, q.status = .performed ∨ q.acquires = false) (hs : o.status ≠ .performed) (ha : o.acquires = true) :
    appendRun s a v d = .stall ((beforeAppend s).completePath s.cur.1 s.cur.2.1 o.path) := by
  have hsome : (grp s (beforeAppend s)).ops.find? outstandingAcquire = some o :=
    List.find?_eq_some_iff_append.2 ⟨outstandingAcquire_eq_true.2 ⟨hs, ha⟩, pre, post, h, fun q hq => by simp [outstandingAcquire_eq_false.2 (hpre q hq)]⟩
  rw [appendRun, hsome]

theorem appendRun_appends (h : ∀ o ∈ (grp s (beforeAppend s)).ops, o.status = .performed ∨ o.acquires = false) :
    appendRun s a v d = appendAnswered s v d (appended s a v) := by
  have hnone : (grp s (beforeAppend s)).ops.find? outstandingAcquire = none :=
    List.find?_eq_none.2 fun o ho => by simp [outstandingAcquire_eq_false.2 (h o ho)]
  rw [appendRun, hnone]

end

theorem kvAppends_end : kvAppendsPart := by
  intro e a v d s t n heads x lane cp acc s1 r _ hc hw
  obtain ⟨body, he, hbody⟩ := exec_kvapp (e := e) (a := a) (v := v) (d := d) hw
  rw [he]
  refine ⟨fun pre o post hops hpre hs ha => issue_stalls hc rfl rfl (hbody.trans (appendRun_waits hops hpre hs ha)), fun hnone => ?_⟩
  have hrun (y : State × KvApp) (hy : r = y) : body s.ictx s = appendAnswered s v d y := by
    rw [hbody, appendRun_appends hnone, ← hy]
    rfl
  exact ⟨fun ht hn => issue_fin x s t body {} (appendWrites v d n heads) .seq .ready rfl rfl hc (hrun _ ht) hn,
    fun ia ht => issue_trapped hc rfl rfl (hrun _ ht)⟩

/-! ### An append that is refused before it reads a table (R191, R355) -/

section
variable {s : State} {c sl : Nat} {a : Acc} {seq : Dword} {key val : Nat → Nat}

theorem kvAppend_long (h : 2 ^ 32 ≤ seq.toNat) : s.kvAppend c sl a seq key val = (s, .status 2 []) := by
  have hhigh : 0 < seq.toNat / 2 ^ 32 := Nat.div_pos h (by decide)
  unfold State.kvAppend
  exact if_pos (bne_iff_ne.2 hhigh.ne')

/-- A sequence beyond the table has no entry. -/
theorem kvSeq_beyond {n : Nat} (h : (s.part a.part).kvtn.toNat % 2 ^ 16 ≤ n) : s.kvSeq a n = (s, .fault false) := by
  unfold State.kvSeq
  exact if_pos (by rwa [nbits_zero])

theorem kvAppend_beyond (hlow : seq.toNat < 2 ^ 32) (h : (s.part a.part).kvtn.toNat % 2 ^ 16 ≤ seq.toNat) :
    s.kvAppend c sl a seq key val = (s, .status 4 []) := by
  unfold State.kvAppend
  rw [if_neg (by rw [Nat.div_eq_of_lt hlow]; decide), kvSeq_beyond h]
  rfl

end

/-- Settles O34: an append runs behind its group's acquires and ends as it is answered; a long sequence number and one beyond the table are answered first. -/
theorem kvAppends : Obligations.KvAppends :=
  ⟨kvAppends_end, fun _ _ _ _ _ _ _ => ⟨kvAppend_long, kvAppend_beyond⟩⟩

end Sys2Proof.Slice0.KvPages
end

section
/-! PROOF. Translation (O19): which range register serves a VA, and what it answers. -/

namespace Sys2Proof.Slice0.TranslationFaults

open Sys2Proof.Machine Sys2Proof.Slice0

/-! ### The register that serves a VA -/

/-- The first number of a range at which `f` answers is the one that `findSome?` finds. -/
theorem findSome?_range_first {α : Type} {f : Nat → Option α} {n k : Nat} {v : α} (hk : k < n) (hlow : ∀ j, j < k → f j = none) (hf : f k = some v) :
    (List.range n).findSome? f = some v := by
  obtain ⟨m, rfl⟩ : ∃ m, n = k + 1 + m := ⟨n - (k + 1), by omega⟩
  have hbelow : (List.range k).findSome? f = none := List.findSome?_eq_none_iff.2 fun j hj => hlow j (List.mem_range.1 hj)
  simp [List.range_add, List.range_succ, List.findSome?_append, hbelow, hf]

section
variable {p : Part} {k va n : Nat} {r : RangeReg} {need : Need}

theorem rangeOf_lowest (hk : k < 16) (hlow : ∀ j, j < k → (mget {} p.ranges j).covers va = false) (hc : (mget {} p.ranges k).covers va = true) :
    p.rangeOf va = some (k, mget {} p.ranges k) :=
  findSome?_range_first hk (fun j hj => if_neg (Bool.eq_false_iff.1 (hlow j hj))) (if_pos hc)

/-! ### What it answers -/

/-- The unit of a VA is that of its low 57 bits. -/
theorem vaUnit_vaMod (v : Nat) : vaUnit (vaMod v) = vaUnit v := by
  rw [vaUnit, vaMod, Nat.mod_mod, vaUnit]

/-- In naturals: 2 ^ 57 = 2 ^ 52 * 32 makes up for a base above the VA. -/
theorem ia_eq (hva : va < 2 ^ 57) :
    r.ia va = (nbits r.off.toNat 16 36 * 65536 + va + 2 ^ 52 * 32 - nbits r.base.toNat 16 41 * 65536) % 2 ^ 52 := by
  have hbase : nbits r.base.toNat 16 41 < 2 ^ 41 := Nat.mod_lt _ (by decide)
  unfold RangeReg.ia RangeReg.baseU
  rw [Nat.mod_eq_of_lt hva]
  omega

theorem xlate_denied (h : p.rangeOf va = some (k, r)) (hg : r.grants need = false) : p.xlate va n need = .error (vaMod va) := by
  simp only [Part.xlate, h, hg]
  rfl

theorem xlate_granted (h : p.rangeOf va = some (k, r)) (hg : r.grants need = true) (hunit : vaUnit (va + (n - 1)) = vaUnit va) :
    p.xlate va n need = .ok (r.ia va, r.attr.getLsbD 4) := by
  have hunit' : vaUnit (vaMod (va + (n - 1))) = vaUnit va := (vaUnit_vaMod _).trans hunit
  simp only [Part.xlate, h, hg, hunit']
  rfl

end

/-- Settles O19: the lowest register that covers the VA serves it, and denies the access or moves the VA. -/
theorem translation : Obligations.Translation := by
  unfold Obligations.Translation
  intro p k va n need hk hva hn _ r hlow hc
  have hserves : p.rangeOf va = some (k, r) := rangeOf_lowest hk hlow hc
  constructor
  · intro hg
    rw [xlate_denied hserves hg, vaMod, Nat.mod_eq_of_lt hva]
  · intro hg hunit
    rw [← ia_eq hva]
    exact xlate_granted hserves hg (by rwa [← Nat.add_sub_assoc hn])

end Sys2Proof.Slice0.TranslationFaults
end

section
/-! PROOF. Task and future instructions (O25): the checks of their address and of a waiter's record, and the operation that they enter. -/

namespace Sys2Proof.Slice0.TranslationFaults

open Sys2Proof.Machine Sys2Proof.Slice0 Sys2Proof.Slice0.ButusFabric Sys2Proof.Slice0.Cores

/-! ### What a task or future instruction does (R333) -/

/-- The operation enters path 2 without a pending order; a task performs it as it issues. -/
def futureEnters (s : State) (f : FForm) (addr ia : Nat) (so : Bool) : Done :=
  enterMem (noOrder s.ictx) s (grp s s).isTask (futureOpOf s f addr ia so)

/-- The waiter's record that a `freg` names is not aligned, or the null one (R339). -/
def recordBad (s : State) : Instr → Bool
  | .freg _ _ _ b => (s.ictx.readS b).toNat % 64 != 0 || decide ((s.ictx.readS b).toNat < 64)
  | _ => false

theorem recordBad_eq_false {s : State} {i : Instr} : recordBad s i = false ↔ recordOk s i := by
  cases i with
  | freg e d a b => simp [recordBad, recordOk]
  | _ => exact iff_of_true rfl trivial

/-- The future's own checks come before that of the record. -/
def futureRun (s : State) (i : Instr) (f : FForm) : Done :=
  match f.va s.ictx with
  | none => futureEnters s f 0 0 false
  | some (a, n, need) =>
    match (s.part (grp s s).part).xlate a n { need with user := !(grp s s).privileged } with
    | .error v => .trap 0x08 (d64 v)
    | .ok (ia, so) => if a % n != 0 then .trap 0x09 (d64 a) else if recordBad s i then .trap 0x09 (d64 (recordVa s i)) else futureEnters s f a ia so

/-- The body that these instructions share does this where no record is bad. -/
theorem futureOp_eq {s : State} {i : Instr} {f : FForm} (h : recordBad s i = false) :
    futureOp s.ictx s f.kind f.d f.dn (f.va s.ictx) false (f.vals s.ictx) = futureRun s i f := by
  unfold futureOp futureRun
  simp only [Bool.or_false, h]
  rfl

/-- Each of the six issues, without a flush point, a body that does this. -/
theorem exec_future {i : Instr} {f : FForm} {s : State} (h : futureForm i = some f) :
    ∃ body, exec i s = issue { i := i, e := f.e, fields := f.fields } s body ∧ ({ i := i, e := f.e, fields := f.fields } : Issue).trapsAfter = false ∧
      body s.ictx s = futureRun s i f := by
  cases i <;> simp only [futureForm, reduceCtorEq, Option.some.injEq] at h
  case tspawn | sdec | tqry | fres | fget =>
    refine ⟨fun x s => futureOp x s f.kind f.d f.dn (f.va x) false (f.vals x), ?_⟩
    subst h
    exact ⟨rfl, rfl, futureOp_eq rfl⟩
  case freg e d a b =>
    have hgood := futureOp_eq (s := s) (i := .freg e d a b) (f := f)
    subst h
    change ∃ body, execFreg e d a b s = _ ∧ _
    unfold execFreg
    refine ⟨_, rfl, rfl, ?_⟩
    cases hbad : recordBad s (.freg e d a b) with
    | false => exact (if_neg (Bool.eq_false_iff.1 hbad)).trans (hgood hbad)
    | true =>
      refine (if_pos hbad).trans ?_
      simp only [futureRun, hbad, if_true, ← apply_ite (fun v => Done.trap 0x09 (d64 v)), show grp s s = s.ictx.g from rfl]
      cases (s.part s.ictx.g.part).xlate (vaMod (s.ictx.readS a).toNat) 16 { rd := true, wr := true, user := !s.ictx.g.privileged } <;> rfl

section
variable {s : State} {i : Instr} {f : FForm} {a n addr ia : Nat} {need : Need} {so : Bool}

theorem futureRun_denied {v : Nat} (hva : f.va s.ictx = some (a, n, need))
    (hx : (s.part (grp s s).part).xlate a n { need with user := !(grp s s).privileged } = .error v) : futureRun s i f = .trap 0x08 (d64 v) := by
  simp only [futureRun, hva, hx]

theorem futureRun_misaligned {r : Nat × Bool} (hva : f.va s.ictx = some (a, n, need))
    (hx : (s.part (grp s s).part).xlate a n { need with user := !(grp s s).privileged } = .ok r) (hal : a % n ≠ 0) : futureRun s i f = .trap 0x09 (d64 a) := by
  simp only [futureRun, hva, hx]
  exact if_pos (bne_iff_ne.2 hal)

theorem futureRun_badRecord {r : Nat × Bool} (hva : f.va s.ictx = some (a, n, need))
    (hx : (s.part (grp s s).part).xlate a n { need with user := !(grp s s).privileged } = .ok r) (hal : a % n = 0) (hr : ¬ recordOk s i) :
    futureRun s i f = .trap 0x09 (d64 (recordVa s i)) := by
  have hbad : recordBad s i = true := by rwa [← recordBad_eq_false, Bool.not_eq_false] at hr
  simp only [futureRun, hva, hx, hal, hbad]
  rfl

theorem futureRun_enters (hp : futurePlace s f addr ia so) (hr : recordOk s i) : futureRun s i f = futureEnters s f addr ia so := by
  unfold futurePlace at hp
  cases hva : f.va s.ictx with
  | none =>
    simp only [hva] at hp
    obtain ⟨rfl, rfl, rfl⟩ := hp
    simp only [futureRun, hva]
  | some t =>
    obtain ⟨a, n, need⟩ := t
    simp only [hva] at hp
    obtain ⟨rfl, hal, hx⟩ := hp
    simp only [futureRun, hva, hx, hal, recordBad_eq_false.2 hr]
    rfl

end

/-- Settles O25: the body checks the address, then a waiter's record, and enters the operation. -/
theorem futureOps : Obligations.FutureOps := by
  unfold Obligations.FutureOps
  constructor
  · intro i f s a n need h _ hc hva x
    obtain ⟨body, he, ht, hbody⟩ := exec_future (s := s) h
    rw [he]
    exact ⟨fun v hx => issue_trapped hc rfl ht (hbody.trans (futureRun_denied hva hx)),
      fun r hx hal => issue_trapped hc rfl ht (hbody.trans (futureRun_misaligned hva hx hal)),
      fun r hx hal hr => issue_trapped hc rfl ht (hbody.trans (futureRun_badRecord hva hx hal hr))⟩
  · intro i f s addr ia so h _ hc hroom hp hr hu s1 hn
    obtain ⟨body, he, ht, hbody⟩ := exec_future (s := s) h
    rw [he]
    exact issue_goesOn hc rfl ht ((hbody.trans (futureRun_enters hp hr)).trans (enterMem_enteredNow hu hroom)) hn

end Sys2Proof.Slice0.TranslationFaults
end

section
/-! PROOF. `tinv` (O35): what it waits for, and the range that it writes back and drops. -/

namespace Sys2Proof.Slice0.TranslationFaults

open Sys2Proof.Machine Sys2Proof.Slice0 Sys2Proof.Slice0.ButusFabric Sys2Proof.Slice0.Cores

/-- The machine once the group has performed what it can of its accesses. -/
def accessesDone (s : State) : State := s.performAll s.cur.1 s.cur.2.1

/-- An operation that `tinv` waits for. -/
def keepsTinv (o : Op) : Bool := o.status != .performed && (o.kind.isMem || o.path == 3)

theorem keepsTinv_iff {o : Op} : keepsTinv o = true ↔ o.status ≠ .performed ∧ (o.kind.isMem = true ∨ o.path = 3) := by
  simp [keepsTinv]

/-- The machine once the range is written back and dropped: of n units from the VA a. -/
def rangeDropped (s : State) (a n : Dword) : State :=
  let t := (accessesDone s).landFar
  if n = 0 then t else (t.invalidateRange (grp s s).part (nbits a.toNat 16 36 * 65536) (n.toNat * 65536)).releaseHeld (grp s s).part

/-- What `tinv` does once it has passed decode. -/
def tinvRun (s : State) (i : Instr) (a n : Dword) : Done :=
  if nbits n.toNat 36 28 != 0 then .trap 0x01 (d64 ((encode i).getD 0).toNat)
  else match (grp s (accessesDone s)).ops.find? keepsTinv with
    | some o => .stall (if o.path = 3 then (accessesDone s).pathOn s.cur.1 s.cur.2.1 o.seq else accessesDone s)
    | none => finPlain (rangeDropped s a n)

theorem exec_tinv (e : Bool) (a b : BitVec 7) (s : State) :
    ∃ body, exec (.tinv e a b) s = issue { i := .tinv e a b, e := e, fields := [sSrcF a, sSrcF b], priv := true } s body ∧
      body s.ictx s = tinvRun s (.tinv e a b) (s.ictx.readS a) (s.ictx.readS b) := by
  change ∃ body, execTinv e a b s = _ ∧ _
  unfold execTinv
  refine ⟨_, rfl, ?_⟩
  unfold tinvRun rangeDropped
  rw [apply_ite finPlain]
  rfl

section
variable {s : State} {i : Instr} {a n : Dword}

/-- A length above 36 bits shows in its upper 28. -/
theorem lengthLong_iff : (nbits n.toNat 36 28 != 0) = true ↔ 2 ^ 36 ≤ n.toNat := by
  rw [nbits_top n.isLt, bne_iff_ne, Nat.div_ne_zero_iff]
  exact ⟨fun h => h.2, fun h => ⟨by decide, h⟩⟩

theorem tinvRun_long (h : 2 ^ 36 ≤ n.toNat) : tinvRun s i a n = .trap 0x01 (d64 ((encode i).getD 0).toNat) := if_pos (lengthLong_iff.2 h)

theorem tinvRun_drops (hn : n.toNat < 2 ^ 36) (h : ∀ o ∈ (grp s (accessesDone s)).ops, keepsTinv o = false) : tinvRun s i a n = finPlain (rangeDropped s a n) := by
  have hnone : (grp s (accessesDone s)).ops.find? keepsTinv = none := List.find?_eq_none.2 fun o ho => by simp [h o ho]
  rw [tinvRun, if_neg (mt lengthLong_iff.1 (Nat.not_le.2 hn)), hnone]

theorem tinvRun_waits {pre post : List Op} {o : Op} (hn : n.toNat < 2 ^ 36) (h : (grp s (accessesDone s)).ops = pre ++ o :: post)
    (hpre : ∀ q ∈ pre, keepsTinv q = false) (ho : keepsTinv o = true) :
    tinvRun s i a n = .stall (if o.path = 3 then (accessesDone s).pathOn s.cur.1 s.cur.2.1 o.seq else accessesDone s) := by
  have hsome : (grp s (accessesDone s)).ops.find? keepsTinv = some o :=
    List.find?_eq_some_iff_append.2 ⟨ho, pre, post, h, fun q hq => by simp [hpre q hq]⟩
  rw [tinvRun, if_neg (mt lengthLong_iff.1 (Nat.not_le.2 hn)), hsome]

end

/-- Settles O35: a long length traps; else `tinv` waits for the first open operation, or drops the range. -/
theorem translationInvalidate : Obligations.TranslationInvalidate := by
  unfold Obligations.TranslationInvalidate
  intro e a b s x _ hc lo n s0 open_
  obtain ⟨body, he, hbody⟩ := exec_tinv e a b s
  have hclosed {o : Op} (h : ¬ open_ o) : keepsTinv o = false := by rwa [← Bool.not_eq_true, keepsTinv_iff]
  rw [he]
  exact ⟨fun h => issue_trapped hc rfl rfl (hbody.trans (tinvRun_long h)),
    fun hn h hnext => issue_goesOn hc rfl rfl (hbody.trans (tinvRun_drops hn fun o ho => hclosed (h o ho))) hnext,
    fun pre o post hn h hpre ho => issue_stalls hc rfl rfl (hbody.trans (tinvRun_waits hn h (fun q hq => hclosed (hpre q hq)) (keepsTinv_iff.2 ho)))⟩

end Sys2Proof.Slice0.TranslationFaults
end

section
/-! PROOF. `trap` (O17): the group that it leaves behind itself, and the handler's group that the trap makes of it. -/

namespace Sys2Proof.Slice0.TranslationFaults

open Sys2Proof.Machine Sys2Proof.Slice0 Sys2Proof.Slice0.Scheduling Sys2Proof.Slice0.Cores

/-! ### An instruction that traps once it has executed (R118, R267) -/

/-- The unit behind an instruction that ends its run and traps: what is due has come a slot closer, and the trap captures it. -/
def trappingUnit (g : Group) (u : IUnit) : IUnit :=
  { u with pc := (loopStep u.pc u.loops).1, loops := (loopStep u.pc u.loops).2, due := (landOne g u.due).2, chain := [], hints := {}, pos := 0,
           streak := u.streak + 1, wait := .ready, arrived := false, passed := false, awaits := [] }

/-- Its group. -/
def trappingGroup (g : Group) (u : IUnit) : Group := (landOne g u.due).1.setUnit (trappingUnit g u)

theorem finishUnit_trapping {x : Issue} {g : Group} {u : IUnit} (he : x.e = true) : finishUnit x g u {} [] .seq .ready true = trappingGroup g u := by
  unfold finishUnit
  rw [List.append_nil, he]
  rfl

section
variable {s s1 : State} {x : Issue} {body : Ictx → State → Done} {cause : Nat} {trx : Dword}

/-- With room for the window, such an instruction takes its trap in the state that its end leaves, and resumes where its unit then stands. -/
theorem issue_trapsAfter (hc : clean x s) (hroom : roomy s) (hf : x.flush = false) (ht : x.trapsAfter = true) (he : x.e = true)
    (hb : body (flushedIctx s) (flushed s) = .trapAfter s1 cause trx) :
    let g := trappingGroup (grp s s1) (unit s s1)
    issue x s body = Slice0.Next ((s1.setGroup s.cur.1 s.cur.2.1 g).trapNow s.cur.1 s.cur.2.1 s.cur.2.2 cause trx (unit s s).pc (g.iunit s.cur.2.2).pc) := by
  intro g
  have hg : finishUnit x (grp s s1) (unit s s1) {} [] .seq .ready true = g := finishUnit_trapping he
  have hleft : (s.flush s.ictx.c s.ictx.sl).windowLeft s.ictx.c s.ictx.sl = false := hroom
  have hb' : body { s.ictx with g := (s.flush s.ictx.c s.ictx.sl).group s.ictx.c s.ictx.sl } (s.flush s.ictx.c s.ictx.sl) = .trapAfter s1 cause trx := hb
  rw [← hg]
  unfold issue
  simp only [show decodeTrap x s.ictx.g s.ictx.u = none from hc, hf, ht, Bool.or_true, Bool.true_and, ite_self, if_true, hleft, Bool.false_eq_true, if_false, hb']
  rfl

end

section
variable {g : Group} {u : IUnit}

theorem trappingGroup_frame : trappingGroup g u =
    { g with sregs := (trappingGroup g u).sregs, vregs := (trappingGroup g u).vregs, iunits := (trappingGroup g u).iunits } := by
  have h := landOne_frame u.due g
  unfold Group.sameButRegs at h
  unfold trappingGroup Group.setUnit
  rw [h]

theorem trappingGroup_iunits : (trappingGroup g u).iunits = updWhere (fun v => v.uid == u.uid) (fun _ => trappingUnit g u) g.iunits := by
  have h := landOne_frame u.due g
  unfold Group.sameButRegs at h
  unfold trappingGroup Group.setUnit
  rw [h]
  rfl

/-- The unit reads back. -/
theorem trappingGroup_iunit (h : g.iunits.any (fun v => v.uid == u.uid) = true) : (trappingGroup g u).iunit u.uid = trappingUnit g u := by
  unfold Group.iunit
  rw [trappingGroup_iunits]
  exact congrArg (·.getD {}) (find_updWhere g.iunits (fun v => v.uid == u.uid) (trappingUnit g u) h (beq_self_eq_true u.uid))

theorem mem_trappingGroup (h : g.iunits.any (fun v => v.uid == u.uid) = true) : trappingUnit g u ∈ (trappingGroup g u).iunits := by
  obtain ⟨w, hw, hwu⟩ := List.any_eq_true.1 h
  rw [trappingGroup_iunits, updWhere]
  exact List.mem_map.2 ⟨w, hw, if_pos hwu⟩

end

/-! ### SFU entries complete (R127) -/

/-- A group that differs in registers, operations and reports only. -/
def sameButResults (g h : Group) : Prop := h = { g with sregs := h.sregs, vregs := h.vregs, ops := h.ops, reports := h.reports }

theorem retireOp_sameButResults (g : Group) (o : Op) : sameButResults g (g.retireOp o) := by
  have h := foldl_apply_frame o.out g
  unfold Group.sameButRegs at h
  unfold sameButResults Group.retireOp
  rw [h]

theorem retireAll_sameButResults (os : List Op) (g : Group) : sameButResults g (os.foldl Group.retireOp g) := by
  induction os generalizing g with
  | nil => rfl
  | cons o os ih =>
    have hrest := ih (g.retireOp o)
    have hfirst := retireOp_sameButResults g o
    unfold sameButResults at *
    rw [List.foldl_cons, hrest, hfirst]

theorem drainSfu_sameButResults (k : Core) (sl : Nat) (g : Group) : sameButResults g (drainSfu k sl g).2 := by
  unfold drainSfu
  dsimp only
  split
  · rfl
  · exact retireAll_sameButResults _ g

/-- With no entry in the window, a trap settles SFU entries only. -/
theorem settledGroup_sameButResults {s : State} {c sl : Nat} (h : (s.group c sl).windowOps = []) : sameButResults (s.group c sl) (settledGroup s c sl) := by
  rw [settledGroup, State.flush_empty s c sl h]
  exact drainSfu_sameButResults _ _ _

/-! ### A trap of a group without a window, into a handler (R118, R220) -/

section
variable {s : State} {c sl uid cause : Nat} {trx : Dword} {tra resume : Va}

/-- With a handler that is resident, outside a handler, a trap is taken at once: its registers, where the unit goes on, and what is saved for its return. -/
theorem trapNow_handled (hw : (s.group c sl).windowOps = []) (hstat : statInTrapBit (s.group c sl).stat = false) (htrv : (s.group c sl).trv ≠ 0)
    (hres : ((s.core c).resident (s.group c sl).part (segOf (handlerVa (s.group c sl) cause))).isSome = true)
    (hv : ∃ v ∈ (s.group c sl).iunits, v.uid = uid) (hu : ((s.group c sl).iunit uid).uid = uid) :
    let h := (s.trapNow c sl uid cause trx tra resume).group c sl
    h.trc = d64 cause ∧ h.tra = tra.setWidth 64 ∧ h.trx = trx ∧ h.stat = (s.group c sl).stat ||| 3 ∧
      (h.iunit uid).pc = handlerVa (s.group c sl) cause ∧ (h.iunit uid).pos = 0 ∧
      h.save.map (fun v => v.resume) = some resume ∧ h.save.map (fun v => v.stat) = some (s.group c sl).stat := by
  obtain ⟨htrc, htra, htrx, -, -, hhandled, -⟩ := trapEntry.2 s c sl uid cause trx tra resume none
  have hsame := settledGroup_sameButResults hw
  unfold sameButResults at hsame
  rw [hsame] at hhandled
  obtain ⟨hstat', hunit, v, hsave, hvstat, -, -, -, -, -, -, hvresume, -⟩ := hhandled ⟨hstat, htrv, hres⟩ hv hu
  rw [State.trapNow_empty s c sl uid cause trx tra resume none hw]
  simp only [State.group_cycle]
  exact ⟨htrc, htra, htrx, hstat', congrArg IUnit.pc hunit, congrArg IUnit.pos hunit, by rw [hsave]; exact congrArg some hvresume, by rw [hsave]; exact congrArg some hvstat⟩

end

/-! ### `trap` -/

theorem exec_trap (e : Bool) (v : BitVec 20) (s : State) :
    exec (.trap e v) s = issue { i := .trap e v, e := e, mustEnd := true } s (fun _ s => .trapAfter s 0x20 (d64 v.toNat)) := rfl

/-- The group behind a `trap`, whose window is flushed. -/
def behindTrap (s : State) : Group := trappingGroup (grp s (flushed s)) (unit s s)

section
variable {s : State}

/-- It differs from the group that issued in registers, units and operations only. -/
theorem behindTrap_frame : behindTrap s = { grp s s with sregs := (behindTrap s).sregs, vregs := (behindTrap s).vregs, iunits := (behindTrap s).iunits, ops := (grp s (flushed s)).ops } := by
  have h : behindTrap s = { grp s (flushed s) with sregs := (behindTrap s).sregs, vregs := (behindTrap s).vregs, iunits := (behindTrap s).iunits } := trappingGroup_frame
  rw [grp_flushed] at h
  exact h

/-- Its window is empty. -/
theorem windowOps_behindTrap (hroom : roomy s) : (behindTrap s).windowOps = [] := by
  have hops : (behindTrap s).windowOps = (grp s (flushed s)).windowOps := by
    rw [behindTrap_frame]
    rfl
  rw [hops]
  simpa [roomy, State.windowLeft, grp] using hroom

theorem stat_behindTrap : (behindTrap s).stat = (grp s s).stat := by rw [behindTrap_frame]

theorem trv_behindTrap : (behindTrap s).trv = (grp s s).trv := by rw [behindTrap_frame]

theorem part_behindTrap : (behindTrap s).part = (grp s s).part := by rw [behindTrap_frame]

/-- The issuing unit is a unit of its group once the window is flushed. -/
theorem any_unit_flushed (h : ready s) : (grp s (flushed s)).iunits.any (fun v => v.uid == (unit s s).uid) = true := by
  rw [iunits_flushed]
  exact any_unit h

theorem iunit_behindTrap (h : ready s) : (behindTrap s).iunit s.cur.2.2 = trappingUnit (grp s (flushed s)) (unit s s) := by
  rw [← unit_uid h]
  exact trappingGroup_iunit (any_unit_flushed h)

/-- The state that a `trap` leaves for the trap to be taken in. -/
def trapsIn (s : State) : State := (flushed s).setGroup s.cur.1 s.cur.2.1 (behindTrap s)

theorem group_trapsIn : (trapsIn s).group s.cur.1 s.cur.2.1 = behindTrap s := State.group_setGroup_self _ _ _ _

theorem resident_trapsIn (p seg : Nat) : ((trapsIn s).core s.cur.1).resident p seg = (s.core s.cur.1).resident p seg := by
  rw [trapsIn, State.core_setGroup_self]
  exact resident_flushed s p seg

theorem trap_taken {e : Bool} {v : BitVec 20} (hc : clean { i := .trap e v, e := e, mustEnd := true } s) (hroom : roomy s) : exec (.trap e v) s =
    Slice0.Next ((trapsIn s).trapNow s.cur.1 s.cur.2.1 s.cur.2.2 0x20 (d64 v.toNat) (unit s s).pc ((behindTrap s).iunit s.cur.2.2).pc) := by
  have h := issue_trapsAfter (x := { i := .trap e v, e := e, mustEnd := true }) (body := fun _ s => .trapAfter s 0x20 (d64 v.toNat)) (s1 := flushed s)
    hc hroom rfl rfl (boundary_of_clean hc rfl) rfl
  rw [unit_flushed] at h
  exact (exec_trap e v s).trans h

end

/-- Settles O17: behind the `trap` the window is empty, so that its trap is taken at once, and its unit stands at the resume point. -/
theorem softwareTrap : Obligations.SoftwareTrap := by
  unfold Obligations.SoftwareTrap
  rintro e v s ⟨hready, hclean, -⟩ hroom hstat htrv hres
  have hunit := iunit_behindTrap hready
  have huid : ((behindTrap s).iunit s.cur.2.2).uid = s.cur.2.2 := (congrArg IUnit.uid hunit).trans (unit_uid hready)
  have hin : ∃ u ∈ (behindTrap s).iunits, u.uid = s.cur.2.2 := ⟨_, mem_trappingGroup (any_unit_flushed hready), unit_uid hready⟩
  have h := trapNow_handled (s := trapsIn s) (c := s.cur.1) (sl := s.cur.2.1) (uid := s.cur.2.2) (cause := 0x20) (trx := d64 v.toNat) (tra := (unit s s).pc)
    (resume := ((behindTrap s).iunit s.cur.2.2).pc)
  rw [group_trapsIn, resident_trapsIn, part_behindTrap, handlerVa, stat_behindTrap, trv_behindTrap] at h
  obtain ⟨htrc, htra, htrx, hstat', hpc, hpos, hresume, hsaved⟩ := h (windowOps_behindTrap hroom) hstat htrv hres hin huid
  have hpayload : d64 v.toNat = v.setWidth 64 := BitVec.eq_of_toNat_eq (by simp [d64])
  exact ⟨_, trap_taken hclean hroom, htrc, htrx.trans hpayload, htra, hstat', hpc, hpos, hresume.trans (congrArg (fun u => some u.pc) hunit), hsaved⟩

end Sys2Proof.Slice0.TranslationFaults
end
